-- ==== Sys2Proof/Word.lean ====
section
/-! DEFINITION. The byte of frames, line cycles and setup stores. -/

namespace Sys2Proof

/-- One byte of a frame, a line record or a setup store (spec 11). -/
abbrev Byte := BitVec 8

end Sys2Proof
end

