-- ==== Sys2Proof/Config.lean ====
section
/-! DEFINITION. What the spec leaves open as a value of the part. Every constant here is without a body. -/

namespace Sys2Proof

/-- The operand values of requests for whose byte codes no table of spec 11 gives a number (log entry 8). -/
inductive WireName where
  | sourceBell | sourceAnnounce
  | inputP1 | inputP2
  | kindSounder | kindSpeaker
  | displayBlank | displayRestore
  | countersFreeze | countersResume
  deriving DecidableEq, Repr

/-- The sets of named values that replies and notices give and for whose byte codes no table of spec 11 gives a number (log
entry 10). -/
inductive ValueName where
  | quality | selectionSource | changeState | quietState | entryState | claimState | endMode | bellOrigin | yieldState
  | updateClass | announceStage | endCause | joinState | drillPhase | timerState | drillOrigin | drillEnd
  | scheduleState | scheduleRefusal | probeFailure | circuitMode | course | clockFault | reconciled | lineState | nodeState
  | mismatchReason | powerState | stopReason | task | setupFault | imageState | startCause | unsetCause | yieldCause | counter
  deriving DecidableEq, Repr

/-- The part code that IDENTIFY gives (R173 names it and states no value; log entry 7). -/
opaque Config.partCode : BitVec 16

/-- The version that IDENTIFY gives (R173; log entry 7). -/
opaque Config.partVersion : BitVec 16

/-- The image format version that IDENTIFY gives and STORE_SAVE writes (R173, R185; log entry 7). -/
opaque Config.imageFormatVersion : BitVec 8

/-- The byte code of an operand value that R181 and R183 leave without one (log entry 8). -/
opaque Config.wireCode : WireName → BitVec 8

/-- The byte code of a named value of a reply or a notice: its set, and its place among the names that the rule lists (log
entry 10). -/
opaque Config.valueCode : ValueName → Nat → BitVec 8

/-- What the serial memory holds after a STORE_SAVE that was not accepted whole or did not read back equal (R169, R179): the
number of the draw, the bytes it held before and the bytes of the image being written (log entry 60). -/
opaque Config.afterStoreFault : Nat → List Byte → List Byte → List Byte

/-- How far the writes of a STORE_SAVE have come when a power loss or a RESTART cuts it (R169, R185): the number of the draw
(log entry 74). -/
opaque Config.writtenAtCut : Nat → Nat

end Sys2Proof
end

