-- ==== Sys2Proof/Syntax.lean ====
section
/-! DEFINITION. The commands of the OT416: one constructor of `Instr` for each row of spec/opcode_table.json.

A request carries its tag and its operands as the request body gives them. An operand may lie outside its range:
its refusal is part of the request's meaning. `none` in a mark or code operand is said at each constructor. -/

namespace Sys2Proof

/-- A range: first and last, both included; last below first is the empty range (spec 00 section 4, Ranges). -/
structure Range where
  first : Nat
  last : Nat
  deriving DecidableEq, Repr

/-- A date as a request writes it: year, month and day, existing or not (R3, R181). -/
structure CalDate where
  year : Nat
  month : Nat
  day : Nat
  deriving DecidableEq, Repr

/-- A bell entry (R22): time in whole seconds, group, pattern, duration in tenths (0: until silenced). -/
structure BellEntry where
  time : Nat
  group : Nat
  pattern : Nat
  duration : Nat
  deriving DecidableEq, Repr

/-- What BELL_RING rings (R35). -/
inductive Selector where
  | group (g : Nat)
  | zones (r : Range)
  deriving DecidableEq, Repr

/-- The two sources that have an enable and a mask (R41). -/
inductive Source where
  | bell | announce
  deriving DecidableEq, Repr

/-- The kind of a zone (R41). -/
inductive ZoneKind where
  | sounder | speaker
  deriving DecidableEq, Repr

/-- The two paging inputs (R64). -/
inductive PagingInput where
  | p1 | p2
  deriving DecidableEq, Repr

/-- A pulse polarity (R110). -/
inductive Polarity where
  | positive | negative
  deriving DecidableEq, Repr

/-- The polarity operand of CIRCUIT_SET_DIAL (R121). -/
inductive PolarityGiven where
  | given (p : Polarity)
  | notGiven
  | unknown
  deriving DecidableEq, Repr

/-- The definition of an impulse circuit (R110). -/
structure CircuitDef where
  position : Nat
  line : Nat
  width : Nat
  spacing : Nat
  holdLimit : Nat
  deriving DecidableEq, Repr

/-- The fields of a drill program (R82); `targets` holds one target for each building of `scope`, in its order. -/
structure Program where
  scope : List Nat
  chime : Option Nat
  prealert : Nat
  evacuation : Nat
  tone : Nat
  targets : List Nat
  muster : Nat
  allclearPattern : Nat
  allclear : Nat
  deriving DecidableEq, Repr

/-- The function of a node input (R142). -/
inductive InputFunction where
  | none | clear | count | yield | general
  deriving DecidableEq, Repr

/-- The active edge of a node input (R142). -/
inductive Edge where
  | rising | falling
  deriving DecidableEq, Repr

/-- One input definition of a roster record (R142). -/
structure InputDef where
  function : InputFunction
  building : Option Nat
  edge : Edge
  deriving DecidableEq, Repr

/-- An input definition as ROSTER_WRITE carries it: `none` for a code that names no function or no edge (R143, R181). -/
structure InputOperand where
  function : Option InputFunction
  building : Option Nat
  edge : Option Edge
  deriving DecidableEq, Repr

/-- The roster record that ROSTER_WRITE carries (R142, R143); `none` for maker and model is the mark ANY. -/
structure RosterOperand where
  maker : Option Nat
  model : Option Nat
  window : Range
  building : Option Nat
  tapAssigned : Nat
  holdOver : Nat
  inputs : List InputOperand
  deriving DecidableEq, Repr

/-- The value of NODE_POWER (R157). -/
inductive PowerRequest where
  | active | quiet
  deriving DecidableEq, Repr

/-- What a line segment can be found to be (R125, R155): the four values of the onward fault. -/
inductive PortFault where
  | none | openLine | shorted | crossed
  deriving DecidableEq, Repr

/-- A fault kind of the head's port or of an onward segment (R154, R155). -/
inductive FaultKind where
  | openLine | shorted | crossed
  deriving DecidableEq, Repr

/-- One byte of an addressed memory with its address; a setup store fitted with a node is a list of these (R184). -/
structure StoreByte where
  address : Nat
  value : Byte
  deriving DecidableEq, Repr

/-- What disturbs one line cycle (R124, R126). `places` are places along the line, nearest the head 0.
`notTaken`: nodes whose down half fails its check. `lost`, `spoiled`: nodes whose record does not arrive, or arrives
failing its check. `foreign`: bytes that stand in a window instead of what the node there sent.
`hailLost`, `hailSpoiled`: the same for the answer in the hail window. -/
structure Noise where
  notTaken : List Nat
  lost : List Nat
  spoiled : List Nat
  foreign : List (Nat × List Byte)
  hailLost : Bool
  hailSpoiled : Bool
  deriving DecidableEq, Repr

/-- A cycle that nothing disturbs. -/
def Noise.quiet : Noise := ⟨[], [], [], [], false, false⟩

/-- The commands: requests first (each with its tag), then events. -/
inductive Instr where
  -- spec 09 section 9.7
  /-- IDENTIFY (R173) -/
  | identify (tag : Nat)
  /-- STATUS (R173) -/
  | status (tag : Nat)
  -- spec 01
  /-- TIME_SET (R3): date, time of day in tenths -/
  | timeSet (tag : Nat) (date : CalDate) (tenths : Nat)
  /-- TIME_TRIM (R5): signed amount in tenths -/
  | timeTrim (tag : Nat) (amount : Int)
  /-- TIME_READ (R6) -/
  | timeRead (tag : Nat)
  /-- WEEK_WRITE (R9): the seven entries, Monday first; `none` is NONE -/
  | weekWrite (tag : Nat) (entries : List (Option Nat))
  /-- WEEK_READ (R9) -/
  | weekRead (tag : Nat)
  /-- EXCEPTION_ADD (R10); `quiet` is `none` for a flag byte other than 0 and 1 -/
  | exceptionAdd (tag : Nat) (first last : CalDate) (plan : Option Nat) (quiet : Option Bool)
  /-- EXCEPTION_REMOVE (R11) -/
  | exceptionRemove (tag : Nat) (first : CalDate)
  /-- EXCEPTION_READ (R11) -/
  | exceptionRead (tag : Nat) (index : Nat)
  /-- TIME_CHANGE_ADD (R14): date, minute of the day, shift in minutes -/
  | timeChangeAdd (tag : Nat) (date : CalDate) (minute : Nat) (shift : Int)
  /-- TIME_CHANGE_REMOVE (R16) -/
  | timeChangeRemove (tag : Nat) (date : CalDate) (minute : Nat)
  /-- TIME_CHANGE_READ (R16) -/
  | timeChangeRead (tag : Nat)
  /-- QUIET_SET (R18): minutes of the day -/
  | quietSet (tag : Nat) (start stop : Nat)
  /-- QUIET_READ (R18) -/
  | quietRead (tag : Nat)
  -- spec 02
  /-- GROUP_WRITE (R21) -/
  | groupWrite (tag : Nat) (group : Nat) (ranges : List Range)
  /-- GROUP_READ (R21) -/
  | groupRead (tag : Nat) (group : Nat)
  /-- PLAN_WRITE (R23) -/
  | planWrite (tag : Nat) (plan : Nat) (entries : List BellEntry)
  /-- PLAN_APPEND (R24) -/
  | planAppend (tag : Nat) (plan : Nat) (entries : List BellEntry)
  /-- PLAN_CLEAR (R24) -/
  | planClear (tag : Nat) (plan : Nat)
  /-- PLAN_READ (R24) -/
  | planRead (tag : Nat) (plan index : Nat)
  /-- TIMELINE_READ (R38) -/
  | timelineRead (tag : Nat) (index : Nat)
  /-- BELL_RING (R35) -/
  | bellRing (tag : Nat) (selector : Selector) (pattern duration : Nat)
  /-- BELL_SILENCE (R36) -/
  | bellSilence (tag : Nat) (zones : Range)
  /-- BELL_SETTINGS (R37): seconds -/
  | bellSettings (tag : Nat) (grace catchUp : Nat)
  /-- BELL_SETTINGS_READ (R37) -/
  | bellSettingsRead (tag : Nat)
  -- spec 03
  /-- BUILDING_WRITE (R40) -/
  | buildingWrite (tag : Nat) (building : Nat) (zones : Range)
  /-- BUILDING_READ (R40) -/
  | buildingRead (tag : Nat)
  /-- ZONE_DEFINE (R61); `kind` is `none` for a code of neither kind -/
  | zoneDefine (tag : Nat) (zone : Nat) (kind : Option ZoneKind)
  /-- ZONE_ENABLE (R54); `source` is `none` for DRILL or an unknown source -/
  | zoneEnable (tag : Nat) (zones : Range) (source : Option Source) (on : Option Bool)
  /-- ZONE_MASK (R55) -/
  | zoneMask (tag : Nat) (zones : Range) (source : Option Source) (set : Option Bool)
  /-- ZONE_READ (R62) -/
  | zoneRead (tag : Nat) (zones : Range)
  /-- YIELD_RELEASE (R58) -/
  | yieldRelease (tag : Nat) (building : Nat)
  -- spec 04
  /-- ANNOUNCE_START (R66): `chime` is `none` for NONE; `limit` in seconds, 0 for the default -/
  | announceStart (tag : Nat) (input : Option PagingInput) (rank : Nat) (spec : List Range) (chime : Option Nat) (limit : Nat)
  /-- ANNOUNCE_END (R75) -/
  | announceEnd (tag : Nat) (id : Nat)
  /-- ANNOUNCE_CANCEL (R77) -/
  | announceCancel (tag : Nat) (id : Nat)
  /-- ANNOUNCE_LIST (R81) -/
  | announceList (tag : Nat)
  /-- ANNOUNCE_READ (R81) -/
  | announceRead (tag : Nat) (id index : Nat)
  -- spec 05
  /-- PROGRAM_WRITE (R83) -/
  | programWrite (tag : Nat) (program : Nat) (fields : Program)
  /-- PROGRAM_READ (R83) -/
  | programRead (tag : Nat) (program : Nat)
  /-- DRILL_START (R85) -/
  | drillStart (tag : Nat) (program : Nat) (force : Option Bool)
  /-- DRILL_ABORT (R99) -/
  | drillAbort (tag : Nat)
  /-- DRILL_READ (R105) -/
  | drillRead (tag : Nat)
  /-- DRILL_RECORDS_READ (R98) -/
  | drillRecordsRead (tag : Nat) (index : Nat)
  /-- SCHEDULE_ADD (R102) -/
  | scheduleAdd (tag : Nat) (date : CalDate) (minute program : Nat)
  /-- SCHEDULE_REMOVE (R102) -/
  | scheduleRemove (tag : Nat) (date : CalDate) (minute : Nat)
  /-- SCHEDULE_READ (R102) -/
  | scheduleRead (tag : Nat)
  -- spec 06
  /-- DISPLAY_SET (R109); `blank` is `none` for a code of neither value -/
  | displaySet (tag : Nat) (position : Nat) (blank : Option Bool)
  /-- DISPLAY_READ (R109) -/
  | displayRead (tag : Nat)
  /-- CIRCUIT_WRITE (R120); `none` is the mark empty -/
  | circuitWrite (tag : Nat) (circuit : Nat) (definition : Option CircuitDef)
  /-- CIRCUIT_SET_DIAL (R121) -/
  | circuitSetDial (tag : Nat) (circuit reading : Nat) (polarity : PolarityGiven)
  /-- CIRCUIT_STOP (R122) -/
  | circuitStop (tag : Nat) (circuit : Nat)
  /-- CIRCUIT_RUN (R122) -/
  | circuitRun (tag : Nat) (circuit : Nat)
  /-- CIRCUIT_READ (R123) -/
  | circuitRead (tag : Nat) (circuits : Range)
  -- spec 07
  /-- COUNTERS_READ (R141) -/
  | countersRead (tag : Nat) (clear : Option Bool)
  /-- COUNTERS_FREEZE (R141): `some true` freezes, `some false` resumes -/
  | countersFreeze (tag : Nat) (freeze : Option Bool)
  /-- NODE_LINK_READ (R141) -/
  | nodeLinkRead (tag : Nat) (position : Nat)
  -- spec 08
  /-- ROSTER_WRITE (R143) -/
  | rosterWrite (tag : Nat) (position : Nat) (record : RosterOperand)
  /-- ROSTER_LENGTH (R143) -/
  | rosterLength (tag : Nat) (length : Nat)
  /-- ROSTER_READ (R143) -/
  | rosterRead (tag : Nat) (position : Nat)
  /-- LINE_SETTINGS (R144) -/
  | lineSettings (tag : Nat) (autoStart autoSetup : Option Bool) (interval : Nat)
  /-- LINE_SETTINGS_READ (R144) -/
  | lineSettingsRead (tag : Nat)
  /-- CHAIN_READ (R145) -/
  | chainRead (tag : Nat) (first : Nat)
  /-- LINE_START (R147) -/
  | lineStart (tag : Nat)
  /-- LINE_RESTART (R159) -/
  | lineRestart (tag : Nat) (position : Nat)
  /-- LINE_STOP (R160) -/
  | lineStop (tag : Nat)
  /-- NODE_POWER (R157); `none` for any other value -/
  | nodePower (tag : Nat) (position : Nat) (power : Option PowerRequest)
  /-- NODE_READ (R158) -/
  | nodeRead (tag : Nat) (position address count : Nat)
  /-- NODE_WRITE (R158) -/
  | nodeWrite (tag : Nat) (position address : Nat) (bytes : List Byte)
  -- spec 09
  /-- NOTICE_ENABLE (R167): the set as the 16 bits of R181 -/
  | noticeEnable (tag : Nat) (kinds : BitVec 16) (on : Option Bool)
  /-- NOTICE_ENABLE_READ (R167) -/
  | noticeEnableRead (tag : Nat)
  /-- STORE_SAVE (R169) -/
  | storeSave (tag : Nat)
  /-- STORE_LOAD (R170) -/
  | storeLoad (tag : Nat)
  /-- RESTART (R172) -/
  | restart (tag : Nat)
  -- events of the control port
  /-- FRAME_RECEIVED (R161): the frame's tag, kind, body and check byte; its length byte is the body's length plus 2 -/
  | frameReceived (frameTag kind : Byte) (body : List Byte) (check : Byte)
  /-- FRAME_GAP_TIMEOUT (R161): the byte that ends the gap -/
  | frameGapTimeout (next : Byte)
  /-- TRANSMIT_DONE (R166) -/
  | transmitDone
  -- power and start-up
  /-- START_UP (R171): whether the serial memory answers the read of the image -/
  | startUp (answers : Bool)
  /-- MAIN_POWER_LOSS (R7) -/
  | mainPowerLoss
  /-- BATTERY_LOW (R7) -/
  | batteryLow
  -- campus time
  /-- DAY_START (R1) -/
  | dayStart
  /-- RANGE_END (R1) -/
  | rangeEnd
  /-- TRIM_SECOND (R5) -/
  | trimSecond
  /-- MINUTE_BOUNDARY (R17) -/
  | minuteBoundary
  /-- TIME_CHANGE_REACHED (R15) -/
  | timeChangeReached
  /-- BELL_ENTRY_REACHED (R29): the entry index of the timeline -/
  | bellEntryReached (index : Nat)
  -- elapsed time
  /-- LATEST_START (R48): the number of the posting -/
  | latestStart (posting : Nat)
  /-- CLAIM_END_TIME (R47): the zone -/
  | claimEndTime (zone : Nat)
  /-- CHIME_END (R71): the announcement id -/
  | chimeEnd (id : Nat)
  /-- LIMIT_TIME (R75): the announcement id -/
  | limitTime (id : Nat)
  /-- SCHEDULED_DRILL_REACHED (R103) -/
  | scheduledDrillReached
  /-- DRILL_WAKE_WAIT_END (R86) -/
  | drillWakeWaitEnd
  /-- PROBE_ECHO_WAIT_END (R87) -/
  | probeEchoWaitEnd
  /-- PREALERT_END (R89) -/
  | prealertEnd
  /-- TARGET_REACHED (R94): the building -/
  | targetReached (building : Nat)
  /-- TONE_END (R95) -/
  | toneEnd
  /-- MUSTER_LIMIT (R95) -/
  | musterLimit
  /-- ALLCLEAR_END (R96) -/
  | allclearEnd
  /-- IMPULSE_SPACING_END (R113): the circuit -/
  | impulseSpacingEnd (circuit : Nat)
  /-- CONFIRMATION_WAIT_END (R115): the circuit -/
  | confirmationWaitEnd (circuit : Nat)
  -- the campus line
  /-- LINE_CYCLE (R124): what disturbs the cycle -/
  | lineCycle (noise : Noise)
  /-- NODE_LIVENESS_TIMEOUT (R134): the position -/
  | nodeLivenessTimeout (position : Nat)
  /-- HAIL_WINDOW_END (R149) -/
  | hailWindowEnd
  /-- SETUP_WAIT_END (R151) -/
  | setupWaitEnd
  /-- HEAD_PORT_CLOSE (R147, R159): what the test of the port reports -/
  | headPortClose (test : PortFault)
  /-- HEAD_PORT_FAULT (R155): the kind -/
  | headPortFault (kind : FaultKind)
  /-- FAULTED_RETRY_EXPIRY (R155): what the test of the port reports -/
  | faultedRetryExpiry (test : PortFault)
  /-- RETRY_EXPIRY (R156) -/
  | retryExpiry
  /-- CUT_SETTLE_END (R159) -/
  | cutSettleEnd
  -- the table store
  /-- STORE_SAVE_COMPLETE (R169): whether every write was accepted and read back equal -/
  | storeSaveComplete (good : Bool)
  /-- STORE_LOAD_COMPLETE (R170): whether the memory answered -/
  | storeLoadComplete (answers : Bool)
  -- the line nodes; a place counts along the line, nearest the head 0
  /-- NODE_INPUT_EDGE (R128): the place and the input that changes level -/
  | nodeInputEdge (place input : Nat)
  /-- NODE_PULSE_END (R111): the place and the clock line -/
  | nodePulseEnd (place line : Nat)
  /-- NODE_WARMUP_END (R129) -/
  | nodeWarmupEnd (place : Nat)
  /-- NODE_CUT_ONWARD_END (R148) -/
  | nodeCutOnwardEnd (place : Nat)
  /-- NODE_ISOLATED (R137) -/
  | nodeIsolated (place : Nat)
  /-- NODE_HOLD_OVER_END (R137) -/
  | nodeHoldOverEnd (place : Nat)
  /-- NODE_LINE_RESET (R148) -/
  | nodeLineReset (place : Nat)
  /-- NODE_POWER_RESTART (R138); `fitted`: the setup store of a node newly fitted at the place (log entry 4) -/
  | nodePowerRestart (place : Nat) (fitted : Option (List StoreByte))
  -- rows added at the end of the table
  /-- START_BYTE (R161) -/
  | startByte
  /-- FRAME_LENGTH_ABANDON (R161): the length byte -/
  | frameLengthAbandon (length : Byte)
  /-- NODE_POWER_LOSS (R138) -/
  | nodePowerLoss (place : Nat)
  /-- ONWARD_SEGMENT_CHANGE (R148): the place and what its onward segment becomes -/
  | onwardSegmentChange (place : Nat) (segment : PortFault)
  deriving DecidableEq, Repr

/-- The tag of a request; `none` for an event. -/
def Instr.tag? : Instr → Option Nat
  | .identify t => some t
  | .status t => some t
  | .timeSet t _ _ => some t
  | .timeTrim t _ => some t
  | .timeRead t => some t
  | .weekWrite t _ => some t
  | .weekRead t => some t
  | .exceptionAdd t _ _ _ _ => some t
  | .exceptionRemove t _ => some t
  | .exceptionRead t _ => some t
  | .timeChangeAdd t _ _ _ => some t
  | .timeChangeRemove t _ _ => some t
  | .timeChangeRead t => some t
  | .quietSet t _ _ => some t
  | .quietRead t => some t
  | .groupWrite t _ _ => some t
  | .groupRead t _ => some t
  | .planWrite t _ _ => some t
  | .planAppend t _ _ => some t
  | .planClear t _ => some t
  | .planRead t _ _ => some t
  | .timelineRead t _ => some t
  | .bellRing t _ _ _ => some t
  | .bellSilence t _ => some t
  | .bellSettings t _ _ => some t
  | .bellSettingsRead t => some t
  | .buildingWrite t _ _ => some t
  | .buildingRead t => some t
  | .zoneDefine t _ _ => some t
  | .zoneEnable t _ _ _ => some t
  | .zoneMask t _ _ _ => some t
  | .zoneRead t _ => some t
  | .yieldRelease t _ => some t
  | .announceStart t _ _ _ _ _ => some t
  | .announceEnd t _ => some t
  | .announceCancel t _ => some t
  | .announceList t => some t
  | .announceRead t _ _ => some t
  | .programWrite t _ _ => some t
  | .programRead t _ => some t
  | .drillStart t _ _ => some t
  | .drillAbort t => some t
  | .drillRead t => some t
  | .drillRecordsRead t _ => some t
  | .scheduleAdd t _ _ _ => some t
  | .scheduleRemove t _ _ => some t
  | .scheduleRead t => some t
  | .displaySet t _ _ => some t
  | .displayRead t => some t
  | .circuitWrite t _ _ => some t
  | .circuitSetDial t _ _ _ => some t
  | .circuitStop t _ => some t
  | .circuitRun t _ => some t
  | .circuitRead t _ => some t
  | .countersRead t _ => some t
  | .countersFreeze t _ => some t
  | .nodeLinkRead t _ => some t
  | .rosterWrite t _ _ => some t
  | .rosterLength t _ => some t
  | .rosterRead t _ => some t
  | .lineSettings t _ _ _ => some t
  | .lineSettingsRead t => some t
  | .chainRead t _ => some t
  | .lineStart t => some t
  | .lineRestart t _ => some t
  | .lineStop t => some t
  | .nodePower t _ _ => some t
  | .nodeRead t _ _ _ => some t
  | .nodeWrite t _ _ _ => some t
  | .noticeEnable t _ _ => some t
  | .noticeEnableRead t => some t
  | .storeSave t => some t
  | .storeLoad t => some t
  | .restart t => some t
  | .frameReceived .. | .frameGapTimeout _ | .transmitDone | .startUp _ | .mainPowerLoss | .batteryLow
  | .dayStart | .rangeEnd | .trimSecond | .minuteBoundary | .timeChangeReached | .bellEntryReached _
  | .latestStart _ | .claimEndTime _ | .chimeEnd _ | .limitTime _ | .scheduledDrillReached | .drillWakeWaitEnd
  | .probeEchoWaitEnd | .prealertEnd | .targetReached _ | .toneEnd | .musterLimit | .allclearEnd
  | .impulseSpacingEnd _ | .confirmationWaitEnd _ | .lineCycle _ | .nodeLivenessTimeout _ | .hailWindowEnd
  | .setupWaitEnd | .headPortClose _ | .headPortFault _ | .faultedRetryExpiry _ | .retryExpiry | .cutSettleEnd
  | .storeSaveComplete _ | .storeLoadComplete _ | .nodeInputEdge .. | .nodePulseEnd .. | .nodeWarmupEnd _
  | .nodeCutOnwardEnd _ | .nodeIsolated _ | .nodeHoldOverEnd _ | .nodeLineReset _ | .nodePowerRestart ..
  | .startByte | .frameLengthAbandon _ | .nodePowerLoss _ | .onwardSegmentChange .. => none

end Sys2Proof
end

