-- ==== Sys2Proof/Decode.lean ====
section
/-! DEFINITION. The commands that a word of the table's bits spells. No row of spec/opcode_table.json gives bits. -/

namespace Sys2Proof

/-- No row of the table gives bits, so no word spells a command; the frames of R181 are read in Machine/Frames.lean. -/
def decodeTableWord (_nbits _w : Nat) : Option Instr := none

end Sys2Proof
end

