-- ==== Sys2Proof/Machine/State.lean ====
section
/-! DEFINITION. The state of the OT416, of the line nodes and of the queue of commands, as plain data.

`Part` holds the blocks of spec 00 section 2 other than the control port and the table store, which are `Port` and
`Memory`; `Node` is one OT410. Moments of elapsed time are counts of 20 ms units since start-up (log entry 11). -/

namespace Sys2Proof.Machine

/-- The spec gives every command of this block a next state, so no command ends in a fault: the type has no
constructor (INVENTORY.md, Faults). Nothing raises it; safe. -/
inductive Fault where
  deriving DecidableEq, Repr

/-- Why a command has no meaning in the model. -/
inductive Refusal where
  /-- Raised by an arm of `exec` for a command that has no meaning yet; safe. -/
  | notModelled (mnemonic : String)
  deriving DecidableEq, Repr

/-! ### Campus time and the calendar (spec 01) -/

/-- A date, as the number of days from 2000-01-01, and a time of day in tenths (R1). -/
structure CampusTime where
  day : Nat
  tod : Nat
  deriving DecidableEq, Repr

/-- The quality of campus time (R1). -/
inductive Quality where
  | unset | set
  deriving DecidableEq, Repr

/-- One entry of the dial part of the backup domain (R119); `owner` is the node position and line it belongs to. -/
structure DialEntry where
  dial : Option Nat
  polarity : Polarity
  owner : Option (Nat × Nat)
  deriving DecidableEq, Repr

/-- The battery-kept backup domain (R7, R119): the campus time counter, the validity flag and the dial part. -/
structure Backup where
  day : Nat
  tod : Nat
  valid : Bool
  dials : Vector DialEntry 32
  deriving DecidableEq, Repr

/-- The time keeper outside the backup domain (R1, R5). `held`: a lengthened second has begun its eleventh tenth (log entry 6). -/
structure TimeKeeper where
  quality : Quality
  trim : Int
  held : Bool
  deriving DecidableEq, Repr

/-- An exception record (R10); dates as days from 2000-01-01. -/
structure ExceptionRec where
  first : Nat
  last : Nat
  plan : Option Nat
  quiet : Bool
  deriving DecidableEq, Repr

/-- A time-change record (R14): its moment, its shift in minutes, and whether it is DONE (otherwise WAITING). -/
structure TimeChange where
  day : Nat
  minute : Nat
  shift : Int
  done : Bool
  deriving DecidableEq, Repr

/-- The source of a day selection (R12). -/
inductive SelectionSource where
  | exception | week | none
  deriving DecidableEq, Repr

/-- A day selection (R12). -/
structure DaySelection where
  plan : Option Nat
  source : SelectionSource
  quiet : Bool
  deriving DecidableEq, Repr

/-- The calendar (R9 to R18). -/
structure Calendar where
  week : Vector (Option Nat) 7
  exceptions : List ExceptionRec
  changes : List TimeChange
  quietStart : Nat
  quietEnd : Nat
  inside : Bool
  selection : DaySelection
  deriving DecidableEq, Repr

/-! ### Bell schedules (spec 02) -/

/-- The state of a timeline entry (R25). -/
inductive EntryState where
  | waiting | fired | missed | passed
  deriving DecidableEq, Repr

/-- An entry of the timeline (R25). -/
structure TimelineEntry where
  entry : BellEntry
  state : EntryState
  posted : Option Nat
  deriving DecidableEq, Repr

/-- The timeline (R25). -/
structure Timeline where
  date : Option Nat
  plan : Option Nat
  build : Nat
  entries : List TimelineEntry
  deriving DecidableEq, Repr

/-- A key of the fired record with its outcome: MISSED when `missed`, FIRED otherwise (R25). -/
structure FiredKey where
  time : Nat
  group : Nat
  missed : Bool
  deriving DecidableEq, Repr

/-- The bell scheduler (R20 to R38). `postings` counts the postings made, to tell the claims of one posting (R48). -/
structure Bells where
  groups : Vector (List Range) 32
  plans : Vector (List BellEntry) 16
  grace : Nat
  catchUp : Nat
  timeline : Timeline
  furthest : Option Nat
  fired : List FiredKey
  postings : Nat
  deriving DecidableEq, Repr

/-! ### Zones and the sounding arbiter (spec 03) -/

/-- What a zone can be commanded (R59). -/
inductive Output where
  | silent
  | pattern (p : Nat)
  | audio (n : Nat)
  deriving DecidableEq, Repr

/-- The state of a claim (R42). -/
inductive ClaimState where
  | pending | sounding
  deriving DecidableEq, Repr

/-- The origin of a BELL claim (R42). -/
inductive BellOrigin where
  | entry (plan index build : Nat)
  | manual
  deriving DecidableEq, Repr

/-- A BELL claim (R42). `duration` 0 is end mode EXPLICIT, any other AUTO with that many tenths. -/
structure BellClaim where
  state : ClaimState
  pattern : Nat
  duration : Nat
  endTime : Option Nat
  origin : BellOrigin
  latest : Nat
  sounded : Bool
  posting : Nat
  deriving DecidableEq, Repr

/-- An ANNOUNCE claim (R42, R51); its end mode is EXPLICIT. -/
structure AnnounceClaim where
  state : ClaimState
  output : Output
  id : Nat
  deriving DecidableEq, Repr

/-- A DRILL claim (R42, R53); its end mode is EXPLICIT. -/
structure DrillClaim where
  state : ClaimState
  pattern : Nat
  program : Nat
  deriving DecidableEq, Repr

/-- An entry of an offer list (R50). -/
structure Offer where
  id : Nat
  rank : Nat
  start : Nat
  deriving DecidableEq, Repr

/-- A zone record (R41); its owner node and its building are derived. `confirmed` is `none` for UNKNOWN. -/
structure Zone where
  kind : ZoneKind
  bellOn : Bool
  annOn : Bool
  bellMask : Bool
  annMask : Bool
  bell : Option BellClaim
  ann : Option AnnounceClaim
  drill : Option DrillClaim
  offers : List Offer
  commanded : Output
  confirmed : Option Output
  dirty : Bool
  dirtySince : Nat
  deriving DecidableEq, Repr

/-- The yield state of a building (R39). -/
inductive YieldState where
  | clear | yielded | held
  deriving DecidableEq, Repr

/-- A building record (R39); the origin is the node position and input of the trigger. -/
structure Building where
  zones : Range
  yield : YieldState
  origin : Option (Nat × Nat)
  deriving DecidableEq, Repr

/-- The sounding arbiter (R39, R41). -/
structure Arbiter where
  buildings : Vector Building 8
  zones : Vector Zone 64
  deriving DecidableEq, Repr

/-! ### Announcements (spec 04) -/

/-- The state of an announcement (R64). -/
inductive AnnounceStage where
  | queued | chiming | live | ending
  deriving DecidableEq, Repr

/-- The end cause of an announcement (R64). -/
inductive EndCause where
  | ended | limit | displaced | cancelled
  deriving DecidableEq, Repr

/-- The join state of a zone in a join list (R70). -/
inductive JoinState where
  | waiting | joined | lost | refused | left
  deriving DecidableEq, Repr

/-- An entry of a join list (R69). -/
structure Join where
  zone : Nat
  state : JoinState
  ever : Bool
  settled : Bool
  deriving DecidableEq, Repr

/-- An announcement record (R64). -/
structure Announcement where
  id : Nat
  input : PagingInput
  rank : Nat
  spec : List Range
  chime : Option Nat
  limit : Nat
  stage : AnnounceStage
  arrival : Nat
  start : Option Nat
  chimeEnd : Option Nat
  limitTime : Option Nat
  cause : Option EndCause
  joins : List Join
  deriving DecidableEq, Repr

/-- The announcement manager (R64, R65). -/
structure Announcer where
  records : List Announcement
  lastId : Nat
  arrivals : Nat
  deriving DecidableEq, Repr

/-! ### Fire drill timing (spec 05) -/

/-- The phases of a drill other than IDLE and CLOSING (R84, R97). -/
inductive DrillPhase where
  | checking | prealert | evacuate | muster | allclear
  deriving DecidableEq, Repr

/-- The state of a building timer (R84). -/
inductive TimerState where
  | waiting | running | partialRun | cleared | yielded | unfinished
  deriving DecidableEq, Repr

/-- A building timer (R84); `elapsed` in tenths, fixed once the timer has left its running state. -/
structure BuildingTimer where
  building : Nat
  state : TimerState
  elapsed : Nat
  muster : Nat
  overdue : Bool
  partialFlag : Bool
  deriving DecidableEq, Repr

/-- The origin of a drill (R84). -/
inductive DrillOrigin where
  | request
  | scheduled (moment : CampusTime)
  deriving DecidableEq, Repr

/-- A probe of CHECKING (R87): its node, its number, how many cycles' records have been seen since it was sent
(`none`: not yet sent), whether its node has echoed, and whether it is judged when probing ends (R100). -/
structure Probe where
  position : Nat
  number : Nat
  seen : Option Nat
  echoed : Bool
  judged : Bool
  deriving DecidableEq, Repr

/-- The drill run record in a phase other than IDLE (R84). `woken` and `wakeEnd` are R86's nodes and wake wait,
`probing` says that probing has begun, `header` is the drill elapsed kept through ALLCLEAR (R90), `barred` are the
buildings that have yielded in this drill, which are not posted to again (R100). -/
structure DrillRun where
  number : Nat
  program : Nat
  fields : Program
  origin : DrillOrigin
  forced : Bool
  startTime : Option CampusTime
  accepted : Nat
  phase : DrillPhase
  phaseStart : Nat
  evacuation : Option Nat
  allLost : Bool
  timers : List BuildingTimer
  woken : List Nat
  wakeEnd : Nat
  probing : Bool
  probes : List Probe
  header : Option Nat
  barred : List Nat
  deriving DecidableEq, Repr

/-- The end cause of a drill (R98). -/
inductive DrillEnd where
  | complete | aborted | yielded | lineLost
  deriving DecidableEq, Repr

/-- A drill record (R98); `evacuation` in whole seconds from the accept time. -/
structure DrillRecord where
  number : Nat
  program : Nat
  origin : DrillOrigin
  forced : Bool
  startTime : Option CampusTime
  cause : DrillEnd
  evacuation : Option Nat
  timers : List BuildingTimer
  deriving DecidableEq, Repr

/-- The state of a scheduled-drill entry (R102). -/
inductive ScheduleState where
  | waiting | started | missed | refused | notReady
  deriving DecidableEq, Repr

/-- A scheduled-drill entry (R102). -/
structure ScheduleEntry where
  day : Nat
  minute : Nat
  program : Nat
  state : ScheduleState
  deriving DecidableEq, Repr

/-- The drill timer (R82, R84, R98, R102); `run` is `none` in IDLE. `startedSince`: a drill has started since a STORE_LOAD
was last accepted (R170). -/
structure DrillTimer where
  programs : Vector (Option Program) 4
  run : Option DrillRun
  startedSince : Bool
  runCounter : Nat
  probeCounter : Nat
  records : List DrillRecord
  schedule : List ScheduleEntry
  deriving DecidableEq, Repr

/-! ### Room clocks (spec 06) -/

/-- A display mode (R106). -/
inductive DisplayMode where
  | time | drill | blank
  deriving DecidableEq, Repr

/-- A display entry (R106); its mode follows from the two flags. `confirmed` is `none` for UNKNOWN. -/
structure Display where
  blank : Bool
  drill : Bool
  confirmed : Option DisplayMode
  dirty : Bool
  deriving DecidableEq, Repr

/-- The mode of an impulse circuit (R110). -/
inductive CircuitMode where
  | stopped | run | advance | hold | wait | fault
  deriving DecidableEq, Repr

/-- The course of an impulse circuit (R110). -/
inductive Course where
  | none | inStep | advancing | holding
  deriving DecidableEq, Repr

/-- An impulse in flight (R110). `handed`: its command is with the line engine; `everSent`: a send of it has been
carried; `resendDue`: its re-send waits for campus time to be SET (R118); `restarted`: its node has restarted since its
last send, so that no report of the line confirms it (R117; log entry 59). -/
structure Impulse where
  polarity : Polarity
  sends : Nat
  sentAt : Option Nat
  reference : Nat
  handed : Bool
  everSent : Bool
  resendDue : Bool
  restarted : Bool
  deriving DecidableEq, Repr

/-- A defined impulse circuit (R110); `lastSend` is the send time of its previous impulse (R113). -/
structure Circuit where
  definition : CircuitDef
  dial : Option Nat
  polarity : Polarity
  mode : CircuitMode
  course : Course
  flight : Option Impulse
  stopPending : Bool
  lastSend : Option Nat
  deriving DecidableEq, Repr

/-- The clock driver (R106, R110). -/
structure ClockDriver where
  displays : Vector Display 24
  circuits : Vector (Option Circuit) 32
  deriving DecidableEq, Repr

/-! ### The campus line (spec 07) -/

/-- The power state that a status record reports (R125). -/
inductive ReportedPower where
  | active | quiet | warming
  deriving DecidableEq, Repr

/-- The polarity of a clock line as a node reports it (R111); `none` is NONE. -/
abbrev LinePolarity := Option Polarity

/-- A status record (R125). `inputs`: edge count and level (high is `true`); `lines`: impulse count and line
polarity; `read`: sequence number and bytes of the read data. -/
structure StatusRecord where
  position : Nat
  assigned : Bool
  silencing : Bool
  restarted : Bool
  power : ReportedPower
  lastApplied : Nat
  probeEcho : Nat
  inputs : List (Nat × Bool)
  lines : List (Nat × LinePolarity)
  lane1 : Bool
  lane2 : Bool
  onward : PortFault
  read : Option (Nat × List Byte)
  deriving DecidableEq, Repr

/-- A line command with the fields of its kind (R127 to R129, R183). `storeRead` has no address for the mark *next*. -/
inductive LineCommand where
  | zoneOutput (lowest highest : Nat) (output : Output)
  | impulse (line : Nat) (polarity : Polarity) (width : Nat)
  | display (mode : DisplayMode)
  | power (quiet : Bool)
  | probe (number : Nat)
  | hail
  | assign (position : Nat)
  | extend
  | cutOnward
  | setupPut (target : Nat) (address : Option Nat) (bytes : List Byte)
  | storeRead (address : Option Nat) (count : Nat)
  | inputConfig (inputs : List (InputFunction × Edge))
  | nodeConfig (window : Range) (tapAssigned holdOver : Nat)
  deriving DecidableEq, Repr

/-- Which block a command came from (R133): the arbiter's zones, a display entry, a circuit, the drill timer, the
chain builder's POWER, or the numbered command of the chain builder's current step. -/
inductive Sender where
  | zones
  | display
  | circuit (c : Nat)
  | probe
  | power
  | step (n : Nat)
  deriving DecidableEq, Repr

/-- A command handed to a class (R130): the command, its target (`none` is ALL), its age and its sender. -/
structure Handed where
  command : LineCommand
  target : Option Nat
  handedAt : Nat
  sender : Sender
  deriving DecidableEq, Repr

/-- The command in flight (R132). `waiting` are the targeted nodes that have not confirmed, `confirmed` those that
have. `resend` says that it goes into the next cycle's slot again; otherwise the next cycle's slot is held. -/
structure Flight where
  command : LineCommand
  target : Option Nat
  sender : Sender
  seq : Nat
  sends : Nat
  waiting : List Nat
  confirmed : List Nat
  resend : Bool
  deriving DecidableEq, Repr

/-- The levels of a position's two counters (R140); `true` is armed. -/
structure Levels where
  missedHalf : Bool
  missedFull : Bool
  badHalf : Bool
  badFull : Bool
  deriving DecidableEq, Repr

/-- What the line engine keeps for a position (R126, R134, R135, R140). `since` is `none` for *never*.
`fresh`: the baselines take the next record's counts (R135). `reported`: a restart of the node has been reported and
it has not yet been heard assigned (R136). `firstDue`: the node's first record in READY is awaited (R56, R117). -/
structure Link where
  missing : Nat
  since : Option Nat
  baselines : Vector Nat 4
  fresh : Bool
  latest : Option StatusRecord
  missed : Nat
  badcheck : Nat
  levels : Levels
  reported : Bool
  firstDue : Bool
  deriving DecidableEq, Repr

/-- The line engine (R124 to R141). -/
structure LineEngine where
  cycle : Nat
  seq : Nat
  urgent : List Handed
  output : List Handed
  clock : List Handed
  service : List Handed
  passedClock : Nat
  passedService : Nat
  flight : Option Flight
  links : Vector Link 24
  giveUps : Nat
  frozen : Bool
  deriving DecidableEq, Repr

/-! ### Roster, chain build and node setup (spec 08) -/

/-- A roster record (R142); `none` for maker and model is ANY. -/
structure RosterRecord where
  maker : Option Nat
  model : Option Nat
  window : Range
  building : Option Nat
  tapAssigned : Nat
  holdOver : Nat
  inputs : Vector InputDef 4
  deriving DecidableEq, Repr

/-- The states of the line (R145). -/
inductive LineState where
  | down | building | running | partialLine | faulted
  deriving DecidableEq, Repr

/-- The power state of a READY node (R157). -/
inductive PowerState where
  | active | quiet | waking
  deriving DecidableEq, Repr

/-- The reason of a MISMATCH (R149, R152). -/
inductive MismatchReason where
  | model | header | inputs | noApply
  deriving DecidableEq, Repr

/-- The node states (R145); READY carries the power state, MISMATCH its reason. -/
inductive NodeState where
  | absent
  | found
  | mismatch (reason : MismatchReason)
  | setting
  | ready (power : PowerState)
  | suspect
  | lost
  deriving DecidableEq, Repr

/-- The identity of a node, read from a hail answer (R149, R184). -/
structure Identity where
  maker : Nat
  model : Nat
  version : Nat
  tapCapable : Nat
  quietCapable : Bool
  warmUp : Nat
  inputCount : Nat
  lineCount : Nat
  recordCount : Nat
  deriving DecidableEq, Repr

/-- The setup progress (R145): the next setup record and its store address. -/
structure SetupProgress where
  index : Nat
  address : Nat
  deriving DecidableEq, Repr

/-- What a node answers to HAIL (R149, R183): its identity, whether its header failed, its former position. -/
structure HailAnswer where
  identity : Identity
  failed : Bool
  former : Option Nat
  deriving DecidableEq, Repr

/-- The runtime record of a position (R145). `answer` is the hail answer last taken there: the identity with the header
status and the former position that came with it (R149). `wakeFrom`: the moment from which a record reporting ACTIVE ends WAKING;
`wakeAfter`: a wake is taken when the sent POWER QUIET is confirmed; `quietAfter`: quiet began while WAKING (R157). -/
structure Runtime where
  node : NodeState
  answer : Option HailAnswer
  setup : Option SetupProgress
  setupFault : Bool
  unfinished : Bool
  restartOut : Bool
  wakeFrom : Option Nat
  wakeAfter : Bool
  quietAfter : Bool
  deriving DecidableEq, Repr

/-- The stop reasons (R150, R153, R154, R155). -/
inductive StopReason where
  | lostBelow | endOfChain | badHail | mismatch | lost | noApply | restartLost | onwardFault | headFault
  deriving DecidableEq, Repr

/-- A host access to a node's setup store (R158): the bytes to write, or none for a read of `count` bytes; the bytes
read so far or the number written so far; whether the next read carries its address; the give-ups of the step. -/
structure Access where
  position : Nat
  address : Nat
  count : Nat
  data : Option (List Byte)
  got : List Byte
  written : Nat
  explicit : Bool
  tries : Nat
  deriving DecidableEq, Repr

/-- The tasks of the work list (R146). -/
inductive Task where
  | build
  | setup (position : Nat)
  | retry
  | access (a : Access)
  | cut (position : Nat)
  deriving DecidableEq, Repr

/-- A step of a setup (R151). `read`: the bytes of the record read so far, and whether the next read carries its
address; `put`: the target, the bytes still to send and the size of the record; `wait`: the end of a WAIT record's delay. -/
inductive SetupStep where
  | read (got : List Byte) (explicit : Bool)
  | put (target : Nat) (rest : List Byte) (size : Nat)
  | wait (deadline : Nat)
  | nodeConfig
  | inputConfig
  | power
  | display
  deriving DecidableEq, Repr

/-- What the current task waits for (R146). `hail`: the position, whether the hail is a SETUP's, the bad answers so
far, the windows watched since HAIL was carried (`none`: not yet carried). `tries` counts give-ups of the step. -/
inductive Step where
  | hail (position : Nat) (forSetup : Bool) (bad : Nat) (watched : Option Nat)
  | assign (position : Nat)
  | first (position : Nat)
  | setup (position : Nat) (step : SetupStep) (tries : Nat)
  | extend (position : Nat) (tries : Nat)
  | access
  | cutOnward (tries : Nat)
  | cutSettle (cycles : Nat)
  | portCut
  deriving DecidableEq, Repr

/-- The chain builder (R142 to R160). `step` and `stepNo` belong to the current task, the head of `work`.
`buildOp`: the build in progress belongs to a LINE_START or LINE_RESTART. `headCut`: the end of the head's 1 s cut. -/
structure Chain where
  roster : Vector RosterRecord 24
  length : Nat
  autoStart : Bool
  autoSetup : Bool
  interval : Nat
  line : LineState
  runtime : Vector Runtime 24
  reach : Nat
  stop : Option (StopReason × Nat)
  retryAt : Option Nat
  work : List Task
  step : Option Step
  stepNo : Nat
  buildOp : Bool
  headCut : Option Nat
  headPort : PortFault
  deriving DecidableEq, Repr

/-! ### Notices (spec 09, 11) -/

/-- The statuses of replies and the final statuses of long operations (R181). -/
inductive Status where
  | ok | accepted | badValue | badLength | unknownKind | busy | full | overlap | duplicate | notFound
  | wrongState | timeUnset | noConfirm | nodeLost | lineFault | lineDown | storeFault | badImage
  deriving DecidableEq, Repr

/-- The causes of TIME_EVENT with the fields they add (R19). -/
inductive TimeCause where
  | set (marked : Nat)
  | jump (old : CampusTime) (size : Int) (marked : Nat)
  | change (moment : CampusTime) (shift : Int) (marked : Nat)
  | restored (applied : Nat) (shift : Int)
  | unsetRangeEnd
  | trimDone
  | dayPlan (day : Nat) (selection : DaySelection) (marked : Nat)
  | quietBegins (start stop : Nat)
  | quietEnds (start stop : Nat)
  deriving DecidableEq, Repr

/-- The counts of a join list (R80). -/
structure JoinCounts where
  selected : Nat
  ever : Nat
  joined : Nat
  waiting : Nat
  lost : Nat
  refused : Nat
  withdrawn : Nat
  deriving DecidableEq, Repr

/-- The events of ANNOUNCE_STATE with the fields they add (R80). -/
inductive AnnounceEvent where
  | started (start : Nat)
  | live
  | ending (cause : EndCause)
  | removed (cause : EndCause)
  deriving DecidableEq, Repr

/-- Why a position failed the readiness check (R88). -/
inductive ProbeFailure where
  | notReady | notActive | noEcho
  deriving DecidableEq, Repr

/-- What every notice of a drill gives (R104). -/
structure DrillHead where
  number : Nat
  program : Nat
  origin : DrillOrigin
  forced : Bool
  deriving DecidableEq, Repr

/-- The result of the readiness check (R88). -/
structure Readiness where
  ready : List Nat
  notReady : List Nat
  yielded : List Nat
  failed : List (Nat × ProbeFailure)
  deriving DecidableEq, Repr

/-- The events of DRILL_PHASE with the fields they add (R104); `phase` fields are in the notice. -/
inductive DrillEvent where
  | checking (woken : Nat)
  | ready (r : Readiness)
  | notReady (r : Readiness)
  | prealert (claimed refused : Nat)
  | evacuate (claimed refused : Nat)
  | allclear (claimed refused : Nat)
  | muster (early : Bool)
  | building (t : BuildingTimer)
  deriving DecidableEq, Repr

/-- Why a reached scheduled entry is refused (R103). -/
inductive ScheduleRefusal where
  | empty | busy
  deriving DecidableEq, Repr

/-- The events of CLOCK_STATE with the fields they add (R123). -/
inductive ClockEvent where
  | correcting (behind ahead : Nat)
  | inStep
  | noConfirm (polarity : Polarity) (reference : Nat) (count : Nat) (line : LinePolarity)
  | noLine
  | reconciled (delivered : Bool) (count : Nat) (line : LinePolarity)
  deriving DecidableEq, Repr

/-- The cause of a setup fault (R151). -/
inductive SetupFaultCause where
  | badCheck | badRecord
  deriving DecidableEq, Repr

/-- The cause of a YIELD_STATE notice (R58). -/
inductive YieldCause where
  | trigger (position input bells announcements drills : Nat)
  | inputsInactive
  | release
  deriving DecidableEq, Repr

/-- The two error counters (R140). -/
inductive CounterName where
  | missed | badcheck
  deriving DecidableEq, Repr

/-- The cause of a start-up (R171). -/
inductive StartCause where
  | powerOn | restart
  deriving DecidableEq, Repr

/-- The fields of an OP_DONE beside tag, kind and status (R147, R158). -/
inductive OpFields where
  | none
  | line (state : LineState) (reach : Nat) (stop : Option (StopReason × Nat))
  | bytes (data : List Byte)
  deriving DecidableEq, Repr

/-- A notice (R165), by the fourteen kinds; DRILL_PHASE and NODE_STATE have more than one form, BELLS_MISSED three. -/
inductive Notice where
  | started (cause : StartCause) (storeValid backupValid lineStarting : Bool)
  | timeEvent (cause : TimeCause) (time : CampusTime) (quality : Quality)
  | bellFired (late : Option CampusTime) (plan index build : Nat) (entry : BellEntry) (sounding pending refused : Nat)
  | bellsMissedJump (old new : CampusTime) (late missed : Nat)
  | bellsMissedStale (origin : BellOrigin) (dropped : Nat) (becameMissed : Bool)
  | bellsMissedLimit (plan index time group : Nat)
  | announceState (id : Nat) (input : PagingInput) (rank : Nat) (event : AnnounceEvent) (stage : Option AnnounceStage) (counts : JoinCounts)
  | drillPhase (head : DrillHead) (event : DrillEvent) (phase : Option DrillPhase)
  | scheduleRefused (moment : CampusTime) (program : Nat) (reason : ScheduleRefusal) (phase : Option DrillPhase)
  | scheduleMissed (moments : List CampusTime) (phase : Option DrillPhase)
  | drillOverdue (head : DrillHead) (building target muster : Nat)
  | drillResult (record : DrillRecord)
  | clockState (circuit : Nat) (dial : Option Nat) (polarity : Polarity) (mode : CircuitMode) (course : Course) (event : ClockEvent)
  | clockRestored (restored unknown : Nat) (valid : Bool)
  | nodeState (position : Nat) (old new : NodeState) (missing : Nat) (stop : Option (StopReason × Nat)) (setupFault : Bool)
  | setupFault (position index : Nat) (cause : SetupFaultCause)
  | lineFault (position : Option Nat) (kind : PortFault)
  | yieldState (building : Nat) (old new : YieldState) (cause : YieldCause)
  | counterLevel (position : Nat) (counter : CounterName) (level : Nat)
  | opDone (tag kind : Nat) (status : Status) (fields : OpFields)
  deriving DecidableEq, Repr

/-- The fourteen notice kinds (R165, R181). -/
inductive NoticeKind where
  | started | timeEvent | bellFired | bellsMissed | announceState | drillPhase | drillOverdue | drillResult
  | clockState | nodeState | lineFault | yieldState | counterLevel | opDone
  deriving DecidableEq, Repr

/-- What a block sends to the control port: a notice, or the end of a long operation (R164, R165). -/
inductive Message where
  | notice (n : Notice)
  | opEnd (status : Status) (fields : OpFields)
  deriving DecidableEq, Repr

/-- The blocks of the OT416 (spec 00 section 2) other than the control port. `now` is elapsed time (R1) in units of
20 ms; `outbox` holds what the blocks send to the control port within one step and is empty between steps. -/
structure Part where
  now : Nat
  backup : Backup
  time : TimeKeeper
  cal : Calendar
  bell : Bells
  arb : Arbiter
  ann : Announcer
  drill : DrillTimer
  clk : ClockDriver
  line : LineEngine
  chain : Chain
  outbox : List Message
  deriving DecidableEq, Repr

/-! ### Replies (spec 09, 11) -/

/-- An occupied long-operation slot (R164); `ending` is the OP_DONE that waits for room. -/
structure LongOp where
  tag : Nat
  kind : Nat
  accepted : Nat
  ending : Option Notice
  deriving DecidableEq, Repr

/-- The last long-operation result (R164). -/
structure LongResult where
  tag : Nat
  kind : Nat
  status : Status
  deriving DecidableEq, Repr

/-- The image state (R168). -/
inductive ImageState where
  | valid | invalid
  deriving DecidableEq, Repr

/-- A zone as ZONE_READ gives it (R62): owner, building, record, urgent update class, the time remaining of a
SOUNDING AUTO bell claim in tenths. -/
structure ZoneReport where
  zone : Nat
  owner : Option Nat
  building : Option Nat
  record : Zone
  urgent : Bool
  remaining : Option Nat
  deriving DecidableEq, Repr

/-- A record of ANNOUNCE_LIST (R81). -/
structure AnnounceSummary where
  id : Nat
  input : PagingInput
  rank : Nat
  stage : AnnounceStage
  place : Nat
  counts : JoinCounts
  deriving DecidableEq, Repr

/-- A circuit as CIRCUIT_READ gives it (R123): the record, target with behind and ahead, the tenths elapsed since
its impulse's send, and the count and line polarity last reported. -/
structure CircuitReport where
  circuit : Circuit
  target : Option (Nat × Nat × Nat)
  sinceSend : Option Nat
  reported : Option (Nat × LinePolarity)
  deriving DecidableEq, Repr

/-- The fields that follow the status in a reply (R182: those the request's rule names, in its order). -/
inductive ReplyBody where
  | none
  | identify (partCode version : BitVec 16) (format : BitVec 8) (capacities : List Nat)
  | status (quality : Quality) (line : LineState) (positions : List Nat) (phase : Option DrillPhase) (announcements : Nat)
      (image : ImageState) (badFrames overruns : Nat) (dropped : Bool) (longOp : Option (Nat × Nat × Nat × Bool))
      (last : Option LongResult)
  | time (date : CalDate) (tod weekday : Nat) (quality : Quality) (trim : Int) (valid : Bool) (selection : DaySelection)
      (inside : Bool) (next : Option (CampusTime × Int))
  | week (entries : List (Option Nat))
  | exceptions (count : Nat) (records : List ExceptionRec)
  | changeState (done : Bool)
  | changes (records : List TimeChange)
  | quiet (start stop : Nat) (inside : Bool)
  | group (ranges : List Range)
  | planCounts (count free : Nat)
  | planFree (free : Nat)
  | plan (count free : Nat) (entries : List BellEntry)
  | timeline (date plan : Option Nat) (build : Nat) (furthest : Option Nat) (waiting fired missed passed keys : Nat)
      (entries : List TimelineEntry)
  | rung (sounding pending refused : Nat)
  | count (n : Nat)
  | bellSettings (grace catchUp : Nat)
  | buildings (records : List Building)
  | zones (reports : List ZoneReport)
  | announceStarted (id : Nat) (stage : Option AnnounceStage) (place : Nat)
  | announceStage (stage : Option AnnounceStage)
  | announceList (records : List AnnounceSummary) (p1 p2 : Option Nat) (taps : List (Nat × Bool × Bool))
  | announcement (record : Announcement) (chimeLeft limitLeft : Option Nat) (count : Nat) (joins : List Join)
  | program (fields : Option Program)
  | runNumber (n : Nat)
  | drill (run : Option DrillRun) (left : Option Nat) (header : Option Nat) (timers : List BuildingTimer) (claims : List (Nat × Nat))
      (probes : List (Nat × Option Nat × Bool))
  | drillRecord (count : Nat) (record : Option DrillRecord)
  | scheduleState (state : ScheduleState)
  | schedule (entries : List ScheduleEntry)
  | displayMode (mode : DisplayMode)
  | displays (entries : List (Display × DisplayMode))
  | circuitMode (mode : CircuitMode) (course : Course)
  | circuitStop (mode : CircuitMode) (stopPending : Bool)
  | circuits (reports : List (Option CircuitReport))
  | counters (counts : List (Nat × Nat)) (giveUps : Nat) (frozen : Bool)
  | frozen (frozen : Bool)
  | nodeLink (node : NodeState) (link : Link) (line : LineState) (flight : Option (Nat × Nat × List Nat)) (classes : List (Nat × Nat))
  | roster (record : RosterRecord) (length : Nat)
  | lineSettings (autoStart autoSetup : Bool) (interval : Nat)
  | chain (line : LineState) (reach : Nat) (stop : Option (StopReason × Nat)) (autoStart autoSetup : Bool) (interval : Nat)
      (work : List Task) (positions : List Runtime)
  | enables (e : List Bool)
  deriving DecidableEq, Repr

/-- A reply (R163): tag, the request's kind byte, status and fields. -/
structure Reply where
  tag : Nat
  kind : Nat
  status : Status
  body : ReplyBody
  deriving DecidableEq, Repr

/-! ### The control port and the table store (spec 09) -/

/-- The states of the receiver (R161). -/
inductive Receiver where
  | hunting | inFrame | heldOff
  deriving DecidableEq, Repr

/-- A frame held in the input buffer (R162): a request, or what R163 answers without one. -/
inductive HeldFrame where
  | request (i : Instr)
  | tagZero (kind : Nat)
  | unknownKind (tag kind : Nat)
  | badLength (tag kind : Nat)
  deriving DecidableEq, Repr

/-- The frame being sent (R166): a reply, or a notice with the dropped flag it carries. -/
inductive SentFrame where
  | reply (r : Reply)
  | notice (n : Notice) (dropped : Bool)
  deriving DecidableEq, Repr

/-- The stored fields of a zone (R168). -/
structure StoredZone where
  kind : ZoneKind
  bellOn : Bool
  annOn : Bool
  deriving DecidableEq, Repr

/-- The tables that the image holds (R168). -/
structure Tables where
  week : Vector (Option Nat) 7
  exceptions : List ExceptionRec
  changes : List TimeChange
  quietStart : Nat
  quietEnd : Nat
  groups : Vector (List Range) 32
  plans : Vector (List BellEntry) 16
  grace : Nat
  catchUp : Nat
  ranges : Vector Range 8
  zones : Vector StoredZone 64
  roster : Vector RosterRecord 24
  length : Nat
  autoStart : Bool
  autoSetup : Bool
  interval : Nat
  circuits : Vector (Option CircuitDef) 32
  programs : Vector (Option Program) 4
  schedule : List ScheduleEntry
  enables : Vector Bool 14
  deriving DecidableEq, Repr

/-- The serial memory (R168, R185): 32,768 bytes from address 0, in the canonical form of `Memory.wf` (log entry 13).
`torn`: a STORE_SAVE has begun to write it and none has ended well since, so that a start-up finds the image INVALID (R169,
R179). -/
structure SerialMemory where
  cells : List Host.Cell
  torn : Bool
  deriving DecidableEq, Repr

/-- A serial memory that nothing has been written to. -/
def SerialMemory.blank : SerialMemory := ⟨[], false⟩

/-- The control port (R161 to R173). `taking`: the head of the buffer has been presented to be taken (log entry 1).
`saving` is the copy that a STORE_SAVE is writing, `loading` an image being read. -/
structure Port where
  rx : Receiver
  buffer : List HeldFrame
  taking : Bool
  replies : List Reply
  notices : List Notice
  sending : Option SentFrame
  enables : Vector Bool 14
  dropped : Bool
  badFrames : Nat
  overruns : Nat
  longOp : Option LongOp
  lastLong : Option LongResult
  imageState : ImageState
  saving : Option Tables
  loading : Bool
  restarting : Bool
  deriving DecidableEq, Repr

/-! ### The line nodes (spec 06 R111, 07 R125 to R139, 08 R148) -/

/-- An applied output and the moment its cadence began (R43, R128), in world units. -/
structure Applied where
  output : Output
  since : Nat
  deriving DecidableEq, Repr

/-- An input of a node (R125, R129). -/
structure NodeInput where
  function : InputFunction
  edge : Edge
  level : Bool
  count : Nat
  deriving DecidableEq, Repr

/-- A clock line of a node (R111): count, line polarity, and the pulse being driven with its end in world units. -/
structure NodeLine where
  count : Nat
  polarity : LinePolarity
  pulse : Option (Polarity × Nat)
  deriving DecidableEq, Repr

/-- An OT410 fitted on the line. Moments are world units of 20 ms. `shownTime`: what a TIME display runs on, a day
and a count of 20 ms units, `none` for dashes; `shownDrill`: the last drill elapsed taken (R108). `missedFor`: units since the
last cycle taken, the present one included (R137). `carried`: the audio lanes whose samples the last down half it took carried
(R68). `taken`: the setup bytes applied, with their targets (R129). `caps`: the identity the node last gave or was fitted with
(R149, R158). `cutSince`: the upstream segment has been cut since then; `resetDone`: the line reset of that cut has been taken
(R148). -/
structure Node where
  powered : Bool
  position : Option Nat
  former : Option Nat
  restarted : Bool
  answered : Bool
  window : Range
  tapAssigned : Nat
  holdOver : Nat
  outputs : Vector Applied 64
  lanes : List Nat
  carried : List Nat
  power : ReportedPower
  warmUntil : Nat
  lastApplied : Nat
  sinceApplied : Nat
  probeEcho : Nat
  inputs : List NodeInput
  lines : List NodeLine
  display : DisplayMode
  shownTime : Option (Nat × Nat)
  shownDrill : Option Nat
  readData : Option (Nat × List Byte)
  pointer : Nat
  store : List Host.Cell
  taken : List (Nat × List Byte)
  caps : Identity
  closed : Bool
  cutUntil : Option Nat
  segment : PortFault
  missedFor : Nat
  isolatedAt : Option Nat
  heldOver : Bool
  cutSince : Option Nat
  resetDone : Bool
  deriving DecidableEq, Repr

/-- What the last tick has made due (log entry 2): a tenth of campus time to count, a whole minute that counting has
reached, a line cycle, the end of the frame being sent, the end of a work of the serial memory. -/
structure Marks where
  count : Bool
  minute : Bool
  cycle : Bool
  tx : Bool
  store : Bool
  deriving DecidableEq, Repr

/-- Nothing due. -/
def Marks.none : Marks := ⟨false, false, false, false, false⟩

/-- The whole machine. `draws` counts the values that the spec leaves free and the machine has taken (log entry 60). -/
structure State where
  part : Part
  port : Port
  memory : SerialMemory
  nodes : List Node
  powered : Bool
  world : Nat
  marks : Marks
  draws : Nat
  pending : List Instr
  deriving DecidableEq, Repr

/-! ### The state after reset: a POWER_ON start-up with a blank memory and no backup (log entries 3 and 4) -/

/-- The day selection while campus time is UNSET (R12). -/
def DaySelection.unset : DaySelection := ⟨none, .none, false⟩

/-- A zone as it is with an invalid image (R41). -/
def Zone.reset : Zone :=
  { kind := .sounder, bellOn := true, annOn := true, bellMask := false, annMask := false, bell := none, ann := none,
    drill := none, offers := [], commanded := .silent, confirmed := none, dirty := false, dirtySince := 0 }

/-- A building as it is with an invalid image (R39); 1 to 0 is an empty range. -/
def Building.reset : Building := ⟨⟨1, 0⟩, .clear, none⟩

/-- A display entry after start-up (R106). -/
def Display.reset : Display := ⟨false, false, none, false⟩

/-- A lost entry of the dial part (R7, R119). -/
def DialEntry.reset : DialEntry := ⟨none, .positive, none⟩

/-- What the line engine keeps for a position after start-up (R126, R140). -/
def Link.reset : Link :=
  { missing := 0, since := none, baselines := Vector.replicate 4 0, fresh := true, latest := none, missed := 0,
    badcheck := 0, levels := ⟨true, true, true, true⟩, reported := false, firstDue := false }

/-- A roster record with an invalid image (R142). -/
def RosterRecord.reset : RosterRecord :=
  { maker := none, model := none, window := ⟨1, 0⟩, building := none, tapAssigned := 2, holdOver := 30,
    inputs := Vector.replicate 4 ⟨.none, none, .rising⟩ }

/-- A runtime record after start-up (R145). -/
def Runtime.reset : Runtime :=
  { node := .absent, answer := none, setup := none, setupFault := false, unfinished := false, restartOut := false,
    wakeFrom := none, wakeAfter := false, quietAfter := false }

/-- The backup domain after it has been lost (R7). -/
def Backup.lost : Backup := ⟨0, 0, false, Vector.replicate 32 DialEntry.reset⟩

/-- The line engine after start-up (R124, R126, R127, R140). -/
def LineEngine.reset : LineEngine :=
  { cycle := 0, seq := 1, urgent := [], output := [], clock := [], service := [], passedClock := 0,
    passedService := 0, flight := none, links := Vector.replicate 24 Link.reset, giveUps := 0, frozen := false }

/-- The chain builder with an invalid image (R142, R144, R145). -/
def Chain.reset : Chain :=
  { roster := Vector.replicate 24 RosterRecord.reset, length := 0, autoStart := false, autoSetup := true,
    interval := 10, line := .down, runtime := Vector.replicate 24 Runtime.reset, reach := 0, stop := none,
    retryAt := none, work := [], step := none, stepNo := 0, buildOp := false, headCut := none, headPort := .none }

/-- The blocks after a start-up with an invalid image and an invalid backup domain (R171). -/
def Part.reset : Part :=
  { now := 0, backup := Backup.lost, time := ⟨.unset, 0, false⟩,
    cal := { week := Vector.replicate 7 none, exceptions := [], changes := [], quietStart := 0, quietEnd := 0,
             inside := false, selection := DaySelection.unset },
    bell := { groups := Vector.replicate 32 [], plans := Vector.replicate 16 [], grace := 30, catchUp := 120,
              timeline := ⟨none, none, 0, []⟩, furthest := none, fired := [], postings := 0 },
    arb := ⟨Vector.replicate 8 Building.reset, Vector.replicate 64 Zone.reset⟩,
    ann := ⟨[], 0, 0⟩,
    drill := { programs := Vector.replicate 4 none, run := none, startedSince := false, runCounter := 0,
               probeCounter := 0, records := [], schedule := [] },
    clk := ⟨Vector.replicate 24 Display.reset, Vector.replicate 32 none⟩,
    line := LineEngine.reset, chain := Chain.reset, outbox := [] }

/-- The control port after a POWER_ON start-up with an INVALID image: STARTED is on the wire and the CLOCK_STATE
RESTORED notice of R119 waits behind it (R171, R119). -/
def Port.reset : Port :=
  { rx := .hunting, buffer := [], taking := false, replies := [], notices := [.clockRestored 0 0 false],
    sending := some (.notice (.started .powerOn false false false) false), enables := Vector.replicate 14 true,
    dropped := false, badFrames := 0, overruns := 0, longOp := none, lastLong := none, imageState := .invalid,
    saving := none, loading := false, restarting := false }

/-- The machine right after reset (R171; log entries 3 and 4). -/
def State.reset : State :=
  { part := Part.reset, port := Port.reset, memory := .blank, nodes := [], powered := true, world := 0,
    marks := Marks.none, draws := 0, pending := [] }

end Sys2Proof.Machine
end

