-- ==== Sys2Proof/Machine/Ops.lean ====
section
/-! DEFINITION. The shared operations: tables indexed by number, elapsed time, what a block sends to the control port. -/

namespace Sys2Proof

/-- The numbers of a range in ascending order; the empty range has none (spec 00 section 4, Ranges). -/
def Range.toList (r : Range) : List Nat := (List.range (r.last + 1 - r.first)).map (· + r.first)

/-- Whether a range selects a number. -/
def Range.has (r : Range) (n : Nat) : Bool := r.first ≤ n && n ≤ r.last

/-- Whether a range selects nothing. -/
def Range.isEmpty (r : Range) : Bool := r.last < r.first

/-- Whether two ranges share a number. -/
def Range.meets (a b : Range) : Bool := !a.isEmpty && !b.isEmpty && a.first ≤ b.last && b.first ≤ a.last

end Sys2Proof

namespace Sys2Proof.Machine

/-- The record of a table with number `i`; `d` for a number that the table does not have. -/
def Tab.get {α : Type} {n : Nat} (v : Vector α n) (i : Nat) (d : α) : α := (v[i]?).getD d

/-- A table with record `i` replaced; a number that the table does not have replaces nothing. -/
def Tab.set {α : Type} {n : Nat} (v : Vector α n) (i : Nat) (x : α) : Vector α n := v.setIfInBounds i x

/-- A table with record `i` changed by `f`. -/
def Tab.modify {α : Type} {n : Nat} (v : Vector α n) (i : Nat) (f : α → α) : Vector α n :=
  match v[i]? with
  | some a => v.setIfInBounds i (f a)
  | none => v

/-- A table with every record changed by `f`, which is given the record's number. -/
def Tab.mapAll {α β : Type} {n : Nat} (v : Vector α n) (f : Nat → α → β) : Vector β n :=
  Vector.ofFn fun i => f i.val v[i]

/-- The numbers `0` to `n - 1`. -/
def upTo (n : Nat) : List Nat := List.range n

/-- The numbers below `n` that some range of a list selects, ascending, each once. -/
def selected (n : Nat) (rs : List Range) : List Nat := (upTo n).filter fun z => rs.any fun r => r.has z

/-- A count that stops at 65,535 (spec 00 section 4, Counts and saturation). -/
def saturate16 (n : Nat) : Nat := min n 65535

/-- 20 ms units in a tenth of a second and in a second (log entry 11). -/
def unitsPerTenth : Nat := 5
def unitsPerSecond : Nat := 50

/-- Elapsed time in tenths (spec 00 section 4, Durations). -/
def Part.tenths (p : Part) : Nat := p.now / unitsPerTenth

/-- A moment `n` tenths from now. -/
def Part.inTenths (p : Part) (n : Nat) : Nat := p.now + n * unitsPerTenth

/-- A moment `n` seconds from now. -/
def Part.inSeconds (p : Part) (n : Nat) : Nat := p.now + n * unitsPerSecond

/-- The tenths that remain until a moment. -/
def Part.leftUntil (p : Part) (t : Nat) : Nat := (t - p.now) / unitsPerTenth

/-- A block sends a message to the control port (R164, R165). -/
def Part.send (p : Part) (m : Message) : Part := { p with outbox := p.outbox ++ [m] }

/-- A block creates a notice (R165). -/
def Part.note (p : Part) (n : Notice) : Part := p.send (.notice n)

/-- A block ends the long operation (R164). -/
def Part.endOp (p : Part) (s : Status) (f : OpFields) : Part := p.send (.opEnd s f)

/-- A block's event taken for each item of a list, first to last. -/
def Part.each {α : Type} (p : Part) (l : List α) (f : Part → α → Part) : Part := l.foldl f p

/-- An item placed before the first item of a list that `after` says it stands ahead of. -/
def insertWhere {α : Type} (after : α → Bool) (x : α) : List α → List α
  | [] => [x]
  | a :: l => if after a then x :: a :: l else a :: insertWhere after x l

/-- What a request answers (R163): a status and, with OK or ACCEPTED, the fields its rule names. -/
structure Answer where
  status : Status
  body : ReplyBody
  deriving DecidableEq, Repr

/-- A request's answer OK with fields. -/
def okWith (b : ReplyBody) : Answer := ⟨.ok, b⟩

/-- A request's answer OK without fields. -/
def okOnly : Answer := ⟨.ok, .none⟩

/-- The first status of a list of checks whose condition holds; `none` when every check passes. -/
def firstFailure : List (Bool × Status) → Option Status
  | [] => none
  | (c, st) :: l => if c then some st else firstFailure l

/-- A refused request has no effect on any state of the part (R163); otherwise `act` carries it out. -/
def checked (checks : List (Bool × Status)) (p : Part) (act : Part → Part × Answer) : Part × Answer :=
  match firstFailure checks with
  | some st => (p, ⟨st, .none⟩)
  | none => act p

/-- The answer of a request that only reads: the first failed check's status, or what it reads. -/
def checkedRead (checks : List (Bool × Status)) (a : Answer) : Answer :=
  match firstFailure checks with
  | some st => ⟨st, .none⟩
  | none => a

end Sys2Proof.Machine
end

