-- ==== Sys2Proof/Machine/Operands.lean ====
section
/-! DEFINITION. Operand forms: dates and days, moments, ranges of zones, marks and codes. -/

namespace Sys2Proof

/-- Whether a year is a leap year; from 2000 to 2099 every year divisible by four is (R1). -/
def leapYear (y : Nat) : Bool := y % 4 == 0

/-- The length of a month; 0 for a number that is no month. -/
def monthLength (y m : Nat) : Nat :=
  match m with
  | 1 | 3 | 5 | 7 | 8 | 10 | 12 => 31
  | 4 | 6 | 9 | 11 => 30
  | 2 => if leapYear y then 29 else 28
  | _ => 0

/-- Whether a date exists and lies from 2000-01-01 to 2099-12-31 (R3). -/
def CalDate.valid (d : CalDate) : Bool :=
  2000 ≤ d.year && d.year ≤ 2099 && 1 ≤ d.month && d.month ≤ 12 && 1 ≤ d.day && d.day ≤ monthLength d.year d.month

/-- Whether a date field lies within the layout of R181, existing or not. -/
def CalDate.inLayout (d : CalDate) : Bool :=
  2000 ≤ d.year && d.year ≤ 2099 && 1 ≤ d.month && d.month ≤ 12 && 1 ≤ d.day && d.day ≤ 31

/-- The days of a year before a month begins. -/
def daysBefore (y m : Nat) : Nat := ((List.range (m - 1)).map fun k => monthLength y (k + 1)).sum

/-- The number of days from 2000-01-01 to a date. -/
def CalDate.number (d : CalDate) : Nat :=
  365 * (d.year - 2000) + (d.year - 2000 + 3) / 4 + daysBefore d.year d.month + (d.day - 1)

/-- The month and the day in it, of a day of the year counted from 0, looked for from month `m` on. -/
def monthOf (y : Nat) : Nat → Nat → Nat → Nat × Nat
  | 0, m, r => (m, r + 1)
  | k + 1, m, r => if r < monthLength y m then (m, r + 1) else monthOf y k (m + 1) (r - monthLength y m)

/-- The date with a day number. -/
def dateOf (n : Nat) : CalDate :=
  let q := n / 1461
  let r := n % 1461
  let y := if r < 366 then 0 else 1 + (r - 366) / 365
  let d := if r < 366 then r else (r - 366) % 365
  let year := 2000 + 4 * q + y
  let m := monthOf year 11 1 d
  ⟨year, m.1, m.2⟩

end Sys2Proof

namespace Sys2Proof.Machine

/-- The last day, 2099-12-31, and the length of a day in tenths (R1). -/
def lastDay : Nat := 36524
def dayTenths : Nat := 864000

/-- The weekday of a day; 2000-01-01 is a Saturday (R1). The numbers, Monday 0 to Sunday 6, are the model's (log entry 10). -/
def weekdayOf (n : Nat) : Nat := (n + 5) % 7

/-- A moment of campus time as one count of tenths from 2000-01-01 00:00:00.0. -/
def CampusTime.total (t : CampusTime) : Nat := t.day * dayTenths + t.tod

/-- The campus time with a count of tenths. -/
def campusOf (n : Nat) : CampusTime := ⟨n / dayTenths, n % dayTenths⟩

/-- The moment of a minute of a day (R14). -/
def minuteMoment (day minute : Nat) : CampusTime := ⟨day, minute * 600⟩

/-- Campus time as the counter of the backup domain holds it (R7). -/
def Part.campus (p : Part) : CampusTime := ⟨p.backup.day, p.backup.tod⟩

/-- Whether campus time is SET (R1). -/
def Part.isSet (p : Part) : Bool := p.time.quality == .set

/-- A plan operand is NONE or a number from 0 to 15 (R9, R10). -/
def planAllowed (p : Option Nat) : Bool := p.all (· < 16)

/-- Whether a zone range operand is not empty and lies within 0 to 63. -/
def zonesAllowed (r : Range) : Bool := !r.isEmpty && r.last < 64

/-- The zones from 0 to 63 that a range selects. -/
def zonesOf (r : Range) : List Nat := selected 64 [r]

end Sys2Proof.Machine
end

