-- ==== Sys2Proof/Machine/Flags.lean ====
section
/-! DEFINITION. The conditions that are derived from the state: owners, buildings, ability to sound, cleanness, tap
usage, line and node conditions. -/

namespace Sys2Proof

/-- The audio lane of a paging input (R68). -/
def PagingInput.lane : PagingInput → Nat
  | .p1 => 1
  | .p2 => 2

end Sys2Proof

namespace Sys2Proof.Machine

/-! ### Nodes -/

/-- The runtime record of a position (R145). -/
def Part.runtime (p : Part) (pos : Nat) : Runtime := Tab.get p.chain.runtime pos Runtime.reset

/-- The identity read at a position (R149). -/
def Runtime.identity (r : Runtime) : Option Identity := r.answer.map (·.identity)

/-- The node state of a position (R145). -/
def Part.node (p : Part) (pos : Nat) : NodeState := (p.runtime pos).node

/-- The roster record of a position (R142). -/
def Part.rosterAt (p : Part) (pos : Nat) : RosterRecord := Tab.get p.chain.roster pos RosterRecord.reset

/-- What the line engine keeps for a position. -/
def Part.link (p : Part) (pos : Nat) : Link := Tab.get p.line.links pos Link.reset

/-- The positions below the roster length, ascending (R142). -/
def Part.positions (p : Part) : List Nat := upTo (min p.chain.length 24)

/-- READY with any power state. -/
def NodeState.isReady : NodeState → Bool
  | .ready _ => true
  | _ => false

/-- READY with power state ACTIVE. -/
def NodeState.isActive (n : NodeState) : Bool := n == .ready .active

/-- READY or SUSPECT: targeted by commands (R132), its zones confirmed (R60). -/
def NodeState.isServed : NodeState → Bool
  | .ready _ | .suspect => true
  | _ => false

/-- The states whose windows are examined (R126). -/
def NodeState.isExamined : NodeState → Bool
  | .found | .setting | .ready _ | .suspect | .lost => true
  | _ => false

/-- The states that a fault makes LOST (R154, R155). -/
def NodeState.isFaultable : NodeState → Bool
  | .found | .setting | .ready _ | .suspect => true
  | _ => false

/-- Whether two node states are the same one of the seven (R145): READY is one state whatever its power. -/
def NodeState.sameKind : NodeState → NodeState → Bool
  | .ready _, .ready _ => true
  | .mismatch _, .mismatch _ => true
  | a, b => a == b

/-- Whether the identity last read at a position is quiet capable (R157). -/
def Part.quietCapable (p : Part) (pos : Nat) : Bool := (p.runtime pos).identity.any (·.quietCapable)

/-- The states in which the line engine drives cycles, the head's port being closed (R124). -/
def LineState.isDriven : LineState → Bool
  | .building | .running | .partialLine => true
  | _ => false

/-- Whether the line engine drives cycles (R124). -/
def Part.driving (p : Part) : Bool := p.chain.line.isDriven && p.chain.headCut.isNone

/-! ### Zones and buildings -/

/-- A zone record (R41). -/
def Part.zone (p : Part) (z : Nat) : Zone := Tab.get p.arb.zones z Zone.reset

/-- A building record (R39). -/
def Part.building (p : Part) (b : Nat) : Building := Tab.get p.arb.buildings b Building.reset

/-- The owner node of a zone: the position below the roster length whose window selects it (R41). -/
def Part.owner (p : Part) (z : Nat) : Option Nat := p.positions.find? fun pos => (p.rosterAt pos).window.has z

/-- The building of a zone: the one whose range selects it (R39). -/
def Part.buildingOf (p : Part) (z : Nat) : Option Nat := (upTo 8).find? fun b => (p.building b).zones.has z

/-- The zones that a position owns, ascending (R41). -/
def Part.zonesOwned (p : Part) (pos : Nat) : List Nat :=
  if pos < p.chain.length then zonesOf (p.rosterAt pos).window else []

/-- Whether the building of a zone, if it has one, is CLEAR. -/
def Part.buildingClear (p : Part) (z : Nat) : Bool := (p.buildingOf z).all fun b => (p.building b).yield == .clear

/-- Whether a zone is able to sound (R44). -/
def Part.able (p : Part) (z : Nat) : Bool := (p.owner z).any (fun o => (p.node o).isActive) && p.buildingClear z

/-- Whether the owner of a zone is READY or SUSPECT (R59, R60). -/
def Part.served (p : Part) (z : Nat) : Bool := (p.owner z).any fun o => (p.node o).isServed

/-- Whether every claim on a zone is refused: no owner node, or a building that is YIELDED or HELD (R45, R51, R53). -/
def Part.closedZone (p : Part) (z : Nat) : Bool := (p.owner z).isNone || !p.buildingClear z

/-- Whether a zone holds a claim in any slot. -/
def Zone.hasClaim (z : Zone) : Bool := z.bell.isSome || z.ann.isSome || z.drill.isSome

/-- Whether a zone is clean (R60). -/
def Zone.isClean (z : Zone) : Bool := z.confirmed == some z.commanded

/-- Whether a node holds claims (R49). -/
def Part.holdsClaims (p : Part) (pos : Nat) : Bool := (p.zonesOwned pos).any fun z => (p.zone z).hasClaim

/-- The update class of a zone: urgent or output (R59). -/
def Part.urgent (p : Part) (z : Nat) : Bool :=
  (p.zone z).drill.any (fun d => d.state == .sounding) || !p.buildingClear z

/-! ### Announcements -/

/-- A record of the announcement table by its id. -/
def Part.announcement (p : Part) (id : Nat) : Option Announcement := p.ann.records.find? fun a => a.id == id

/-- CHIMING or LIVE. -/
def Announcement.started (a : Announcement) : Bool := a.stage == .chiming || a.stage == .live

/-- The record that an input serves (R64). -/
def Part.served? (p : Part) (i : PagingInput) : Option Announcement :=
  p.ann.records.find? fun a => a.input == i && a.stage != .queued

/-- The present output of a record (R69). -/
def Announcement.output (a : Announcement) : Output :=
  match a.stage, a.chime with
  | .chiming, some c => .pattern c
  | _, _ => .audio a.input.lane

/-- The order of a queue: rank, highest first, then arrival number, lowest first (R67). -/
def Announcement.before (a b : Announcement) : Bool := b.rank < a.rank || (a.rank == b.rank && a.arrival < b.arrival)

/-- The queue of an input, head first (R67). -/
def Part.queue (p : Part) (i : PagingInput) : List Announcement :=
  (p.ann.records.filter fun a => a.input == i && a.stage == .queued).foldl
    (fun l a => insertWhere (fun b => a.before b) a l) []

/-- The tap capacity of a position (R72). -/
def Part.tapCapacity (p : Part) (pos : Nat) : Nat :=
  match (p.runtime pos).identity with
  | some i => min i.tapCapable (p.rosterAt pos).tapAssigned
  | none => 0

/-- Whether an entry of some record is JOINED on a lane in a zone of a position, `except` left out (R72). -/
def Part.taps (p : Part) (pos lane : Nat) (except : Option (Nat × Nat)) : Bool :=
  p.ann.records.any fun a => a.input.lane == lane &&
    a.joins.any fun j => j.state == .joined && except != some (a.id, j.zone) && p.owner j.zone == some pos

/-- The lanes that a position taps (R72). -/
def Part.lanesTapped (p : Part) (pos : Nat) (except : Option (Nat × Nat)) : List Nat :=
  [1, 2].filter fun lane => p.taps pos lane except

/-- Whether a join of a lane is within the tap capacity of a position (R72). -/
def Part.withinCapacity (p : Part) (pos lane : Nat) (except : Option (Nat × Nat)) : Bool :=
  let lanes := p.lanesTapped pos except
  lanes.contains lane || lanes.length + 1 ≤ p.tapCapacity pos

/-- The counts of a join list (R80). -/
def Announcement.counts (a : Announcement) : JoinCounts :=
  let n := fun (st : JoinState) => (a.joins.filter fun j => j.state == st).length
  { selected := a.joins.length, ever := (a.joins.filter (·.ever)).length, joined := n .joined, waiting := n .waiting,
    lost := n .lost, refused := n .refused, withdrawn := (a.joins.filter fun j => j.state == .left && !j.ever).length }

/-! ### Drills -/

/-- Whether the drill timer is IDLE (R84). -/
def Part.idle (p : Part) : Bool := p.drill.run.isNone

/-- Whether a position is a scope node of a drill program: a position below the roster length whose building is in
scope (R86, R142). -/
def Part.inScope (p : Part) (scope : List Nat) (pos : Nat) : Bool :=
  pos < p.chain.length && (p.rosterAt pos).building.any scope.contains

/-- What a step of a cadence sounds (spec 03 section 3.3); `falling k` is the k-th of a row of falling tones. -/
inductive Tone where
  | tone | soft | high | middle | low | stroke | sweep | falling (k : Nat) | pause
  deriving DecidableEq, Repr

/-- The cadence of a pattern: its steps with their lengths in tenths (spec 03 section 3.3). -/
def cadence : Nat → List (Tone × Nat)
  | 0 => [(.tone, 10)]
  | 1 => [(.tone, 10), (.pause, 10)]
  | 2 => [(.high, 6), (.low, 8), (.pause, 6)]
  | 3 => [(.high, 5), (.middle, 5), (.low, 8), (.pause, 6)]
  | 4 => [(.stroke, 3), (.pause, 7)]
  | 5 => [(.stroke, 3), (.pause, 2), (.stroke, 3), (.pause, 12)]
  | 6 => [(.sweep, 30)]
  | 7 => [(.sweep, 4)]
  | 8 => [(.tone, 5), (.pause, 5), (.tone, 5), (.pause, 5), (.tone, 5), (.pause, 15)]
  | 9 => [(.low, 5), (.middle, 5), (.high, 5), (.pause, 5)]
  | 10 => [(.falling 1, 5), (.falling 2, 5), (.falling 3, 5), (.falling 4, 5), (.pause, 10)]
  | 11 => [(.high, 8), (.low, 8), (.pause, 4)]
  | 12 => (List.replicate 3 [(.stroke, 3), (.pause, 2)]).flatten ++ [(.pause, 10)]
  | 13 => (List.replicate 10 [(.stroke, 1), (.pause, 1)]).flatten
  | 14 => [(.soft, 10), (.pause, 10)]
  | 15 => [(.falling 1, 8), (.falling 2, 8), (.falling 3, 8), (.pause, 6)]
  | _ => []

/-- The pass length of a pattern, in tenths (R43). -/
def passLength (p : Nat) : Nat := ((cadence p).map Prod.snd).sum

/-- The step that stands a number of tenths into a pass. -/
def stepAt (t : Nat) : List (Tone × Nat) → Tone
  | [] => .pause
  | (x, n) :: l => if t < n then x else stepAt (t - n) l

/-- What a pattern sounds a number of tenths after its cadence began (R43). -/
def toneAt (p t : Nat) : Tone := stepAt (t % passLength p) (cadence p)

/-- The evacuation patterns (spec 03 section 3.3). -/
def isEvacuation (pattern : Nat) : Bool := pattern == 6 || pattern == 7 || pattern == 8

end Sys2Proof.Machine
end

