-- ==== Sys2Proof/Machine/LineQueue.lean ====
section
/-! DEFINITION. The classes of slot work: handing and withdrawing commands (R130). -/

namespace Sys2Proof.Machine

/-- The four classes (R130). -/
inductive SlotClass where
  | urgent | output | clock | service
  deriving DecidableEq, Repr

/-- The class of a handed command (R130). -/
def LineCommand.slotClass : LineCommand → SlotClass
  | .probe _ => .urgent
  | .zoneOutput .. | .display _ | .power _ => .output
  | .impulse .. => .clock
  | _ => .service

/-- The queue of a class. -/
def LineEngine.queueOf (l : LineEngine) : SlotClass → List Handed
  | .urgent => l.urgent
  | .output => l.output
  | .clock => l.clock
  | .service => l.service

/-- The line engine with the queue of a class replaced. -/
def LineEngine.withQueue (l : LineEngine) (c : SlotClass) (q : List Handed) : LineEngine :=
  match c with
  | .urgent => { l with urgent := q }
  | .output => { l with output := q }
  | .clock => { l with clock := q }
  | .service => { l with service := q }

/-- The block a command came from: the arbiter, the clock driver, the drill timer, the chain builder. -/
def Sender.block : Sender → Nat
  | .zones => 0
  | .display | .circuit _ => 1
  | .probe => 2
  | .power | .step _ => 3

/-- The number by which commands handed by one block at one moment are ordered: the circuit of an IMPULSE, and the target
position of every other command (R130). -/
def Handed.rank (h : Handed) : Nat :=
  match h.sender with
  | .circuit c => c
  | _ => h.target.getD 24

/-- Whether a command handed now enters the queue before one that waits: both of one block and one moment, which is one
unit of 20 ms (R130; log entry 70). -/
def Handed.goesBefore (x h : Handed) : Bool :=
  x.handedAt == h.handedAt && x.sender.block == h.sender.block && x.rank < h.rank

/-- A queue with a command handed to it (R130). -/
def inOrder (x : Handed) (q : List Handed) : List Handed := insertWhere x.goesBefore x q

/-- A block hands a command to its class (R130). -/
def Part.hand (p : Part) (c : LineCommand) (target : Option Nat) (sender : Sender) : Part :=
  let k := c.slotClass
  { p with line := p.line.withQueue k (inOrder ⟨c, target, p.now, sender⟩ (p.line.queueOf k)) }

/-- A block withdraws the commands of a class that `which` selects, before they are chosen (R130). -/
def Part.withdraw (p : Part) (k : SlotClass) (which : Handed → Bool) : Part :=
  { p with line := p.line.withQueue k ((p.line.queueOf k).filter fun h => !which h) }

/-- Whether a command that `which` selects waits in a class. -/
def Part.waits (p : Part) (k : SlotClass) (which : Handed → Bool) : Bool := (p.line.queueOf k).any which

/-- A POWER command for a position. -/
def isPowerFor (pos : Nat) (quiet : Bool) (h : Handed) : Bool := h.command == .power quiet && h.target == some pos

/-- Whether a POWER command for a position is in flight. -/
def Part.powerInFlight (p : Part) (pos : Nat) (quiet : Bool) : Bool :=
  p.line.flight.any fun f => f.command == .power quiet && f.target == some pos

/-- The runtime record of a position changed. -/
def Part.modRuntime (p : Part) (pos : Nat) (f : Runtime → Runtime) : Part :=
  { p with chain := { p.chain with runtime := Tab.modify p.chain.runtime pos f } }

/-- What the line engine keeps for a position changed. -/
def Part.modLink (p : Part) (pos : Nat) (f : Link → Link) : Part :=
  { p with line := { p.line with links := Tab.modify p.line.links pos f } }

end Sys2Proof.Machine
end

