-- ==== Sys2Proof/Machine/Power.lean ====
section
/-! DEFINITION. Node power: wakes, going quiet, the quiet window (R157). -/

namespace Sys2Proof.Machine

/-- A wake for a position (R157). For a POWER QUIET that is handed it withdraws the command, or is taken at its
confirmation; a node in QUIET is handed POWER ACTIVE and is WAKING at once; any other node is left as it is. -/
def Part.wake (p : Part) (pos : Nat) : Part :=
  if (p.node pos).isReady then
    let p := if p.waits .output (isPowerFor pos true) then
        (p.withdraw .output (isPowerFor pos true)).modRuntime pos fun r => { r with wakeAfter := false }
      else p
    let p := if p.powerInFlight pos true then p.modRuntime pos fun r => { r with wakeAfter := true } else p
    if p.node pos == .ready .quiet then
      (p.hand (.power false) (some pos) .power).modRuntime pos fun r => { r with node := .ready .waking, wakeFrom := none }
    else p
  else p

/-- POWER QUIET for a position (R157), unless one waits or is in flight (log entry 81). -/
def Part.sendQuiet (p : Part) (pos : Nat) : Part :=
  if p.waits .output (isPowerFor pos true) || p.powerInFlight pos true then p
  else p.hand (.power true) (some pos) .power

/-- A node that is READY, ACTIVE, quiet capable and free of claims (R157). -/
def Part.mayQuiet (p : Part) (pos : Nat) : Bool :=
  (p.node pos).isActive && p.quietCapable pos && !p.holdsClaims pos

/-- POWER QUIET for a position that may be quiet, while the quiet state is INSIDE (R157). -/
def Part.quietIfInside (p : Part) (pos : Nat) : Part :=
  if p.cal.inside && p.mayQuiet pos then p.sendQuiet pos else p

/-- The chain builder takes *quiet begins* (R157). -/
def Part.quietBegins (p : Part) : Part :=
  p.each (upTo 24) fun p pos =>
    if p.mayQuiet pos then p.sendQuiet pos
    else if p.node pos == .ready .waking then p.modRuntime pos fun r => { r with quietAfter := true }
    else p

/-- The chain builder takes *quiet ends*: each READY node in QUIET is woken, and so is one whose POWER QUIET is
handed (R157; log entry 32). -/
def Part.quietEnds (p : Part) : Part := p.each (upTo 24) Part.wake

/-- A WAKING node has become ACTIVE: it is put to quiet if quiet began meanwhile and still holds (R157). -/
def Part.quietAfterWaking (p : Part) (pos : Nat) : Part :=
  let wanted := (p.runtime pos).quietAfter
  let busy := p.drill.run.any fun r => p.inScope r.fields.scope pos
  let p := p.modRuntime pos fun r => { r with quietAfter := false }
  if wanted && !busy then p.quietIfInside pos else p

/-- The power state that a record's report stands for (R157). -/
def ReportedPower.state : ReportedPower → PowerState
  | .active => .active
  | .quiet => .quiet
  | .warming => .waking

/-- A node that has become READY is brought to the power it should have (R157; log entry 31 for a WARMING node). -/
def Part.bringToPower (p : Part) (pos : Nat) : Part :=
  let quiet := p.quietCapable pos && p.cal.inside && !p.holdsClaims pos
  match p.node pos with
  | .ready .quiet => if quiet then p else p.wake pos
  | .ready .active => if quiet then p.sendQuiet pos else p
  | .ready .waking => p.modRuntime pos fun r => { r with wakeFrom := some p.now, quietAfter := quiet }
  | _ => p

/-- The drill has returned to IDLE: its scope nodes may go quiet (R157). -/
def Part.quietAfterDrill (p : Part) (scope : List Nat) : Part :=
  p.each (p.positions.filter (p.inScope scope)) Part.quietIfInside

/-- *Claims clear* (R49, R157): the owner node of a zone, which held claims before, holds none any more. -/
def Part.claimsClear (before p : Part) (z : Nat) : Part :=
  match p.owner z with
  | some pos => if before.holdsClaims pos && !p.holdsClaims pos then p.quietIfInside pos else p
  | none => p

end Sys2Proof.Machine
end

