-- ==== Sys2Proof/Machine/Arbiter.lean ====
section
/-! DEFINITION. The sounding arbiter, zone by zone: the sounding rule and what becomes of claims (R44 to R48, R59). -/

namespace Sys2Proof.Machine

/-- Which claim a zone sounds (R44). -/
inductive Selected where
  | none | bell | ann | drill
  deriving DecidableEq, Repr

/-- The claim the sounding rule selects: the highest that is unmasked and not stale, in a zone able to sound (R44). -/
def Zone.select (able : Bool) (now : Nat) (z : Zone) : Selected :=
  if !able then .none
  else if z.drill.isSome then .drill
  else if z.ann.isSome && !z.annMask then .ann
  else if z.bell.any (fun b => b.state == .sounding || now ≤ b.latest) && !z.bellMask then .bell
  else .none

/-- The BELL slot after a selection: a claim selected sounds (an AUTO claim takes its end time), one that was sounding
is cut by a higher claim (R46), and otherwise returns to PENDING (R47) or ends DISABLED (R54). -/
def Zone.bellAfter (z : Zone) (sel : Selected) (now : Nat) : Option BellClaim :=
  match z.bell with
  | .none => .none
  | some b =>
    match b.state, sel with
    | .sounding, .bell => some b
    | .pending, .bell =>
      some { b with state := .sounding, sounded := true,
                    endTime := if b.duration = 0 then none else some (now + b.duration * unitsPerTenth) }
    | .sounding, .none => if z.bellOn then some { b with state := .pending, endTime := none } else none
    | .sounding, _ => none
    | .pending, _ => some b

/-- The ANNOUNCE slot after a selection (R46, R47, R54). -/
def Zone.annAfter (z : Zone) (sel : Selected) : Option AnnounceClaim :=
  match z.ann with
  | .none => .none
  | some a =>
    match a.state, sel with
    | _, .ann => some { a with state := .sounding }
    | .sounding, .drill => none
    | .sounding, _ => if z.annOn then some { a with state := .pending } else none
    | .pending, _ => some a

/-- The DRILL slot after a selection (R47). -/
def Zone.drillAfter (z : Zone) (sel : Selected) : Option DrillClaim :=
  z.drill.map fun d => { d with state := if sel = .drill then .sounding else .pending }

/-- The output of the claim a zone sounds, or SILENT (R59). -/
def Zone.outputOf (z : Zone) : Output :=
  match z.drill, z.ann, z.bell with
  | some ⟨.sounding, p, _⟩, _, _ => .pattern p
  | _, some ⟨.sounding, o, _⟩, _ => o
  | _, _, some b => if b.state = .sounding then .pattern b.pattern else .silent
  | _, _, none => .silent

/-- A zone takes a commanded output: a change while its owner is READY or SUSPECT makes it dirty (R59). -/
def Zone.command (served : Bool) (now : Nat) (o : Output) (z : Zone) : Zone :=
  if o = z.commanded then z
  else if served then { z with commanded := o, dirty := true, dirtySince := if z.dirty then z.dirtySince else now }
  else { z with commanded := o }

/-- A zone is re-evaluated (R44). -/
def Zone.evaluate (able served : Bool) (now : Nat) (z : Zone) : Zone :=
  let sel := z.select able now
  let z := { z with bell := z.bellAfter sel now, ann := z.annAfter sel, drill := z.drillAfter sel }
  z.command served now z.outputOf

/-- A zone is made dirty (R59). Its age (R130) is that of its dirty flag: a zone whose flag has been cleared with its owner's
leaving (R60) has a new age when it is made dirty again (log entry 87). -/
def Zone.makeDirty (now : Nat) (z : Zone) : Zone :=
  { z with dirty := true, dirtySince := if z.dirty then z.dirtySince else now }

/-- A zone's record changed, and nothing else. -/
def Part.modZone (p : Part) (z : Nat) (f : Zone → Zone) : Part :=
  { p with arb := { p.arb with zones := Tab.modify p.arb.zones z f } }

/-- A building's record changed. -/
def Part.modBuilding (p : Part) (b : Nat) (f : Building → Building) : Part :=
  { p with arb := { p.arb with buildings := Tab.modify p.arb.buildings b f } }

/-- A change of a zone's claims and its re-evaluation, as one (R44). -/
def Part.changeZone (p : Part) (z : Nat) (f : Zone → Zone) : Part :=
  p.modZone z fun zone => (f zone).evaluate (p.able z) (p.served z) p.now

/-- A claim is held in a zone: a wake of its owner node if that is READY with power state QUIET (R49). -/
def Part.wakeFor (p : Part) (z : Nat) : Part :=
  match p.owner z with
  | some pos => if p.node pos == .ready .quiet then p.wake pos else p
  | none => p

/-- The answers to a posting (R44). -/
inductive Posting where
  | sounding | pending | refused
  deriving DecidableEq, Repr

/-- A BELL claim is posted into a zone (R45). -/
def Part.postBell (p : Part) (z : Nat) (c : BellClaim) : Part × Posting :=
  if !(p.zone z).bellOn || p.closedZone z then (p, .refused)
  else
    let p := (p.changeZone z fun zone => { zone with bell := some c }).wakeFor z
    (p, if (p.zone z).bell.any (fun b => b.state == .sounding) then .sounding else .pending)

/-- A BELL claim that BELL_SILENCE or its end time takes (R36, R47). -/
def Part.endBell (p : Part) (z : Nat) : Part := p.claimsClear (p.changeZone z fun zone => { zone with bell := none }) z

/-- The numbers of claims of a posting that end STALE and INTERRUPTED at its latest start (R48). -/
structure Dropped where
  stale : Nat
  interrupted : Nat
  deriving DecidableEq, Repr

/-- Whether a BELL claim of a posting is PENDING in a zone. -/
def Zone.awaits (z : Zone) (posting : Nat) : Bool := z.bell.any fun b => b.posting == posting && b.state == .pending

/-- The PENDING claims of a posting whose latest start has come end STALE or INTERRUPTED (R48). -/
def Part.dropPosting (p : Part) (posting : Nat) : Part × Dropped :=
  let zs := (upTo 64).filter fun z => (p.zone z).awaits posting
  let heard := zs.filter fun z => (p.zone z).bell.any (·.sounded)
  (p.each zs Part.endBell, ⟨zs.length - heard.length, heard.length⟩)

/-- The zones that an owner node brings into service or out of it: dirty as it enters READY (R59), unknown and not
dirty in any state but READY and SUSPECT (R60). -/
def Part.zoneOfNode (p : Part) (entersReady served : Bool) (z : Nat) : Part :=
  p.modZone z fun zone =>
    let zone := if served then zone else { zone with confirmed := none, dirty := false }
    if entersReady then zone.makeDirty p.now else zone

end Sys2Proof.Machine
end

