-- ==== Sys2Proof/Machine/Announce.lean ====
section
/-! DEFINITION. The ANNOUNCE slot and the announcement manager: requests, offers, displacement, ending (R50 to R52,
R54, R61, R64 to R81). A start that another start or event frees is made when that is whole (R67; log entry 16). -/

namespace Sys2Proof.Machine

/-! ### Records -/

/-- The record with an id changed. -/
def Part.modAnn (p : Part) (id : Nat) (f : Announcement → Announcement) : Part :=
  { p with ann := { p.ann with records := p.ann.records.map fun a => if a.id == id then f a else a } }

/-- A join entry takes a join state; JOINED sets its joined-ever flag (R70). -/
def Announcement.setJoin (a : Announcement) (z : Nat) (st : JoinState) : Announcement :=
  { a with joins := a.joins.map fun j => if j.zone == z then { j with state := st, ever := j.ever || st == .joined } else j }

/-- An ANNOUNCE_STATE notice of a record as it stands (R80). -/
def Part.noteAnn (p : Part) (id : Nat) (e : AnnounceEvent) : Part :=
  match p.announcement id with
  | some a => p.note (.announceState id a.input a.rank e (some a.stage) a.counts)
  | none => p

/-- A record leaves the table with its REMOVED notice (R76, R77, R79), whose state is then none (log entry 10). -/
def Part.removeAnn (p : Part) (id : Nat) (cause : EndCause) : Part :=
  match p.announcement id with
  | some a =>
    { p with ann := { p.ann with records := p.ann.records.filter fun b => b.id != id } }.note
      (.announceState id a.input a.rank (.removed cause) none a.counts)
  | none => p

/-! ### The ANNOUNCE slot -/

/-- The place of an announcement in an offer list: rank, highest first, then start, earliest first (R50). -/
def Offer.precedes (a b : Offer) : Bool := b.rank < a.rank || (a.rank == b.rank && a.start < b.start)

/-- A zone's offer list takes an entry (R50). -/
def Part.enlist (p : Part) (id z : Nat) : Part :=
  match p.announcement id with
  | some a =>
    let o : Offer := ⟨id, a.rank, a.start.getD p.now⟩
    (p.modZone z fun zone => { zone with offers := insertWhere (fun b => o.precedes b) o zone.offers }).modAnn id
      fun r => r.setJoin z .waiting
  | none => p

/-- The slot of a zone is granted to an announcement: its claim is placed, the zone re-evaluated (R51). -/
def Part.grant (p : Part) (id z : Nat) : Part :=
  match p.announcement id with
  | some a =>
    let p := p.changeZone z fun zone =>
      { zone with ann := some ⟨.pending, a.output, id⟩, offers := zone.offers.filter fun o => o.id != id }
    (p.modAnn id fun r => r.setJoin z .joined).wakeFor z
  | none => p

/-- The lane of a record. -/
def Part.laneOf (p : Part) (id : Nat) : Nat := ((p.announcement id).map fun a => a.input.lane).getD 0

/-- Whether a record's join of a zone is within the tap capacity of the zone's owner (R72). -/
def Part.mayJoin (p : Part) (id z : Nat) (except : Option (Nat × Nat)) : Bool :=
  (p.owner z).any fun pos => p.withinCapacity pos (p.laneOf id) except

/-- A free slot is offered: the first entry of the offer list that is within capacity takes it (R52). -/
def Part.offerZone (p : Part) (z : Nat) : Part :=
  if (p.zone z).ann.isSome || !p.buildingClear z then p
  else
    match (p.zone z).offers.find? fun o => p.mayJoin o.id z none with
    | some o => p.grant o.id z
    | none => p

/-- The free slots of a node's zones are offered, in ascending zone number (R52). -/
def Part.offerNode (p : Part) (pos : Nat) : Part :=
  p.each (p.zonesOwned pos) fun p z => if (p.zone z).offers.isEmpty then p else p.offerZone z

/-- A join entry changes its state, and a fall of the owner's lanes tapped is reported and offered (R70, R73). -/
def Part.changeJoin (p : Part) (id z : Nat) (st : JoinState) : Part :=
  match p.owner z with
  | none => p.modAnn id fun a => a.setJoin z st
  | some pos =>
    let q := p.modAnn id fun a => a.setJoin z st
    if (q.lanesTapped pos none).length < (p.lanesTapped pos none).length then q.offerNode pos else q

/-! ### Ending -/

/-- Whether a zone given back is settled: clean, or its owner neither READY nor SUSPECT (R76). -/
def Part.settledZone (p : Part) (z : Nat) : Bool := (p.zone z).isClean || !p.served z

/-- The unsettled entries of a record are tested (R76). -/
def Part.settleEntries (p : Part) (id : Nat) : Part :=
  p.modAnn id fun a =>
    { a with joins := a.joins.map fun j => if j.state == .left then { j with settled := j.settled || p.settledZone j.zone } else j }

/-- An ENDING record whose LEFT entries are all settled is removed (R76). -/
def Part.removeIfSettled (p : Part) (id : Nat) : Part :=
  match p.announcement id with
  | some a =>
    if a.stage == .ending && a.joins.all (fun j => j.state != .left || j.settled) then p.removeAnn id (a.cause.getD .ended)
    else p
  | none => p

/-- The claim of a JOINED zone ends RELEASED and the freed slot is offered (R52). -/
def Part.releaseSlot (p : Part) (z : Nat) : Part :=
  p.claimsClear ((p.changeZone z fun zone => { zone with ann := none }).offerZone z) z

/-- A JOINED entry is given back: released, LEFT, and tested at its release (R75, R76). -/
def Part.giveBack (p : Part) (id z : Nat) : Part :=
  let q := p.changeZone z fun zone => { zone with ann := none }
  let settled := q.settledZone z
  let q := q.offerZone z
  let q := q.modAnn id fun a =>
    { a with joins := a.joins.map fun j => if j.zone == z then { j with settled := settled } else j }
  p.claimsClear (q.changeJoin id z .left) z

/-- A WAITING entry is withdrawn: out of the offer list, LEFT and settled at once (R75). -/
def Part.withdrawEntry (p : Part) (id z : Nat) : Part :=
  (p.modZone z fun zone => { zone with offers := zone.offers.filter fun o => o.id != id }).modAnn id fun a =>
    { a with joins := a.joins.map fun j => if j.zone == z then { j with state := .left, settled := true } else j }

/-- A record in CHIMING or LIVE enters ENDING (R75), and is removed at once if nothing is left to settle (R76). -/
def Part.enterEnding (p : Part) (id : Nat) (cause : EndCause) : Part :=
  match p.announcement id with
  | none => p
  | some a =>
    let p := p.modAnn id fun r => { r with stage := .ending, cause := some cause, chimeEnd := none, limitTime := none }
    let waiting := (a.joins.filter fun j => j.state == .waiting).map (·.zone)
    let joined := (a.joins.filter fun j => j.state == .joined).map (·.zone)
    let p := p.each waiting fun p z => p.withdrawEntry id z
    let p := p.each joined fun p z => p.giveBack id z
    let p := p.settleEntries id
    (p.noteAnn id (.ending cause)).removeIfSettled id

/-- A record in CHIMING or LIVE that holds no JOINED and no WAITING entry is displaced (R74). -/
def Part.testDisplaced (p : Part) (id : Nat) : Part :=
  match p.announcement id with
  | some a =>
    if a.started && a.joins.all (fun j => j.state != .joined && j.state != .waiting) then p.enterEnding id .displaced else p
  | none => p

/-- An entry of a join list becomes LOST or REFUSED, and the record is tested for displacement (R70, R74). -/
def Part.loseJoin (p : Part) (id z : Nat) (st : JoinState) : Part := (p.changeJoin id z st).testDisplaced id

/-- A zone's confirmation or the state of its owner has changed: the unsettled entries of the zone are tested (R76). Records
that it leaves with nothing to settle are removed in the order of the table (log entry 68). -/
def Part.settleZones (p : Part) (zs : List Nat) : Part :=
  let ids := (p.ann.records.filter fun a => a.stage == .ending && a.joins.any fun j => zs.contains j.zone).map (·.id)
  p.each ids fun p id => (p.settleEntries id).removeIfSettled id

/-! ### Events of a zone that reach announcements -/

/-- A zone is re-evaluated after `f`; an ANNOUNCE claim that ends with it is recorded LOST (R46, R54, R70). -/
def Part.reviseZone (p : Part) (z : Nat) (f : Zone → Zone) : Part :=
  let q := p.changeZone z f
  p.claimsClear (match (p.zone z).ann, (q.zone z).ann with
    | some a, none => q.loseJoin a.id z .lost
    | _, _ => q) z

/-- A zone is re-evaluated (R44). -/
def Part.reviewZone (p : Part) (z : Nat) : Part := p.reviseZone z id

/-- Every entry of a list of offers that has been taken from a zone records the zone as `st` (R46, R54, R56, R61). -/
def Part.loseOffers (p : Part) (z : Nat) (os : List Offer) (st : JoinState) : Part :=
  p.each os fun p o => p.loseJoin o.id z st

/-- The announcement of a claim that has ended in a zone, if there was one, records the zone LOST (R42, R70). -/
def Part.loseHeld (p : Part) (z : Nat) (held : Option AnnounceClaim) : Part :=
  match held with
  | some a => p.loseJoin a.id z .lost
  | none => p

/-- The offer list of a zone is emptied, each announcement in it recording the zone REFUSED (R54). -/
def Part.emptyOffers (p : Part) (z : Nat) : Part :=
  (p.modZone z fun zone => { zone with offers := [] }).loseOffers z (p.zone z).offers .refused

/-- A DRILL claim is posted into a zone: refused, or placed over every announcement of the zone, which is not offered
the slot again (R46, R52, R53). The flag says that the claim was held. -/
def Part.postDrill (p : Part) (z pattern program : Nat) : Part × Bool :=
  if p.closedZone z then (p, false)
  else
    let zone := p.zone z
    let q := p.changeZone z fun x => { x with ann := none, drill := some ⟨.pending, pattern, program⟩, offers := [] }
    (((q.wakeFor z).loseHeld z zone.ann).loseOffers z zone.offers .lost, true)

/-- A DRILL claim takes a new pattern (R53). -/
def Part.changeDrill (p : Part) (z pattern : Nat) : Part :=
  p.reviseZone z fun zone => { zone with drill := zone.drill.map fun d => { d with pattern := pattern } }

/-- A DRILL claim is released (R53). -/
def Part.releaseDrill (p : Part) (z : Nat) : Part := p.reviseZone z fun zone => { zone with drill := none }

/-- The zones whose DRILL slot is held, ascending. -/
def Part.drillZones (p : Part) : List Nat := (upTo 64).filter fun z => (p.zone z).drill.isSome

/-- Every claim of a zone ends at once (YIELDED, UNOWNED); a JOINED entry records the zone LOST and every entry of the
offer list REFUSED (R56, R61, R70). -/
def Part.endClaims (p : Part) (z : Nat) : Part :=
  let zone := p.zone z
  let q := p.changeZone z fun x => { x with bell := none, ann := none, drill := none, offers := [] }
  p.claimsClear ((q.loseHeld z zone.ann).loseOffers z zone.offers .refused) z

/-! ### Requests and starts -/

/-- A started record requests the ANNOUNCE slot of a zone (R51, R69). -/
def Part.requestSlot (p : Part) (id z : Nat) : Part :=
  let p := p.modAnn id fun a => { a with joins := a.joins ++ [⟨z, .refused, false, false⟩] }
  let zone := p.zone z
  if zone.kind == .sounder || !zone.annOn || p.closedZone z then p
  else
    match zone.ann with
    | none => if p.mayJoin id z none then p.grant id z else p.enlist id z
    | some holder =>
      let rank := ((p.announcement id).map (·.rank)).getD 0
      let held := ((p.announcement holder.id).map (·.rank)).getD 0
      if held < rank && p.mayJoin id z (some (holder.id, z)) then
        (p.grant id z).loseJoin holder.id z .lost
      else p.enlist id z

/-- The next id: the first after the last id, cyclically through 1 to 255, that no record holds (R65). -/
def Announcer.nextId (a : Announcer) : Nat :=
  (((upTo 255).map fun k => (a.lastId + k) % 255 + 1).find? fun n => a.records.all fun r => r.id != n).getD 1

/-- A record as it starts (R69, R71, R75): CHIMING or LIVE, with its chime end and its limit time. -/
def Part.startRecord (p : Part) (r : Announcement) : Announcement :=
  { r with stage := if r.chime.isSome then .chiming else .live, start := some p.now,
           chimeEnd := r.chime.map fun c => p.inTenths (passLength c), limitTime := some (p.inSeconds r.limit), joins := [] }

/-- A record starts (R69): every zone of its specification is examined in order, then the test of R74 is made. -/
def Part.startAnn (p : Part) (id : Nat) : Part :=
  match p.announcement id with
  | none => p
  | some a =>
    let q := (p.modAnn id p.startRecord).each (selected 64 a.spec) fun p z => p.requestSlot id z
    (q.noteAnn id (.started q.now)).testDisplaced id

/-- The heads of the queues of free inputs start, one after another, at most `fuel` of them (R67); with both inputs free
P1's head starts first (log entry 16). -/
def Part.startQueued : Nat → Part → Part
  | 0, p => p
  | fuel + 1, p =>
    let ready := fun (i : PagingInput) => if (p.served? i).isNone then (p.queue i).head? else none
    match ready .p1, ready .p2 with
    | some a, _ => Part.startQueued fuel (p.startAnn a.id)
    | none, some a => Part.startQueued fuel (p.startAnn a.id)
    | none, none => p

/-- Every input that an event has freed starts the head of its queue (R67); each record starts at most once. -/
def Part.startFree (p : Part) : Part := p.startQueued p.ann.records.length

/-- The end of every step of the blocks: the announcements that can start (R67). -/
def Part.settle (p : Part) : Part := p.startFree

/-! ### Capacity -/

/-- The lane that capacity enforcement takes from a position: of the lanes tapped, the one whose serving record has the
lower rank, or at equal rank the later start (R73), or at equal starts lane 2 (log entry 67). -/
def Part.losingLane (p : Part) (pos : Nat) : Option PagingInput :=
  match p.lanesTapped pos none with
  | [1] => some .p1
  | [2] => some .p2
  | _ :: _ =>
    match p.served? .p1, p.served? .p2 with
    | some a, some b =>
      some (if a.rank < b.rank then .p1 else if b.rank < a.rank then .p2
            else if b.start.getD 0 < a.start.getD 0 then .p1 else .p2)
    | _, _ => some .p1
  | [] => none

/-- The JOINED zones of a position on a lane are released in ascending order, each recorded LOST (R73). -/
def Part.releaseLane (p : Part) (pos : Nat) (i : PagingInput) : Part :=
  p.each (p.zonesOwned pos) fun p z =>
    match p.ann.records.find? fun a => a.input == i && a.joins.any fun j => j.zone == z && j.state == .joined with
    | some a => (p.releaseSlot z).loseJoin a.id z .lost
    | none => p

/-- A position that taps more lanes than its capacity loses one of them (R73). -/
def Part.enforceOnce (p : Part) (pos : Nat) : Part :=
  if (p.lanesTapped pos none).length ≤ p.tapCapacity pos then p
  else match p.losingLane pos with
    | some i => p.releaseLane pos i
    | none => p

/-- Capacity is enforced at a position: at most two lanes can be lost (R73). -/
def Part.enforceCapacity (p : Part) (pos : Nat) : Part := (p.enforceOnce pos).enforceOnce pos

/-- The tap capacity of a position has changed from `old`: a rise is offered, a fall enforced (R73). -/
def Part.capacityChanged (p : Part) (pos old : Nat) : Part :=
  if old < p.tapCapacity pos then p.offerNode pos else p.enforceCapacity pos

/-- STORE_LOAD ends every claim CLEARED, empties every offer list and removes every record in order of id (R61, R79). -/
def Part.clearClaims (p : Part) : Part :=
  let ids := (p.ann.records.map (·.id)).foldl (fun l n => insertWhere (fun m => n < m) n l) []
  let p := p.each ids fun p id => p.removeAnn id .cancelled
  p.each (upTo 64) fun p z =>
    p.claimsClear (p.changeZone z fun zone => { zone with bell := none, ann := none, drill := none, offers := [] }) z

/-! ### Requests and timed events (R66, R71, R75, R77, R81) -/

/-- Whether the operands of ANNOUNCE_START lie in their ranges (R66). -/
def announceAllowed (input : Option PagingInput) (rank : Nat) (spec : List Range) (chime : Option Nat) (limit : Nat) : Bool :=
  input.isSome && rank ≤ 3 && !spec.isEmpty && spec.length ≤ 4 && spec.all (fun r => r.first ≤ 63 && r.last ≤ 63) &&
  !spec.all Range.isEmpty && chime.all (fun c => c ≤ 15 && !isEvacuation c) && (limit == 0 || (5 ≤ limit && limit ≤ 600))

/-- The place of a record in its input's queue, counted from 1; 0 for one that is not QUEUED (R66, R81). -/
def Part.placeOf (p : Part) (a : Announcement) : Nat :=
  if a.stage == .queued then ((p.queue a.input).findIdx fun b => b.id == a.id) + 1 else 0

/-- ANNOUNCE_START (R66): a stage of `none` in the reply is the mark REMOVED, the record having been displaced. -/
def Part.announceStart (input : Option PagingInput) (rank : Nat) (spec : List Range) (chime : Option Nat) (limit : Nat)
    (_saving : Bool) (p : Part) : Part × Answer :=
  checked [(!announceAllowed input rank spec chime limit, .badValue), (8 ≤ p.ann.records.length, .full)] p
    fun p =>
      let id := p.ann.nextId
      let a : Announcement :=
        { id := id, input := input.getD .p1, rank := rank, spec := spec, chime := chime,
          limit := if limit = 0 then 120 else limit, stage := .queued, arrival := p.ann.arrivals + 1, start := none,
          chimeEnd := none, limitTime := none, cause := none, joins := [] }
      let p := { p with ann := ⟨p.ann.records ++ [a], id, p.ann.arrivals + 1⟩ }.startFree
      match p.announcement id with
      | some r => (p, okWith (.announceStarted id (some r.stage) (p.placeOf r)))
      | none => (p, okWith (.announceStarted id none 0))

/-- The stage of a record, `none` once it has left the table. -/
def Part.stageOf (p : Part) (id : Nat) : Option AnnounceStage := (p.announcement id).map (·.stage)

/-- ANNOUNCE_END (R75). The reply's state is that of the record, none once it has left the table (log entry 10). -/
def Part.announceEnd (id : Nat) (_saving : Bool) (p : Part) : Part × Answer :=
  checked [((p.stageOf id).isNone, .notFound), (p.stageOf id == some .ending, .wrongState)] p
    fun p =>
      let q := if p.stageOf id == some .queued then p.removeAnn id .cancelled else p.enterEnding id .ended
      (q, okWith (.announceStage (q.stageOf id)))

/-- ANNOUNCE_CANCEL (R77): a QUEUED record is removed; one in CHIMING or LIVE is ended as ANNOUNCE_END ends it. -/
def Part.announceCancel (id : Nat) (saving : Bool) (p : Part) : Part × Answer :=
  if p.stageOf id == some .queued then (p.removeAnn id .cancelled, okOnly) else p.announceEnd id saving

/-- The records of the table in order of id. -/
def Part.byId (p : Part) : List Announcement :=
  p.ann.records.foldl (fun l a => insertWhere (fun b => a.id < b.id) a l) []

/-- ANNOUNCE_LIST (R81). -/
def Part.announceList (p : Part) : Answer :=
  let records := p.byId.map fun a => (⟨a.id, a.input, a.rank, a.stage, p.placeOf a, a.counts⟩ : AnnounceSummary)
  let taps := (upTo 24).map fun pos => (p.tapCapacity pos, p.taps pos 1 none, p.taps pos 2 none)
  okWith (.announceList records ((p.served? .p1).map (·.id)) ((p.served? .p2).map (·.id)) taps)

/-- ANNOUNCE_READ (R81). -/
def Part.announceRead (id i : Nat) (p : Part) : Answer :=
  checkedRead [(63 < i, .badValue)] <|
    match p.announcement id with
    | some a =>
      okWith (.announcement a (a.chimeEnd.map p.leftUntil) (a.limitTime.map p.leftUntil) a.joins.length
        ((a.joins.drop i).take 32))
    | none => ⟨.notFound, .none⟩

/-- The chime end of a record: LIVE, its JOINED zones taking AUDIO in ascending order (R71). -/
def Part.chimeEnd (id : Nat) (p : Part) : Part :=
  match p.announcement id with
  | some a =>
    if a.stage == .chiming && a.chimeEnd.any (· ≤ p.now) then
      let p := p.modAnn id fun r => { r with stage := .live, chimeEnd := none }
      let joined := (a.joins.filter fun j => j.state == .joined).map (·.zone)
      (p.each joined fun p z => p.reviseZone z fun zone =>
        { zone with ann := zone.ann.map fun c => { c with output := .audio a.input.lane } }).noteAnn id .live
    else p
  | none => p

/-- The limit time of a record (R75). -/
def Part.limitTime (id : Nat) (p : Part) : Part :=
  match p.announcement id with
  | some a => if a.started && a.limitTime.any (· ≤ p.now) then p.enterEnding id .limit else p
  | none => p

end Sys2Proof.Machine
end

