-- ==== Sys2Proof/Machine/Port.lean ====
section
/-! DEFINITION. The control port: the notice queue, the reply list, the transmitter, the long-operation slot, and how a
request is taken (R161 to R167). -/

namespace Sys2Proof.Machine

/-- The kind of a notice (R165). -/
def Notice.kind : Notice → NoticeKind
  | .started .. => .started
  | .timeEvent .. => .timeEvent
  | .bellFired .. => .bellFired
  | .bellsMissedJump .. | .bellsMissedStale .. | .bellsMissedLimit .. => .bellsMissed
  | .announceState .. => .announceState
  | .drillPhase .. | .scheduleRefused .. | .scheduleMissed .. => .drillPhase
  | .drillOverdue .. => .drillOverdue
  | .drillResult .. => .drillResult
  | .clockState .. | .clockRestored .. => .clockState
  | .nodeState .. | .setupFault .. => .nodeState
  | .lineFault .. => .lineFault
  | .yieldState .. => .yieldState
  | .counterLevel .. => .counterLevel
  | .opDone .. => .opDone

/-- The place of a notice kind among the enables, in the order of the notice codes (R181). -/
def NoticeKind.place : NoticeKind → Nat
  | .started => 0 | .timeEvent => 1 | .bellFired => 2 | .bellsMissed => 3 | .announceState => 4 | .drillPhase => 5
  | .drillOverdue => 6 | .drillResult => 7 | .clockState => 8 | .nodeState => 9 | .lineFault => 10 | .yieldState => 11
  | .counterLevel => 12 | .opDone => 13

/-- The capacities of the port (R162, R163, R165). -/
def noticeLimit : Nat := 32
def replyLimit : Nat := 4
def bufferLimit : Nat := 2

/-- Whether a notice kind's enable is on (R165). -/
def Port.enabled (p : Port) (k : NoticeKind) : Bool := Tab.get p.enables k.place true

/-- A block creates a notice: queued, dropped for want of room, or not queued because its enable is off (R165). -/
def Port.offer (p : Port) (n : Notice) : Port :=
  if p.enabled n.kind then
    if p.notices.length < noticeLimit then { p with notices := p.notices ++ [n] } else { p with dropped := true }
  else p

/-- The long operation ends: OP_DONE is queued, waits in the slot marked *ending*, or is not made (R164). -/
def Port.opDone (p : Port) (st : Status) (f : OpFields) : Port :=
  match p.longOp with
  | none => p
  | some op =>
    let n := Notice.opDone op.tag op.kind st f
    let p := { p with lastLong := some ⟨op.tag, op.kind, st⟩ }
    if p.enabled .opDone then
      if p.notices.length < noticeLimit then { p with notices := p.notices ++ [n], longOp := none }
      else { p with longOp := some { op with ending := some n } }
    else { p with longOp := none }

/-- One message of a block (R164, R165). -/
def Port.take (p : Port) : Message → Port
  | .notice n => p.offer n
  | .opEnd st f => p.opDone st f

/-- A place in the notice queue has become free: it goes first to the OP_DONE of a slot marked *ending* (R164). -/
def Port.placeFreed (p : Port) : Port :=
  match p.longOp with
  | some ⟨_, _, _, some n⟩ => { p with notices := p.notices ++ [n], longOp := none }
  | _ => p

/-- The transmitter, when free, begins the oldest reply, or else the notice at the head of the queue with the dropped
flag, which it clears (R166). While the part restarts no notice is begun (R172). -/
def Port.transmit (p : Port) : Port :=
  match p.sending with
  | some _ => p
  | none =>
    match p.replies with
    | r :: rs => { p with sending := some (.reply r), replies := rs }
    | [] =>
      match p.notices with
      | [] => p
      | n :: ns =>
        if p.restarting then p
        else Port.placeFreed { p with sending := some (.notice n p.dropped), notices := ns, dropped := false }

/-- The messages of a step reach the port in order, and the transmitter begins what it can (R165, R166). -/
def Port.drain (p : Port) (l : List Message) : Port := (l.foldl Port.take p).transmit

/-- A reply made for a request (R163, R181): a refused request's reply carries the status alone. -/
def replyOf (tag kind : Nat) (a : Answer) : Reply :=
  ⟨tag, kind ||| 0x80, a.status, if a.status = .ok ∨ a.status = .accepted then a.body else .none⟩

/-- A BUSY reply for a frame that found the buffer full; with the reply list full it is counted instead (R162, R163). -/
def Port.turnAway (p : Port) (tag kind : Nat) : Port :=
  if p.replies.length < replyLimit then { p with replies := p.replies ++ [replyOf tag kind ⟨.busy, .none⟩] }
  else { p with overruns := saturate16 (p.overruns + 1) }

/-- A received frame enters the input buffer, or finds it full (R162). -/
def Port.enter (p : Port) (tag kind : Nat) (f : HeldFrame) : Port :=
  if p.buffer.length < bufferLimit then { p with buffer := p.buffer ++ [f] } else p.turnAway tag kind

/-- Whether the port hears and takes requests: main power is present, the receiver is not HELD_OFF (R171, R172). -/
def State.listening (s : State) : Bool := s.powered && s.port.rx != .heldOff && !s.port.restarting

/-- The end of every step of the part: its messages reach the port (R165, R166). -/
def finish (s : State) : State :=
  { s with part := { s.part with outbox := [] }, port := s.port.drain s.part.outbox }

/-- A request's effect and its reply, which belong to one moment (R162, R163). -/
def carryOut (tag kind : Nat) (f : State → State × Answer) (s : State) : State :=
  let r := if tag = 0 then (s, ⟨.badValue, .none⟩) else f s
  let s' := r.1
  finish { s' with port := { s'.port with replies := s'.port.replies ++ [replyOf tag kind r.2] } }

/-- A request reaches the part: it is taken if no frame is held before it and the reply list has room, and otherwise
it is held or turned away (R162, R163). A held request that the port presents leaves the buffer as it is taken. -/
def request (i : Instr) (tag kind : Nat) (f : State → State × Answer) (s : State) : State :=
  if s.listening then
    if s.port.taking && s.port.buffer.head? == some (.request i) then
      if s.port.replies.length < replyLimit then
        carryOut tag kind f { s with port := { s.port with buffer := s.port.buffer.tail, taking := false } }
      else { s with port := { s.port with taking := false } }
    else if s.port.replies.length < replyLimit && s.port.buffer.isEmpty then carryOut tag kind f s
    else finish { s with port := s.port.enter tag kind (.request i) }
  else s

/-- The outcome of a command that ends in a state; no command of this block ends otherwise. -/
abbrev Result := Host.Outcome State Fault Refusal

/-- A request that a block other than the port carries out; its first argument says whether a STORE_SAVE is in
progress (R169). A refused request leaves the part as it was (R163). -/
def ofPart (f : Bool → Part → Part × Answer) (s : State) : State × Answer :=
  let r := f s.port.saving.isSome s.part
  if r.2.status = .ok ∨ r.2.status = .accepted then ({ s with part := r.1.settle }, r.2)
  else (s, r.2)

/-- A request that only reads: it leaves the machine as it was. -/
def ofReader (f : Part → Answer) (s : State) : State × Answer := (s, f s.part)

/-- A long operation: BUSY if the slot is occupied; when its other checks pass, the slot takes its tag and kind (R164). -/
def longOp (tag kind : Nat) (f : State → State × Answer) (s : State) : State × Answer :=
  if s.port.longOp.isSome then (s, ⟨.busy, .none⟩)
  else
    let r := f s
    if r.2.status = .accepted then
      ({ r.1 with port := { r.1.port with longOp := some ⟨tag, kind, s.part.now, none⟩ } }, r.2)
    else r

/-- An event of the part: nothing happens in it while main power is absent (R7). -/
def event (f : Part → Part) (s : State) : State :=
  if s.powered then finish { s with part := Part.settle (f s.part) } else s

/-- A frame held at the head of the buffer that is no request is answered by the port itself (R163). -/
def Port.answerHeld (p : Port) : Port :=
  match p.buffer with
  | .tagZero k :: l => { p with buffer := l, replies := p.replies ++ [replyOf 0 k ⟨.badValue, .none⟩] }
  | .unknownKind t k :: l => { p with buffer := l, replies := p.replies ++ [replyOf t k ⟨.unknownKind, .none⟩] }
  | .badLength t k :: l => { p with buffer := l, replies := p.replies ++ [replyOf t k ⟨.badLength, .none⟩] }
  | _ => p

end Sys2Proof.Machine
end

