-- ==== Sys2Proof/Machine/AnnounceCommands.lean ====
section
/-! DEFINITION. The meanings of the commands of announcements (R66, R71, R75, R77, R81). -/

namespace Sys2Proof.Machine

/-- ANNOUNCE_START (R66). -/
def execAnnounceStart (tag : Nat) (input : Option PagingInput) (rank : Nat) (spec : List Range) (chime : Option Nat) (limit : Nat) (s : State) :
    Result :=
  .next (request (.announceStart tag input rank spec chime limit) tag 0x28 (ofPart (Part.announceStart input rank spec chime limit)) s)

/-- ANNOUNCE_END (R75). -/
def execAnnounceEnd (tag : Nat) (id : Nat) (s : State) : Result :=
  .next (request (.announceEnd tag id) tag 0x29 (ofPart (Part.announceEnd id)) s)

/-- ANNOUNCE_CANCEL (R77). -/
def execAnnounceCancel (tag : Nat) (id : Nat) (s : State) : Result :=
  .next (request (.announceCancel tag id) tag 0x2A (ofPart (Part.announceCancel id)) s)

/-- ANNOUNCE_LIST (R81). -/
def execAnnounceList (tag : Nat) (s : State) : Result :=
  .next (request (.announceList tag) tag 0x2B (ofReader Part.announceList) s)

/-- ANNOUNCE_READ (R81). -/
def execAnnounceRead (tag : Nat) (id : Nat) (index : Nat) (s : State) : Result :=
  .next (request (.announceRead tag id index) tag 0x2C (ofReader (Part.announceRead id index)) s)

/-- CHIME_END (R71). -/
def execChimeEnd (id : Nat) (s : State) : Result := .next (event (Part.chimeEnd id) s)

/-- LIMIT_TIME (R75). -/
def execLimitTime (id : Nat) (s : State) : Result := .next (event (Part.limitTime id) s)

end Sys2Proof.Machine
end

