-- ==== Sys2Proof/Machine/Bells.lean ====
section
/-! DEFINITION. The bell scheduler: groups, plans, the timeline, firing, jumps, manual bells (R20 to R38). -/

namespace Sys2Proof

/-- The order of a plan's entries: time, then group (R22). -/
def BellEntry.before (a b : BellEntry) : Bool := a.time < b.time || (a.time == b.time && a.group < b.group)

/-- Whether an entry's fields lie in their ranges (R22). -/
def BellEntry.allowed (e : BellEntry) : Bool :=
  e.time ≤ 86399 && e.group ≤ 31 && e.pattern ≤ 15 && !Machine.isEvacuation e.pattern && e.duration ≤ 600

/-- The moment of an entry on its date, in tenths (R22). -/
def BellEntry.moment (e : BellEntry) : Nat := e.time * 10

end Sys2Proof

namespace Sys2Proof.Machine

/-! ### Tables -/

/-- The zone set of a group (R20). -/
def Part.groupZones (p : Part) (g : Nat) : List Nat := selected 64 (Tab.get p.bell.groups g [])

/-- A plan's entries. -/
def Part.plan (p : Part) (n : Nat) : List BellEntry := Tab.get p.bell.plans n []

/-- The pool's free count (R22). -/
def Part.poolFree (p : Part) : Nat := 480 - (p.bell.plans.toList.map List.length).sum

/-- Entries placed into a plan in time-and-group order (R23, R24). -/
def placeEntries (plan new : List BellEntry) : List BellEntry :=
  new.foldl (fun l e => insertWhere (fun x => e.before x) e l) plan

/-- Whether two entries of a list share a key (R22). -/
def sharesKey : List BellEntry → Bool
  | [] => false
  | e :: l => l.any (fun x => x.time == e.time && x.group == e.group) || sharesKey l

/-! ### The timeline -/

/-- The timeline entry at an index. -/
def Part.entryAt (p : Part) (i : Nat) : Option TimelineEntry := p.bell.timeline.entries[i]?

/-- The timeline's entries changed. -/
def Part.modEntries (p : Part) (f : List TimelineEntry → List TimelineEntry) : Part :=
  { p with bell := { p.bell with timeline := { p.bell.timeline with entries := f p.bell.timeline.entries } } }

/-- The timeline entry at an index takes a state and a posted count. -/
def Part.setEntry (p : Part) (i : Nat) (st : EntryState) (posted : Option Nat) : Part :=
  p.modEntries fun l => l.modify i fun e => { e with state := st, posted := posted }

/-- The state of an entry at a build, by how the date compares with the furthest date (R26). -/
def buildState (furthest : Option Nat) (fired : List FiredKey) (day t : Nat) (e : BellEntry) : EntryState :=
  let byTime := if e.moment < t then EntryState.passed else .waiting
  match furthest with
  | none => byTime
  | some f =>
    if f < day then byTime
    else if day < f then .passed
    else match fired.find? fun k => k.time == e.time && k.group == e.group with
      | some k => if k.missed then .missed else .fired
      | none => byTime

/-- The build rule: a timeline for a date from a plan at a time of day (R26). -/
def Part.buildTimeline (p : Part) (day : Nat) (plan : Option Nat) (t : Nat) : Part :=
  let b := p.bell
  let later := b.furthest.all (· < day)
  let entries := ((plan.map p.plan).getD []).map fun e => (⟨e, buildState b.furthest b.fired day t e, none⟩ : TimelineEntry)
  { p with bell := { b with
      timeline := ⟨some day, plan, (b.timeline.build + 1) % 256, entries⟩
      furthest := if later then some day else b.furthest
      fired := if later then [] else b.fired } }

/-! ### Firing -/

/-- The answers to the claims of one posting, counted (R29, R35). -/
structure Posted where
  sounding : Nat
  pending : Nat
  refused : Nat
  deriving DecidableEq, Repr

/-- A BELL claim is posted to each zone of a list (R29, R35). -/
def Part.postBells (p : Part) (zs : List Nat) (c : BellClaim) : Part × Posted :=
  zs.foldl (fun acc z =>
    let r := acc.1.postBell z c
    (r.1, match r.2 with
      | .sounding => { acc.2 with sounding := acc.2.sounding + 1 }
      | .pending => { acc.2 with pending := acc.2.pending + 1 }
      | .refused => { acc.2 with refused := acc.2.refused + 1 })) (p, ⟨0, 0, 0⟩)

/-- The bell scheduler takes the drop of a posting (R30, R48). -/
def Part.takeDrop (p : Part) (origin : BellOrigin) (d : Dropped) : Part :=
  if d.stale = 0 && d.interrupted = 0 then p
  else
    match origin with
    | .manual => p.note (.bellsMissedStale origin d.stale false)
    | .entry plan i build =>
      let current := p.bell.timeline.build == build && p.bell.timeline.plan == some plan
      match p.entryAt i with
      | some e =>
        if current && e.state == .fired && e.posted == some d.stale then
          let p := p.setEntry i .missed e.posted
          let fired := p.bell.fired.map fun k =>
            if k.time == e.entry.time && k.group == e.entry.group then { k with missed := true } else k
          { p with bell := { p.bell with fired := fired } }.note (.bellsMissedStale origin d.stale true)
        else p.note (.bellsMissedStale origin d.stale false)
      | none => p.note (.bellsMissedStale origin d.stale false)

/-- The latest start of a posting has come: its PENDING claims end and the drop is reported (R48). -/
def Part.reachLatest (p : Part) (posting : Nat) (origin : BellOrigin) : Part :=
  let r := p.dropPosting posting
  r.1.takeDrop origin r.2

/-- A posting of BELL claims to the zones of a list: counted, and with a latest start already reached taken at once as
the posting completes (R29, R35, R48). `report` is given the counts before the drop. -/
def Part.ring (p : Part) (zs : List Nat) (pattern duration : Nat) (origin : BellOrigin)
    (report : Part → Posted → Part) : Part × Posted :=
  let n := p.bell.postings
  let latest := p.inSeconds p.bell.grace
  let c : BellClaim := { state := .pending, pattern := pattern, duration := duration, endTime := none, origin := origin,
                         latest := latest, sounded := false, posting := n }
  let r := { p with bell := { p.bell with postings := n + 1 } }.postBells zs c
  let q := report r.1 r.2
  (if latest ≤ q.now then q.reachLatest n origin else q, r.2)

/-- An entry of the timeline fires (R29), late when a jump has skipped it (R31); with the fired record full it becomes
MISSED instead (R27). The flag says that it fired. -/
def Part.fireEntry (p : Part) (i : Nat) (late : Bool) : Part × Bool :=
  match p.entryAt i with
  | none => (p, false)
  | some e =>
    let plan := p.bell.timeline.plan.getD 0
    let build := p.bell.timeline.build
    if 480 ≤ p.bell.fired.length then
      ((p.setEntry i .missed none).note (.bellsMissedLimit plan i e.entry.time e.entry.group), false)
    else
      let p := { p with bell := { p.bell with fired := p.bell.fired ++ [FiredKey.mk e.entry.time e.entry.group false] } }
      let r := p.ring (p.groupZones e.entry.group) e.entry.pattern e.entry.duration (.entry plan i build) fun q c =>
        (q.setEntry i .fired (some (c.sounding + c.pending))).note
          (.bellFired (if late then some q.campus else none) plan i build e.entry c.sounding c.pending c.refused)
      (r.1, true)

/-- The indexes of the WAITING entries that a condition on their moments selects, ascending. -/
def Part.waitingEntries (p : Part) (f : Nat → Bool) : List Nat :=
  (upTo p.bell.timeline.entries.length).filter fun i =>
    (p.entryAt i).any fun e => e.state == .waiting && f e.entry.moment

/-- The WAITING entries at the present campus time are reached, in index order (R29). -/
def Part.reachEntries (p : Part) : Part :=
  if p.isSet && p.bell.timeline.date == some p.backup.day then
    p.each (p.waitingEntries (· == p.backup.tod)) fun p i => (p.fireEntry i false).1
  else p

/-- Whether the WAITING entry of an index is at the present campus time (R29), however that time was reached (log entry
65). -/
def Part.entryDue (p : Part) (i : Nat) : Bool :=
  p.isSet && p.bell.timeline.date == some p.backup.day &&
    (p.entryAt i).any fun e => e.state == .waiting && e.entry.moment == p.backup.tod

/-- Skipped entries, in index order: each fires late within the catch-up window of the new time, or becomes MISSED
(R31, R32). The counts are those fired late and those made MISSED, among these one that a full fired record keeps from firing
(log entry 75). -/
def Part.skipEntries (p : Part) (l : List Nat) (t : Nat) : Part × Nat × Nat :=
  l.foldl (fun acc i =>
    let p := acc.1
    match p.entryAt i with
    | none => acc
    | some e =>
      if t - e.entry.moment ≤ p.bell.catchUp * 10 then
        let r := p.fireEntry i true
        if r.2 then (r.1, acc.2.1 + 1, acc.2.2) else (r.1, acc.2.1, acc.2.2 + 1)
      else (p.setEntry i .missed none, acc.2.1, acc.2.2 + 1)) (p, 0, 0)

/-! ### Jumps, builds and selections -/

/-- The bell scheduler takes a jump (R31 to R34); `plan` is the selection's plan when the date has changed. The JUMP notice
comes before the BELL_FIRED of an entry at the new time (log entry 66). -/
def Part.bellJump (p : Part) (old new : CampusTime) (plan : Option Nat) : Part :=
  if old.day = new.day then
    if old.tod < new.tod then
      let skipped := p.waitingEntries fun m => old.tod < m && m < new.tod
      let r := p.skipEntries skipped new.tod
      let q := if skipped.isEmpty then r.1 else r.1.note (.bellsMissedJump old new r.2.1 r.2.2)
      q.reachEntries
    else p.reachEntries
  else if old.day < new.day then
    let left := p.waitingEntries fun _ => true
    let p := p.each left fun p i => p.setEntry i .missed none
    let fresh := p.bell.furthest.all (· < new.day)
    let q := p.buildTimeline new.day plan 0
    let earlier := q.waitingEntries fun m => m < new.tod
    let r := if fresh then q.skipEntries earlier new.tod
      else (p.buildTimeline new.day plan new.tod, 0, 0)
    let missed := left.length + r.2.2
    let q := if r.2.1 = 0 && missed = 0 then r.1 else r.1.note (.bellsMissedJump old new r.2.1 missed)
    q.reachEntries
  else (p.buildTimeline new.day plan new.tod).reachEntries

/-- A build for the current date at the present campus time, from a plan (R28). -/
def Part.buildNow (p : Part) (plan : Option Nat) : Part := p.buildTimeline p.backup.day plan p.backup.tod

/-- The bell scheduler takes a time-set event (R28): a date other than the furthest date starts afresh. -/
def Part.bellTimeSet (p : Part) (plan : Option Nat) : Part :=
  let p := if p.bell.furthest == some p.backup.day then p else { p with bell := { p.bell with furthest := none } }
  p.buildNow plan

/-- The plan of a number has been edited: a build if it is the active plan and campus time is SET (R28). -/
def Part.planEdited (p : Part) (n : Nat) : Part :=
  if p.isSet && p.cal.selection.plan == some n then p.buildNow (some n) else p

/-! ### Requests -/

/-- GROUP_WRITE (R21). -/
def Part.groupWrite (g : Nat) (rs : List Range) (saving : Bool) (p : Part) : Part × Answer :=
  checked [(saving, .busy),
           (31 < g || rs.isEmpty || 4 < rs.length || rs.any (fun r => 63 < r.first || 63 < r.last) || rs.all Range.isEmpty,
            .badValue)] p
    fun p => ({ p with bell := { p.bell with groups := Tab.set p.bell.groups g rs } }, okOnly)

/-- GROUP_READ (R21). -/
def Part.groupRead (g : Nat) (p : Part) : Answer :=
  checkedRead [(31 < g, .badValue)] <| okWith (.group (Tab.get p.bell.groups g []))

/-- A plan's entries replaced. -/
def Part.setPlan (p : Part) (n : Nat) (es : List BellEntry) : Part :=
  { p with bell := { p.bell with plans := Tab.set p.bell.plans n es } }

/-- PLAN_WRITE (R23). -/
def Part.planWrite (n : Nat) (es : List BellEntry) (saving : Bool) (p : Part) : Part × Answer :=
  checked [(saving, .busy), (15 < n || 32 < es.length || !es.all BellEntry.allowed, .badValue),
           (sharesKey es, .duplicate), (p.poolFree + (p.plan n).length < es.length, .full)] p
    fun p =>
      let p := (p.setPlan n (placeEntries [] es)).planEdited n
      (p, okWith (.planCounts (p.plan n).length p.poolFree))

/-- PLAN_APPEND (R24). -/
def Part.planAppend (n : Nat) (es : List BellEntry) (saving : Bool) (p : Part) : Part × Answer :=
  checked [(saving, .busy), (15 < n || 32 < es.length || !es.all BellEntry.allowed || es.isEmpty, .badValue),
           (sharesKey es || sharesKey (p.plan n ++ es), .duplicate), (p.poolFree < es.length, .full)] p
    fun p =>
      let p := (p.setPlan n (placeEntries (p.plan n) es)).planEdited n
      (p, okWith (.planCounts (p.plan n).length p.poolFree))

/-- PLAN_CLEAR (R24). -/
def Part.planClear (n : Nat) (saving : Bool) (p : Part) : Part × Answer :=
  checked [(saving, .busy), (15 < n, .badValue)] p
    fun p =>
      let p := (p.setPlan n []).planEdited n
      (p, okWith (.planFree p.poolFree))

/-- PLAN_READ (R24). -/
def Part.planRead (n i : Nat) (p : Part) : Answer :=
  checkedRead [(15 < n || 479 < i, .badValue)] <|
    okWith (.plan (p.plan n).length p.poolFree (((p.plan n).drop i).take 32))

/-- TIMELINE_READ (R38). -/
def Part.timelineRead (i : Nat) (p : Part) : Answer :=
  checkedRead [(479 < i, .badValue)] <|
    let t := p.bell.timeline
    let n := fun (st : EntryState) => (t.entries.filter fun e => e.state == st).length
    okWith (.timeline t.date t.plan t.build p.bell.furthest (n .waiting) (n .fired) (n .missed) (n .passed)
      p.bell.fired.length ((t.entries.drop i).take 20))

/-- The zones of a BELL_RING selector (R35). -/
def Part.selectorZones (p : Part) : Selector → List Nat
  | .group g => if 31 < g then [] else p.groupZones g
  | .zones r => if 63 < r.last || 63 < r.first then [] else zonesOf r

/-- BELL_RING (R35). -/
def Part.bellRing (sel : Selector) (pattern duration : Nat) (_saving : Bool) (p : Part) : Part × Answer :=
  checked [((p.selectorZones sel).isEmpty || 15 < pattern || isEvacuation pattern || 600 < duration, .badValue)] p
    fun p =>
      let r := p.ring (p.selectorZones sel) pattern duration .manual fun q _ => q
      (r.1, okWith (.rung r.2.sounding r.2.pending r.2.refused))

/-- BELL_SILENCE (R36). -/
def Part.bellSilence (r : Range) (_saving : Bool) (p : Part) : Part × Answer :=
  checked [(!zonesAllowed r, .badValue)] p
    fun p =>
      let zs := (zonesOf r).filter fun z => (p.zone z).bell.isSome
      (p.each zs Part.endBell, okWith (.count zs.length))

/-- BELL_SETTINGS (R37). -/
def Part.bellSettings (grace catchUp : Nat) (saving : Bool) (p : Part) : Part × Answer :=
  checked [(saving, .busy), (120 < grace || 300 < catchUp, .badValue)] p
    fun p => ({ p with bell := { p.bell with grace := grace, catchUp := catchUp } }, okOnly)

/-- BELL_SETTINGS_READ (R37). -/
def Part.bellSettingsRead (p : Part) : Answer :=
  okWith (.bellSettings p.bell.grace p.bell.catchUp)

end Sys2Proof.Machine
end

