-- ==== Sys2Proof/Machine/Zones.lean ====
section
/-! DEFINITION. The requests and timed events of buildings and zones (R40, R47, R48, R54, R55, R58, R61, R62). -/

namespace Sys2Proof.Machine

/-- BUILDING_WRITE (R40). -/
def Part.buildingWrite (b : Nat) (r : Range) (saving : Bool) (p : Part) : Part × Answer :=
  let taken := (upTo 8).any fun c => c != b && (p.building c).zones.meets r
  checked [(saving, .busy), (7 < b || 63 < r.first || 63 < r.last, .badValue),
           ((p.building b).yield != .clear || !p.idle, .wrongState), (taken, .overlap)] p
    fun p => (p.modBuilding b fun x => { x with zones := r }, okOnly)

/-- BUILDING_READ (R40). -/
def Part.buildingRead (p : Part) : Answer := okWith (.buildings p.arb.buildings.toList)

/-- ZONE_DEFINE (R61). -/
def Part.zoneDefine (z : Nat) (kind : Option ZoneKind) (saving : Bool) (p : Part) : Part × Answer :=
  checked [(saving, .busy), (63 < z || kind.isNone, .badValue),
           ((p.zone z).hasClaim || !(p.zone z).offers.isEmpty, .wrongState)] p
    fun p => (p.modZone z fun zone => { zone with kind := kind.getD .sounder }, okOnly)

/-- The enable of a source in a zone (R41). -/
def Zone.enable (z : Zone) : Source → Bool
  | .bell => z.bellOn
  | .announce => z.annOn

/-- The mask of a source in a zone (R41). -/
def Zone.mask (z : Zone) : Source → Bool
  | .bell => z.bellMask
  | .announce => z.annMask

/-- A zone's BELL enable is set; off, it ends a PENDING claim DISABLED (R54). -/
def Part.enableBell (p : Part) (z : Nat) (on : Bool) : Part :=
  p.claimsClear (p.changeZone z fun zone =>
    { zone with bellOn := on, bell := if on then zone.bell else zone.bell.filter fun b => b.state == .sounding }) z

/-- The ANNOUNCE enables of zones are turned off: PENDING claims end DISABLED and the offer lists are emptied, in every
zone before the capacity that this frees is offered (R54). -/
def Part.disableAnnounce (p : Part) (zs : List Nat) : Part :=
  let q := p.each zs fun p z => p.changeZone z fun zone =>
    { zone with annOn := false, ann := zone.ann.filter fun a => a.state == .sounding, offers := [] }
  let q := q.each zs fun q z =>
    (q.loseHeld z ((p.zone z).ann.filter fun a => a.state == .pending)).loseOffers z (p.zone z).offers .refused
  q.each zs p.claimsClear

/-- The ANNOUNCE enables of zones are set (R54). -/
def Part.enableAnnounce (p : Part) (zs : List Nat) (on : Bool) : Part :=
  if on then p.each zs fun p z => p.changeZone z fun zone => { zone with annOn := true } else p.disableAnnounce zs

/-- ZONE_ENABLE (R54). -/
def Part.zoneEnable (r : Range) (source : Option Source) (on : Option Bool) (saving : Bool) (p : Part) : Part × Answer :=
  checked [(saving, .busy), (!zonesAllowed r || source.isNone || on.isNone, .badValue)] p
    fun p =>
      let on := on.getD false
      let src := source.getD .bell
      let changed := (zonesOf r).filter fun z => (p.zone z).enable src != on
      (match src with
        | .bell => p.each (zonesOf r) fun p z => p.enableBell z on
        | .announce => p.enableAnnounce (zonesOf r) on, okWith (.count changed.length))

/-- ZONE_MASK (R55). -/
def Part.zoneMask (r : Range) (source : Option Source) (set : Option Bool) (_saving : Bool) (p : Part) : Part × Answer :=
  checked [(!zonesAllowed r || source.isNone || set.isNone, .badValue)] p
    fun p =>
      let m := set.getD false
      let src := source.getD .bell
      let changed := (zonesOf r).filter fun z => (p.zone z).mask src != m
      (p.each changed fun p z => p.reviseZone z fun zone => match src with
        | .bell => { zone with bellMask := m }
        | .announce => { zone with annMask := m }, okWith (.count changed.length))

/-- A zone as ZONE_READ gives it (R62). -/
def Part.zoneReport (p : Part) (z : Nat) : ZoneReport :=
  let zone := p.zone z
  let left := zone.bell.bind fun b => if b.state == .sounding then b.endTime.map p.leftUntil else none
  ⟨z, p.owner z, p.buildingOf z, zone, p.urgent z, left⟩

/-- ZONE_READ (R62). -/
def Part.zoneRead (r : Range) (p : Part) : Answer :=
  checkedRead [(!zonesAllowed r || 3 < (zonesOf r).length, .badValue)] <|
    okWith (.zones ((zonesOf r).map p.zoneReport))

/-- YIELD_RELEASE (R58): the building's zones are re-evaluated, its yield state having changed (R44). -/
def Part.yieldRelease (b : Nat) (_saving : Bool) (p : Part) : Part × Answer :=
  checked [(7 < b, .badValue), ((p.building b).yield != .held, .wrongState)] p
    fun p =>
      let p := p.modBuilding b fun x => { x with yield := .clear }
      ((p.each (zonesOf (p.building b).zones) Part.reviewZone).note (.yieldState b .held .clear .release), okOnly)

/-- The origin of a posting that has a PENDING claim whose latest start has been reached (R48). A claim that sounded over its
latest start and has become PENDING again is one of them (log entry 69). -/
def Part.postingDue (p : Part) (posting : Nat) : Option BellOrigin :=
  (upTo 64).findSome? fun z =>
    (p.zone z).bell.bind fun b =>
      if b.posting == posting && b.state == .pending && b.latest ≤ p.now then some b.origin else none

/-- The latest start of a posting (R48). -/
def Part.latestStart (posting : Nat) (p : Part) : Part :=
  match p.postingDue posting with
  | some origin => p.reachLatest posting origin
  | none => p

/-- Whether a zone's BELL claim is SOUNDING and has reached its end time (R47). -/
def Part.bellDue (p : Part) (z : Nat) : Bool :=
  (p.zone z).bell.any fun b => b.state == .sounding && b.endTime.any (· ≤ p.now)

/-- The end time of a zone's BELL claim: it ends ENDED (R47). -/
def Part.claimEndTime (z : Nat) (p : Part) : Part := if p.bellDue z then p.endBell z else p

end Sys2Proof.Machine
end

