-- ==== Sys2Proof/Machine/BellCommands.lean ====
section
/-! DEFINITION. The meanings of the commands of bells (R20 to R38, R47, R48). -/

namespace Sys2Proof.Machine

/-- GROUP_WRITE (R21). -/
def execGroupWrite (tag : Nat) (group : Nat) (ranges : List Range) (s : State) : Result :=
  .next (request (.groupWrite tag group ranges) tag 0x10 (ofPart (Part.groupWrite group ranges)) s)

/-- GROUP_READ (R21). -/
def execGroupRead (tag : Nat) (group : Nat) (s : State) : Result :=
  .next (request (.groupRead tag group) tag 0x11 (ofReader (Part.groupRead group)) s)

/-- PLAN_WRITE (R23). -/
def execPlanWrite (tag : Nat) (plan : Nat) (entries : List BellEntry) (s : State) : Result :=
  .next (request (.planWrite tag plan entries) tag 0x12 (ofPart (Part.planWrite plan entries)) s)

/-- PLAN_APPEND (R24). -/
def execPlanAppend (tag : Nat) (plan : Nat) (entries : List BellEntry) (s : State) : Result :=
  .next (request (.planAppend tag plan entries) tag 0x13 (ofPart (Part.planAppend plan entries)) s)

/-- PLAN_CLEAR (R24). -/
def execPlanClear (tag : Nat) (plan : Nat) (s : State) : Result :=
  .next (request (.planClear tag plan) tag 0x14 (ofPart (Part.planClear plan)) s)

/-- PLAN_READ (R24). -/
def execPlanRead (tag : Nat) (plan : Nat) (index : Nat) (s : State) : Result :=
  .next (request (.planRead tag plan index) tag 0x15 (ofReader (Part.planRead plan index)) s)

/-- TIMELINE_READ (R38). -/
def execTimelineRead (tag : Nat) (index : Nat) (s : State) : Result :=
  .next (request (.timelineRead tag index) tag 0x16 (ofReader (Part.timelineRead index)) s)

/-- BELL_RING (R35). -/
def execBellRing (tag : Nat) (selector : Selector) (pattern : Nat) (duration : Nat) (s : State) : Result :=
  .next (request (.bellRing tag selector pattern duration) tag 0x17 (ofPart (Part.bellRing selector pattern duration)) s)

/-- BELL_SILENCE (R36). -/
def execBellSilence (tag : Nat) (zones : Range) (s : State) : Result :=
  .next (request (.bellSilence tag zones) tag 0x18 (ofPart (Part.bellSilence zones)) s)

/-- BELL_SETTINGS (R37). -/
def execBellSettings (tag : Nat) (grace : Nat) (catchUp : Nat) (s : State) : Result :=
  .next (request (.bellSettings tag grace catchUp) tag 0x19 (ofPart (Part.bellSettings grace catchUp)) s)

/-- BELL_SETTINGS_READ (R37). -/
def execBellSettingsRead (tag : Nat) (s : State) : Result :=
  .next (request (.bellSettingsRead tag) tag 0x1A (ofReader Part.bellSettingsRead) s)

/-- BELL_ENTRY_REACHED (R29). -/
def execBellEntryReached (index : Nat) (s : State) : Result :=
  .next (event (fun p => if p.entryDue index then (p.fireEntry index false).1 else p) s)

/-- LATEST_START (R48). -/
def execLatestStart (posting : Nat) (s : State) : Result := .next (event (Part.latestStart posting) s)

/-- CLAIM_END_TIME (R47). -/
def execClaimEndTime (zone : Nat) (s : State) : Result := .next (event (Part.claimEndTime zone) s)

end Sys2Proof.Machine
end

