-- ==== Sys2Proof/Machine/Crc.lean ====
section
/-! DEFINITION. The two cyclic checks of R185. -/

namespace Sys2Proof.Machine

/-- One bit of the CRC-8: polynomial 0x07, most significant bit first (R185). -/
def crc8Bit (c : BitVec 8) : BitVec 8 := if c.msb then (c <<< 1) ^^^ 0x07#8 else c <<< 1

/-- One byte of the CRC-8 (R185). -/
def crc8Byte (c b : BitVec 8) : BitVec 8 :=
  crc8Bit (crc8Bit (crc8Bit (crc8Bit (crc8Bit (crc8Bit (crc8Bit (crc8Bit (c ^^^ b))))))))

/-- The CRC-8 of a list of bytes: initial value 0, no reflection, no final inversion (R185). -/
def crc8 (l : List Byte) : Byte := l.foldl crc8Byte 0#8

/-- One bit of the 16-bit CRC: polynomial 0x1021 (R185). -/
def crc16Bit (c : BitVec 16) : BitVec 16 := if c.msb then (c <<< 1) ^^^ 0x1021#16 else c <<< 1

/-- One byte of the 16-bit CRC (R185). -/
def crc16Byte (c : BitVec 16) (b : BitVec 8) : BitVec 16 :=
  crc16Bit (crc16Bit (crc16Bit (crc16Bit (crc16Bit (crc16Bit (crc16Bit (crc16Bit
    (c ^^^ (b.zeroExtend 16 <<< 8)))))))))

/-- The 16-bit CRC of a list of bytes: initial value 0xFFFF (R185). -/
def crc16 (l : List Byte) : BitVec 16 := l.foldl crc16Byte 0xFFFF#16

end Sys2Proof.Machine
end

