-- ==== Sys2Proof/Machine/Clocks.lean ====
section
/-! DEFINITION. The clock driver: displays and impulse circuits (R106 to R123). -/

namespace Sys2Proof

/-- The other polarity. -/
def Polarity.flip : Polarity → Polarity
  | .positive => .negative
  | .negative => .positive

end Sys2Proof

namespace Sys2Proof.Machine

/-! ### Displays -/

/-- The mode of a display entry, which follows from its two flags (R106). -/
def Display.mode (d : Display) : DisplayMode := if d.blank then .blank else if d.drill then .drill else .time

/-- A display entry (R106). -/
def Part.display (p : Part) (pos : Nat) : Display := Tab.get p.clk.displays pos Display.reset

/-- A display entry changed. -/
def Part.modDisplay (p : Part) (pos : Nat) (f : Display → Display) : Part :=
  { p with clk := { p.clk with displays := Tab.modify p.clk.displays pos f } }

/-- A DISPLAY command of the clock driver for a position. -/
def isDisplayFor (pos : Nat) (h : Handed) : Bool := h.sender == .display && h.target == some pos

/-- While an entry is dirty and its node is READY or SUSPECT, one DISPLAY command for it is handed or in flight (R107).
The mode is filled in as the command is chosen. -/
def Part.keepDisplay (p : Part) (pos : Nat) : Part :=
  let d := p.display pos
  let out := p.waits .output (isDisplayFor pos) || p.line.flight.any fun f => f.sender == .display && f.target == some pos
  if d.dirty && (p.node pos).isServed && !out then p.hand (.display d.mode) (some pos) .display else p

/-- A display entry's flags change: a change of mode makes it dirty while its node is READY or SUSPECT (R107). -/
def Part.changeDisplay (p : Part) (pos : Nat) (f : Display → Display) : Part :=
  let before := (p.display pos).mode
  let p := p.modDisplay pos f
  if (p.display pos).mode != before && (p.node pos).isServed then
    (p.modDisplay pos fun d => { d with dirty := true }).keepDisplay pos
  else p

/-- The drill timer hands over the drill display list, or withdraws it (R90, R106). -/
def Part.displayList (p : Part) (on : Bool) (l : List Nat) : Part :=
  p.each l fun p pos => p.changeDisplay pos fun d => { d with drill := on }

/-- Whether a position's display shows a drill: the list that was handed over (R106). -/
def Part.displayListed (p : Part) : List Nat := (upTo 24).filter fun pos => (p.display pos).drill

/-- A DISPLAY command carrying a mode has been confirmed by its node (R107). -/
def Part.displayConfirmed (p : Part) (pos : Nat) (m : DisplayMode) : Part :=
  (p.modDisplay pos fun d => { d with confirmed := some m, dirty := d.dirty && d.mode != m }).keepDisplay pos

/-- A DISPLAY command has been given up (R107). -/
def Part.displayGivenUp (p : Part) (pos : Nat) : Part :=
  if (p.node pos).isServed then
    (p.modDisplay pos fun d => { d with confirmed := none, dirty := true }).keepDisplay pos
  else p

/-- A node enters READY: from SUSPECT or LOST its entry is made dirty, and through its setup if its mode has changed
since the setup's command was built (R107). -/
def Part.displayReady (p : Part) (pos : Nat) (setup : Bool) : Part :=
  let d := p.display pos
  if setup && d.confirmed == some d.mode then p
  else (p.modDisplay pos fun d => { d with dirty := true }).keepDisplay pos

/-- A node enters a state other than READY and SUSPECT (R107). -/
def Part.displayLeft (p : Part) (pos : Nat) : Part :=
  (p.modDisplay pos fun d => { d with confirmed := none, dirty := false }).withdraw .output (isDisplayFor pos)

/-! ### Circuits -/

/-- A defined circuit (R110). -/
def Part.circuit (p : Part) (c : Nat) : Option Circuit := Tab.get p.clk.circuits c none

/-- A circuit's record replaced. -/
def Part.setCircuit (p : Part) (c : Nat) (r : Option Circuit) : Part :=
  { p with clk := { p.clk with circuits := Tab.set p.clk.circuits c r } }

/-- A defined circuit changed. -/
def Part.modCircuit (p : Part) (c : Nat) (f : Circuit → Circuit) : Part :=
  match p.circuit c with
  | some r => p.setCircuit c (some (f r))
  | none => p

/-- A newly defined circuit (R120). -/
def Circuit.fresh (d : CircuitDef) : Circuit :=
  { definition := d, dial := none, polarity := .positive, mode := .stopped, course := .none, flight := none,
    stopPending := false, lastSend := none }

/-- The impulse count and line polarity a node last reported for a line (R113, R123). -/
def Part.reportedLine (p : Part) (pos line : Nat) : Option (Nat × LinePolarity) :=
  ((p.link pos).latest).bind fun r => r.lines[line]?

/-- The target of every circuit: campus time of day in whole minutes modulo 720 (R112). -/
def Part.target (p : Part) : Nat := p.backup.tod / 600 % 720

/-- *Behind* and *ahead* of a dial (R112). -/
def behindAhead (target dial : Nat) : Nat × Nat := ((target + 720 - dial) % 720, (dial + 720 - target) % 720)

/-- The entry of a circuit in the dial part of the backup domain is written (R119). -/
def Part.writeDial (p : Part) (c : Nat) : Part :=
  let e : DialEntry := match p.circuit c with
    | some r => ⟨r.dial, r.polarity, some (r.definition.position, r.definition.line)⟩
    | none => ⟨none, .positive, none⟩
  { p with backup := { p.backup with dials := Tab.set p.backup.dials c e } }

/-- A CLOCK_STATE notice of a circuit as it stands (R123). -/
def Part.noteClock (p : Part) (c : Nat) (e : ClockEvent) : Part :=
  match p.circuit c with
  | some r => p.note (.clockState c r.dial r.polarity r.mode r.course e)
  | none => p

/-- An IMPULSE command of a circuit in the clock class. -/
def isImpulseOf (c : Nat) (h : Handed) : Bool := h.sender == .circuit c

/-- The impulse in flight is handed to the line engine (R113, R115). -/
def Part.handImpulse (p : Part) (c : Nat) : Part :=
  match p.circuit c with
  | some r =>
    match r.flight with
    | some i =>
      (p.modCircuit c fun r => { r with flight := some { i with sentAt := none, handed := true, resendDue := false } }).hand
        (.impulse r.definition.line i.polarity r.definition.width) (some r.definition.position) (.circuit c)
    | none => p
  | none => p

/-- The moment from which a circuit's next impulse may be handed (R113). -/
def Circuit.spaced (r : Circuit) : Nat := (r.lastSend.map fun t => t + r.definition.spacing * unitsPerTenth).getD 0

/-- An evaluation calls for an impulse: it is created, and handed unless the fast spacing has still to run (R113). Its reference
count is 0 where the node has reported no such line (log entry 79). -/
def Part.callImpulse (p : Part) (c : Nat) : Part :=
  match p.circuit c with
  | some r =>
    let count := ((p.reportedLine r.definition.position r.definition.line).map Prod.fst).getD 0
    let i : Impulse := { polarity := r.polarity.flip, sends := 1, sentAt := none, reference := count, handed := false,
                         everSent := false, resendDue := false, restarted := false }
    let p := p.modCircuit c fun r => { r with flight := some i }
    if r.spaced ≤ p.now then p.handImpulse c else p
  | none => p

/-- A circuit takes a mode and a course by evaluation, with the notice of a change of course (R112). -/
def Part.setCourse (p : Part) (c : Nat) (m : CircuitMode) (k : Course) (behind ahead : Nat) : Part :=
  match p.circuit c with
  | some r =>
    let p := p.modCircuit c fun r => { r with mode := m, course := k }
    if k = r.course then p
    else if k = .inStep then
      if r.course = .advancing ∨ r.course = .holding then p.noteClock c .inStep else p
    else p.noteClock c (.correcting behind ahead)
  | none => p

/-- A circuit is evaluated (R112); while campus time is UNSET an evaluation sets RUN and calls for no impulse (R118). -/
def Part.evaluateCircuit (p : Part) (c : Nat) : Part :=
  match p.circuit c with
  | none => p
  | some r =>
    match r.dial, r.flight with
    | some dial, none =>
      if r.mode = .run ∨ r.mode = .advance ∨ r.mode = .hold then
        if !p.isSet then p.modCircuit c fun r => { r with mode := .run }
        else
          let b := (behindAhead p.target dial).1
          let a := (behindAhead p.target dial).2
          if b = 0 then p.setCourse c .run .inStep b a
          else if b = 1 then (p.setCourse c .run .inStep b a).callImpulse c
          else if a ≤ r.definition.holdLimit then p.setCourse c .hold .holding b a
          else (p.setCourse c .advance .advancing b a).callImpulse c
      else p
    | _, _ => p

/-- Every circuit is evaluated, in ascending number (R112, R118). -/
def Part.evaluateCircuits (p : Part) : Part := p.each (upTo 32) Part.evaluateCircuit

/-- A circuit is put into RUN: evaluated if its node is READY, in WAIT otherwise (R116, R121, R122). -/
def Part.runCircuit (p : Part) (c : Nat) : Part :=
  match p.circuit c with
  | some r =>
    if (p.node r.definition.position).isReady then (p.modCircuit c fun r => { r with mode := .run }).evaluateCircuit c
    else p.modCircuit c fun r => { r with mode := .wait }
  | none => p

/-- The impulse in flight is delivered: the dial advances by one, the polarity is the impulse's, the impulse is
removed and the backup entry written (R114). -/
def Part.impulseDelivered (p : Part) (c : Nat) : Part :=
  (p.modCircuit c fun r =>
    match r.flight with
    | some i => { r with dial := r.dial.map fun d => (d + 1) % 720, polarity := i.polarity, flight := none }
    | none => r).writeDial c

/-- After a confirmation: STOPPED if a stop is pending, and otherwise an evaluation (R114). -/
def Part.afterImpulse (p : Part) (c : Nat) : Part :=
  match p.circuit c with
  | some r =>
    if r.stopPending then p.modCircuit c fun r => { r with mode := .stopped, course := .none, stopPending := false }
    else p.evaluateCircuit c
  | none => p

/-- Whether a report confirms an impulse: the count differs from the reference and the polarity is the impulse's (R114). -/
def Impulse.confirmedBy (i : Impulse) (count : Nat) (pol : LinePolarity) : Bool :=
  count != i.reference && pol == some i.polarity

/-- A valid record of a node in READY: each circuit of it with a sent impulse in flight examines its line (R114). -/
def Part.examineImpulses (p : Part) (pos : Nat) (lines : List (Nat × LinePolarity)) : Part :=
  p.each (upTo 32) fun p c =>
    match p.circuit c with
    | some r =>
      match r.flight, lines[r.definition.line]? with
      | some i, some l =>
        if r.definition.position = pos && r.mode != .wait && (i.sentAt.isSome || (i.resendDue && i.everSent)) &&
            i.confirmedBy l.1 l.2 then
          (p.impulseDelivered c).afterImpulse c
        else p
      | _, _ => p
    | none => p

/-- The line engine has first carried a circuit's command (R113). -/
def Part.impulseCarried (p : Part) (c : Nat) : Part :=
  p.modCircuit c fun r =>
    { r with lastSend := some p.now,
             flight := r.flight.map fun i => { i with sentAt := some p.now, handed := false, everSent := true } }

/-- The fast spacing has run for an impulse that waits unhanded (R113). -/
def Part.spacingEnd (p : Part) (c : Nat) : Part :=
  match p.circuit c with
  | some r =>
    match r.flight with
    | some i =>
      if !i.handed && i.sentAt.isNone && !i.everSent && r.mode != .wait && p.isSet && r.spaced ≤ p.now then p.handImpulse c
      else p
    | none => p
  | none => p

/-- The end of the confirmation wait of a send: five cycles for each tenth of the width, and ten (R115). -/
def Circuit.waitEnd (r : Circuit) (sent : Nat) : Nat := sent + r.definition.width * 5 + 10

/-- The re-send of an impulse is handed with the next send count (R115). -/
def Part.resendImpulse (p : Part) (c : Nat) : Part :=
  (p.modCircuit c fun r =>
    { r with flight := r.flight.map fun i => { i with sends := if i.sentAt.isSome then i.sends + 1 else i.sends } }).handImpulse c

/-- The confirmation wait has run out (R115); while campus time is UNSET the re-send waits (R118). NO_CONFIRM gives the count 0
and the polarity NONE of a line that the node has not reported (log entry 79). -/
def Part.confirmationWaitEnd (p : Part) (c : Nat) : Part :=
  match p.circuit c with
  | some r =>
    match r.flight with
    | some i =>
      match i.sentAt with
      | some t =>
        if r.waitEnd t ≤ p.now && !i.resendDue && r.mode != .wait then
          if 3 ≤ i.sends then
            let l := (p.reportedLine r.definition.position r.definition.line).getD (0, none)
            (p.modCircuit c fun r =>
                { r with mode := .fault, course := .none, flight := none, stopPending := false }).noteClock c
              (.noConfirm i.polarity i.reference l.1 l.2)
          else if p.isSet then p.resendImpulse c
          else p.modCircuit c fun r => { r with flight := some { i with resendDue := true } }
        else p
      | none => p
    | none => p
  | none => p

/-- A circuit's node leaves READY (R113, R116). A stop that is pending stays so when its impulse is removed unsent (log entry
80). -/
def Part.circuitsLeft (p : Part) (pos : Nat) : Part :=
  p.each (upTo 32) fun p c =>
    match p.circuit c with
    | some r =>
      if r.definition.position = pos then
        let p := p.withdraw .clock (isImpulseOf c)
        p.modCircuit c fun r =>
          { r with mode := if r.mode = .stopped ∨ r.mode = .fault then r.mode else .wait,
                   flight := match r.flight with
                     | some i => if i.everSent then some { i with handed := false } else none
                     | none => none }
      else p
    | none => p

/-- A circuit's node enters READY: the check of its line, then RUN and an evaluation unless an impulse is to be
reconciled from the node's first record (R117, R180). -/
def Part.circuitsReady (p : Part) (pos : Nat) : Part :=
  p.each (upTo 32) fun p c =>
    match p.circuit c with
    | some r =>
      if r.definition.position = pos && r.mode != .fault then
        if ((p.runtime pos).identity.map (·.lineCount)).getD 0 ≤ r.definition.line then
          (p.modCircuit c fun r => { r with mode := .fault, flight := none }).noteClock c .noLine
        else if r.mode = .wait && r.flight.isNone then
          (p.modCircuit c fun r => { r with mode := .run }).evaluateCircuit c
        else p
      else p
    | none => p

/-- The node of a position has restarted: no report of it confirms an impulse sent before (R117; log entry 59). -/
def Part.impulsesLost (p : Part) (pos : Nat) : Part :=
  p.each (upTo 32) fun p c =>
    p.modCircuit c fun r =>
      if r.definition.position = pos then { r with flight := r.flight.map fun i => { i with restarted := true } } else r

/-- The node's first record in READY: each circuit in WAIT with an impulse in flight is reconciled (R117). With a
stop pending, RECONCILED (delivered) is queued with mode RUN and the kept course before the circuit is STOPPED (log entry
82). -/
def Part.reconcileCircuits (p : Part) (pos : Nat) (lines : List (Nat × LinePolarity)) : Part :=
  p.each (upTo 32) fun p c =>
    match p.circuit c with
    | some r =>
      match r.flight with
      | some i =>
        if r.definition.position = pos && r.mode == .wait then
          let l := (lines[r.definition.line]?).getD (0, none)
          if i.confirmedBy l.1 l.2 && !i.restarted then
            let p := (p.impulseDelivered c).modCircuit c fun r => { r with mode := .run }
            (p.noteClock c (.reconciled true l.1 l.2)).afterImpulse c
          else
            let p := p.modCircuit c fun r =>
              { r with mode := if r.course = .advancing then .advance else .run,
                       flight := some { i with sends := 1, sentAt := none, reference := l.1, handed := false, resendDue := true,
                                               restarted := false } }
            let p := if p.isSet then p.handImpulse c else p
            p.noteClock c (.reconciled false l.1 l.2)
        else p
      | none => p
    | none => p

/-- Campus time has become UNSET (R118). A re-send not yet carried waits for campus time to be SET. A stop that is pending stays
so when its impulse is removed unsent (log entry 80). -/
def Part.circuitsUnset (p : Part) : Part :=
  p.each (upTo 32) fun p c =>
    match p.circuit c with
    | some r =>
      let p := p.withdraw .clock (isImpulseOf c)
      p.modCircuit c fun _ =>
        { r with mode := if r.mode = .advance ∨ r.mode = .hold then .run else r.mode,
                 flight := match r.flight with
                   | some i => if i.sentAt.isSome then some i
                               else if i.everSent then some { i with handed := false, resendDue := r.mode != .wait }
                               else none
                   | none => none }
    | none => p

/-- Campus time has become SET: re-sends that waited are handed, and each circuit is evaluated (R118). -/
def Part.circuitsSet (p : Part) : Part :=
  p.each (upTo 32) fun p c =>
    match p.circuit c with
    | some r =>
      if r.flight.any (·.resendDue) && r.mode != .wait then p.resendImpulse c else p.evaluateCircuit c
    | none => p

/-- Start-up: each defined circuit takes its state from the backup domain, and RESTORED is queued (R119). -/
def Part.restoreCircuits (p : Part) (valid : Bool) : Part :=
  let kept := fun (c : Nat) (r : Circuit) =>
    let e := Tab.get p.backup.dials c DialEntry.reset
    valid && e.dial.isSome && e.owner == some (r.definition.position, r.definition.line)
  let has := fun (p : Part) (c : Nat) => (p.circuit c).isSome
  let restored := (upTo 32).filter fun c => (p.circuit c).any (kept c)
  let unknown := (upTo 32).filter fun c => has p c && !restored.contains c
  let p := p.each restored fun p c =>
    let e := Tab.get p.backup.dials c DialEntry.reset
    p.modCircuit c fun r => { Circuit.fresh r.definition with dial := e.dial, polarity := e.polarity, mode := .wait }
  let p := p.each unknown fun p c => (p.modCircuit c fun r => Circuit.fresh r.definition).writeDial c
  p.note (.clockRestored restored.length unknown.length valid)

/-! ### Requests -/

/-- DISPLAY_SET (R109). -/
def Part.displaySet (pos : Nat) (blank : Option Bool) (_saving : Bool) (p : Part) : Part × Answer :=
  checked [(23 < pos || blank.isNone, .badValue)] p
    fun p =>
      let p := p.changeDisplay pos fun d => { d with blank := blank.getD d.blank }
      (p, okWith (.displayMode (p.display pos).mode))

/-- DISPLAY_READ (R109). -/
def Part.displayRead (p : Part) : Answer :=
  okWith (.displays (p.clk.displays.toList.map fun d => (d, d.mode)))

/-- Whether a definition's fields lie in their ranges (R110). -/
def circuitAllowed (d : CircuitDef) : Bool :=
  d.position ≤ 23 && d.line ≤ 1 && 2 ≤ d.width && d.width ≤ 20 && 10 ≤ d.spacing && d.spacing ≤ 40 && d.holdLimit ≤ 120

/-- Whether another defined circuit names a node position and line (R120). -/
def Part.lineTaken (p : Part) (c : Nat) (d : CircuitDef) : Bool :=
  (upTo 32).any fun k => k != c && (p.circuit k).any fun r =>
    r.definition.position == d.position && r.definition.line == d.line

/-- A circuit's definition is replaced: emptied, defined anew, or changed in its timings only (R120). -/
def Part.defineCircuit (p : Part) (c : Nat) (d : Option CircuitDef) : Part :=
  match d, p.circuit c with
  | none, _ => ((p.withdraw .clock (isImpulseOf c)).setCircuit c none).writeDial c
  | some d, some r =>
    if r.definition.position = d.position ∧ r.definition.line = d.line then p.setCircuit c (some { r with definition := d })
    else ((p.withdraw .clock (isImpulseOf c)).setCircuit c (some (Circuit.fresh d))).writeDial c
  | some d, none => (p.setCircuit c (some (Circuit.fresh d))).writeDial c

/-- CIRCUIT_WRITE (R120). -/
def Part.circuitWrite (c : Nat) (d : Option CircuitDef) (saving : Bool) (p : Part) : Part × Answer :=
  checked [(saving, .busy), (31 < c || !d.all circuitAllowed, .badValue),
           ((p.circuit c).any (·.flight.isSome), .wrongState), (d.any (p.lineTaken c), .overlap)] p
    fun p => ((p.defineCircuit c d).evaluateCircuit c, okOnly)

/-- The polarity that CIRCUIT_SET_DIAL leaves (R121). -/
def Part.dialPolarity (p : Part) (r : Circuit) : PolarityGiven → Polarity
  | .given g => g
  | _ => (((p.reportedLine r.definition.position r.definition.line).map Prod.snd).getD none).getD r.polarity

/-- CIRCUIT_SET_DIAL (R121). -/
def Part.circuitSetDial (c reading : Nat) (pol : PolarityGiven) (_saving : Bool) (p : Part) : Part × Answer :=
  checked [(31 < c || 719 < reading || pol == .unknown, .badValue), ((p.circuit c).isNone, .notFound),
           ((p.circuit c).any (fun r => r.flight.isSome && r.mode != .wait), .wrongState)] p
    fun p =>
      let p := p.modCircuit c fun r =>
        { r with dial := some reading, polarity := p.dialPolarity r pol, flight := none, stopPending := false }
      let p := (p.writeDial c).runCircuit c
      let r := (p.circuit c).getD (Circuit.fresh ⟨0, 0, 0, 0, 0⟩)
      (p, okWith (.circuitMode r.mode r.course))

/-- The reply of CIRCUIT_STOP and CIRCUIT_RUN (R122). -/
def Part.stopReply (p : Part) (c : Nat) : Part × Answer :=
  let r := (p.circuit c).getD (Circuit.fresh ⟨0, 0, 0, 0, 0⟩)
  (p, okWith (.circuitStop r.mode r.stopPending))

/-- CIRCUIT_STOP (R122). -/
def Part.circuitStop (c : Nat) (_saving : Bool) (p : Part) : Part × Answer :=
  checked [(31 < c, .badValue), ((p.circuit c).isNone, .notFound)] p
    fun p =>
      (p.modCircuit c fun r =>
        if r.mode = .stopped ∨ r.mode = .fault then r
        else if r.flight.isSome then { r with stopPending := true }
        else if r.mode = .wait then { r with mode := .stopped }
        else { r with mode := .stopped, course := .none }).stopReply c

/-- CIRCUIT_RUN (R122). -/
def Part.circuitRun (c : Nat) (_saving : Bool) (p : Part) : Part × Answer :=
  checked [(31 < c, .badValue), ((p.circuit c).isNone, .notFound),
           ((p.circuit c).any (fun r => r.dial.isNone || r.mode == .fault), .wrongState)] p
    fun p =>
      let p := p.modCircuit c fun r => { r with stopPending := false }
      (if (p.circuit c).any (·.mode == .stopped) then p.runCircuit c else p).stopReply c

/-- A circuit as CIRCUIT_READ gives it (R123). -/
def Part.circuitReport (p : Part) (r : Circuit) : CircuitReport :=
  { circuit := r,
    target := if p.isSet then r.dial.map fun d => (p.target, behindAhead p.target d) else none,
    sinceSend := r.flight.bind fun i => i.sentAt.map fun t => (p.now - t) / unitsPerTenth,
    reported := p.reportedLine r.definition.position r.definition.line }

/-- CIRCUIT_READ (R123). -/
def Part.circuitRead (cs : Range) (p : Part) : Answer :=
  checkedRead [(cs.isEmpty || 31 < cs.last || 8 < cs.last + 1 - cs.first, .badValue)] <|
    okWith (.circuits (cs.toList.map fun c => (p.circuit c).map p.circuitReport))

end Sys2Proof.Machine
end

