-- ==== Sys2Proof/Machine/Drill.lean ====
section
/-! DEFINITION. The drill timer: programs, the drill run, its phases, records and scheduled drills (R82 to R105). -/

namespace Sys2Proof

/-- The target of a building, in seconds (R82). -/
def Program.target (f : Program) (b : Nat) : Nat := ((f.scope.zip f.targets).find? fun x => x.1 == b).elim 0 Prod.snd

end Sys2Proof

namespace Sys2Proof.Machine

/-! ### The run record -/

/-- The run record changed. -/
def Part.modRun (p : Part) (f : DrillRun → DrillRun) : Part := { p with drill := { p.drill with run := p.drill.run.map f } }

/-- The drill timer with its scheduled-drill list replaced. -/
def Part.setSchedule (p : Part) (l : List ScheduleEntry) : Part := { p with drill := { p.drill with schedule := l } }

/-- RUNNING and PARTIAL are the running states (R84). -/
def TimerState.isRunning (t : TimerState) : Bool := t == .running || t == .partialRun

/-- Whether no timer is in a running state. -/
def DrillRun.noneRunning (r : DrillRun) : Bool := r.timers.all fun t => !t.state.isRunning

/-- Whether every timer is YIELDED. -/
def DrillRun.allYielded (r : DrillRun) : Bool := r.timers.all fun t => t.state == .yielded

/-- The timer of a building. -/
def DrillRun.timer (r : DrillRun) (b : Nat) : Option BuildingTimer := r.timers.find? fun t => t.building == b

/-- The timer of a building changed. -/
def DrillRun.modTimer (r : DrillRun) (b : Nat) (f : BuildingTimer → BuildingTimer) : DrillRun :=
  { r with timers := r.timers.map fun t => if t.building == b then f t else t }

/-- The elapsed value of a timer in a running state: from the evacuation start to the present, at most 36,000 (R91). -/
def Part.drillTenths (p : Part) (r : DrillRun) : Nat :=
  min 36000 ((r.evacuation.map fun e => (p.now - e) / unitsPerTenth).getD 0)

/-- The drill elapsed that the line header carries (R90). -/
def Part.drillElapsed (p : Part) : Option Nat :=
  p.drill.run.bind fun r =>
    match r.phase with
    | .evacuate | .muster => r.evacuation.map fun e => min 3600 ((p.now - e) / unitsPerSecond)
    | .allclear => r.header
    | _ => none

/-- What every notice of a drill gives (R104). -/
def DrillRun.head (r : DrillRun) : DrillHead := ⟨r.number, r.program, r.origin, r.forced⟩

/-- A DRILL_PHASE notice, giving the phase after the event (R104). -/
def Part.noteDrill (p : Part) (r : DrillRun) (e : DrillEvent) (ph : Option DrillPhase) : Part :=
  p.note (.drillPhase r.head e ph)

/-- The run enters a phase. -/
def Part.enterPhase (p : Part) (ph : DrillPhase) : Part := p.modRun fun r => { r with phase := ph, phaseStart := p.now }

/-- The scope nodes of a building, ascending (R86). -/
def Part.buildingNodes (p : Part) (b : Nat) : List Nat := p.positions.filter fun pos => (p.rosterAt pos).building == some b

/-! ### Claims -/

/-- Whether the drill timer posts to a building's zones: its timer is not YIELDED (R89). One that has yielded in this
drill and is CLEAR again is not posted to (R100); one that is still YIELDED or HELD has its posts refused (R96). -/
def Part.postsTo (p : Part) (r : DrillRun) (t : BuildingTimer) : Bool :=
  t.state != .yielded && !(r.barred.contains t.building && (p.building t.building).yield == .clear)

/-- DRILL claims with a pattern are posted to the zones of the scope buildings that have not yielded, in ascending
building and zone (R89). The counts are the zones claimed and refused. -/
def Part.postDrills (p : Part) (r : DrillRun) (pattern : Nat) : Part × Nat × Nat :=
  let bs := (r.timers.filter (p.postsTo r)).map (·.building)
  (bs.flatMap fun b => zonesOf (p.building b).zones).foldl (fun acc z =>
    let x := acc.1.postDrill z pattern r.program
    if x.2 then (x.1, acc.2.1 + 1, acc.2.2) else (x.1, acc.2.1, acc.2.2 + 1)) (p, 0, 0)

/-- Every DRILL claim is released. -/
def Part.releaseDrills (p : Part) : Part := p.each p.drillZones Part.releaseDrill

/-! ### Closing -/

/-- The drill record of a run (R98). -/
def DrillRun.record (r : DrillRun) (cause : DrillEnd) : DrillRecord :=
  { number := r.number, program := r.program, origin := r.origin, forced := r.forced, startTime := r.startTime,
    cause := cause, evacuation := r.evacuation.map fun e => (e - r.accepted) / unitsPerSecond, timers := r.timers }

/-- The phase becomes IDLE; the scope nodes may go quiet (R157). -/
def Part.endRun (p : Part) (r : DrillRun) : Part :=
  { p with drill := { p.drill with run := none } }.quietAfterDrill r.fields.scope

/-- CLOSING: the display list is withdrawn, the record written, DRILL_RESULT queued, the phase IDLE (R97). -/
def Part.closeDrill (p : Part) (cause : DrillEnd) : Part :=
  match p.drill.run with
  | some r =>
    let p := p.displayList false p.displayListed
    let rec' := r.record cause
    let records := p.drill.records ++ [rec']
    let p := { p with drill := { p.drill with records := records.drop (records.length - 4) } }
    (p.note (.drillResult rec')).endRun r
  | none => p

/-- The cause of a drill that has run to its end (R97). -/
def DrillRun.endCause (r : DrillRun) : DrillEnd := if r.allLost then .lineLost else .complete

/-! ### Timers -/

/-- A timer leaves its running state: its value is fixed, and BUILDING is queued (R91). -/
def Part.depart (p : Part) (b : Nat) (st : TimerState) (elapsed : Nat) : Part :=
  let p := p.modRun fun r => r.modTimer b fun t => { t with state := st, elapsed := elapsed }
  match p.drill.run with
  | some r =>
    match r.timer b with
    | some t => p.noteDrill r (.building t) (some r.phase)
    | none => p
  | none => p

/-- Every timer in a running state becomes UNFINISHED (R95, R99). -/
def Part.unfinish (p : Part) (elapsed : Nat) : Part :=
  match p.drill.run with
  | some r => p.each ((r.timers.filter (·.state.isRunning)).map (·.building)) fun p b => p.depart b .unfinished elapsed
  | none => p

/-- The run enters ALLCLEAR (R96). -/
def Part.enterAllclear (p : Part) : Part :=
  let kept := p.drillElapsed
  let p := (p.enterPhase .allclear).modRun fun r => { r with header := kept }
  match p.drill.run with
  | some r =>
    let x := p.postDrills r r.fields.allclearPattern
    x.1.noteDrill r (.allclear x.2.1 x.2.2) (some .allclear)
  | none => p

/-- The muster end (R95): ALLCLEAR if it has a length, CLOSING otherwise. -/
def Part.musterEnd (p : Part) : Part :=
  match p.drill.run with
  | some r => if 0 < r.fields.allclear then p.enterAllclear else p.closeDrill r.endCause
  | none => p

/-- The muster limit's moment. -/
def DrillRun.limitAt (r : DrillRun) : Nat := r.evacuation.getD 0 + r.fields.muster * unitsPerSecond

/-- The test for the muster end: no timer is running, or the muster limit is reached (R95). -/
def Part.testMuster (p : Part) : Part :=
  match p.drill.run with
  | some r =>
    if r.noneRunning then p.musterEnd
    else if r.limitAt ≤ p.now then (p.unfinish (r.fields.muster * 10)).musterEnd
    else p
  | none => p

/-- The claims are released and the run enters MUSTER, whose end is tested at once (R95). -/
def Part.enterMuster (p : Part) (early : Bool) : Part :=
  let p := p.releaseDrills.enterPhase .muster
  match p.drill.run with
  | some r => (p.noteDrill r (.muster early) (some .muster)).testMuster
  | none => p

/-- What follows a timer's departure or a yield: every timer YIELDED closes the drill (R100); otherwise the early stop
in EVACUATE and the muster end in MUSTER are tested (R95). -/
def Part.testTimers (p : Part) : Part :=
  match p.drill.run with
  | some r =>
    match r.phase with
    | .prealert => if r.allYielded then p.releaseDrills.closeDrill .yielded else p
    | .evacuate =>
      if r.allYielded then p.releaseDrills.closeDrill .yielded
      else if r.noneRunning then p.enterMuster true
      else p
    | .muster => if r.allYielded then p.releaseDrills.closeDrill .yielded else p.testMuster
    | _ => p
  | none => p

/-! ### The sounding phases -/

/-- The run enters EVACUATE, from PREALERT or from CHECKING (R90). After PREALERT, where nothing is posted, the notice's counts
are the claims held and 0 refused (log entry 78). -/
def Part.enterEvacuate (p : Part) (fromPrealert : Bool) : Part :=
  let p := (p.enterPhase .evacuate).modRun fun r => { r with evacuation := some p.now }
  match p.drill.run with
  | some r =>
    let x := if fromPrealert then
        let zs := p.drillZones
        (p.each zs fun p z => p.changeDrill z r.fields.evacuation, zs.length, 0)
      else p.postDrills r r.fields.evacuation
    let p := x.1.modRun fun r => { r with timers := r.timers.map fun t =>
      if t.state == .waiting then { t with state := if t.partialFlag then .partialRun else .running, elapsed := 0 } else t }
    let p := p.displayList true (p.positions.filter (p.inScope r.fields.scope))
    p.noteDrill r (.evacuate x.2.1 x.2.2) (some .evacuate)
  | none => p

/-- The run enters PREALERT, or EVACUATE if the prealert length is 0 (R88, R89). -/
def Part.enterSounding (p : Part) : Part :=
  match p.drill.run with
  | some r =>
    if r.fields.prealert = 0 then p.enterEvacuate false
    else
      let p := p.enterPhase .prealert
      let x := p.postDrills r (r.fields.chime.getD 0)
      x.1.noteDrill r (.prealert x.2.1 x.2.2) (some .prealert)
  | none => p

/-! ### CHECKING -/

/-- Why a scope node fails the readiness check, if it does (R88). -/
def Part.probeFailure (p : Part) (r : DrillRun) (pos : Nat) : Option ProbeFailure :=
  if !(p.node pos).isReady then some .notReady
  else if !(p.node pos).isActive then some .notActive
  else if r.probes.any (fun x => x.position == pos && x.echoed) then none
  else some .noEcho

/-- The result of the readiness check (R88). -/
def Part.readiness (p : Part) (r : DrillRun) : Readiness :=
  let judged := (r.timers.filter fun t => t.state != .yielded).map (·.building)
  let fails := fun (b : Nat) => (p.buildingNodes b).any fun pos => (p.probeFailure r pos).isSome
  { ready := judged.filter fun b => !fails b, notReady := judged.filter fails,
    yielded := (r.timers.filter fun t => t.state == .yielded).map (·.building),
    failed := p.positions.filterMap fun pos =>
      if (p.rosterAt pos).building.any judged.contains then (p.probeFailure r pos).map fun f => (pos, f) else none }

/-- The scheduled entry with a moment and a state takes another state (R88, R103). -/
def Part.markEntry (p : Part) (m : CampusTime) (old new : ScheduleState) : Part :=
  p.setSchedule (p.drill.schedule.map fun e =>
    if minuteMoment e.day e.minute == m && e.state == old then { e with state := new } else e)

/-- Probing ends: the check's result (R88). The phase in its notice is the one the run goes on in, IDLE for a run that ends
(log entry 49). -/
def Part.checkResult (p : Part) : Part :=
  match p.drill.run with
  | some r =>
    let x := p.readiness r
    let next := if r.fields.prealert = 0 then DrillPhase.evacuate else .prealert
    if r.allYielded then (p.noteDrill r (.ready x) none).closeDrill .yielded
    else if x.notReady.isEmpty then (p.noteDrill r (.ready x) (some next)).enterSounding
    else if r.forced then
      let mark := fun (t : BuildingTimer) =>
        { t with partialFlag := t.partialFlag || x.notReady.any fun b => b == t.building }
      let p := p.modRun fun r => { r with timers := r.timers.map mark }
      (p.noteDrill r (.notReady x) (some next)).enterSounding
    else
      let p := match r.origin with
        | .scheduled m => p.markEntry m .started .notReady
        | .request => p
      (p.noteDrill r (.notReady x) none).endRun r
  | none => p

/-- Whether every probe that is judged has echoed or its echo wait has passed (R87, R100). -/
def DrillRun.probesDone (r : DrillRun) : Bool := r.probes.all fun x => !x.judged || x.echoed || x.seen.any (3 ≤ ·)

/-- Probing ends when it has come to its end (R87). -/
def Part.testProbes (p : Part) : Part :=
  match p.drill.run with
  | some r => if r.phase == .checking && r.probing && r.probesDone then p.checkResult else p
  | none => p

/-- The next unsent probe is handed to the urgent class, one at a time (R87). -/
def Part.handProbe (p : Part) : Part :=
  match p.drill.run with
  | some r =>
    match r.probes.find? fun x => x.seen.isNone with
    | some x => if p.waits .urgent (fun h => h.sender == .probe) then p else p.hand (.probe x.number) (some x.position) .probe
    | none => p
  | none => p

/-- Probing begins: the READY and ACTIVE nodes of the buildings that have not yielded are given numbers (R87). -/
def Part.beginProbing (p : Part) : Part :=
  match p.drill.run with
  | some r =>
    let judged := (r.timers.filter fun t => t.state != .yielded).map (·.building)
    let nodes := p.positions.filter fun pos => (p.rosterAt pos).building.any judged.contains && (p.node pos).isActive
    let probes := nodes.mapIdx fun k pos => (⟨pos, (p.drill.probeCounter + k) % 255 + 1, none, false, true⟩ : Probe)
    let counter := if probes.isEmpty then p.drill.probeCounter else (p.drill.probeCounter + probes.length - 1) % 255 + 1
    let p := { p with drill := { p.drill with probeCounter := counter } }.modRun fun r => { r with probing := true, probes := probes }
    p.handProbe.testProbes
  | none => p

/-- Probing begins when every woken node is READY and ACTIVE (R86), or every timer is YIELDED (R178). -/
def Part.testWoken (p : Part) : Part :=
  match p.drill.run with
  | some r =>
    if r.phase == .checking && !r.probing && (r.allYielded || r.woken.all (fun pos => (p.node pos).isActive)) then p.beginProbing
    else p
  | none => p

/-- A probe has been carried: its three cycles begin, and the next probe is handed (R87). -/
def Part.probeCarried (p : Part) (pos : Nat) : Part :=
  (p.modRun fun r => { r with probes := r.probes.map fun x => if x.position == pos then { x with seen := some 0 } else x }).handProbe

/-- A status record's probe echo (R87). -/
def Part.takeEcho (p : Part) (pos echo : Nat) : Part :=
  match p.drill.run with
  | some r =>
    if r.probes.any (fun x => x.position == pos && x.number == echo && !x.echoed && x.seen.any (· < 3)) then
      (p.modRun fun r => { r with probes := r.probes.map fun x => if x.position == pos then { x with echoed := true } else x }).testProbes
    else p
  | none => p

/-- The records of a cycle have been taken: the echo waits move on by one cycle (R87). -/
def Part.countEchoWaits (p : Part) : Part :=
  p.modRun fun r => { r with probes := r.probes.map fun x => { x with seen := x.seen.map (· + 1) } }

/-- The line has stopped: probes not sent are not sent, and no echo is awaited (R130; log entry 25). -/
def Part.probesLost (p : Part) : Part :=
  p.modRun fun r => { r with probes := r.probes.map fun x => if x.echoed then x else { x with seen := some 3 } }

/-- A scope building's numbers in ascending order. -/
def ascending (l : List Nat) : List Nat := (upTo 8).filter l.contains

/-- A drill starts (R84, R85), and CHECKING is entered (R86). -/
def Part.startDrill (p : Part) (program : Nat) (f : Program) (origin : DrillOrigin) (forced : Bool) : Part :=
  let n := p.drill.runCounter % 65535 + 1
  let yielded := fun (b : Nat) => (p.building b).yield != .clear
  let timers := (ascending f.scope).map fun b =>
    (⟨b, if yielded b then .yielded else .waiting, 0, 0, false, false⟩ : BuildingTimer)
  let nodes := p.positions.filter fun pos => (p.rosterAt pos).building.any fun b => f.scope.contains b && !yielded b
  let woken := nodes.filter fun pos => (p.node pos).isReady && !(p.node pos).isActive
  let warm := (woken.map fun pos => ((p.runtime pos).identity.map (·.warmUp)).getD 0).foldl max 0
  let r : DrillRun :=
    { number := n, program := program, fields := f, origin := origin, forced := forced,
      startTime := if p.isSet then some p.campus else none, accepted := p.now, phase := .checking, phaseStart := p.now,
      evacuation := none, allLost := false, timers := timers, woken := woken,
      wakeEnd := if woken.isEmpty then p.now else p.inSeconds (warm + 1), probing := false, probes := [], header := none,
      barred := [] }
  let p := { p with drill := { p.drill with run := some r, runCounter := n, startedSince := true } }
  let p := p.each woken Part.wake
  (p.noteDrill r (.checking woken.length) (some .checking)).testWoken

/-! ### Inputs, yields and node losses -/

/-- Clear edges for a building from one status record (R92). -/
def Part.clearEdge (p : Part) (b : Nat) : Part :=
  match p.drill.run with
  | some r =>
    if (r.phase == .evacuate || r.phase == .muster) && (r.timer b).any (·.state.isRunning) then
      (p.depart b .cleared (p.drillTenths r)).testTimers
    else p
  | none => p

/-- Count edges for a building from one status record (R93). -/
def Part.countEdges (p : Part) (b n : Nat) : Part :=
  match p.drill.run with
  | some r =>
    if r.phase == .evacuate || r.phase == .muster then
      p.modRun fun r => r.modTimer b fun t => { t with muster := saturate16 (t.muster + n) }
    else p
  | none => p

/-- A probe to a node whose building has yielded: one not yet sent is not sent, one sent is not judged (R100). -/
def Probe.spared (x : Probe) : Probe := { x with judged := false, seen := x.seen <|> some 3 }

/-- A building has entered YIELDED (R100). -/
def Part.drillYield (p : Part) (b : Nat) : Part :=
  match p.drill.run with
  | some r =>
    match r.timer b with
    | none => p
    | some t =>
      let p := p.modRun fun r => { r with barred := b :: r.barred }
      match r.phase with
      | .checking =>
        let ours := fun (pos : Nat) => (p.rosterAt pos).building == some b
        let p := p.withdraw .urgent fun h => h.sender == .probe && h.target.any ours
        let p := p.modRun fun r =>
          { r.modTimer b fun t => { t with state := .yielded, elapsed := 0 } with
            probes := r.probes.map fun x => if ours x.position then x.spared else x }
        p.handProbe.testWoken.testProbes
      | .prealert => (p.modRun fun r => r.modTimer b fun t => { t with state := .yielded, elapsed := 0 }).testTimers
      | .evacuate | .muster =>
        (if t.state.isRunning then p.depart b .yielded (p.drillTenths r) else p).testTimers
      | .allclear => p
  | none => p

/-- The partial flag of a building is set; a timer in a running state becomes PARTIAL (R101). -/
def Part.setPartial (p : Part) (b : Nat) : Part :=
  p.modRun fun r => r.modTimer b fun t =>
    { t with partialFlag := true, state := if t.state.isRunning then .partialRun else t.state }

/-- A scope node drops out (R101): the partial flag in PREALERT, EVACUATE and MUSTER, the all-lost mark in any phase. -/
def Part.dropOut (p : Part) (pos : Nat) : Part :=
  match p.drill.run with
  | some r =>
    if p.inScope r.fields.scope pos then
      let p := if r.phase == .prealert || r.phase == .evacuate || r.phase == .muster then
          p.setPartial ((p.rosterAt pos).building.getD 8)
        else p
      let gone := (p.positions.filter (p.inScope r.fields.scope)).all fun q => p.node q == .lost || p.node q == .absent
      if gone then p.modRun fun r => { r with allLost := true } else p
    else p
  | none => p

/-- A DRILL claim has ended UNOWNED in a zone of a building (R101). -/
def Part.drillUnowned (p : Part) (b : Option Nat) : Part := b.elim p p.setPartial

/-! ### Timed ends -/

/-- The wake wait runs out (R86). -/
def Part.drillWakeWaitEnd (p : Part) : Part :=
  match p.drill.run with
  | some r => if r.phase == .checking && !r.probing && r.wakeEnd ≤ p.now then p.beginProbing else p
  | none => p

/-- The prealert's end (R89). -/
def DrillRun.prealertAt (r : DrillRun) : Nat := r.phaseStart + r.fields.prealert * unitsPerSecond

/-- The prealert length runs out (R89). -/
def Part.prealertEnd (p : Part) : Part :=
  match p.drill.run with
  | some r => if r.phase == .prealert && r.prealertAt ≤ p.now then p.enterEvacuate true else p
  | none => p

/-- Whether a building's timer has reached its target (R94). -/
def Part.targetDue (p : Part) (r : DrillRun) (t : BuildingTimer) : Bool :=
  (r.phase == .evacuate || r.phase == .muster) && t.state.isRunning && !t.overdue &&
    r.fields.target t.building * 10 ≤ p.drillTenths r

/-- A timer in a running state reaches its building's target (R94). -/
def Part.targetReached (p : Part) (b : Nat) : Part :=
  match p.drill.run with
  | some r =>
    match r.timer b with
    | some t =>
      if p.targetDue r t then
        (p.modRun fun r => r.modTimer b fun t => { t with overdue := true }).note
          (.drillOverdue r.head b (r.fields.target b) t.muster)
      else p
    | none => p
  | none => p

/-- The tone end's moment (R95). -/
def DrillRun.toneAt (r : DrillRun) : Nat := r.evacuation.getD 0 + r.fields.tone * unitsPerSecond

/-- The tone end (R95). -/
def Part.toneEnd (p : Part) : Part :=
  match p.drill.run with
  | some r => if r.phase == .evacuate && r.toneAt ≤ p.now then p.enterMuster false else p
  | none => p

/-- The muster limit (R95). -/
def Part.musterLimit (p : Part) : Part :=
  match p.drill.run with
  | some r => if r.phase == .muster && r.limitAt ≤ p.now then p.testMuster else p
  | none => p

/-- The all-clear's end (R96). -/
def DrillRun.allclearAt (r : DrillRun) : Nat := r.phaseStart + r.fields.allclear * unitsPerSecond

/-- The all-clear length runs out (R96). -/
def Part.allclearEnd (p : Part) : Part :=
  match p.drill.run with
  | some r =>
    if r.phase == .allclear && r.allclearAt ≤ p.now then
      let p := p.releaseDrills
      (p.displayList false p.displayListed).closeDrill r.endCause
    else p
  | none => p

/-! ### Scheduled drills -/

/-- The moment of a scheduled entry (R102). -/
def ScheduleEntry.moment (e : ScheduleEntry) : CampusTime := minuteMoment e.day e.minute

/-- The WAITING entries that a condition on their moments selects are marked MISSED, with one notice (R103). -/
def Part.missEntries (p : Part) (f : Nat → Bool) : Part :=
  let missed := p.drill.schedule.filter fun e => e.state == .waiting && f e.moment.total
  if missed.isEmpty then p
  else
    (p.setSchedule (p.drill.schedule.map fun e =>
      if e.state == .waiting && f e.moment.total then { e with state := .missed } else e)).note
      (.scheduleMissed (missed.map (·.moment)) (p.drill.run.map (·.phase)))

/-- A WAITING entry whose moment is the present campus time is reached (R103). -/
def Part.reachScheduled (p : Part) : Part :=
  match p.drill.schedule.find? fun e => e.state == .waiting && e.moment == p.campus with
  | some e =>
    if !p.isSet then p
    else
      match p.drill.run, Tab.get p.drill.programs e.program none with
      | none, some f => (p.markEntry e.moment .waiting .started).startDrill e.program f (.scheduled e.moment) false
      | none, none => (p.markEntry e.moment .waiting .refused).note (.scheduleRefused e.moment e.program .empty none)
      | some r, _ =>
        (p.markEntry e.moment .waiting .refused).note (.scheduleRefused e.moment e.program .busy (some r.phase))
  | none => p

/-- The scheduled-drill list takes a jump (R103). -/
def Part.scheduleJump (p : Part) (old new : CampusTime) : Part :=
  (p.missEntries fun m => old.total < m && m < new.total).reachScheduled

/-- The scheduled-drill list takes a time-set event, a start-up or a load (R102, R103). -/
def Part.scheduleSet (p : Part) : Part := if p.isSet then p.missEntries fun m => m ≤ p.campus.total else p

/-! ### Requests -/

/-- Whether a program's fields are allowed (R82, R83). -/
def programAllowed (f : Program) : Bool :=
  let pattern := fun (n : Nat) => n ≤ 15 && !isEvacuation n
  !f.scope.isEmpty && f.scope.all (· < 8) && f.scope.eraseDups.length == f.scope.length &&
  f.chime.all pattern && f.prealert ≤ 60 && !(f.chime.isNone && 0 < f.prealert) && isEvacuation f.evacuation &&
  10 ≤ f.tone && f.tone ≤ 600 && f.targets.length == f.scope.length && f.targets.all (fun t => 10 ≤ t && t ≤ 1800) &&
  60 ≤ f.muster && f.muster ≤ 3600 && f.tone ≤ f.muster && pattern f.allclearPattern && f.allclear ≤ 30

/-- PROGRAM_WRITE (R83). -/
def Part.programWrite (n : Nat) (f : Program) (saving : Bool) (p : Part) : Part × Answer :=
  checked [(saving, .busy), (3 < n || !programAllowed f, .badValue), (p.drill.run.any (·.program == n), .wrongState)] p
    fun p => ({ p with drill := { p.drill with programs := Tab.set p.drill.programs n (some f) } }, okOnly)

/-- PROGRAM_READ (R83). -/
def Part.programRead (n : Nat) (p : Part) : Answer :=
  checkedRead [(3 < n, .badValue)] <| okWith (.program (Tab.get p.drill.programs n none))

/-- DRILL_START (R85). -/
def Part.drillStart (n : Nat) (force : Option Bool) (_saving : Bool) (p : Part) : Part × Answer :=
  checked [(3 < n || force.isNone, .badValue), ((Tab.get p.drill.programs n none).isNone, .notFound), (!p.idle, .wrongState)] p
    fun p =>
      match Tab.get p.drill.programs n none with
      | some f => (p.startDrill n f .request (force.getD false), ⟨.accepted, .runNumber (p.drill.runCounter % 65535 + 1)⟩)
      | none => (p, okOnly)

/-- DRILL_ABORT (R99). -/
def Part.drillAbort (_saving : Bool) (p : Part) : Part × Answer :=
  checked [(p.idle, .wrongState)] p
    fun p =>
      match p.drill.run with
      | some r =>
        let p := (p.withdraw .urgent fun h => h.sender == .probe).releaseDrills
        ((p.unfinish (p.drillTenths r)).closeDrill .aborted, okOnly)
      | none => (p, okOnly)

/-- The tenths that remain to the end of the present phase, where a timed end applies: CHECKING has none, the wake wait
only beginning its probing (R86, R105). -/
def Part.phaseLeft (p : Part) (r : DrillRun) : Option Nat :=
  match r.phase with
  | .checking => none
  | .prealert => some (p.leftUntil r.prealertAt)
  | .evacuate => some (p.leftUntil r.toneAt)
  | .muster => some (p.leftUntil r.limitAt)
  | .allclear => some (p.leftUntil r.allclearAt)

/-- DRILL_READ (R105). -/
def Part.drillRead (p : Part) : Answer :=
  match p.drill.run with
  | none => okWith (.drill none none none [] [] [])
  | some r =>
    let timers := r.timers.map fun t => if t.state.isRunning then { t with elapsed := p.drillTenths r } else t
    let held := fun (b : Nat) => ((zonesOf (p.building b).zones).filter fun z => (p.zone z).drill.isSome).length
    let probes := if r.phase == .checking then
        (p.positions.filter (p.inScope r.fields.scope)).map fun pos =>
          match r.probes.find? fun x => x.position == pos with
          | some x => (pos, some x.number, x.echoed)
          | none => (pos, none, false)
      else []
    okWith (.drill (some r) (p.phaseLeft r) p.drillElapsed timers (r.timers.map fun t => (t.building, held t.building)) probes)

/-- DRILL_RECORDS_READ (R98). -/
def Part.drillRecordsRead (i : Nat) (p : Part) : Answer :=
  checkedRead [(3 < i, .badValue)] <| okWith (.drillRecord p.drill.records.length p.drill.records[i]?)

/-- The order of scheduled entries (R102). -/
def ScheduleEntry.precedes (a b : ScheduleEntry) : Bool := a.moment.total < b.moment.total

/-- SCHEDULE_ADD (R102). -/
def Part.scheduleAdd (date : CalDate) (minute program : Nat) (saving : Bool) (p : Part) : Part × Answer :=
  checked [(saving, .busy), (!date.valid || 1439 < minute || 3 < program, .badValue),
           (p.drill.schedule.any (fun e => e.day == date.number && e.minute == minute), .duplicate),
           (8 ≤ p.drill.schedule.length, .full)] p
    fun p =>
      let late := p.isSet && (minuteMoment date.number minute).total ≤ p.campus.total
      let e : ScheduleEntry := ⟨date.number, minute, program, if late then .missed else .waiting⟩
      (p.setSchedule (insertWhere (fun x => e.precedes x) e p.drill.schedule), okWith (.scheduleState e.state))

/-- SCHEDULE_REMOVE (R102; log entry 35 for a date outside the layout). -/
def Part.scheduleRemove (date : CalDate) (minute : Nat) (saving : Bool) (p : Part) : Part × Answer :=
  let here := fun (e : ScheduleEntry) => date.valid && e.day == date.number && e.minute == minute
  checked [(saving, .busy), (!date.inLayout, .badValue), (!p.drill.schedule.any here, .notFound)] p
    fun p => (p.setSchedule (p.drill.schedule.filter fun e => !here e), okOnly)

/-- SCHEDULE_READ (R102). -/
def Part.scheduleRead (p : Part) : Answer := okWith (.schedule p.drill.schedule)

end Sys2Proof.Machine
end

