-- ==== Sys2Proof/Machine/Campus.lean ====
section
/-! DEFINITION. The time keeper and the calendar: counting, setting, trimming, time changes, day selections and the
quiet window (R1 to R19). -/

namespace Sys2Proof.Machine

/-! ### Notices and selections -/

/-- A TIME_EVENT notice (R19). -/
def Part.noteTime (p : Part) (c : TimeCause) : Part := p.note (.timeEvent c p.campus p.time.quality)

/-- The day selection for a date (R12). -/
def Part.selectionFor (p : Part) (day : Nat) : DaySelection :=
  match p.cal.exceptions.find? fun e => e.first ≤ day && day ≤ e.last with
  | some e => ⟨e.plan, .exception, e.quiet⟩
  | none => ⟨Tab.get p.cal.week (weekdayOf day) none, .week, false⟩

/-- Today's selection becomes `sel`, with its DAY_PLAN notice (R12). -/
def Part.setSelection (p : Part) (sel : DaySelection) (marked : Nat) : Part :=
  { p with cal := { p.cal with selection := sel } }.noteTime (.dayPlan p.backup.day sel marked)

/-- The calendar makes the selection for the current date (R12). -/
def Part.selectDay (p : Part) (marked : Nat) : Part := p.setSelection (p.selectionFor p.backup.day) marked

/-- Whether a time of day lies in the quiet window (R17). -/
def inWindow (start stop tod : Nat) : Bool :=
  if start < stop then start * 600 ≤ tod && tod < stop * 600
  else if stop < start then start * 600 ≤ tod || tod < stop * 600
  else false

/-- Whether the quiet state should be INSIDE (R17). -/
def Part.quietNow (p : Part) : Bool :=
  p.isSet && (p.cal.selection.quiet || inWindow p.cal.quietStart p.cal.quietEnd p.backup.tod)

/-- The quiet state is evaluated; a change is posted to the chain builder and reported (R17). -/
def Part.evaluateQuiet (p : Part) : Part :=
  let now := p.quietNow
  if now == p.cal.inside then p
  else
    let p := { p with cal := { p.cal with inside := now } }
    if now then p.quietBegins.noteTime (.quietBegins p.cal.quietStart p.cal.quietEnd)
    else p.quietEnds.noteTime (.quietEnds p.cal.quietStart p.cal.quietEnd)

/-- The moment of a time-change record (R14). -/
def TimeChange.moment (c : TimeChange) : CampusTime := minuteMoment c.day c.minute

/-- The WAITING records that a condition on their moments selects become DONE; the count of them (R15). -/
def Part.markDone (p : Part) (f : Nat → Bool) : Part × Nat :=
  let hit := fun (c : TimeChange) => !c.done && f c.moment.total
  ({ p with cal := { p.cal with changes := p.cal.changes.map fun c => if hit c then { c with done := true } else c } },
   (p.cal.changes.filter hit).length)

/-- Campus time takes a value (R3, R7). -/
def Part.moveTime (p : Part) (t : CampusTime) : Part :=
  { p with backup := { p.backup with day := t.day, tod := t.tod }, time := { p.time with held := false } }

/-- The trim remainder is cancelled (R5). -/
def Part.cancelTrim (p : Part) : Part := { p with time := { p.time with trim := 0, held := false } }

/-! ### Jumps -/

/-- What stands at the present campus time and has not been taken is reached: bell entries, then a scheduled drill (R29,
R103). -/
def Part.arrive (p : Part) : Part := p.reachEntries.reachScheduled

/-- A jump to a campus time, delivered to its receivers (R4); `cause` is given the records marked DONE (R15). Entries at the
old time, at which campus time had arrived before the jump, are reached ahead of it (R29, R31, R103); a time-change record
there is marked with those passed (log entry 61). -/
def Part.jumpTo (p : Part) (new : CampusTime) (cause : CampusTime → Int → Nat → TimeCause) : Part :=
  let old := p.campus
  let x := (p.arrive.moveTime new).markDone fun m => old.total ≤ m && m ≤ new.total
  let q := x.1.noteTime (cause old ((new.total : Int) - old.total) x.2)
  let q := (if old.day = new.day then q else q.selectDay 0).evaluateQuiet
  ((q.bellJump old new q.cal.selection.plan).scheduleJump old new).evaluateCircuits

/-- TIME_SET makes campus time SET from UNSET: the time-set event (R3, R4). -/
def Part.setFromUnset (p : Part) (new : CampusTime) : Part :=
  let p := p.cancelTrim.moveTime new
  let p := { p with time := { p.time with quality := .set }, backup := { p.backup with valid := true } }
  let x := p.markDone fun m => m ≤ new.total
  let q := ((x.1.noteTime (.set x.2)).selectDay 0).evaluateQuiet
  ((q.bellTimeSet q.cal.selection.plan).scheduleSet).circuitsSet

/-- Campus time becomes UNSET while running, at the end of its range (R2; log entry 36 for the DAY_PLAN notice). -/
def Part.becomeUnset (p : Part) : Part :=
  let p := p.cancelTrim
  let p := { p with time := { p.time with quality := .unset }, backup := { p.backup with valid := false } }
  ((p.noteTime .unsetRangeEnd).setSelection DaySelection.unset 0).evaluateQuiet.circuitsUnset

/-! ### Counting -/

/-- The counter of the backup domain without main power: no trim, and no step past the end of the range (R7; log
entry 27). -/
def Backup.count (b : Backup) : Backup :=
  if !b.valid then b
  else if b.tod + 1 < dayTenths then { b with tod := b.tod + 1 }
  else if b.day < lastDay then { b with day := b.day + 1, tod := 0 }
  else b

/-- What the next tenth of campus time is (R1, R5; log entry 6). -/
inductive NextTenth where
  | plain | wait | trim | dayEnd
  deriving DecidableEq, Repr

/-- What the next tenth of elapsed time brings: an ordinary tenth, the eleventh tenth of a lengthened second, the end of
a shortened or lengthened second, or the end of the date (R1, R5). The tenth that is left out or lasts double, and that a
campus second in progress when the trim is taken is trimmed already, are the model's choice (log entry 6). -/
def Part.nextTenth (p : Part) : NextTenth :=
  if 0 < p.time.trim && p.backup.tod % 10 == 8 then .trim
  else if p.time.trim < 0 && p.backup.tod % 10 == 9 then (if p.time.held then .trim else .wait)
  else if p.backup.tod == dayTenths - 1 then .dayEnd
  else .plain

/-- The time of day that the end of a trimmed campus second reaches, before any day start (R5). -/
def Part.trimmedCount (p : Part) : Nat := if 0 < p.time.trim then p.backup.tod + 2 else p.backup.tod + 1

/-- What the day start of a new date brings (R1): the selection, the quiet state, the timeline. -/
def Part.newDate (p : Part) : Part :=
  let q := p.selectDay 0
  (q.evaluateQuiet).buildNow q.cal.selection.plan

/-- The day start of a new date (R1). -/
def Part.dayStart (p : Part) : Part := (p.moveTime ⟨p.backup.day + 1, 0⟩).newDate

/-- The trim remainder has moved: TRIM_DONE at zero, with campus time as it then stands (R5, R19). -/
def Part.trimMoved (p : Part) : Part := if p.time.trim = 0 then p.noteTime .trimDone else p

/-- A campus second of a trim in progress is complete: the remainder moves by one toward zero (R5). A second that
completes the date brings the day start with it, ahead of whose notices TRIM_DONE is queued (log entry 76), and at the end of
the range campus time becomes UNSET (R1, R2). -/
def Part.trimSecond (p : Part) : Part :=
  let tod := p.trimmedCount
  let trim := if 0 < p.time.trim then p.time.trim - 1 else p.time.trim + 1
  let q := { p with time := { p.time with trim := trim, held := false } }
  if tod < dayTenths then (q.moveTime ⟨p.backup.day, tod⟩).trimMoved
  else if p.backup.day < lastDay then (q.moveTime ⟨p.backup.day + 1, 0⟩).trimMoved.newDate
  else (q.moveTime ⟨p.backup.day, dayTenths - 1⟩).becomeUnset

/-- A whole minute has been reached by counting (R17, R112). -/
def Part.minuteBoundary (p : Part) : Part := p.evaluateQuiet.evaluateCircuits

/-- The WAITING record whose moment is the present campus time (R15). -/
def Part.reachedChange (p : Part) : Option TimeChange :=
  if p.isSet then p.cal.changes.find? fun c => !c.done && c.moment == p.campus else none

/-- A time-change record is reached: marked DONE, and its shift applied as a jump with cause CHANGE (R15). -/
def Part.applyChange (p : Part) (c : TimeChange) : Part :=
  let p := { p with cal := { p.cal with changes := p.cal.changes.map fun x => if x == c then { x with done := true } else x } }
  let new := ((p.campus.total : Int) + c.shift * 600).toNat
  p.jumpTo (campusOf new) fun _ _ marked => .change c.moment c.shift marked

/-! ### Start-up and load -/

/-- Start-up: campus time from the backup domain, with the seasonal changes that fell due (R8; log entry 34 when the
shift leaves the range). With the flag invalid the counter itself is put to 2000-01-01 00:00:00.0 (log entry 62). -/
def Part.restoreTime (p : Part) : Part :=
  let p := p.cancelTrim
  if !p.backup.valid then
    { p with time := { p.time with quality := .unset }, backup := { p.backup with day := 0, tod := 0 } }
  else
    let due := fun (c : TimeChange) => !c.done && c.moment.total ≤ p.campus.total
    let applied := p.cal.changes.filter due
    let shift := (applied.map (·.shift)).sum
    let moved : Int := p.campus.total + shift * 600
    let q := (p.markDone fun m => m ≤ p.campus.total).1
    if moved < 0 ∨ ((lastDay + 1) * dayTenths : Nat) ≤ moved then { q with time := { q.time with quality := .unset } }
    else
      let q := { q with time := { q.time with quality := .set } }
      let q := q.moveTime (campusOf moved.toNat)
      let q := if shift = 0 then q else q.noteTime (.restored applied.length shift)
      (q.markDone fun m => m ≤ moved.toNat).1

/-- Start-up: the selections, builds and marks of the calendar, the bell scheduler and the drill timer (R8, R171). -/
def Part.startSelections (p : Part) : Part :=
  if p.isSet then
    let q := (p.selectDay 0).evaluateQuiet
    (q.buildNow q.cal.selection.plan).scheduleSet
  else p

/-- Today's selection by R12: while campus time is UNSET, NONE with source NONE. -/
def Part.todaysSelection (p : Part) : DaySelection := if p.isSet then p.selectionFor p.backup.day else DaySelection.unset

/-- After STORE_LOAD: with campus time SET the passed records and entries are marked; then the selection is made and the
timeline built from it (R12, R16, R28, R102, R170; log entry 63 for campus time UNSET). -/
def Part.loadSelections (p : Part) : Part :=
  let x := p.markDone fun m => p.isSet && m ≤ p.campus.total
  let q := x.1.scheduleSet
  let q := q.setSelection q.todaysSelection x.2
  (q.evaluateQuiet).buildNow q.cal.selection.plan

/-! ### Requests -/

/-- TIME_SET (R3). -/
def Part.timeSet (date : CalDate) (tod : Nat) (_saving : Bool) (p : Part) : Part × Answer :=
  checked [(!date.valid || 863999 < tod, .badValue)] p
    fun p =>
      let new : CampusTime := ⟨date.number, tod⟩
      (if !p.isSet then p.setFromUnset new
       else if new = p.campus then p.cancelTrim
       else p.cancelTrim.jumpTo new fun old size marked => .jump old size marked, okOnly)

/-- TIME_TRIM (R5). An amount of 0, and every other cancellation of a trim, queues no TRIM_DONE (log entry 64). -/
def Part.timeTrim (amount : Int) (_saving : Bool) (p : Part) : Part × Answer :=
  checked [(!p.isSet, .timeUnset), (amount < -600 || 600 < amount, .badValue)] p
    fun p => ({ p with time := { p.time with trim := amount, held := p.time.held && amount < 0 } }, okOnly)

/-- The earliest WAITING time-change record (R6). -/
def Part.nextChange (p : Part) : Option (CampusTime × Int) :=
  (p.cal.changes.find? fun c => !c.done).map fun c => (c.moment, c.shift)

/-- TIME_READ (R6): while campus time is UNSET the source reads NONE and the quiet state OUTSIDE. -/
def Part.timeRead (p : Part) : Answer :=
  okWith (.time (dateOf p.backup.day) p.backup.tod (weekdayOf p.backup.day) p.time.quality p.time.trim p.backup.valid
    (if p.isSet then p.cal.selection else DaySelection.unset) (p.isSet && p.cal.inside) p.nextChange)

/-- An edit of the week table or the exception list may change today's selection (R13). -/
def Part.selectionEdited (p : Part) : Part :=
  let new := p.selectionFor p.backup.day
  if p.isSet && new != p.cal.selection then
    let q := p.setSelection new 0
    let q := if new.quiet == p.cal.selection.quiet then q else q.evaluateQuiet
    q.buildNow new.plan
  else p

/-- WEEK_WRITE (R9); the request carries seven entries. -/
def Part.weekWrite (entries : List (Option Nat)) (saving : Bool) (p : Part) : Part × Answer :=
  checked [(saving, .busy), (!entries.all planAllowed, .badValue)] p
    fun p => ({ p with cal := { p.cal with week := Vector.ofFn fun i => (entries[i.val]?).getD none } }.selectionEdited, okOnly)

/-- WEEK_READ (R9). -/
def Part.weekRead (p : Part) : Answer := okWith (.week p.cal.week.toList)

/-- Whether a record covers a date (R10). -/
def ExceptionRec.covers (e : ExceptionRec) (day : Nat) : Bool := e.first ≤ day && day ≤ e.last

/-- EXCEPTION_ADD (R10). -/
def Part.exceptionAdd (first last : CalDate) (plan : Option Nat) (quiet : Option Bool) (saving : Bool) (p : Part) :
    Part × Answer :=
  checked [(saving, .busy),
           (!first.valid || !last.valid || last.number < first.number || !planAllowed plan || quiet.isNone, .badValue),
           (p.cal.exceptions.any (fun e => e.first ≤ last.number && first.number ≤ e.last), .overlap),
           (48 ≤ p.cal.exceptions.length, .full)] p
    fun p =>
      let e : ExceptionRec := ⟨first.number, last.number, plan, quiet.getD false⟩
      ({ p with cal := { p.cal with exceptions := insertWhere (fun x => e.first < x.first) e p.cal.exceptions } }.selectionEdited,
       okOnly)

/-- EXCEPTION_REMOVE (R11; log entry 35 for a date outside the layout). -/
def Part.exceptionRemove (first : CalDate) (saving : Bool) (p : Part) : Part × Answer :=
  let here := fun (e : ExceptionRec) => first.valid && e.first == first.number
  checked [(saving, .busy), (!first.inLayout, .badValue), (!p.cal.exceptions.any here, .notFound)] p
    fun p =>
      ({ p with cal := { p.cal with exceptions := p.cal.exceptions.filter fun e => !here e } }.selectionEdited, okOnly)

/-- EXCEPTION_READ (R11). -/
def Part.exceptionRead (i : Nat) (p : Part) : Answer :=
  checkedRead [(47 < i, .badValue)] <|
    okWith (.exceptions p.cal.exceptions.length ((p.cal.exceptions.drop i).take 16))

/-- Whether a shift is allowed: a non-zero multiple of 15 from -120 to +120 that keeps its moment's date (R14). -/
def shiftAllowed (minute : Nat) (shift : Int) : Bool :=
  shift != 0 && shift % 15 == 0 && -120 ≤ shift && shift ≤ 120 && 0 ≤ (minute : Int) + shift && (minute : Int) + shift ≤ 1439

/-- TIME_CHANGE_ADD (R14). -/
def Part.timeChangeAdd (date : CalDate) (minute : Nat) (shift : Int) (saving : Bool) (p : Part) : Part × Answer :=
  checked [(saving, .busy), (!date.valid || 1439 < minute || !shiftAllowed minute shift, .badValue),
           (p.cal.changes.any (fun c => c.day == date.number && c.minute == minute), .duplicate),
           (8 ≤ p.cal.changes.length, .full)] p
    fun p =>
      let done := p.isSet && (minuteMoment date.number minute).total ≤ p.campus.total
      let c : TimeChange := ⟨date.number, minute, shift, done⟩
      let changes := insertWhere (fun x => c.moment.total < x.moment.total) c p.cal.changes
      ({ p with cal := { p.cal with changes := changes } }, okWith (.changeState done))

/-- TIME_CHANGE_REMOVE (R16; log entry 35 for a date outside the layout). -/
def Part.timeChangeRemove (date : CalDate) (minute : Nat) (saving : Bool) (p : Part) : Part × Answer :=
  let here := fun (c : TimeChange) => date.valid && c.day == date.number && c.minute == minute
  checked [(saving, .busy), (!date.inLayout, .badValue), (!p.cal.changes.any here, .notFound)] p
    fun p => ({ p with cal := { p.cal with changes := p.cal.changes.filter fun c => !here c } }, okOnly)

/-- TIME_CHANGE_READ (R16). -/
def Part.timeChangeRead (p : Part) : Answer := okWith (.changes p.cal.changes)

/-- QUIET_SET (R18). -/
def Part.quietSet (start stop : Nat) (saving : Bool) (p : Part) : Part × Answer :=
  checked [(saving, .busy), (1439 < start || 1439 < stop, .badValue)] p
    fun p => ({ p with cal := { p.cal with quietStart := start, quietEnd := stop } }.evaluateQuiet, okOnly)

/-- QUIET_READ (R18). -/
def Part.quietRead (p : Part) : Answer :=
  okWith (.quiet p.cal.quietStart p.cal.quietEnd p.cal.inside)

end Sys2Proof.Machine
end

