-- ==== Sys2Proof/Machine/NodeStates.lean ====
section
/-! DEFINITION. Node states and line states: every change of them and what each block makes of it (R56 to R60, R63,
R76, R101, R107, R116, R134, R145, R152 to R157, R174, R175). -/

namespace Sys2Proof

/-- The level that the active edge of an input leads to (spec 03 section 3.8). -/
def Edge.activeLevel : Edge → Bool
  | .rising => true
  | .falling => false

end Sys2Proof

namespace Sys2Proof.Machine

/-! ### The work list (R146) -/

/-- Whether a task is a SETUP. -/
def Task.isSetup : Task → Bool
  | .setup _ => true
  | _ => false

/-- Whether two tasks are of one kind, a SETUP being of the kind of its position. -/
def Task.sameTask : Task → Task → Bool
  | .build, .build | .retry, .retry | .access _, .access _ | .cut _, .cut _ => true
  | .setup a, .setup b => a == b
  | _, _ => false

/-- SETUP tasks are kept in ascending position ahead of all others (R146). -/
def placeSetup (q : Nat) : List Task → List Task :=
  insertWhere (fun t => match t with | .setup r => decide (q < r) | _ => true) (.setup q)

/-- The work list replaced. -/
def Part.setWork (p : Part) (l : List Task) : Part := { p with chain := { p.chain with work := l } }

/-- A task is added unless the list holds it; a SETUP stands behind the current task, ahead of the others (R146). -/
def Part.addTask (p : Part) (t : Task) : Part :=
  if p.chain.work.any t.sameTask then p
  else
    match t with
    | .setup q =>
      if p.chain.step.isSome then p.setWork (p.chain.work.take 1 ++ placeSetup q (p.chain.work.drop 1))
      else p.setWork (placeSetup q p.chain.work)
    | _ => p.setWork (p.chain.work ++ [t])

/-- A BUILD is placed behind the SETUP tasks (R146, R159; log entry 26). -/
def Part.addBuildFirst (p : Part) : Part :=
  if p.chain.work.any Task.build.sameTask then p
  else p.setWork (p.chain.work.takeWhile Task.isSetup ++ .build :: p.chain.work.dropWhile Task.isSetup)

/-- The current step is over: a command of it that still waits is withdrawn, and its result is not awaited. -/
def Part.dropStep (p : Part) : Part :=
  let mine := fun (h : Handed) => match h.sender with | .step _ => true | _ => false
  let p := (p.withdraw .service mine).withdraw .output mine
  { p with chain := { p.chain with step := none, stepNo := p.chain.stepNo + 1 } }

/-- The current task ends and leaves the list (R146). -/
def Part.endTask (p : Part) : Part := p.dropStep.setWork (p.chain.work.drop 1)

/-- Tasks are removed from the list; the current task's step goes with it. -/
def Part.removeTasks (p : Part) (f : Task → Bool) : Part :=
  if (p.chain.work.head?).any f then (p.endTask).setWork ((p.chain.work.drop 1).filter fun t => !f t)
  else p.setWork (p.chain.work.filter fun t => !f t)

/-! ### The line state -/

/-- The fields of the OP_DONE of LINE_START and LINE_RESTART (R147). -/
def Part.lineFields (p : Part) : OpFields :=
  .line p.chain.line p.chain.reach (if p.chain.line == .partialLine then p.chain.stop else none)

/-- A build that belongs to a long operation ends it (R147). -/
def Part.endBuildOp (p : Part) (st : Status) : Part :=
  if p.chain.buildOp then
    let q := { p with chain := { p.chain with buildOp := false } }
    q.endOp st (if st = .ok then q.lineFields else .none)
  else p

/-- The retry timer is started (R144, R150). -/
def Part.startRetry (p : Part) : Part :=
  { p with chain := { p.chain with retryAt := some (p.inSeconds p.chain.interval) } }

/-- The line becomes PARTIAL, or stays so, with a stop reason (R150, R174); the retry timer is started unless it was
PARTIAL already. -/
def Part.becomePartial (p : Part) (reason : StopReason) (pos : Nat) : Part :=
  let was := p.chain.line == .partialLine
  let p := { p with chain := { p.chain with line := .partialLine, stop := some (reason, pos) } }
  if was && p.chain.retryAt.isSome then p else p.startRetry

/-- A build ends short of the roster length (R150). -/
def Part.endBuild (p : Part) (reason : StopReason) (pos : Nat) : Part :=
  let p := p.removeTasks Task.build.sameTask
  let p := { p with chain := { p.chain with line := .partialLine, stop := some (reason, pos) } }
  p.startRetry.endBuildOp .ok

/-- Whether a READY or SUSPECT node reports an onward fault (R156). -/
def Part.onwardReported (p : Part) : Bool :=
  (upTo 24).any fun pos => (p.node pos).isServed && (p.link pos).latest.any fun r => r.onward != .none

/-- The line becomes RUNNING from PARTIAL when nothing holds it short (R156). -/
def Part.testRunning (p : Part) : Part :=
  let whole := (upTo (min p.chain.reach 24)).all fun pos =>
    match p.node pos with
    | .lost | .absent | .mismatch _ => false
    | _ => true
  let restarts := (upTo 24).any fun pos => (p.runtime pos).restartOut
  if p.chain.line == .partialLine && p.chain.reach == p.chain.length && whole && !restarts && !p.onwardReported then
    { p with chain := { p.chain with line := .running, retryAt := none } }
  else p

/-! ### Yield (R56 to R58) -/

/-- The input definitions of a position with their numbers (R142). -/
def Part.inputDefs (p : Part) (pos : Nat) : List (InputDef × Nat) := (p.rosterAt pos).inputs.toList.zipIdx

/-- The YIELD inputs of a position for a building, by number. -/
def Part.yieldInputs (p : Part) (pos b : Nat) : List Nat :=
  ((p.inputDefs pos).filter fun x => x.1.function == .yield && x.1.building == some b).map Prod.snd

/-- Whether an input is at its active level in a record's inputs. -/
def Part.atActiveLevel (p : Part) (pos i : Nat) (inputs : List (Nat × Bool)) : Bool :=
  match inputs[i]?, ((p.rosterAt pos).inputs.toList)[i]? with
  | some x, some d => x.2 == d.edge.activeLevel
  | _, _ => false

/-- Whether every counted YIELD input of a building reads its inactive level (R57). -/
def Part.yieldInactive (p : Part) (b : Nat) : Bool :=
  (upTo 24).all fun pos =>
    !(p.node pos).isServed ||
      (p.yieldInputs pos b).all fun i =>
        match (p.link pos).latest with
        | some r => !p.atActiveLevel pos i r.inputs
        | none => true

/-- A YIELDED building whose counted inputs all read inactive becomes HELD (R57). -/
def Part.testHeld (p : Part) (b : Nat) : Part :=
  if (p.building b).yield == .yielded && p.yieldInactive b then
    (p.modBuilding b fun x => { x with yield := .held }).note (.yieldState b .yielded .held .inputsInactive)
  else p

/-- The buildings of a position's YIELD inputs, each once, ascending. -/
def Part.yieldBuildings (p : Part) (pos : Nat) : List Nat := (upTo 8).filter fun b => !(p.yieldInputs pos b).isEmpty

/-- A yield trigger for a building (R56). Its notices are queued in the order of its acts: those of the announcements that lose
their last zone, YIELD_STATE, those of the drill (log entry 84). -/
def Part.yieldTrigger (p : Part) (b pos input : Nat) : Part :=
  let old := (p.building b).yield
  if old == .yielded then p
  else
    let zs := zonesOf (p.building b).zones
    let n := fun (f : Zone → Bool) => (zs.filter fun z => f (p.zone z)).length
    let cause := YieldCause.trigger pos input (n (·.bell.isSome)) (n (·.ann.isSome)) (n (·.drill.isSome))
    let p := p.modBuilding b fun x => { x with yield := .yielded, origin := some (pos, input) }
    let p := p.each zs Part.endClaims
    (p.note (.yieldState b old .yielded cause)).drillYield b

/-- The YIELD inputs of a record that are at their active level, taken as triggers (R56). -/
def Part.yieldLevels (p : Part) (pos : Nat) (inputs : List (Nat × Bool)) : Part :=
  p.each (p.yieldBuildings pos) fun p b =>
    match (p.yieldInputs pos b).find? fun i => p.atActiveLevel pos i inputs with
    | some i => p.yieldTrigger b pos i
    | none => p

/-! ### Changes of node state -/

/-- Whether a node that becomes LOST in FOUND or SETTING ends the build at work on it (R150). -/
def Part.losesBuild (p : Part) (pos : Nat) (old new : NodeState) : Bool :=
  new == .lost && (old == .found || old == .setting) && p.chain.work.head? == some .build &&
    match p.chain.step with
    | some (.first q) | some (.setup q _ _) | some (.assign q) => q == pos
    | _ => false

/-- A node's state changes as the chain builder takes it: its setup ends with LOST (R152, R175), a build ends at a
node lost in FOUND or SETTING (R150), an ACCESS ends when its node leaves READY (R158). -/
def Part.chainTakes (p : Part) (pos : Nat) (old new : NodeState) : Part :=
  let p := if new == .lost && p.chain.work.any (Task.sameTask (.setup pos)) && (old == .found || old == .setting) then
      p.removeTasks (Task.sameTask (.setup pos))
    else p
  let p := if p.losesBuild pos old new then p.endBuild .lost pos else p
  let mine := fun (t : Task) => match t with | .access a => a.position == pos | _ => false
  let p := if !new.isReady && p.chain.work.any mine then (p.removeTasks mine).endOp .nodeLost .none else p
  p.testRunning

/-- The setup progress of a node that enters a state: before its first record while SETTING, none otherwise (R145). -/
def NodeState.progress (n : NodeState) : Option SetupProgress := if n == .setting then some ⟨0, 9⟩ else none

/-- A node enters a state: the change is reported (R145) and delivered to every block. `stopped` says that LINE_STOP
or LINE_RESTART has made it ABSENT (R101); `why` is the stop reason that comes with the change, if one does (log entry
72). A change within one of the seven states is no change of node state. A YIELDED building whose YIELD inputs are all on nodes
that become ABSENT so passes to HELD (log entry 77). -/
def Part.setNode (p : Part) (pos : Nat) (new : NodeState) (stopped : Bool) (why : Option (StopReason × Nat) := none) : Part :=
  let old := p.node pos
  let p := p.modRuntime pos fun r =>
    { r with node := new, setup := new.progress, wakeFrom := none, wakeAfter := false, quietAfter := false }
  if old.sameKind new then p
  else
    let why := if p.losesBuild pos old new then some (.lost, pos) else why
    let p := p.note (.nodeState pos old new (p.link pos).missing why (p.runtime pos).setupFault)
    let p := if new.isServed then p
      else { p with line := { p.line with flight := p.line.flight.map fun f =>
        { f with waiting := f.waiting.filter (· != pos), confirmed := f.confirmed.filter (· != pos) } } }
    let p := p.each (p.zonesOwned pos) fun p z => (p.zoneOfNode new.isReady new.isServed z).reviewZone z
    let p := p.settleZones (p.zonesOwned pos)
    let p := p.each (p.yieldBuildings pos) Part.testHeld
    let p := if new == .lost || (new == .absent && stopped) then p.dropOut pos else p
    let p := if old.isReady then p.circuitsLeft pos else p
    let p := if old.isServed && !new.isServed then p.displayLeft pos else p
    let p := if new.isReady then (p.displayReady pos (old == .setting)).circuitsReady pos else p
    p.chainTakes pos old new

/-- A READY node's power state changes: its zones are re-evaluated (R44), a QUIET node with claims is woken (R49), an
ACTIVE one ends a wake wait (R86). -/
def Part.setPower (p : Part) (pos : Nat) (s : PowerState) : Part :=
  let p := p.modRuntime pos fun r => { r with node := .ready s, wakeFrom := none }
  let p := p.each (p.zonesOwned pos) Part.reviewZone
  match s with
  | .quiet => if p.holdsClaims pos then p.wake pos else p
  | .active => p.testWoken
  | .waking => p

/-- A WAKING node has become ACTIVE (R157). -/
def Part.wokenUp (p : Part) (pos : Nat) : Part := (p.setPower pos .active).quietAfterWaking pos

/-- A node enters READY with the power its record reports, and is brought to the power it should have (R157). -/
def Part.becomeReady (p : Part) (pos : Nat) (power : ReportedPower) : Part :=
  ((p.setNode pos (.ready power.state) false).testWoken).bringToPower pos

/-- A LOST or SUSPECT node has returned to READY with its setup unfinished: SETTING, and a SETUP task (R152). -/
def Part.resumeUnfinished (p : Part) (pos : Nat) : Part :=
  if (p.runtime pos).unfinished && (p.node pos).isReady then (p.setNode pos .setting false).addTask (.setup pos) else p

/-- A restart report from a position (R153, R175). -/
def Part.restartReport (p : Part) (q : Nat) : Part :=
  let old := p.node q
  let building := p.chain.work.head? == some .build && (old == .found || old == .setting)
  let p := p.removeTasks (Task.sameTask (.setup q))
  let p := (p.setNode q .absent false (if building then some (.lost, q) else none)).modRuntime q fun r =>
    { r with restartOut := true }
  let p := if building then p.endBuild .lost q else p
  p.addTask (.setup q)

/-! ### Faults -/

/-- Every queue is emptied and the command in flight abandoned (R130). It is done before the nodes change their states
and again after it, so that nothing handed meanwhile stays. -/
def Part.emptyQueues (p : Part) : Part :=
  { p with line := { p.line with urgent := [], output := [], clock := [], service := [], passedClock := 0,
                                 passedService := 0, flight := none, cycle := 0 } }.probesLost

/-- The long operation of the line, if one is in progress, ends with a status (R155, R160). -/
def Part.endLineOps (p : Part) (st : Status) : Part :=
  let other := p.chain.work.any fun t => match t with | .access _ | .cut _ => true | _ => false
  if p.chain.buildOp then p.endBuildOp st else if other then p.endOp st .none else p

/-- The head's port reports a fault: the line becomes FAULTED (R155). -/
def Part.becomeFaulted (p : Part) (kind : PortFault) : Part :=
  let p := p.emptyQueues
  let p := { p with chain := { p.chain with line := .faulted, headCut := none, headPort := kind } }
  let held := p
  let p := p.dropStep.setWork []
  let p := (p.each ((upTo 24).filter fun pos => (p.node pos).isFaultable) fun p pos => p.setNode pos .lost false).emptyQueues
  let p := { p with chain := { p.chain with work := held.chain.work } }.endLineOps .lineFault
  ((p.setWork []).note (.lineFault none kind)).startRetry

/-- An EXTEND to a position that its record has just confirmed has moved the reach on before the record's onward fault is
taken (R150, R154). -/
def Part.extendTaken (p : Part) (pos : Nat) : Part :=
  match p.chain.step, p.line.flight with
  | some (.extend q _), some f =>
    if q == pos && f.sender == .step p.chain.stepNo && f.confirmed.contains pos then
      { p with chain := { p.chain with reach := pos + 1 } }
    else p
  | _, _ => p

/-- A valid record reports an onward fault other than the node's last record did (R154, R174). A BUILD ends by it when it has
gone beyond the position. -/
def Part.onwardChange (p : Part) (pos : Nat) (old new : PortFault) : Part :=
  if new = old then p
  else if new = .none || old != .none then (p.note (.lineFault (some pos) new)).testRunning
  else
    let beyond := (upTo 24).filter fun q => pos < q && (p.node q).isFaultable
    let gone := fun (t : Task) => match t with | .setup q => decide (pos < q) | _ => false
    let p := p.extendTaken pos
    let building := p.chain.work.any Task.build.sameTask && pos < p.chain.reach
    let p := p.removeTasks gone
    let p := if building then (p.removeTasks Task.build.sameTask) else p
    let p := p.each beyond fun p q => p.setNode q .lost false (some (.onwardFault, pos))
    let p := if p.chain.line == .building || p.chain.line == .running || p.chain.line == .partialLine then
        p.becomePartial .onwardFault pos
      else p
    let p := if building then p.startRetry else p
    let p := p.note (.lineFault (some pos) new)
    (if building then p.endBuildOp .ok else p).testRunning

end Sys2Proof.Machine
end

