-- ==== Sys2Proof/Machine/Chain.lean ====
section
/-! DEFINITION. The chain builder: tasks and steps, hails, setup replay, host access, restarts and stops (R142 to R160). -/

namespace Sys2Proof.Machine

/-! ### Steps -/

/-- A step of the current task begins: its command is handed with the next step number (R146). -/
def Part.newStep (p : Part) (st : Step) (c : LineCommand) (target : Option Nat) : Part :=
  let n := p.chain.stepNo + 1
  { p with chain := { p.chain with step := some st, stepNo := n } }.hand c target (.step n)

/-- A step without a command begins. -/
def Part.waitStep (p : Part) (st : Step) : Part :=
  { p with chain := { p.chain with step := some st, stepNo := p.chain.stepNo + 1 } }

/-! ### Setup records (R151, R184) -/

/-- The number of bytes as a big-endian value (R181). -/
def beValue (l : List Byte) : Nat := l.foldl (fun n b => n * 256 + b.toNat) 0

/-- What the head of a setup record calls for (R151, R184). -/
inductive RecordHead where
  | payload (length : Nat) (checkedRecord : Bool)
  | delay (tenths : Nat)
  | bad
  deriving DecidableEq, Repr

/-- The head of a record at a store address: its type, its length or delay, and whether it fits the store (R184). -/
def recordHead (address : Nat) (head : List Byte) : RecordHead :=
  match head with
  | [t, hi, lo] =>
    let n := beValue [hi, lo]
    if t = 0x01#8 then (if 2 ≤ n && n ≤ 65 && address + 3 + n ≤ 65536 then .payload n false else .bad)
    else if t = 0x02#8 then (if 3 ≤ n && n ≤ 66 && address + 3 + n ≤ 65536 then .payload n true else .bad)
    else if t = 0x03#8 then (if 1 ≤ n && n ≤ 4095 then .delay n else .bad)
    else .bad
  | _ => .bad

/-- The bytes that the next read of a record asks for: what remains of its head or of its payload, up to 8 (R151). -/
def readCount (address : Nat) (got : List Byte) : Nat :=
  if got.length < 3 then 3 - got.length
  else match recordHead address (got.take 3) with
    | .payload n _ => min 8 (n + 3 - got.length)
    | _ => 0

/-- A read of the current record (R151). -/
def Part.readRecord (p : Part) (pos : Nat) (got : List Byte) (explicitRead : Bool) (tries : Nat) : Part :=
  let start := ((p.runtime pos).setup.map (·.address)).getD 9
  let address := if explicitRead then some (start + got.length) else none
  p.newStep (.setup pos (.read got explicitRead) tries) (.storeRead address (readCount start got)) (some pos)

/-- NODE_CONFIG with the roster's values (R151). -/
def Part.sendNodeConfig (p : Part) (pos tries : Nat) : Part :=
  let r := p.rosterAt pos
  p.newStep (.setup pos .nodeConfig tries) (.nodeConfig r.window r.tapAssigned r.holdOver) (some pos)

/-- INPUT_CONFIG with the four input definitions (R151). -/
def Part.sendInputConfig (p : Part) (pos tries : Nat) : Part :=
  p.newStep (.setup pos .inputConfig tries)
    (.inputConfig ((p.rosterAt pos).inputs.toList.map fun d => (d.function, d.edge))) (some pos)

/-- SETUP_PUT with the next bytes of a record for a target, up to 8 (R151). -/
def Part.sendPut (p : Part) (pos target : Nat) (rest : List Byte) (size tries : Nat) : Part :=
  p.newStep (.setup pos (.put target rest size) tries) (.setupPut target none (rest.take 8)) (some pos)

/-- The setup record at the setup progress is begun, or, with none left, NODE_CONFIG is sent (R151). A record whose
head would not fit the store is a record fault like one whose payload would not (R184). -/
def Part.beginRecord (p : Part) (pos : Nat) (explicitRead : Bool) : Part :=
  match (p.runtime pos).setup with
  | some x =>
    let count := ((p.runtime pos).identity.map (·.recordCount)).getD 0
    if x.index < count then
      if x.address + 3 ≤ 65536 then p.readRecord pos [] explicitRead 0
      else ((p.modRuntime pos fun r => { r with setupFault := true }).note (.setupFault pos x.index .badRecord)).sendNodeConfig pos 0
    else p.sendNodeConfig pos 0
  | none => p.sendNodeConfig pos 0

/-- Setup goes on with the record after one of `size` bytes (R151). -/
def Part.nextRecord (p : Part) (pos size : Nat) : Part :=
  (p.modRuntime pos fun r => { r with setup := r.setup.map fun x => ⟨x.index + 1, x.address + size⟩ }).beginRecord pos false

/-- A record fault or a failed check: the setup-fault flag and its notice (R151). -/
def Part.faultRecord (p : Part) (pos : Nat) (cause : SetupFaultCause) : Part :=
  let i := ((p.runtime pos).setup.map (·.index)).getD 0
  (p.modRuntime pos fun r => { r with setupFault := true }).note (.setupFault pos i cause)

/-- A record read whole is acted on by its type (R151). `got` are its head and payload. -/
def Part.actOnRecord (p : Part) (pos : Nat) (got : List Byte) (checkedRecord : Bool) : Part :=
  let payload := got.drop 3
  let target := (payload.headD 0#8).toNat
  if target = 255 then (p.faultRecord pos .badRecord).sendNodeConfig pos 0
  else if checkedRecord then
    if crc8 got.dropLast = got.getLastD 0#8 then p.sendPut pos target (payload.drop 1).dropLast got.length 0
    else (p.faultRecord pos .badCheck).nextRecord pos got.length
  else p.sendPut pos target (payload.drop 1) got.length 0

/-- More bytes of a record have been read (R151). -/
def Part.recordRead (p : Part) (pos : Nat) (got : List Byte) : Part :=
  let start := ((p.runtime pos).setup.map (·.address)).getD 9
  if got.length < 3 then p.readRecord pos got false 0
  else match recordHead start (got.take 3) with
    | .bad => (p.faultRecord pos .badRecord).sendNodeConfig pos 0
    | .delay n => p.waitStep (.setup pos (.wait (p.inTenths n)) 0)
    | .payload n c =>
      if got.length < n + 3 then p.readRecord pos got false 0
      else p.actOnRecord pos got c

/-- A setup begins at a position (R151). -/
def Part.beginSetup (p : Part) (pos : Nat) : Part :=
  let p := p.modRuntime pos fun r => { r with setupFault := false, unfinished := true, setup := some ⟨0, 9⟩ }
  if p.chain.autoSetup then p.beginRecord pos true else p.sendNodeConfig pos 0

/-! ### Hails (R149) -/

/-- A HAIL for a position (R149). -/
def Part.sendHail (p : Part) (pos : Nat) (forSetup : Bool) (bad : Nat) : Part :=
  p.newStep (.hail pos forSetup bad none) .hail none

/-- Why an answer is not accepted at a position (R149). -/
def Part.mismatchOf (p : Part) (pos : Nat) (a : HailAnswer) : Option MismatchReason :=
  let r := p.rosterAt pos
  if a.failed then some .header
  else if r.maker.any (· != a.identity.maker) || r.model.any (· != a.identity.model) then some .model
  else if (p.inputDefs pos).any (fun x => x.1.function != .none && a.identity.inputCount ≤ x.2) then some .inputs
  else none

/-- A restart hail that leaves the line short of the roster (R153, R174; log entry 18). -/
def Part.holdShort (p : Part) (reason : StopReason) (pos : Nat) : Part :=
  if p.chain.line == .running || p.chain.line == .partialLine then p.becomePartial reason pos else p

/-- The stop reason of a SETUP or of a build that ends at a position (R145, R150, R153). -/
def Part.stopFor (p : Part) (build : Bool) (reason : StopReason) (pos : Nat) : Option (StopReason × Nat) :=
  if build || p.chain.line == .running || p.chain.line == .partialLine then some (reason, pos) else none

/-- A hail step ends without an answer taken: no answer, or a bad hail (R150, R153, R177). -/
def Part.hailFailed (p : Part) (pos : Nat) (forSetup badHail : Bool) : Part :=
  if forSetup then p.endTask.holdShort .restartLost pos
  else p.endBuild (if badHail then .badHail else .endOfChain) pos

/-- An answer is taken as the hail of a position: it is kept, and accepted or made MISMATCH (R149, R150, R153). The restart
outstanding flag of a position that is sent ASSIGN is cleared as the ASSIGN is carried (log entry 73). -/
def Part.takeAnswer (p : Part) (pos : Nat) (forSetup : Bool) (a : HailAnswer) : Part :=
  let old := p.tapCapacity pos
  let p := (p.modRuntime pos fun r => { r with answer := some a }).capacityChanged pos old
  match p.mismatchOf pos a with
  | some reason =>
    let p := (p.setNode pos (.mismatch reason) false (p.stopFor (!forSetup) .mismatch pos)).modRuntime pos fun r =>
      { r with restartOut := if forSetup then false else r.restartOut }
    if forSetup then p.endTask.holdShort .mismatch pos else p.endBuild .mismatch pos
  | none => p.newStep (.assign pos) (.assign pos) (some pos)

/-- The positions of a list's SETUP tasks. -/
def setupsOf (l : List Task) : List Nat := l.filterMap fun t => match t with | .setup r => some r | _ => none

/-- The SETUP task of a position is made the current one, its hail being answered (R149, R153); the others, an interrupted
one among them, stand behind it in ascending position (R146). -/
def Part.currentSetup (p : Part) (q : Nat) : Part :=
  let p := p.dropStep
  let rest := p.chain.work.filter fun t => !(Task.sameTask (.setup q) t)
  p.setWork (.setup q :: (setupsOf rest).foldr placeSetup [] ++ rest.filter fun t => !t.isSetup)

/-- A valid answer in the hail window of the current hail step (R149, R153). A BUILD's hail takes an answer whose former
position is at or beyond the roster length as an ordinary one for the position hailed, and any other former position as one
whose node has restarted (log entry 83). -/
def Part.hailAnswered (p : Part) (a : HailAnswer) : Part :=
  match p.chain.step with
  | some (.hail pos forSetup _ _) =>
    match a.former with
    | none => p.takeAnswer pos forSetup a
    | some q =>
      if q = pos then p.takeAnswer pos forSetup a
      else if forSetup then
        if (p.runtime q).restartOut then (p.currentSetup q).takeAnswer q true a else p.takeAnswer pos true a
      else if q < p.chain.length then
        let p := if (p.runtime q).restartOut then p else p.restartReport q
        (p.currentSetup q).takeAnswer q true a
      else p.takeAnswer pos false a
  | _ => p

/-- A bad answer in the hail window: HAIL again, or a bad hail after three (R149). -/
def Part.hailBad (p : Part) : Part :=
  match p.chain.step with
  | some (.hail pos forSetup bad _) =>
    if 3 ≤ bad + 1 then p.hailFailed pos forSetup true else p.sendHail pos forSetup (bad + 1)
  | _ => p

/-- The hail windows of a HAIL that have been watched: 10 of them (R149). -/
def hailWindows : Nat := 10

/-- An empty hail window while a hail step watches (R149). -/
def Part.hailEmpty (p : Part) : Part :=
  match p.chain.step with
  | some (.hail pos forSetup bad (some k)) => { p with chain := { p.chain with step := some (.hail pos forSetup bad (some (k + 1))) } }
  | _ => p

/-! ### Host access (R158) -/

/-- The next step of a host access (R158). -/
def Part.accessStep (p : Part) (a : Access) : Part :=
  let p := p.setWork (.access a :: p.chain.work.drop 1)
  match a.data with
  | none =>
    p.newStep .access (.storeRead (if a.explicit then some (a.address + a.got.length) else none) (min 8 (a.count - a.got.length)))
      (some a.position)
  | some bs => p.newStep .access (.setupPut 255 (some (a.address + a.written)) ((bs.drop a.written).take 6)) (some a.position)

/-! ### The task loop (R146, R150, R156) -/

/-- The reach position is READY and set up: EXTEND, or the end of the roster (R150). -/
def Part.extendFrom (p : Part) (pos : Nat) : Part :=
  if pos + 1 < p.chain.length then p.newStep (.extend pos 0) .extend (some pos)
  else { p with chain := { p.chain with reach := p.chain.length } }

/-- A build that has reached the roster length makes the line RUNNING, as R150 says; R156 does not say whether it does so for a
PARTIAL line that a LOST position or an outstanding restart holds short: the model lets it (log entry 88). -/
def Part.buildWhole (p : Part) : Part :=
  let p := p.endTask
  { p with chain := { p.chain with line := .running, retryAt := none } }.endBuildOp .ok

/-- A BUILD task goes on from the reach (R150). -/
def Part.continueBuild (p : Part) : Part :=
  let pos := p.chain.reach
  if p.chain.length ≤ pos then p.buildWhole
  else if (p.node pos).isReady then p.extendFrom pos
  else if (upTo pos).any (fun q => p.node q == .lost || (p.runtime q).restartOut) then p.endBuild .lostBelow pos
  else if (p.chain.work.drop 1).any Task.isSetup then
    let rest := p.chain.work.drop 1
    p.setWork (rest.takeWhile Task.isSetup ++ .build :: rest.dropWhile Task.isSetup)
  else p.sendHail pos false 0

/-- One attempt of a RETRY (R156). -/
def Part.retryAttempt (p : Part) : Part :=
  let p := p.endTask
  let restarts := (upTo 24).filter fun pos => (p.runtime pos).restartOut
  let noApply := (upTo 24).filter fun pos => p.node pos == .mismatch .noApply
  let lostBelow := (upTo p.chain.reach).any fun q => p.node q == .lost
  let p :=
    if p.onwardReported then p
    else if !restarts.isEmpty then p.each restarts fun p q => p.addTask (.setup q)
    else if !noApply.isEmpty then p.each noApply fun p q => p.addTask (.setup q)
    else if p.chain.reach < p.chain.length && !lostBelow then p.addTask .build
    else p
  p.testRunning

/-- A SETUP task becomes current (R153, R156, R152). -/
def Part.beginSetupTask (p : Part) (q : Nat) : Part :=
  if (p.runtime q).restartOut then p.sendHail q true 0
  else if p.node q == .mismatch .noApply then
    ((p.setNode q .setting false).modLink q fun l => { l with missing := 0 }).beginSetup q
  else if p.node q == .setting then p.beginSetup q
  else p.endTask

/-- A position becomes ABSENT because the line is cut or stopped below it (R159, R160). -/
def Part.makeAbsent (p : Part) (pos : Nat) : Part :=
  (p.setNode pos .absent true).modRuntime pos fun r => { r with restartOut := false, unfinished := false }

/-- The cut of LINE_RESTART is made at a position (R159). -/
def Part.cutMade (p : Part) (pos : Nat) (st : Step) : Part :=
  let gone := fun (t : Task) => match t with | .setup q => decide (pos ≤ q) | .build | .retry => true | _ => false
  let p := p.setWork (p.chain.work.filter fun t => !gone t)
  let p := p.each ((upTo 24).filter (pos ≤ ·)) Part.makeAbsent
  let p := { p with chain := { p.chain with line := .building, retryAt := none, reach := pos, buildOp := true } }
  p.waitStep st

/-- The head cuts its own port for 1 s (R147, R159). -/
def Part.cutPort (p : Part) : Part :=
  { p with chain := { p.chain with headCut := some (p.inSeconds 1) } }

/-- A CUT task becomes current: CUT_ONWARD to the position before, or the cut of the head's own port, made at once with
cycles stopped and every queue emptied (R130, R159). -/
def Part.beginCut (p : Part) (pos : Nat) : Part :=
  if pos = 0 then (p.emptyQueues.cutMade 0 .portCut).emptyQueues.cutPort else p.newStep (.cutOnward 0) .cutOnward (some (pos - 1))

/-- The current task is begun, or goes on, until a step waits or the list is empty; at most `fuel` times. -/
def Part.runTasks : Nat → Part → Part
  | 0, p => p
  | fuel + 1, p =>
    match p.chain.step, p.chain.work with
    | some _, _ => p
    | none, [] => p
    | none, .build :: _ => Part.runTasks fuel p.continueBuild
    | none, .setup q :: _ => Part.runTasks fuel (p.beginSetupTask q)
    | none, .retry :: _ => Part.runTasks fuel p.retryAttempt
    | none, .access a :: _ =>
      if (p.node a.position).isReady then p.accessStep a else Part.runTasks fuel (p.endTask.endOp .nodeLost .none)
    | none, .cut pos :: _ => p.beginCut pos

/-- The tasks are run as far as they go: each turn of the loop ends a task, begins a step, or moves the reach or a
BUILD, so 64 turns are enough for a work list of at most 28 tasks. -/
def Part.work (p : Part) : Part := p.runTasks 64

/-! ### Settlements -/

/-- A setup step has been given up for the third time: MISMATCH with reason NO_APPLY (R152). -/
def Part.noApply (p : Part) (pos : Nat) : Part :=
  let build := p.chain.work.head? == some .build
  let p := p.setNode pos (.mismatch .noApply) false (p.stopFor build .noApply pos)
  if build then p.endBuild .noApply pos else p.endTask.holdShort .noApply pos

/-- The setup of a position is complete (R151, R152): READY, and the chain goes on from it. -/
def Part.setupComplete (p : Part) (pos : Nat) : Part :=
  let power := ((p.link pos).latest.map (·.power)).getD .active
  let build := p.chain.work.head? == some .build
  let p := p.modRuntime pos fun r => { r with unfinished := false }
  let p := { p with chain := { p.chain with step := none } }
  let p := ((p.modLink pos fun l => { l with firstDue := true }).becomeReady pos power)
  if build then p
  else
    let p := p.endTask
    if pos = p.chain.reach then p.addTask .build else p

/-- A setup step's command is confirmed (R151). `read` are the bytes of a STORE_READ. -/
def Part.setupConfirmed (p : Part) (pos : Nat) (st : SetupStep) (read : List Byte) : Part :=
  match st with
  | .read got _ => p.recordRead pos (got ++ read)
  | .put target rest size =>
    if (rest.drop 8).isEmpty then p.nextRecord pos size else p.sendPut pos target (rest.drop 8) size 0
  | .wait _ => p
  | .nodeConfig => p.sendInputConfig pos 0
  | .inputConfig => p.newStep (.setup pos .power 0) (.power false) (some pos)
  | .power => p.newStep (.setup pos .display 0) (.display (p.display pos).mode) (some pos)
  | .display => p.setupComplete pos

/-- A setup step's command is given up: made again as a new command, or NO_APPLY after three (R146, R151, R152). -/
def Part.setupGivenUp (p : Part) (pos : Nat) (st : SetupStep) (tries : Nat) : Part :=
  if 3 ≤ tries + 1 then p.noApply pos
  else
    match st with
    | .read got _ => p.readRecord pos got true (tries + 1)
    | .put target rest size => p.sendPut pos target rest size (tries + 1)
    | .wait _ => p
    | .nodeConfig => p.sendNodeConfig pos (tries + 1)
    | .inputConfig => p.sendInputConfig pos (tries + 1)
    | .power => p.newStep (.setup pos .power (tries + 1)) (.power false) (some pos)
    | .display => p.newStep (.setup pos .display (tries + 1)) (.display (p.display pos).mode) (some pos)

/-- A host access step is confirmed (R158). -/
def Part.accessConfirmed (p : Part) (a : Access) (read : List Byte) : Part :=
  match a.data with
  | none =>
    let got := a.got ++ read
    if a.count ≤ got.length then p.endTask.endOp .ok (.bytes got)
    else p.accessStep { a with got := got, explicit := false, tries := 0 }
  | some bs =>
    let written := a.written + 6
    if bs.length ≤ written then p.endTask.endOp .ok .none else p.accessStep { a with written := written, tries := 0 }

/-- The result of the current step's command, by its step number (R133, R146). A node READY or not, a step whose number
is past is not awaited. -/
def Part.stepSettled (p : Part) (n : Nat) (confirmed : Bool) (read : List Byte) : Part :=
  if n != p.chain.stepNo then p
  else
    let q := match p.chain.step with
      | some (.setup pos st tries) => if confirmed then p.setupConfirmed pos st read else p.setupGivenUp pos st tries
      | some (.extend pos tries) =>
        if confirmed then { p with chain := { p.chain with step := none, reach := pos + 1 } }
        else if 3 ≤ tries + 1 then p.endBuild .noApply pos
        else p.newStep (.extend pos (tries + 1)) .extend (some pos)
      | some .access =>
        match p.chain.work with
        | .access a :: _ =>
          if confirmed then p.accessConfirmed a read
          else if 3 ≤ a.tries + 1 then p.endTask.endOp .noConfirm .none
          else p.accessStep { a with explicit := true, tries := a.tries + 1 }
        | _ => p
      | some (.cutOnward tries) =>
        match p.chain.work with
        | .cut pos :: _ =>
          if confirmed then p.cutMade pos (.cutSettle 0)
          else if 3 ≤ tries + 1 then p.endTask.endOp .noConfirm .none
          else p.newStep (.cutOnward (tries + 1)) .cutOnward (some (pos - 1))
        | _ => p
      | _ => p
    q.work

/-- The command of the current step has first been carried: a hail begins to watch (R149). -/
def Part.stepCarried (p : Part) (n : Nat) : Part :=
  if n != p.chain.stepNo then p
  else
    match p.chain.step with
    | some (.hail pos forSetup bad none) => { p with chain := { p.chain with step := some (.hail pos forSetup bad (some 0)) } }
    | _ => p

/-- The cycle that carried ASSIGN is over: no restart is outstanding (R153) as the position becomes FOUND (R150; log entry
17), with a node that has restarted (R117; log entry 59). That a restart of the node has been reported is kept until the node
has applied an ASSIGN (R136, `Part.assignApplied`). -/
def Part.assigned (p : Part) (pos : Nat) : Part :=
  let p := p.modLink pos fun l =>
    { l with missing := 0, since := none, baselines := Vector.replicate 4 0, fresh := true, latest := none, firstDue := false }
  let p := p.modRuntime pos fun r => { r with unfinished := true, restartOut := false }
  ((p.setNode pos .found false).impulsesLost pos).waitStep (.first pos)

/-- The first valid record of a FOUND node: SETTING, and its setup (R150). -/
def Part.firstRecord (p : Part) (pos : Nat) : Part :=
  let mine := p.chain.step == some (.first pos)
  let p := p.setNode pos .setting false
  if mine then (p.beginSetup pos).work else p

/-! ### Timed ends and port events -/

/-- HAIL's ten windows have passed without an answer (R149, R177). -/
def Part.hailWindowEnd (p : Part) : Part :=
  match p.chain.step with
  | some (.hail pos forSetup bad (some k)) =>
    if hailWindows ≤ k then (p.hailFailed pos forSetup (0 < bad)).work else p
  | _ => p

/-- The delay of a WAIT record has run (R151). -/
def Part.setupWaitEnd (p : Part) : Part :=
  match p.chain.step with
  | some (.setup pos (.wait t) _) => if t ≤ p.now then (p.nextRecord pos 3).work else p
  | _ => p

/-- 60 cycles have passed since the cut (R159). -/
def cutCycles : Nat := 60

/-- The settling time of a cut is over: a BUILD begins at the cut (R159). -/
def Part.cutSettleEnd (p : Part) : Part :=
  match p.chain.step with
  | some (.cutSettle k) => if cutCycles ≤ k then (p.endTask.addBuildFirst).work else p
  | _ => p

/-- The line is started from DOWN (R147). -/
def Part.startLine (p : Part) (buildOp : Bool) : Part :=
  { p with chain := { p.chain with line := .building, buildOp := buildOp, reach := 0 } }.cutPort

/-- The head's port closes and is tested (R147, R155, R159). -/
def Part.headPortClose (p : Part) (test : PortFault) : Part :=
  if p.chain.headCut.any (· ≤ p.now) then
    if test != .none then p.becomeFaulted test
    else
      let p := { p with chain := { p.chain with headCut := none, headPort := .none }, line := { p.line with cycle := 0 } }
      let p := if p.chain.step == some .portCut then p.endTask else p
      p.addBuildFirst.work
  else p

/-- The port's condition of a fault kind. -/
def faultOf : FaultKind → PortFault
  | .openLine => .openLine
  | .shorted => .shorted
  | .crossed => .crossed

/-- The head's port reports a fault on a driven line (R155). -/
def Part.headPortFault (p : Part) (k : FaultKind) : Part := if p.driving then p.becomeFaulted (faultOf k) else p

/-- Whether the retry timer has run out. -/
def Part.retryDue (p : Part) : Bool := p.chain.retryAt.any (· ≤ p.now)

/-- A retry of the port test on a FAULTED line (R155). -/
def Part.faultedRetry (p : Part) (test : PortFault) : Part :=
  if p.chain.line == .faulted && p.retryDue then
    if test != .none then { p with chain := { p.chain with headPort := test } }.startRetry
    else
      let p := p.note (.lineFault none .none)
      let p := { p with chain := { p.chain with line := .partialLine, stop := some (.headFault, 0), headPort := .none },
                        line := { p.line with cycle := 0 } }
      p.startRetry.testRunning
  else p

/-- The retry timer expires on a PARTIAL line (R156). -/
def Part.retryExpiry (p : Part) : Part :=
  if p.chain.line == .partialLine && p.retryDue then (p.startRetry.addTask .retry).work else p

/-! ### Requests -/

/-- Whether a roster operand's fields lie in their ranges (R142, R143). -/
def rosterAllowed (r : RosterOperand) : Bool :=
  let building := fun (b : Option Nat) => b.all (· ≤ 7)
  r.maker.all (fun m => 1 ≤ m && m ≤ 255) && r.model.all (fun m => 1 ≤ m && m ≤ 255) &&
  r.window.first ≤ 63 && r.window.last ≤ 63 && building r.building && r.tapAssigned ≤ 2 && r.holdOver ≤ 255 &&
  r.inputs.length == 4 && r.inputs.all fun i =>
    i.function.isSome && i.edge.isSome && building i.building &&
    !((i.function == some .clear || i.function == some .count || i.function == some .yield) && i.building != r.building)

/-- The record that an allowed roster operand stands for (R143). -/
def rosterOf (r : RosterOperand) : RosterRecord :=
  { maker := r.maker, model := r.model, window := r.window, building := r.building, tapAssigned := r.tapAssigned,
    holdOver := r.holdOver,
    inputs := Vector.ofFn fun i =>
      match r.inputs[i.val]? with
      | some x => ⟨x.function.getD .none, x.building, x.edge.getD .rising⟩
      | none => ⟨.none, none, .rising⟩ }

/-- The roster has been written: owners and capacities follow at once (R61, R72, R73, R79). The free ANNOUNCE slots of every
position's zones are then offered, whether or not lanes have been freed or capacity has risen there (log entry 85). -/
def Part.rosterChanged (old p : Part) : Part :=
  let orphans := (upTo 64).filter fun z => (old.owner z).isSome && (p.owner z).isNone
  let p := p.each orphans fun p z =>
    let b := if (p.zone z).drill.isSome then p.buildingOf z else none
    ((p.endClaims z).modZone z fun zone => { zone with confirmed := none, dirty := false }).drillUnowned b
  let p := p.settleZones (upTo 64)
  p.each (upTo 24) fun p pos => (p.enforceCapacity pos).offerNode pos

/-- ROSTER_WRITE (R143). -/
def Part.rosterWrite (pos : Nat) (r : RosterOperand) (saving : Bool) (p : Part) : Part × Answer :=
  let taken := (upTo 24).any fun q => q != pos && (p.rosterAt q).window.meets r.window
  checked [(saving, .busy), (p.chain.line != .down, .wrongState), (23 < pos || !rosterAllowed r, .badValue),
           (taken, .overlap)] p
    fun p => (Part.rosterChanged p
      { p with chain := { p.chain with roster := Tab.set p.chain.roster pos (rosterOf r) } }, okOnly)

/-- ROSTER_LENGTH (R143). -/
def Part.rosterLength (n : Nat) (saving : Bool) (p : Part) : Part × Answer :=
  checked [(saving, .busy), (p.chain.line != .down, .wrongState), (24 < n, .badValue)] p
    fun p => (Part.rosterChanged p { p with chain := { p.chain with length := n } }, okOnly)

/-- ROSTER_READ (R143). -/
def Part.rosterRead (pos : Nat) (p : Part) : Answer :=
  checkedRead [(23 < pos, .badValue)] <| okWith (.roster (p.rosterAt pos) p.chain.length)

/-- LINE_SETTINGS (R144). -/
def Part.lineSettings (autoStart autoSetup : Option Bool) (interval : Nat) (saving : Bool) (p : Part) : Part × Answer :=
  checked [(saving, .busy), (interval < 1 || 255 < interval || autoStart.isNone || autoSetup.isNone, .badValue)] p
    fun p => ({ p with chain := { p.chain with autoStart := autoStart.getD false, autoSetup := autoSetup.getD false,
                                               interval := interval } }, okOnly)

/-- LINE_SETTINGS_READ (R144). -/
def Part.lineSettingsRead (p : Part) : Answer :=
  okWith (.lineSettings p.chain.autoStart p.chain.autoSetup p.chain.interval)

/-- CHAIN_READ (R145). -/
def Part.chainRead (first : Nat) (p : Part) : Answer :=
  checkedRead [(23 < first, .badValue)] <|
    let c := p.chain
    okWith (.chain c.line c.reach c.stop c.autoStart c.autoSetup c.interval c.work ((c.runtime.toList.drop first).take 8))

/-- LINE_START (R147); the port has found its long-operation slot free. -/
def Part.lineStart (p : Part) : Part × Answer :=
  checked [(p.chain.line != .down || p.chain.length == 0, .wrongState)] p
    fun p => (p.startLine true, ⟨.accepted, .none⟩)

/-- LINE_RESTART (R159); the port has found its long-operation slot free. -/
def Part.lineRestart (pos : Nat) (p : Part) : Part × Answer :=
  checked [(p.chain.length ≤ pos, .badValue),
           ((p.chain.line != .running && p.chain.line != .partialLine) || (0 < pos && !(p.node (pos - 1)).isServed), .wrongState)] p
    fun p => (((p.addTask (.cut pos)).work), ⟨.accepted, .none⟩)

/-- LINE_STOP (R160). -/
def Part.lineStop (_saving : Bool) (p : Part) : Part × Answer :=
  if p.chain.line == .down then (p, okOnly)
  else
    let p := p.emptyQueues
    let held := p.chain.work
    let p := p.dropStep.setWork []
    let p := { p with chain := { p.chain with line := .down, headCut := none } }
    let p := (p.each (upTo 24) Part.makeAbsent).emptyQueues
    let p := (p.setWork held).endLineOps .lineDown
    let p := p.setWork []
    ({ p with chain := { p.chain with reach := 0, stop := none, retryAt := none } }, okOnly)

/-- NODE_POWER (R157). -/
def Part.nodePower (pos : Nat) (power : Option PowerRequest) (_saving : Bool) (p : Part) : Part × Answer :=
  checked [(23 < pos || power.isNone, .badValue), (!(p.node pos).isReady, .wrongState)] p
    fun p =>
      match power with
      | some .quiet => (if p.node pos == .ready .quiet then p else p.sendQuiet pos, okOnly)
      | _ => (p.wake pos, okOnly)

/-- NODE_READ (R158); the port has found its long-operation slot free. -/
def Part.nodeRead (pos address count : Nat) (p : Part) : Part × Answer :=
  checked [(23 < pos || count < 1 || 240 < count || 65536 < address + count, .badValue), (!(p.node pos).isReady, .wrongState)] p
    fun p => ((p.addTask (.access ⟨pos, address, count, none, [], 0, true, 0⟩)).work, ⟨.accepted, .none⟩)

/-- NODE_WRITE (R158); the port has found its long-operation slot free. -/
def Part.nodeWrite (pos address : Nat) (bytes : List Byte) (p : Part) : Part × Answer :=
  checked [(23 < pos || bytes.length < 1 || 240 < bytes.length || 65536 < address + bytes.length, .badValue),
           (!(p.node pos).isReady, .wrongState)] p
    fun p => ((p.addTask (.access ⟨pos, address, bytes.length, some bytes, [], 0, true, 0⟩)).work, ⟨.accepted, .none⟩)

end Sys2Proof.Machine
end

