-- ==== Sys2Proof/Machine/ChainCommands.lean ====
section
/-! DEFINITION. The meanings of the commands of the chain builder (R142 to R160). -/

namespace Sys2Proof.Machine

/-- ROSTER_WRITE (R143). -/
def execRosterWrite (tag : Nat) (position : Nat) (record : RosterOperand) (s : State) : Result :=
  .next (request (.rosterWrite tag position record) tag 0x48 (ofPart (Part.rosterWrite position record)) s)

/-- ROSTER_LENGTH (R143). -/
def execRosterLength (tag : Nat) (length : Nat) (s : State) : Result :=
  .next (request (.rosterLength tag length) tag 0x49 (ofPart (Part.rosterLength length)) s)

/-- ROSTER_READ (R143). -/
def execRosterRead (tag : Nat) (position : Nat) (s : State) : Result :=
  .next (request (.rosterRead tag position) tag 0x4A (ofReader (Part.rosterRead position)) s)

/-- LINE_SETTINGS (R144). -/
def execLineSettings (tag : Nat) (autoStart : Option Bool) (autoSetup : Option Bool) (interval : Nat) (s : State) :
    Result :=
  .next (request (.lineSettings tag autoStart autoSetup interval) tag 0x4B (ofPart (Part.lineSettings autoStart autoSetup interval)) s)

/-- LINE_SETTINGS_READ (R144). -/
def execLineSettingsRead (tag : Nat) (s : State) : Result :=
  .next (request (.lineSettingsRead tag) tag 0x4C (ofReader Part.lineSettingsRead) s)

/-- CHAIN_READ (R145). -/
def execChainRead (tag : Nat) (first : Nat) (s : State) : Result :=
  .next (request (.chainRead tag first) tag 0x4D (ofReader (Part.chainRead first)) s)

/-- LINE_START (R147). -/
def execLineStart (tag : Nat) (s : State) : Result :=
  .next (request (.lineStart tag) tag 0x4E (longOp tag 0x4E (ofPart (fun _ p => p.lineStart))) s)

/-- LINE_RESTART (R159). -/
def execLineRestart (tag : Nat) (position : Nat) (s : State) : Result :=
  .next (request (.lineRestart tag position) tag 0x4F (longOp tag 0x4F (ofPart (fun _ p => p.lineRestart position))) s)

/-- LINE_STOP (R160). -/
def execLineStop (tag : Nat) (s : State) : Result := .next (request (.lineStop tag) tag 0x50 (ofPart Part.lineStop) s)

/-- NODE_POWER (R157). -/
def execNodePower (tag : Nat) (position : Nat) (power : Option PowerRequest) (s : State) : Result :=
  .next (request (.nodePower tag position power) tag 0x51 (ofPart (Part.nodePower position power)) s)

/-- NODE_READ (R158). -/
def execNodeRead (tag : Nat) (position : Nat) (address : Nat) (count : Nat) (s : State) : Result :=
  .next (request (.nodeRead tag position address count) tag 0x52 (longOp tag 0x52 (ofPart (fun _ p => p.nodeRead position address count))) s)

/-- NODE_WRITE (R158). -/
def execNodeWrite (tag : Nat) (position : Nat) (address : Nat) (bytes : List Byte) (s : State) : Result :=
  .next (request (.nodeWrite tag position address bytes) tag 0x53 (longOp tag 0x53 (ofPart (fun _ p => p.nodeWrite position address bytes))) s)

/-- HAIL_WINDOW_END (R149). -/
def execHailWindowEnd (s : State) : Result := .next (event Part.hailWindowEnd s)

/-- SETUP_WAIT_END (R151). -/
def execSetupWaitEnd (s : State) : Result := .next (event Part.setupWaitEnd s)

/-- HEAD_PORT_CLOSE (R147). -/
def execHeadPortClose (test : PortFault) (s : State) : Result := .next (event (fun p => p.headPortClose test) s)

/-- HEAD_PORT_FAULT (R155). -/
def execHeadPortFault (kind : FaultKind) (s : State) : Result := .next (event (fun p => p.headPortFault kind) s)

/-- FAULTED_RETRY_EXPIRY (R155). -/
def execFaultedRetryExpiry (test : PortFault) (s : State) : Result := .next (event (fun p => p.faultedRetry test) s)

/-- RETRY_EXPIRY (R156). -/
def execRetryExpiry (s : State) : Result := .next (event Part.retryExpiry s)

/-- CUT_SETTLE_END (R159). -/
def execCutSettleEnd (s : State) : Result := .next (event Part.cutSettleEnd s)

end Sys2Proof.Machine
end

