-- ==== Sys2Proof/Machine/ClockCommands.lean ====
section
/-! DEFINITION. The meanings of the commands of displays and impulse circuits (R106 to R123). -/

namespace Sys2Proof.Machine

/-- DISPLAY_SET (R109). -/
def execDisplaySet (tag : Nat) (position : Nat) (blank : Option Bool) (s : State) : Result :=
  .next (request (.displaySet tag position blank) tag 0x3A (ofPart (Part.displaySet position blank)) s)

/-- DISPLAY_READ (R109). -/
def execDisplayRead (tag : Nat) (s : State) : Result :=
  .next (request (.displayRead tag) tag 0x3B (ofReader Part.displayRead) s)

/-- CIRCUIT_WRITE (R120). -/
def execCircuitWrite (tag : Nat) (circuit : Nat) (definition : Option CircuitDef) (s : State) : Result :=
  .next (request (.circuitWrite tag circuit definition) tag 0x3C (ofPart (Part.circuitWrite circuit definition)) s)

/-- CIRCUIT_SET_DIAL (R121). -/
def execCircuitSetDial (tag : Nat) (circuit : Nat) (reading : Nat) (polarity : PolarityGiven) (s : State) : Result :=
  .next (request (.circuitSetDial tag circuit reading polarity) tag 0x3D (ofPart (Part.circuitSetDial circuit reading polarity)) s)

/-- CIRCUIT_STOP (R122). -/
def execCircuitStop (tag : Nat) (circuit : Nat) (s : State) : Result :=
  .next (request (.circuitStop tag circuit) tag 0x3E (ofPart (Part.circuitStop circuit)) s)

/-- CIRCUIT_RUN (R122). -/
def execCircuitRun (tag : Nat) (circuit : Nat) (s : State) : Result :=
  .next (request (.circuitRun tag circuit) tag 0x3F (ofPart (Part.circuitRun circuit)) s)

/-- CIRCUIT_READ (R123). -/
def execCircuitRead (tag : Nat) (circuits : Range) (s : State) : Result :=
  .next (request (.circuitRead tag circuits) tag 0x40 (ofReader (Part.circuitRead circuits)) s)

/-- IMPULSE_SPACING_END (R113). -/
def execImpulseSpacingEnd (circuit : Nat) (s : State) : Result := .next (event (fun p => p.spacingEnd circuit) s)

/-- CONFIRMATION_WAIT_END (R115). -/
def execConfirmationWaitEnd (circuit : Nat) (s : State) : Result :=
  .next (event (fun p => p.confirmationWaitEnd circuit) s)

end Sys2Proof.Machine
end

