-- ==== Sys2Proof/Machine/DrillCommands.lean ====
section
/-! DEFINITION. The meanings of the commands of drills (R82 to R105). -/

namespace Sys2Proof.Machine

/-- PROGRAM_WRITE (R83). -/
def execProgramWrite (tag : Nat) (program : Nat) (fields : Program) (s : State) : Result :=
  .next (request (.programWrite tag program fields) tag 0x30 (ofPart (Part.programWrite program fields)) s)

/-- PROGRAM_READ (R83). -/
def execProgramRead (tag : Nat) (program : Nat) (s : State) : Result :=
  .next (request (.programRead tag program) tag 0x31 (ofReader (Part.programRead program)) s)

/-- DRILL_START (R85). -/
def execDrillStart (tag : Nat) (program : Nat) (force : Option Bool) (s : State) : Result :=
  .next (request (.drillStart tag program force) tag 0x32 (ofPart (Part.drillStart program force)) s)

/-- DRILL_ABORT (R99). -/
def execDrillAbort (tag : Nat) (s : State) : Result :=
  .next (request (.drillAbort tag) tag 0x33 (ofPart Part.drillAbort) s)

/-- DRILL_READ (R105). -/
def execDrillRead (tag : Nat) (s : State) : Result :=
  .next (request (.drillRead tag) tag 0x34 (ofReader Part.drillRead) s)

/-- DRILL_RECORDS_READ (R98). -/
def execDrillRecordsRead (tag : Nat) (index : Nat) (s : State) : Result :=
  .next (request (.drillRecordsRead tag index) tag 0x35 (ofReader (Part.drillRecordsRead index)) s)

/-- SCHEDULE_ADD (R102). -/
def execScheduleAdd (tag : Nat) (date : CalDate) (minute : Nat) (program : Nat) (s : State) : Result :=
  .next (request (.scheduleAdd tag date minute program) tag 0x36 (ofPart (Part.scheduleAdd date minute program)) s)

/-- SCHEDULE_REMOVE (R102). -/
def execScheduleRemove (tag : Nat) (date : CalDate) (minute : Nat) (s : State) : Result :=
  .next (request (.scheduleRemove tag date minute) tag 0x37 (ofPart (Part.scheduleRemove date minute)) s)

/-- SCHEDULE_READ (R102). -/
def execScheduleRead (tag : Nat) (s : State) : Result :=
  .next (request (.scheduleRead tag) tag 0x38 (ofReader Part.scheduleRead) s)

/-- SCHEDULED_DRILL_REACHED (R103). -/
def execScheduledDrillReached (s : State) : Result := .next (event Part.reachScheduled s)

/-- DRILL_WAKE_WAIT_END (R86). -/
def execDrillWakeWaitEnd (s : State) : Result := .next (event Part.drillWakeWaitEnd s)

/-- PROBE_ECHO_WAIT_END (R87). -/
def execProbeEchoWaitEnd (s : State) : Result := .next (event Part.testProbes s)

/-- PREALERT_END (R89). -/
def execPrealertEnd (s : State) : Result := .next (event Part.prealertEnd s)

/-- TARGET_REACHED (R94). -/
def execTargetReached (building : Nat) (s : State) : Result := .next (event (fun p => p.targetReached building) s)

/-- TONE_END (R95). -/
def execToneEnd (s : State) : Result := .next (event Part.toneEnd s)

/-- MUSTER_LIMIT (R95). -/
def execMusterLimit (s : State) : Result := .next (event Part.musterLimit s)

/-- ALLCLEAR_END (R96). -/
def execAllclearEnd (s : State) : Result := .next (event Part.allclearEnd s)

end Sys2Proof.Machine
end

