-- ==== Sys2Proof/Machine/Cells.lean ====
section
/-! DEFINITION. The addressed memory of a node's setup store: 65,536 bytes as a canonical list of cells (R184). -/

namespace Sys2Proof.Machine

/-- What an unlisted address of a setup store reads as (log entry 13). -/
def Memory.unlisted : Byte := 0#8

/-- Whether addresses rise strictly from above `low`, stay below 65,536, and no cell holds the unlisted byte. -/
def Memory.wfFrom (low : Nat) : List Host.Cell → Bool
  | [] => true
  | c :: l => low ≤ c.1 && c.1 < 65536 && c.2 != Memory.unlisted && Memory.wfFrom (c.1 + 1) l

/-- The canonical form: addresses strictly rising, no cell equal to what an unlisted address reads as. -/
def Memory.wf (m : List Host.Cell) : Bool := Memory.wfFrom 0 m

/-- One byte read. -/
def Memory.read (m : List Host.Cell) (a : Nat) : Byte :=
  match m with
  | [] => Memory.unlisted
  | c :: l => if c.1 = a then c.2 else Memory.read l a

/-- One byte written; writing the unlisted byte removes the cell. -/
def Memory.write (m : List Host.Cell) (a : Nat) (b : Byte) : List Host.Cell :=
  match m with
  | [] => if b = Memory.unlisted then [] else [(a, b)]
  | c :: l =>
    if a < c.1 then (if b = Memory.unlisted then c :: l else (a, b) :: c :: l)
    else if a = c.1 then (if b = Memory.unlisted then l else (a, b) :: l)
    else c :: Memory.write l a b

/-- Addresses run from 0 to 65,535; the next after 65,535 is 0 (log entry 13). -/
def Memory.wrap (a : Nat) : Nat := a % 65536

/-- A run of bytes read from an address on. -/
def Memory.readRun (m : List Host.Cell) (a n : Nat) : List Byte :=
  (List.range n).map fun k => Memory.read m (Memory.wrap (a + k))

/-- A run of bytes written from an address on. -/
def Memory.writeRun (m : List Host.Cell) (a : Nat) : List Byte → List Host.Cell
  | [] => m
  | b :: l => Memory.writeRun (Memory.write m (Memory.wrap a) b) (a + 1) l

end Sys2Proof.Machine
end

