-- ==== Sys2Proof/Machine/Formats.lean ====
section
/-! DEFINITION. The bytes of the campus line and of the setup store header: line commands, the down half, status
records, hail answers (R183, R184), each written and read by the tables of spec 11. -/

namespace Sys2Proof

/-- The codes of polarities, input functions, edges, display modes and onward faults (R183). -/
def Polarity.code : Polarity → Nat
  | .positive => 1
  | .negative => 2

/-- The code of an input function (R183). -/
def InputFunction.code : InputFunction → Nat
  | .none => 0 | .clear => 1 | .count => 2 | .yield => 3 | .general => 4

/-- The input function with a code. -/
def inputFunctionOf : Nat → Option InputFunction
  | 0 => some .none | 1 => some .clear | 2 => some .count | 3 => some .yield | 4 => some .general
  | _ => none

/-- The code of an active edge (R183). -/
def Edge.code : Edge → Nat
  | .rising => 0
  | .falling => 1

/-- The edge with a code. -/
def edgeOf : Nat → Option Edge
  | 0 => some .rising
  | 1 => some .falling
  | _ => none

/-- The code of an onward fault (R183). -/
def PortFault.code : PortFault → Nat
  | .none => 0 | .openLine => 1 | .shorted => 2 | .crossed => 3

/-- The onward fault with a code. -/
def portFaultOf : Nat → Option PortFault
  | 0 => some .none | 1 => some .openLine | 2 => some .shorted | 3 => some .crossed
  | _ => none

end Sys2Proof

namespace Sys2Proof.Machine

/-! ### Fields (R181) -/

/-- A one-byte field. -/
def byteOf (n : Nat) : Byte := BitVec.ofNat 8 n

/-- A two-byte field, most significant byte first. -/
def be2 (n : Nat) : List Byte := [byteOf (n / 256), byteOf n]

/-- A three-byte field, most significant byte first. -/
def be3 (n : Nat) : List Byte := [byteOf (n / 65536), byteOf (n / 256), byteOf n]

/-- A one-byte field whose `none` is the mark 0xFF. -/
def markedByte (n : Option Nat) : Byte := byteOf (n.getD 255)

/-- The number in a byte whose mark 0xFF is `none`. -/
def unmarked (b : Byte) : Option Nat := if b = 0xFF#8 then none else some b.toNat

/-- Every item of a list read by `f`; `none` if one is not read. -/
def readAll {α β : Type} (f : α → Option β) : List α → Option (List β)
  | [] => some []
  | a :: l => (f a).bind fun b => (readAll f l).map fun bs => b :: bs

/-- `n` pairs of bytes from the front of a list. -/
def readPairs : Nat → List Byte → Option (List (Byte × Byte) × List Byte)
  | 0, l => some ([], l)
  | n + 1, a :: b :: l => (readPairs n l).map fun x => ((a, b) :: x.1, x.2)
  | _ + 1, _ => none

/-- The bytes of a list and its check byte (R185). -/
def withCheck (l : List Byte) : List Byte := l ++ [crc8 l]

/-- The bytes before a check byte that matches them. -/
def checkedBytes (l : List Byte) : Option (List Byte) :=
  if !l.isEmpty && crc8 l.dropLast == l.getLastD 0#8 then some l.dropLast else none

/-! ### Line commands (R183) -/

/-- A zone output takes two bytes (R181). -/
def Output.bytes : Output → List Byte
  | .silent => [0#8, 0#8]
  | .pattern p => [1#8, byteOf p]
  | .audio n => [2#8, byteOf n]

/-- The zone output of two bytes. -/
def outputOf (k v : Byte) : Option Output :=
  if k = 0#8 then (if v = 0#8 then some .silent else none)
  else if k = 1#8 then (if v.toNat ≤ 15 then some (.pattern v.toNat) else none)
  else if k = 2#8 then (if v.toNat = 1 ∨ v.toNat = 2 then some (.audio v.toNat) else none)
  else none

/-- The code of a display mode. -/
def DisplayMode.code : DisplayMode → Nat
  | .time => 0 | .drill => 1 | .blank => 2

/-- The code of a line command (R183). -/
def LineCommand.code : LineCommand → Nat
  | .zoneOutput .. => 0x01 | .impulse .. => 0x02 | .display _ => 0x03 | .power _ => 0x04 | .probe _ => 0x05
  | .hail => 0x06 | .assign _ => 0x07 | .extend => 0x08 | .cutOnward => 0x09 | .setupPut .. => 0x0A
  | .storeRead .. => 0x0B | .inputConfig _ => 0x0C | .nodeConfig .. => 0x0D

/-- The fields of a line command, in order (R183). -/
def LineCommand.fieldBytes : LineCommand → List Byte
  | .zoneOutput lo hi o => byteOf lo :: byteOf hi :: o.bytes
  | .impulse l p w => [byteOf l, byteOf p.code, byteOf w]
  | .display m => [byteOf m.code]
  | .power q => [if q then 1#8 else 0#8]
  | .probe n => [byteOf n]
  | .hail | .extend | .cutOnward => []
  | .assign p => [byteOf p]
  | .setupPut t a bs => byteOf t :: ((a.map be2).getD [] ++ bs)
  | .storeRead a n => (match a with
      | some x => 0#8 :: be2 x
      | none => [1#8, 0#8, 0#8]) ++ [byteOf n]
  | .inputConfig l => l.flatMap fun x => [byteOf x.1.code, byteOf x.2.code]
  | .nodeConfig w t h => [byteOf w.first, byteOf w.last, byteOf t, byteOf h]

/-- An input definition of INPUT_CONFIG. -/
def inputOf (x : Byte × Byte) : Option (InputFunction × Edge) :=
  (inputFunctionOf x.1.toNat).bind fun f => (edgeOf x.2.toNat).map fun e => (f, e)

/-- The line command of a code and its fields, if every field lies within the values of R183. -/
def LineCommand.read (code : Nat) (f : List Byte) : Option LineCommand :=
  match code, f with
  | 0x01, [lo, hi, k, v] =>
    if lo.toNat ≤ 63 && hi.toNat ≤ 63 then (outputOf k v).map (.zoneOutput lo.toNat hi.toNat) else none
  | 0x02, [l, p, w] =>
    if l.toNat ≤ 1 then
      if p.toNat = 1 then some (.impulse l.toNat .positive w.toNat)
      else if p.toNat = 2 then some (.impulse l.toNat .negative w.toNat) else none
    else none
  | 0x03, [m] =>
    if m.toNat = 0 then some (.display .time) else if m.toNat = 1 then some (.display .drill)
    else if m.toNat = 2 then some (.display .blank) else none
  | 0x04, [q] => if q.toNat = 0 then some (.power false) else if q.toNat = 1 then some (.power true) else none
  | 0x05, [n] => some (.probe n.toNat)
  | 0x06, [] => some .hail
  | 0x07, [p] => if p.toNat ≤ 23 then some (.assign p.toNat) else none
  | 0x08, [] => some .extend
  | 0x09, [] => some .cutOnward
  | 0x0A, t :: bs =>
    if t.toNat = 255 then
      match bs with
      | a :: b :: c :: l => if l.length ≤ 5 then some (.setupPut 255 (some (beValue [a, b])) (c :: l)) else none
      | _ => none
    else if 1 ≤ bs.length && bs.length ≤ 8 then some (.setupPut t.toNat none bs) else none
  | 0x0B, [m, a, b, n] =>
    if 1 ≤ n.toNat && n.toNat ≤ 8 then
      if m.toNat = 0 then some (.storeRead (some (beValue [a, b])) n.toNat)
      else if m.toNat = 1 && beValue [a, b] == 0 then some (.storeRead none n.toNat) else none
    else none
  | 0x0C, [a, b, c, d, e, f, g, h] => (readAll inputOf [(a, b), (c, d), (e, f), (g, h)]).map .inputConfig
  | 0x0D, [a, b, t, h] =>
    if a.toNat ≤ 63 && b.toNat ≤ 63 && t.toNat ≤ 2 then some (.nodeConfig ⟨a.toNat, b.toNat⟩ t.toNat h.toNat) else none
  | _, _ => none

/-- A line command whose fields lie within the values of R183, as the part's own always do. -/
def LineCommand.allowed : LineCommand → Bool
  | .zoneOutput lo hi o => lo ≤ 63 && hi ≤ 63 && (match o with
      | .silent => true
      | .pattern p => p ≤ 15
      | .audio n => n == 1 || n == 2)
  | .impulse l _ w => l ≤ 1 && w ≤ 255
  | .probe n => n ≤ 255
  | .assign p => p ≤ 23
  | .setupPut t a bs => match a with
      | some x => t == 255 && x ≤ 65535 && 1 ≤ bs.length && bs.length ≤ 6
      | none => t ≤ 254 && 1 ≤ bs.length && bs.length ≤ 8
  | .storeRead a n => a.all (· ≤ 65535) && 1 ≤ n && n ≤ 8
  | .inputConfig l => l.length == 4
  | .nodeConfig w t h => w.first ≤ 63 && w.last ≤ 63 && t ≤ 2 && h ≤ 255
  | .display _ | .power _ | .hail | .extend | .cutOnward => true

/-! ### The down half (R124, R183) -/

/-- What the command slot carries (R127). -/
structure Slot where
  seq : Nat
  target : Option Nat
  command : LineCommand
  deriving DecidableEq, Repr

/-- The down half of a cycle. `time`: present or not, and `none` for the time-unset mark; `lane1`, `lane2`: whether the
audio lane carries its input's samples, or silence (R68). The lanes follow the check and are not covered by it. -/
structure DownHalf where
  index : Nat
  time : Option (Option CampusTime)
  drill : Option Nat
  slot : Option Slot
  lane1 : Bool
  lane2 : Bool
  deriving DecidableEq, Repr

/-- A campus date and time of day in six bytes, or the time-unset mark (R181). -/
def timeBytes : Option CampusTime → List Byte
  | none => [0xFF#8, 0#8, 0#8, 0#8, 0#8, 0#8]
  | some t => let d := dateOf t.day; [byteOf (d.year - 2000), byteOf d.month, byteOf d.day] ++ be3 t.tod

/-- The bytes of a down half up to its check, ahead of its audio lanes (R183). -/
def DownHalf.bytes (h : DownHalf) : List Byte :=
  withCheck ([byteOf h.index, byteOf ((if h.time.isSome then 1 else 0) + (if h.drill.isSome then 2 else 0))] ++
    (h.time.map timeBytes).getD [] ++ (h.drill.map be2).getD [] ++
    match h.slot with
    | none => [0#8]
    | some s => [byteOf s.command.code, markedByte s.target, byteOf s.seq, byteOf s.command.fieldBytes.length] ++
        s.command.fieldBytes)

/-- The campus time of six bytes. -/
def timeOf (l : List Byte) : Option (Option CampusTime) :=
  match l with
  | [y, m, d, a, b, c] =>
    if y = 0xFF#8 then (if m = 0#8 && d = 0#8 && beValue [a, b, c] == 0 then some none else none)
    else
      let date : CalDate := ⟨2000 + y.toNat, m.toNat, d.toNat⟩
      if date.valid && beValue [a, b, c] ≤ 863999 then some (some ⟨date.number, beValue [a, b, c]⟩) else none
  | _ => none

/-- The slot of a down half's remaining bytes. -/
def slotOf (l : List Byte) : Option (Option Slot) :=
  match l with
  | [k] => if k = 0#8 then some none else none
  | k :: t :: s :: n :: f =>
    if n.toNat = f.length && 1 ≤ s.toNat && (unmarked t).all (· ≤ 23) then
      (LineCommand.read k.toNat f).map fun c => some ⟨s.toNat, unmarked t, c⟩
    else none
  | _ => none

/-- The down half a node reads from its bytes and its lanes, if its check matches and every present field lies within the
values of R183. -/
def DownHalf.read (l : List Byte) (lane1 lane2 : Bool) : Option DownHalf :=
  (checkedBytes l).bind fun body =>
    match body with
    | i :: g :: rest =>
      let hasTime := g.toNat % 2 == 1
      let hasDrill := g.toNat / 2 % 2 == 1
      if i.toNat ≤ 49 && g.toNat ≤ 3 && hasTime == (i.toNat == 0) then
        (if hasTime then (timeOf (rest.take 6)).map some else some none).bind fun time =>
          let rest := if hasTime then rest.drop 6 else rest
          (if hasDrill then
              (if (rest.take 2).length == 2 && beValue (rest.take 2) ≤ 3600 then some (some (beValue (rest.take 2))) else none)
            else some none).bind fun drill =>
            (slotOf (if hasDrill then rest.drop 2 else rest)).map fun slot => ⟨i.toNat, time, drill, slot, lane1, lane2⟩
      else none
    | _ => none

/-! ### The status record (R125, R183) -/

/-- A flag as a bit of a byte. -/
def bit (k : Nat) (b : Bool) : Nat := if b then k else 0

/-- The code of a reported power state. -/
def ReportedPower.code : ReportedPower → Nat
  | .active => 0 | .quiet => 1 | .warming => 2

/-- The reported power state with a code. -/
def reportedPowerOf : Nat → Option ReportedPower
  | 0 => some .active | 1 => some .quiet | 2 => some .warming
  | _ => none

/-- The code of a line polarity. -/
def LinePolarity.code (p : LinePolarity) : Nat := (p.map Polarity.code).getD 0

/-- The line polarity with a code. -/
def linePolarityOf : Nat → Option LinePolarity
  | 0 => some none | 1 => some (some .positive) | 2 => some (some .negative)
  | _ => none

/-- The bytes of a status record (R183). -/
def StatusRecord.bytes (r : StatusRecord) : List Byte :=
  withCheck ([byteOf r.position, byteOf (bit 1 r.assigned + bit 2 r.silencing + bit 4 r.restarted), byteOf r.power.code,
      byteOf r.lastApplied, byteOf r.probeEcho, byteOf (r.inputs.length + 16 * r.lines.length)] ++
    (r.inputs.flatMap fun x => [byteOf x.1, byteOf (bit 1 x.2)]) ++
    (r.lines.flatMap fun x => [byteOf x.1, byteOf (LinePolarity.code x.2)]) ++
    [byteOf (bit 1 r.lane1 + bit 2 r.lane2), byteOf r.onward.code] ++
    match r.read with
    | none => [0#8, 0#8]
    | some x => byteOf x.1 :: byteOf x.2.length :: x.2)

/-- An input of a status record. -/
def recordInput (x : Byte × Byte) : Option (Nat × Bool) := if x.2.toNat ≤ 1 then some (x.1.toNat, x.2.toNat == 1) else none

/-- A clock line of a status record. -/
def recordLine (x : Byte × Byte) : Option (Nat × LinePolarity) := (linePolarityOf x.2.toNat).map fun p => (x.1.toNat, p)

/-- The read data at the end of a status record. -/
def readDataOf (l : List Byte) : Option (Option (Nat × List Byte)) :=
  match l with
  | s :: n :: bs =>
    if s.toNat = 0 then (if n.toNat = 0 && bs.isEmpty then some none else none)
    else if 1 ≤ n.toNat && n.toNat ≤ 8 && bs.length == n.toNat then some (some (s.toNat, bs)) else none
  | _ => none

/-- The status record of a window's bytes, if its check matches and it is consistent (R183). -/
def StatusRecord.ofBytes (l : List Byte) : Option StatusRecord :=
  (checkedBytes l).bind fun body =>
    match body with
    | pos :: cond :: pw :: la :: pe :: counts :: rest =>
      let n := counts.toNat % 16
      let m := counts.toNat / 16
      if pos.toNat ≤ 23 && cond.toNat ≤ 7 && n ≤ 4 && m ≤ 2 then
        (reportedPowerOf pw.toNat).bind fun power =>
        (readPairs n rest).bind fun x => (readAll recordInput x.1).bind fun inputs =>
        (readPairs m x.2).bind fun y => (readAll recordLine y.1).bind fun lines =>
        match y.2 with
        | lanes :: fault :: tail =>
          if lanes.toNat ≤ 3 then
            (portFaultOf fault.toNat).bind fun onward => (readDataOf tail).map fun read =>
              { position := pos.toNat, assigned := cond.toNat % 2 == 1, silencing := cond.toNat / 2 % 2 == 1,
                restarted := cond.toNat / 4 == 1, power := power, lastApplied := la.toNat, probeEcho := pe.toNat,
                inputs := inputs, lines := lines, lane1 := lanes.toNat % 2 == 1, lane2 := lanes.toNat / 2 == 1,
                onward := onward, read := read }
          else none
        | _ => none
      else none
    | _ => none

/-- A status record whose fields lie within the values of R125. -/
def StatusRecord.allowed (r : StatusRecord) : Bool :=
  r.position ≤ 23 && r.lastApplied ≤ 255 && r.probeEcho ≤ 255 && r.inputs.length ≤ 4 && r.lines.length ≤ 2 &&
  r.inputs.all (fun x => x.1 ≤ 255) && r.lines.all (fun x => x.1 ≤ 255) &&
  r.read.all fun x => 1 ≤ x.1 && x.1 ≤ 255 && 1 ≤ x.2.length && x.2.length ≤ 8

/-! ### The setup store header and the hail answer (R149, R183, R184) -/

/-- The identity that a header's bytes give (R184). -/
def identityOf (h : List Byte) : Identity :=
  let b := fun (i : Nat) => (h.getD i 0#8).toNat
  { maker := b 2, model := b 3, version := b 4, tapCapable := b 5 % 4, quietCapable := b 5 / 4 % 2 == 1,
    warmUp := b 5 / 16 % 8, inputCount := b 6 % 8, lineCount := b 6 / 16 % 4, recordCount := b 7 }

/-- Whether a header fails (R184): its check, its marker, or a field outside the table. -/
def headerFails (h : List Byte) : Bool :=
  let b := fun (i : Nat) => (h.getD i 0#8).toNat
  let i := identityOf h
  crc8 (h.take 8) != h.getD 8 0#8 || b 0 != 0x5A || b 1 != 0x3C || i.maker == 0 || i.model == 0 ||
  i.tapCapable == 0 || i.tapCapable == 3 || 5 < i.warmUp || b 5 / 8 % 2 == 1 || 128 ≤ b 5 ||
  4 < i.inputCount || 2 < i.lineCount || b 6 / 8 % 2 == 1 || 64 ≤ b 6

/-- The bytes of a hail answer: the header as stored, the header status, the former position, the check (R183). -/
def hailBytes (header : List Byte) (failed : Bool) (former : Option Nat) : List Byte :=
  withCheck (header ++ [byteOf (bit 1 failed), markedByte former])

/-- The hail answer of a hail window's bytes, `none` for a bad one (R183). -/
def HailAnswer.ofBytes (l : List Byte) : Option HailAnswer :=
  (checkedBytes l).bind fun body =>
    if body.length = 11 then
      let st := (body.getD 9 0#8).toNat
      let former := unmarked (body.getD 10 0#8)
      if st ≤ 1 && former.all (· ≤ 23) then some ⟨identityOf (body.take 9), st == 1, former⟩ else none
    else none

end Sys2Proof.Machine
end

