-- ==== Sys2Proof/Machine/Nodes.lean ====
section
/-! DEFINITION. The OT410 line nodes: what a node does with a cycle, what it sends, its timers, its restarts, what its
zones, displays and clock lines show (R43, R108, R111, R125 to R139, R148). -/

namespace Sys2Proof.Machine

/-! ### Lengths, in units of 20 ms -/

/-- The cycles that pass without one before a node is isolated (R137). -/
def isolationUnits : Nat := 50

/-- The cut that CUT_ONWARD makes, 1 s (R148). -/
def cutUnits : Nat := 50

/-- The cut after which a node takes a line reset, half a second (R148). -/
def lineResetUnits : Nat := 25

/-- The taken cycles within which an equal sequence number is a re-send (R127). -/
def resendCycles : Nat := 10

/-! ### Restarts and fitting (R138, R148) -/

/-- The header of a setup store, bytes 0 to 8 (R184). -/
def Node.header (n : Node) : List Byte := Memory.readRun n.store 0 9

/-- An input as a restart leaves it; its level is the contact's. -/
def NodeInput.restarted (i : NodeInput) : NodeInput := ⟨.none, .rising, i.level, 0⟩

/-- An input of a node that has just been fitted. -/
def NodeInput.fresh : NodeInput := ⟨.none, .rising, false, 0⟩

/-- A clock line as a restart leaves it (R111). -/
def NodeLine.restarted : NodeLine := ⟨0, none, none⟩

/-- A node that comes up after a restart; `former` is the position it keeps as its former position (R138, R148). -/
def Node.restart (n : Node) (former : Option Nat) : Node :=
  { n with
    powered := true, position := none, former := former, restarted := true, answered := false, window := ⟨1, 0⟩,
    holdOver := 30, outputs := Vector.replicate 64 ⟨.silent, 0⟩, lanes := [], carried := [], power := .active, warmUntil := 0,
    lastApplied := 0, sinceApplied := resendCycles + 1, probeEcho := 0, inputs := n.inputs.map NodeInput.restarted,
    lines := n.lines.map fun _ => NodeLine.restarted, display := .blank, shownTime := none, shownDrill := none,
    readData := none, cutUntil := none, missedFor := 0, isolatedAt := none, heldOver := false }

/-- A node's own power returns (R138). -/
def Node.powerUp (n : Node) : Node :=
  { n.restart (n.position <|> n.former) with cutSince := none, resetDone := false }

/-- A node's own power goes: its outputs and its pulses stop, its onward switch stays latched (R138). -/
def Node.powerDown (n : Node) : Node :=
  { n with powered := false, lines := n.lines.map fun l => { l with pulse := none } }

/-- A line reset: a restart that keeps no former position and opens the onward switch (R148). -/
def Node.lineReset (n : Node) : Node := { n.restart none with closed := false, resetDone := true }

/-- The setup store that a list of bytes fills. -/
def storeOf (l : List StoreByte) : List Host.Cell :=
  l.foldl (fun m b => Memory.write m (Memory.wrap b.address) b.value) []

/-- The inputs and clock lines that a node has by its identity (R183). -/
def Node.sized (n : Node) : Node :=
  { n with inputs := (n.inputs ++ List.replicate 4 NodeInput.fresh).take n.caps.inputCount,
           lines := (n.lines ++ List.replicate 2 NodeLine.restarted).take n.caps.lineCount }

/-- A node newly fitted with a setup store: never assigned, its onward switch open (R139, R148; log entry 4). -/
def Node.fitted (store : List Host.Cell) (segment : PortFault) : Node :=
  ({ powered := true, position := none, former := none, restarted := true, answered := false, window := ⟨1, 0⟩,
     tapAssigned := 0, holdOver := 30, outputs := Vector.replicate 64 ⟨.silent, 0⟩, lanes := [], carried := [], power := .active,
     warmUntil := 0, lastApplied := 0, sinceApplied := resendCycles + 1, probeEcho := 0, inputs := [], lines := [],
     display := .blank, shownTime := none, shownDrill := none, readData := none, pointer := 0, store := store,
     taken := [], caps := identityOf (Memory.readRun store 0 9), closed := false, cutUntil := none, segment := segment,
     missedFor := 0, isolatedAt := none, heldOver := false, cutSince := none, resetDone := false } : Node).sized

/-! ### What a node shows and sounds -/

/-- Whether a node holds its zones silent because a YIELD input is at its active level (R128). -/
def Node.silencing (n : Node) : Bool := n.inputs.any fun i => i.function == .yield && i.level == i.edge.activeLevel

/-- The applied output of a zone (R128). -/
def Node.applied (n : Node) (z : Nat) : Output := (Tab.get n.outputs z ⟨.silent, 0⟩).output

/-- Whether a lane brings its input's samples to a node: it carried them in the cycle last driven, which the node took
(R68; log entry 71). -/
def Node.hears (n : Node) (lane : Nat) : Bool := n.carried.contains lane && n.missedFor ≤ 1

/-- What a zone of a node's window plays (R68, R128): its applied output, or silence. -/
def Node.plays (n : Node) (z : Nat) : Output :=
  if !n.powered || n.power != .active || n.silencing || !n.window.has z then .silent
  else match n.applied z with
    | .audio l => if n.lanes.contains l && n.hears l then .audio l else .silent
    | o => o

/-- What is heard from a zone. -/
inductive Sound where
  | silence
  | tone (t : Tone)
  | samples (lane : Nat)
  deriving DecidableEq, Repr

/-- What a zone of a node sounds at a moment: the step at which the cadence of its pattern stands, counted from the moment
the zone took it, or the samples of its lane (R43, R68, R128). -/
def Node.sounds (n : Node) (world z : Nat) : Sound :=
  match n.plays z with
  | .silent => .silence
  | .audio l => .samples l
  | .pattern p =>
    match toneAt p ((world - (Tab.get n.outputs z ⟨.silent, 0⟩).since) / unitsPerTenth) with
    | .pause => .silence
    | t => .tone t

/-- What a node's display shows (R108): a day and a count of 20 ms units, dashes, drill seconds, or nothing. -/
inductive Shown where
  | time (day units : Nat)
  | dashes
  | seconds (n : Nat)
  | nothing
  deriving DecidableEq, Repr

/-- A node's display at a moment (R108); an isolated node counts the drill's seconds on by itself, from the moment of its
isolation; a node that has taken no value since its restart shows dashes in TIME and nothing in DRILL (log entry 53). -/
def Node.shows (n : Node) (world : Nat) : Shown :=
  if !n.powered then .nothing
  else match n.display with
    | .blank => .nothing
    | .time => (n.shownTime.map fun t => Shown.time t.1 t.2).getD .dashes
    | .drill => (n.shownDrill.map fun v =>
        Shown.seconds (v + ((n.isolatedAt.map fun t => (world - t) / unitsPerSecond).getD 0))).getD .nothing

/-! ### Applying a command (R127 to R129) -/

/-- The audio lanes that the applied outputs of a node name. -/
def lanesNamed (outputs : Vector Applied 64) : List Nat :=
  [1, 2].filter fun l => outputs.toList.any fun a => a.output == .audio l

/-- The lanes tapped after a change of applied outputs: a lane no longer named is released, a lane first named is
tapped while there is room (R128). -/
def Node.retap (n : Node) (outputs : Vector Applied 64) : List Nat :=
  let before := lanesNamed n.outputs
  let named := lanesNamed outputs
  let room := min n.caps.tapCapable n.tapAssigned
  (named.filter fun l => !before.contains l).foldl (fun ls l => if ls.length < room then ls ++ [l] else ls)
    (n.lanes.filter named.contains)

/-- Applied outputs replaced, with the lanes that follow. -/
def Node.setOutputs (n : Node) (outputs : Vector Applied 64) : Node :=
  { n with outputs := outputs, lanes := n.retap outputs }

/-- The zones of the window that a range shares take an output; the same output goes on where it stands (R43, R128). -/
def Node.zoneOutput (n : Node) (world lo hi : Nat) (o : Output) : Node :=
  n.setOutputs (Tab.mapAll n.outputs fun z a =>
    if n.window.has z && lo ≤ z && z ≤ hi && a.output != o then ⟨o, world⟩ else a)

/-- Every applied output becomes SILENT (R137). -/
def Node.silence (n : Node) (world : Nat) : Node :=
  n.setOutputs (Tab.mapAll n.outputs fun _ a => if a.output = .silent then a else ⟨.silent, world⟩)

/-- POWER (R129). -/
def Node.setPower (n : Node) (world : Nat) (quiet : Bool) : Node :=
  if quiet then (if n.caps.quietCapable then { n with power := .quiet } else n)
  else if n.power = .quiet then
    if n.caps.warmUp = 0 then { n with power := .active }
    else { n with power := .warming, warmUntil := world + n.caps.warmUp * unitsPerSecond }
  else n

/-- IMPULSE (R111): a pulse on a line that the node has and that is driving none. -/
def Node.impulse (n : Node) (world line : Nat) (p : Polarity) (width : Nat) : Node :=
  { n with lines := n.lines.modify line fun l =>
      if l.pulse.isSome then l else { l with pulse := some (p, world + width * unitsPerTenth) } }

/-- A command takes effect at a node (R129, R148); HAIL and ASSIGN are taken by `Node.takeSlot`. -/
def Node.effect (n : Node) (world seq : Nat) : LineCommand → Node
  | .zoneOutput lo hi o => n.zoneOutput world lo hi o
  | .impulse l p w => n.impulse world l p w
  | .display m => { n with display := m }
  | .power q => n.setPower world q
  | .probe k => { n with probeEcho := k }
  | .hail | .assign _ => n
  | .extend => { n with closed := true, cutUntil := none }
  | .cutOnward => { n with closed := false, cutUntil := some (world + cutUnits) }
  | .setupPut t a bs =>
    if t = 255 then { n with store := Memory.writeRun n.store (a.getD 0) bs }
    else { n with taken := n.taken ++ [(t, bs)] }
  | .storeRead a k =>
    let start := a.getD n.pointer
    { n with readData := some (seq, Memory.readRun n.store start k), pointer := Memory.wrap (start + k) }
  | .inputConfig l =>
    { n with inputs := n.inputs.mapIdx fun i x => match l[i]? with
        | some d => { x with function := d.1, edge := d.2 }
        | none => x }
  | .nodeConfig w t h => { n with window := w, tapAssigned := t, holdOver := h }

/-- Whether a command selects an assigned node (R127, R128). -/
def Node.selected (n : Node) (s : Slot) : Bool :=
  match s.command with
  | .zoneOutput lo hi _ => n.window.meets ⟨lo, hi⟩
  | .hail | .assign _ => false
  | _ => s.target.isSome && s.target == n.position

/-- What a node makes of the slot of a cycle it takes: the node after it, its answer to HAIL, whether it has taken a
position, and whether it passes the slot on (R127, R139, R148). -/
structure SlotTaken where
  node : Node
  answer : Option HailAnswer
  assigned : Bool
  passes : Bool
  deriving DecidableEq, Repr

/-- A node answers HAIL with its identity as its store now gives it (R148, R149, R158). -/
def Node.answerHail (n : Node) : SlotTaken :=
  let h := n.header
  let n := { n with answered := true, caps := identityOf h }.sized
  ⟨n, some ⟨identityOf h, headerFails h, n.former⟩, false, false⟩

/-- A node takes the slot of a cycle (R127, R139, R148). -/
def Node.takeSlot (n : Node) (world : Nat) (slot : Option Slot) : SlotTaken :=
  let since := min (n.sinceApplied + 1) (resendCycles + 1)
  let n := { n with sinceApplied := since }
  match slot with
  | none => ⟨n, none, false, true⟩
  | some s =>
    match n.position with
    | none =>
      match s.command with
      | .hail => n.answerHail
      | .assign p =>
        if n.answered then
          ⟨{ n with position := some p, former := none, restarted := false, answered := false, lastApplied := s.seq,
                    sinceApplied := 0 }, none, true, false⟩
        else ⟨n, none, false, true⟩
      | _ => ⟨n, none, false, true⟩
    | some _ =>
      if n.selected s && !(s.seq == n.lastApplied && since ≤ resendCycles) then
        ⟨{ n.effect world s.seq s.command with lastApplied := s.seq, sinceApplied := 0 }, none, false, true⟩
      else ⟨n, none, false, true⟩

/-- A node takes a header: its running count from a cycle-0 header, the drill elapsed from any that carries it (R108), and
with it the two audio lanes (R68). -/
def Node.takeHeader (n : Node) (h : DownHalf) : Node :=
  { n with missedFor := 0, isolatedAt := none, heldOver := false,
           carried := (if h.lane1 then [1] else []) ++ if h.lane2 then [2] else [],
           shownTime := match h.time with
             | some t => t.map fun c => (c.day, c.tod * unitsPerTenth)
             | none => n.shownTime,
           shownDrill := h.drill <|> n.shownDrill }

/-! ### The status record (R125, R138) -/

/-- A node's status record: its own window's, or its former position's after a restart (R125, R138). -/
def Node.record (n : Node) : Option StatusRecord :=
  (n.position <|> n.former).map fun p =>
    { position := p, assigned := n.position.isSome, silencing := n.silencing, restarted := n.restarted, power := n.power,
      lastApplied := n.lastApplied, probeEcho := n.probeEcho, inputs := n.inputs.map fun i => (i.count, i.level),
      lines := n.lines.map fun l => (l.count, l.polarity), lane1 := n.lanes.contains 1, lane2 := n.lanes.contains 2,
      onward := if n.closed then n.segment else .none, read := n.readData }

/-! ### A cycle along the line (R124, R148) -/

/-- A down half every field of which lies within the values of R183, so that a node can take it. -/
def DownHalf.allowed (h : DownHalf) : Bool :=
  h.index ≤ 49 && h.drill.all (· ≤ 3600) && h.slot.all fun s =>
    1 ≤ s.seq && s.seq ≤ 255 && s.target.all (· ≤ 23) && s.command.allowed

/-- What a cycle has made of one node: the node, the record it sends, its answer in the hail window, and whether it has
applied an ASSIGN. -/
structure Reached where
  node : Node
  record : Option StatusRecord
  answer : Option HailAnswer
  assigned : Bool
  deriving DecidableEq, Repr

/-- A down half passes along the line from a place on: a node passes it while its onward switch is closed and the
segment beyond is sound, and with its slot marked *none* once a node has acted on HAIL or ASSIGN (R148). -/
def passAlong (noise : Noise) (world : Nat) (h : DownHalf) (place : Nat) (live : Bool) (slot : Option Slot) :
    List Node → List Reached
  | [] => []
  | n :: l =>
    let onward := live && n.closed && n.segment == .none
    if live && n.powered && !noise.notTaken.contains place && h.allowed then
      let t := (n.takeHeader h).takeSlot world slot
      ⟨t.node, if t.assigned then none else t.node.record, t.answer, t.assigned⟩ ::
        passAlong noise world h (place + 1) onward (if t.passes then slot else none) l
    else ⟨n, none, none, false⟩ :: passAlong noise world h (place + 1) onward slot l

/-- What stands in a window: a record, something that fails its check, or other bytes (R126). -/
inductive Sent where
  | record (r : StatusRecord)
  | spoiled
  | bytes (l : List Byte)
  deriving DecidableEq, Repr

/-- The windows that the nodes send in, each with what arrives (R125, R126). -/
def sentIn (noise : Noise) (place : Nat) : List Reached → List (Nat × Sent)
  | [] => []
  | x :: l =>
    match x.record with
    | some r =>
      if noise.lost.contains place then sentIn noise (place + 1) l
      else
        (r.position,
          if noise.spoiled.contains place then .spoiled
          else match noise.foreign.find? fun f => f.1 == place with
            | some f => .bytes f.2
            | none => .record r) :: sentIn noise (place + 1) l
    | none => sentIn noise (place + 1) l

/-- The judgement of a window (R126). -/
inductive Window where
  | empty
  | bad
  | valid (r : StatusRecord)
  deriving DecidableEq, Repr

/-- One sending judged as the content of window `p`. -/
def Sent.judge (p : Nat) : Sent → Window
  | .record r => if r.position = p then .valid r else .bad
  | .spoiled => .bad
  | .bytes [] => .empty
  | .bytes l => match StatusRecord.ofBytes l with
    | some r => if r.position = p then .valid r else .bad
    | none => .bad

/-- A window judged: two senders in one window spoil each other (R126; log entry 14). -/
def windowOf (sent : List (Nat × Sent)) (p : Nat) : Window :=
  match sent.filter fun x => x.1 == p with
  | [] => .empty
  | [x] => x.2.judge p
  | _ => .bad

/-- What the hail window holds (R124). -/
inductive HailWindow where
  | empty
  | bad
  | answer (a : HailAnswer)
  deriving DecidableEq, Repr

/-- The hail window of a cycle. -/
def hailWindowOf (noise : Noise) (l : List Reached) : HailWindow :=
  match l.findSome? (·.answer) with
  | some a => if noise.hailLost then .empty else if noise.hailSpoiled then .bad else .answer a
  | none => .empty

/-! ### A node's own events -/

/-- An input changes level; an edge to the active level is counted (R125, R129). -/
def Node.inputEdge (n : Node) (i : Nat) : Node :=
  { n with inputs := n.inputs.modify i fun x =>
      let level := !x.level
      { x with level := level, count := if n.powered && level == x.edge.activeLevel then (x.count + 1) % 256 else x.count } }

/-- The pulse of a clock line has run its width (R111). -/
def Node.pulseEnd (n : Node) (world line : Nat) : Node :=
  { n with lines := n.lines.modify line fun l =>
      match l.pulse with
      | some (p, t) => if n.powered && t ≤ world then ⟨(l.count + 1) % 256, some p, none⟩ else l
      | none => l }

/-- Whether a node's warm-up has run. -/
def Node.warmupDue (n : Node) (world : Nat) : Bool := n.powered && n.power == .warming && n.warmUntil ≤ world

/-- The warm-up has run (R129). -/
def Node.warmupEnd (n : Node) (world : Nat) : Node := if n.warmupDue world then { n with power := .active } else n

/-- Whether a CUT_ONWARD has run its second. -/
def Node.cutDue (n : Node) (world : Nat) : Bool := n.powered && n.cutUntil.any (· ≤ world)

/-- CUT_ONWARD's second has run: the onward switch closes (R148). -/
def Node.cutEnd (n : Node) (world : Nat) : Node :=
  if n.cutDue world then { n with closed := true, cutUntil := none } else n

/-- Whether a node has become isolated: the unit after the 50th cycle it has not taken has begun (R137). -/
def Node.isolationDue (n : Node) : Bool := n.powered && n.isolatedAt.isNone && isolationUnits < n.missedFor

/-- A node becomes isolated; a hold-over of 0 silences its zones at once (R137). -/
def Node.isolate (n : Node) (world : Nat) : Node :=
  if n.isolationDue then
    let n := { n with isolatedAt := some world }
    if n.holdOver = 0 then { n.silence world with heldOver := true } else n
  else n

/-- Whether an isolated node's hold-over has run out. -/
def Node.holdOverDue (n : Node) (world : Nat) : Bool :=
  n.powered && !n.heldOver && n.isolatedAt.any fun t => t + n.holdOver * unitsPerSecond ≤ world

/-- The hold-over runs out: every applied output becomes SILENT (R137). -/
def Node.holdOverEnd (n : Node) (world : Nat) : Node :=
  if n.holdOverDue world then { n.silence world with heldOver := true } else n

/-- Whether the upstream segment has been cut for half a second without a line reset. -/
def Node.lineResetDue (n : Node) (world : Nat) : Bool :=
  n.powered && !n.resetDone && n.cutSince.any fun t => t + lineResetUnits ≤ world

/-- The upstream segment has been cut for half a second (R148). -/
def Node.lineResetEnd (n : Node) (world : Nat) : Node := if n.lineResetDue world then n.lineReset else n

/-- One unit of time passes at a node: it counts the units begun since a cycle was taken, its display runs on, and it watches
its upstream segment (R108, R137, R148). -/
def Node.tick (n : Node) (world : Nat) (cut : Bool) : Node :=
  { n with
    missedFor := if n.powered then min (n.missedFor + 1) (isolationUnits + 1) else n.missedFor,
    shownTime := if n.powered then n.shownTime.map fun t =>
        if t.2 + 1 < dayTenths * unitsPerTenth then (t.1, t.2 + 1) else (t.1 + 1, 0)
      else n.shownTime,
    cutSince := if cut then (if n.cutSince.isSome then n.cutSince else some world) else none,
    resetDone := cut && n.resetDone }

/-- One unit of time passes along the line; a node with an open onward switch cuts the segment beyond it (R148). -/
def tickNodes (world : Nat) (cut : Bool) : List Node → List Node
  | [] => []
  | n :: l => n.tick world cut :: tickNodes world (!n.closed) l

end Sys2Proof.Machine
end

