-- ==== Sys2Proof/Machine/Cycle.lean ====
section
/-! DEFINITION. The line engine: the slot arbiter, windows and records, confirmation, liveness, counters, and one line
cycle from its down half to its settlement (R124 to R141). -/

namespace Sys2Proof.Machine

/-! ### The slot arbiter (R130, R131) -/

/-- The zones that are dirty in an update class, ascending; `true` is the urgent class (R59, R131). -/
def Part.dirtyZones (p : Part) (urgent : Bool) : List Nat :=
  (upTo 64).filter fun z => (p.zone z).dirty && p.urgent z == urgent

/-- The zones whose updates a class builds. -/
def Part.classZones (p : Part) : SlotClass → List Nat
  | .urgent => p.dirtyZones true
  | .output => p.dirtyZones false
  | .clock | .service => []

/-- Whether a class holds work (R130). -/
def Part.holdsWork (p : Part) (k : SlotClass) : Bool := !(p.line.queueOf k).isEmpty || !(p.classZones k).isEmpty

/-- The class that a choice takes (R131). -/
def Part.chosenClass (p : Part) : Option SlotClass :=
  if p.holdsWork .clock && 4 ≤ p.line.passedClock then some .clock
  else if p.holdsWork .service && 8 ≤ p.line.passedService then some .service
  else [SlotClass.urgent, .output, .clock, .service].find? p.holdsWork

/-- A passed count after a choice (R131). -/
def passedAfter (holds chosen : Bool) (n : Nat) : Nat := if holds && !chosen then n + 1 else 0

/-- The passed counts after a choice of a class (R131). -/
def Part.countPassed (p : Part) (k : Option SlotClass) : Part :=
  { p with line := { p.line with
      passedClock := passedAfter (p.holdsWork .clock) (k == some .clock) p.line.passedClock
      passedService := passedAfter (p.holdsWork .service) (k == some .service) p.line.passedService } }

/-- The highest zone of an update that begins below: each following zone that is dirty in the class with the same
commanded output extends it (R131). -/
def Part.extendUpdate (p : Part) (dirty : List Nat) (o : Output) : Nat → Nat → Nat
  | 0, z => z
  | fuel + 1, z =>
    if dirty.contains (z + 1) && (p.zone (z + 1)).commanded == o then p.extendUpdate dirty o fuel (z + 1) else z

/-- The earliest moment at which a zone of a list was made dirty (R130). -/
def Part.dirtyAge (p : Part) (zs : List Nat) : Nat := (zs.map fun z => (p.zone z).dirtySince).foldl min p.now

/-- A display command of the clock driver, as it is chosen, takes the mode of its entry (R107). -/
def Part.refreshed (p : Part) (h : Handed) : Handed :=
  if h.sender == .display then { h with command := .display (p.display (h.target.getD 0)).mode } else h

/-- The oldest work of a class (R131): its zone updates when no handed command is older, else the head of its queue,
which leaves the queue. -/
def Part.oldestWork (p : Part) (k : SlotClass) : Part × Option Handed :=
  let zs := p.classZones k
  match zs, p.line.queueOf k with
  | z :: _, q =>
    if q.head?.all fun h => p.dirtyAge zs ≤ h.handedAt then
      let o := (p.zone z).commanded
      (p, some ⟨.zoneOutput z (p.extendUpdate zs o 64 z) o, none, p.now, .zones⟩)
    else ({ p with line := p.line.withQueue k q.tail }, q.head?.map p.refreshed)
  | [], h :: q => ({ p with line := p.line.withQueue k q }, some (p.refreshed h))
  | [], [] => (p, none)

/-- The targeted nodes of a command, fixed when it is first sent (R132). -/
def Part.targets (p : Part) (h : Handed) : List Nat :=
  match h.command with
  | .zoneOutput lo hi _ => p.positions.filter fun pos => (p.node pos).isServed && (p.rosterAt pos).window.meets ⟨lo, hi⟩
  | .hail | .assign _ => []
  | _ => h.target.toList

/-- Whether a command leaves the slot free after its cycle (R132). -/
def LineCommand.isFree : LineCommand → Bool
  | .hail | .assign _ => true
  | _ => false

/-- The handing block is told that its command has been carried (R132). -/
def Part.carried (p : Part) (h : Handed) : Part :=
  match h.sender with
  | .circuit c => p.impulseCarried c
  | .probe => p.probeCarried (h.target.getD 24)
  | .step n => p.stepCarried n
  | .zones | .display | .power => p

/-- A command is first sent: it takes the next sequence number and becomes the command in flight (R127, R132). -/
def Part.firstSend (p : Part) (h : Handed) : Part × Slot :=
  let seq := p.line.seq
  let f : Flight := ⟨h.command, h.target, h.sender, seq, 1, p.targets h, [], false⟩
  let p := { p with line := { p.line with seq := seq % 255 + 1, flight := if h.command.isFree then none else some f } }
  (p.carried h, ⟨seq, h.target, h.command⟩)

/-- The choice of a cycle whose slot is free (R131). -/
def Part.choose (p : Part) : Part × Option Slot :=
  let k := p.chosenClass
  let q := p.countPassed k
  match k with
  | none => (q, none)
  | some k =>
    let w := q.oldestWork k
    match w.2 with
    | some h => let s := w.1.firstSend h; (s.1, some s.2)
    | none => (w.1, none)

/-- What the slot of the next cycle carries: a choice, a re-send, or *none* in a held cycle (R131, R132). -/
def Part.nextSlot (p : Part) : Part × Option Slot :=
  match p.line.flight with
  | none => p.choose
  | some f =>
    if f.resend then
      ({ p with line := { p.line with flight := some { f with sends := f.sends + 1, resend := false } } },
       some ⟨f.seq, f.target, f.command⟩)
    else (p, none)

/-- Whether the next cycle is a held one, after whose records the send is settled (R132). -/
def Part.isHeld (p : Part) : Bool := p.line.flight.any fun f => !f.resend

/-! ### Counters (R140) -/

/-- A counter reaches a level that is armed (R140). -/
def reaches (level old new : Nat) (armed : Bool) : Bool := armed && old < level && level ≤ new

/-- MISSED or BADCHECK rises by one for a position, unless counting is frozen; levels reached are reported (R140). -/
def Part.countError (p : Part) (pos : Nat) (c : CounterName) : Part :=
  if p.line.frozen then p
  else
    let l := p.link pos
    let old := if c = .missed then l.missed else l.badcheck
    let new := saturate16 (old + 1)
    let half := reaches 32768 old new (if c = .missed then l.levels.missedHalf else l.levels.badHalf)
    let full := reaches 65535 old new (if c = .missed then l.levels.missedFull else l.levels.badFull)
    let p := p.modLink pos fun l =>
      if c = .missed then
        { l with missed := new, levels := { l.levels with missedHalf := l.levels.missedHalf && !half,
                                                          missedFull := l.levels.missedFull && !full } }
      else
        { l with badcheck := new, levels := { l.levels with badHalf := l.levels.badHalf && !half,
                                                            badFull := l.levels.badFull && !full } }
    let p := if half then p.note (.counterLevel pos c 32768) else p
    if full then p.note (.counterLevel pos c 65535) else p

/-- One more command has been given up on (R140). -/
def Part.countGiveUp (p : Part) : Part :=
  if p.line.frozen then p else { p with line := { p.line with giveUps := saturate16 (p.line.giveUps + 1) } }

/-- An empty or a bad window of an examined position (R126, R134, R140). -/
def Part.missWindow (p : Part) (pos : Nat) (c : CounterName) : Part :=
  (p.modLink pos fun l =>
    { l with missing := min 255 (l.missing + 1), since := l.since.map fun n => saturate16 (n + 1) }).countError pos c

/-! ### A valid record (R126, R135, R136) -/

/-- The new edges of each input of a record against the baselines (R135). -/
def Part.newEdges (p : Part) (pos : Nat) (r : StatusRecord) : List Nat :=
  let l := p.link pos
  if r.restarted || l.fresh then [0, 0, 0, 0]
  else (upTo 4).map fun i => ((r.inputs[i]?).map fun x => (x.1 + 256 - Tab.get l.baselines i 0) % 256).getD 0

/-- The line engine's own record of a valid record: the latest record, liveness, baselines (R126, R134, R135). -/
def Part.keepRecord (p : Part) (pos : Nat) (r : StatusRecord) : Part :=
  p.modLink pos fun l =>
    { l with missing := 0, since := some 0, latest := some r, fresh := false, reported := l.reported && r.restarted,
             baselines := Tab.mapAll l.baselines fun i b => ((r.inputs[i]?).map Prod.fst).getD b }

/-- The edges of a record's inputs of one function and building, added up. -/
def Part.edgesFor (p : Part) (pos : Nat) (edges : List Nat) (f : InputFunction) (b : Nat) : Nat :=
  (((p.inputDefs pos).filter fun x => x.1.function == f && x.1.building == some b).map fun x => edges.getD x.2 0).sum

/-- The edges of a record are delivered by input function, CLEAR, COUNT and YIELD in this order (R56, R92, R93, R135). -/
def Part.deliverEdges (p : Part) (pos : Nat) (edges : List Nat) : Part :=
  if edges.all (· == 0) then p
  else
    let p := p.each (upTo 8) fun p b => if 0 < p.edgesFor pos edges .clear b then p.clearEdge b else p
    let p := p.each (upTo 8) fun p b =>
      let n := p.edgesFor pos edges .count b
      if 0 < n then p.countEdges b n else p
    p.each (upTo 8) fun p b =>
      match (p.yieldInputs pos b).find? fun i => 0 < edges.getD i 0 with
      | some i => p.yieldTrigger b pos i
      | none => p

/-- What the first record of a node in READY brings: yield levels and circuits to reconcile (R56, R117). -/
def Part.firstDuties (p : Part) (pos : Nat) (r : StatusRecord) : Part :=
  if (p.node pos).isReady then
    ((p.modLink pos fun l => { l with firstDue := false }).yieldLevels pos r.inputs).reconcileCircuits pos r.lines
  else p

/-- A valid record from a SUSPECT or LOST node: READY again, or SETTING if its setup was unfinished (R136, R152). -/
def Part.nodeReturns (p : Part) (pos : Nat) (r : StatusRecord) : Part :=
  ((p.becomeReady pos r.power).firstDuties pos r).resumeUnfinished pos

/-- A targeted node that reports the command's sequence number confirms it (R132). -/
def Part.takeConfirmation (p : Part) (pos : Nat) (r : StatusRecord) : Part :=
  { p with line := { p.line with flight := p.line.flight.map fun f =>
      if r.lastApplied == f.seq && f.waiting.contains pos then
        { f with waiting := f.waiting.filter (· != pos), confirmed := f.confirmed ++ [pos] }
      else f } }

/-- A WAKING node reports ACTIVE after its command's confirmation and its warm-up (R157). -/
def Part.takePower (p : Part) (pos : Nat) (r : StatusRecord) : Part :=
  if p.node pos == .ready .waking && r.power == .active && (p.runtime pos).wakeFrom.any (· ≤ p.now) then p.wokenUp pos else p

/-- What a record that is no restart report brings, in the node state it finds (R117, R126, R136, R150). -/
def Part.useRecord (p : Part) (pos : Nat) (r : StatusRecord) : Part :=
  match p.node pos with
  | .suspect | .lost => if r.restarted then p else p.nodeReturns pos r
  | .found => p.firstRecord pos
  | .ready _ => if (p.link pos).firstDue then p.firstDuties pos r else p
  | _ => p

/-- A valid record of an examined position: its parts are delivered to the blocks (R126, R135, R136). -/
def Part.takeRecord (p : Part) (pos : Nat) (r : StatusRecord) : Part :=
  let l := p.link pos
  let edges := p.newEdges pos r
  let p := ((p.keepRecord pos r).takeConfirmation pos r).onwardChange pos ((l.latest.map (·.onward)).getD .none) r.onward
  if r.restarted && !l.reported then (p.restartReport pos).modLink pos fun l => { l with reported := true }
  else
    let p := ((p.deliverEdges pos edges).useRecord pos r).takePower pos r
    let p := if (p.node pos).isReady then p.examineImpulses pos r.lines else p
    let p := p.takeEcho pos r.probeEcho
    if (p.node pos).isServed then p.each (p.yieldBuildings pos) Part.testHeld else p

/-- One window of a cycle (R126); the cycles since a position's last valid record go on while its window is not examined
(R141). -/
def Part.takeWindow (p : Part) (pos : Nat) (w : Window) : Part :=
  if (p.node pos).isExamined then
    match w with
    | .empty => p.missWindow pos .missed
    | .bad => p.missWindow pos .badcheck
    | .valid r => p.takeRecord pos r
  else p.modLink pos fun l => { l with since := l.since.map fun n => saturate16 (n + 1) }

/-- The hail window of a cycle, as the chain builder takes it (R149). -/
def Part.takeHail (p : Part) : HailWindow → Part
  | .empty => p.hailEmpty
  | .bad => p.hailBad
  | .answer a => p.hailAnswered a

/-! ### Settlement (R132, R133) -/

/-- The outcome of a zone update (R60, R133). -/
def Part.zonesSettled (p : Part) (lo hi : Nat) (o : Output) (confirmed : List Nat) : Part :=
  let zs := zonesOf ⟨lo, hi⟩
  let p := p.each zs fun p z =>
    match p.owner z with
    | some pos =>
      if confirmed.contains pos then
        p.modZone z fun zone => { zone with confirmed := some o, dirty := zone.dirty && zone.commanded != o }
      else if (p.node pos).isServed then p.modZone z fun zone => { zone.makeDirty p.now with confirmed := none }
      else p
    | none => p
  p.settleZones zs

/-- The outcome of a POWER command of the chain builder (R157). -/
def Part.powerSettled (p : Part) (pos : Nat) (quiet confirmed : Bool) : Part :=
  if !(p.node pos).isReady then p
  else if !confirmed then p.hand (.power quiet) (some pos) .power
  else if quiet then
    let wanted := (p.runtime pos).wakeAfter
    let p := p.modRuntime pos fun r => { r with wakeAfter := false }
    let p := if p.quietCapable pos then p.setPower pos .quiet else p
    if wanted then p.wake pos else p
  else if p.node pos == .ready .waking then
    let warm := ((p.runtime pos).identity.map (·.warmUp)).getD 0
    p.modRuntime pos fun r => { r with wakeFrom := some (p.inSeconds warm) }
  else p

/-- The bytes that a confirmed STORE_READ has brought (R125, R151). -/
def Part.readBytes (p : Part) (f : Flight) : List Byte :=
  match (f.target.bind fun pos => (p.link pos).latest).bind (·.read) with
  | some x => if x.1 = f.seq then x.2 else []
  | none => []

/-- The outcome of a settled command is reported to its block (R133). -/
def Part.reportOutcome (p : Part) (f : Flight) (confirmed : Bool) : Part :=
  let pos := f.target.getD 24
  match f.sender, f.command with
  | .zones, .zoneOutput lo hi o => p.zonesSettled lo hi o f.confirmed
  | .display, .display m => if confirmed then p.displayConfirmed pos m else p.displayGivenUp pos
  | .power, .power q => p.powerSettled pos q confirmed
  | .step n, .display m => (if confirmed then p.displayConfirmed pos m else p).stepSettled n confirmed []
  | .step n, _ => p.stepSettled n confirmed (p.readBytes f)
  | _, _ => p

/-- After the records of a held cycle the send is settled (R132). -/
def Part.settleFlight (p : Part) : Part :=
  match p.line.flight with
  | none => p
  | some f =>
    if !f.waiting.isEmpty && f.sends < 3 then { p with line := { p.line with flight := some { f with resend := true } } }
    else
      let confirmed := f.waiting.isEmpty && !f.confirmed.isEmpty
      let p := { p with line := { p.line with flight := none } }
      (if confirmed then p else p.countGiveUp).reportOutcome f confirmed

/-! ### Liveness (R134) -/

/-- Whether a missing run has reached its limit for the state of the node (R134). -/
def Part.livenessDue (p : Part) (pos : Nat) : Bool :=
  match p.node pos with
  | .ready _ => 5 ≤ (p.link pos).missing
  | .suspect | .found | .setting => 25 ≤ (p.link pos).missing
  | _ => false

/-- A missing run reaches its limit: SUSPECT, or LOST (R134). -/
def Part.livenessTimeout (pos : Nat) (p : Part) : Part :=
  if p.livenessDue pos then ((p.setNode pos (if (p.node pos).isReady then .suspect else .lost) false)).work else p

/-! ### The cycle (R124) -/

/-- Whether an audio lane carries its input's samples: the served record is CHIMING or LIVE (R68). -/
def Part.carries (p : Part) (i : PagingInput) : Bool := (p.served? i).any (·.started)

/-- The down half of the cycle about to be driven (R68, R90, R124). -/
def Part.downHalf (p : Part) (slot : Option Slot) : DownHalf :=
  { index := p.line.cycle, time := if p.line.cycle = 0 then some (if p.isSet then some p.campus else none) else none,
    drill := p.drillElapsed, slot := slot, lane1 := p.carries .p1, lane2 := p.carries .p2 }

/-- The cycle index moves on, and a settling time after a cut counts the cycle (R124, R159). -/
def Part.countCycle (p : Part) : Part :=
  { p with line := { p.line with cycle := (p.line.cycle + 1) % 50 },
           chain := { p.chain with step := match p.chain.step with
             | some (.cutSettle k) => some (.cutSettle (k + 1))
             | st => st } }

/-- The position that a slot assigns. -/
def assignedBy (slot : Option Slot) : Option Nat :=
  match slot with
  | some ⟨_, _, .assign p⟩ => some p
  | _ => none

/-- A node has applied the ASSIGN of a slot: a restart of it that has been reported is past, and a new one is reported anew
(R136; log entry 54). -/
def Part.assignApplied (p : Part) (slot : Option Slot) (applied : Bool) : Part :=
  match assignedBy slot with
  | some pos => if applied then p.modLink pos fun l => { l with reported := false } else p
  | none => p

/-- The cycle of an ASSIGN is over (R150). -/
def Part.endAssign (p : Part) (slot : Option Slot) : Part :=
  match assignedBy slot, p.chain.step with
  | some pos, some (.assign q) => if pos = q then p.assigned pos else p
  | _, _ => p

/-- What the part makes of the up half: the windows in order, the hail window, the echo waits, the settlement of a held
cycle, the end of an ASSIGN, the task at hand (R124 to R133, R149, R150). -/
def Part.takeUpHalf (p : Part) (held : Bool) (slot : Option Slot) (windows : Nat → Window) (hail : HailWindow) : Part :=
  let p := p.each (upTo 24) fun p pos => p.takeWindow pos (windows pos)
  let p := (p.takeHail hail).countEchoWaits
  let p := if held then p.settleFlight else p
  (p.endAssign slot).work

/-- Whether a line cycle may be driven: one is due in each unit of 20 ms while the line is driven (R124). -/
def State.cycleDue (s : State) : Bool := s.powered && s.part.driving && s.marks.cycle

/-- A line cycle (R124): the choice, the down half along the line, the up half, and what follows from it. -/
def lineCycle (noise : Noise) (s : State) : State :=
  if s.cycleDue then
    let x := s.part.nextSlot
    let h := x.1.downHalf x.2
    let reached := passAlong noise s.world h 0 true x.2 s.nodes
    let sent := sentIn noise 0 reached
    let p := x.1.countCycle.assignApplied x.2 (reached.any (·.assigned))
    let q := p.takeUpHalf s.part.isHeld x.2 (windowOf sent) (hailWindowOf noise reached)
    finish { s with part := q.settle, nodes := reached.map (·.node), marks := { s.marks with cycle := false } }
  else s

/-! ### Requests (R141) -/

/-- COUNTERS_READ (R141). -/
def Part.countersRead (clear : Option Bool) (_saving : Bool) (p : Part) : Part × Answer :=
  checked [(clear.isNone, .badValue)] p
    fun p =>
      let counts := p.line.links.toList.map fun l => (l.missed, l.badcheck)
      let q := if clear == some true then
          { p with line := { p.line with giveUps := 0, links := Tab.mapAll p.line.links fun _ l =>
              { l with missed := 0, badcheck := 0, levels := ⟨true, true, true, true⟩ } } }
        else p
      (q, okWith (.counters counts p.line.giveUps p.line.frozen))

/-- COUNTERS_FREEZE (R141). -/
def Part.countersFreeze (freeze : Option Bool) (_saving : Bool) (p : Part) : Part × Answer :=
  checked [(freeze.isNone, .badValue)] p
    fun p => ({ p with line := { p.line with frozen := freeze.getD false } }, okWith (.frozen (freeze.getD false)))

/-- NODE_LINK_READ (R141): an item of zone-update work is a dirty zone; the urgent and the output class, which keep no passed
count (R131), give 0 as theirs (log entry 86). -/
def Part.nodeLinkRead (pos : Nat) (p : Part) : Answer :=
  checkedRead [(23 < pos, .badValue)] <|
    let items := fun (k : SlotClass) => (p.line.queueOf k).length + (p.classZones k).length
    let flight := p.line.flight.map fun f => (f.seq, f.sends, f.waiting ++ f.confirmed)
    okWith (.nodeLink (p.node pos) (p.link pos) p.chain.line flight
      [(items .urgent, 0), (items .output, 0), (items .clock, p.line.passedClock), (items .service, p.line.passedService)])

end Sys2Proof.Machine
end

