-- ==== Sys2Proof/Machine/LineCommands.lean ====
section
/-! DEFINITION. The meanings of the commands of the line engine (R124 to R141). -/

namespace Sys2Proof.Machine

/-- COUNTERS_READ (R141). -/
def execCountersRead (tag : Nat) (clear : Option Bool) (s : State) : Result :=
  .next (request (.countersRead tag clear) tag 0x44 (ofPart (Part.countersRead clear)) s)

/-- COUNTERS_FREEZE (R141). -/
def execCountersFreeze (tag : Nat) (freeze : Option Bool) (s : State) : Result :=
  .next (request (.countersFreeze tag freeze) tag 0x45 (ofPart (Part.countersFreeze freeze)) s)

/-- NODE_LINK_READ (R141). -/
def execNodeLinkRead (tag : Nat) (position : Nat) (s : State) : Result :=
  .next (request (.nodeLinkRead tag position) tag 0x46 (ofReader (Part.nodeLinkRead position)) s)

/-- LINE_CYCLE (R124). -/
def execLineCycle (noise : Noise) (s : State) : Result := .next (lineCycle noise s)

/-- NODE_LIVENESS_TIMEOUT (R134). -/
def execNodeLivenessTimeout (position : Nat) (s : State) : Result := .next (event (Part.livenessTimeout position) s)

end Sys2Proof.Machine
end

