-- ==== Sys2Proof/Machine/NodeCommands.lean ====
section
/-! DEFINITION. The meanings of the events of the line nodes and of the wiring (R111, R128, R129, R137, R138, R148). -/

namespace Sys2Proof.Machine

/-- The node at a place changed; a place where no node is fitted has nothing to change. -/
def onNode (place : Nat) (f : Node → Node) (s : State) : State := { s with nodes := s.nodes.modify place f }

/-- A node's own power returns (R138), or a new node with the given setup store is fitted at a place: in the stead of
the node there, or behind the last one (log entry 4). -/
def nodePowerRestart (place : Nat) (fitted : Option (List StoreByte)) (s : State) : State :=
  match fitted with
  | none => onNode place (fun n => if n.powered then n else n.powerUp) s
  | some l =>
    if place < s.nodes.length then onNode place (fun n => Node.fitted (storeOf l) n.segment) s
    else if place = s.nodes.length && place < 24 then { s with nodes := s.nodes ++ [Node.fitted (storeOf l) .none] }
    else s

/-- NODE_INPUT_EDGE (R128). -/
def execNodeInputEdge (place : Nat) (input : Nat) (s : State) : Result :=
  .next (onNode place (fun n => n.inputEdge input) s)

/-- NODE_PULSE_END (R111). -/
def execNodePulseEnd (place : Nat) (line : Nat) (s : State) : Result :=
  .next (onNode place (fun n => n.pulseEnd s.world line) s)

/-- NODE_WARMUP_END (R129). -/
def execNodeWarmupEnd (place : Nat) (s : State) : Result := .next (onNode place (fun n => n.warmupEnd s.world) s)

/-- NODE_CUT_ONWARD_END (R148). -/
def execNodeCutOnwardEnd (place : Nat) (s : State) : Result := .next (onNode place (fun n => n.cutEnd s.world) s)

/-- NODE_ISOLATED (R137). -/
def execNodeIsolated (place : Nat) (s : State) : Result := .next (onNode place (fun n => n.isolate s.world) s)

/-- NODE_HOLD_OVER_END (R137). -/
def execNodeHoldOverEnd (place : Nat) (s : State) : Result := .next (onNode place (fun n => n.holdOverEnd s.world) s)

/-- NODE_LINE_RESET (R148). -/
def execNodeLineReset (place : Nat) (s : State) : Result := .next (onNode place (fun n => n.lineResetEnd s.world) s)

/-- NODE_POWER_RESTART (R138). -/
def execNodePowerRestart (place : Nat) (fitted : Option (List StoreByte)) (s : State) : Result :=
  .next (nodePowerRestart place fitted s)

/-- NODE_POWER_LOSS (R138). -/
def execNodePowerLoss (place : Nat) (s : State) : Result := .next (onNode place Node.powerDown s)

/-- ONWARD_SEGMENT_CHANGE (R148). -/
def execOnwardSegmentChange (place : Nat) (segment : PortFault) (s : State) : Result :=
  .next (onNode place (fun n => { n with segment := segment }) s)

end Sys2Proof.Machine
end

