-- ==== Sys2Proof/Machine/Frames.lean ====
section
/-! DEFINITION. The control frame (R161, R181, R182): what a received frame carries. The widths of the operands of each
kind are read off R181 and the request's own rule (log entry 9). -/

namespace Sys2Proof.Machine

/-! ### Operands -/

/-- A flag byte; `none` for a byte other than 0 and 1 (R181). -/
def flagOf (b : Byte) : Option Bool := if b = 0#8 then some false else if b = 1#8 then some true else none

/-- A signed one-byte field (R181). -/
def signed1 (b : Byte) : Int := b.toInt

/-- A signed two-byte field (R181). -/
def signed2 (a b : Byte) : Int := (BitVec.ofNat 16 (beValue [a, b])).toInt

/-- A date field (R181). -/
def dateField (y m d : Byte) : CalDate := ⟨2000 + y.toNat, m.toNat, d.toNat⟩

/-- The operand value whose code a byte is, of two named ones (log entry 8). -/
def namedOf {α : Type} (b : Byte) (x : WireName × α) (y : WireName × α) : Option α :=
  if b = Config.wireCode x.1 then some x.2 else if b = Config.wireCode y.1 then some y.2 else none

/-- A range of two bytes. -/
def rangeOf (x : Byte × Byte) : Range := ⟨x.1.toNat, x.2.toNat⟩

/-- A list of ranges after its count, and the bytes behind it. -/
def rangesField : List Byte → Option (List Range × List Byte)
  | n :: l => (readPairs n.toNat l).map fun x => (x.1.map rangeOf, x.2)
  | [] => none

/-- `n` bell entries of seven bytes each, to the end of a body (R22). -/
def entriesField : Nat → List Byte → Option (List BellEntry)
  | 0, [] => some []
  | n + 1, a :: b :: c :: g :: p :: d :: e :: l =>
    (entriesField n l).map fun es => ⟨beValue [a, b, c], g.toNat, p.toNat, beValue [d, e]⟩ :: es
  | _, _ => none

/-- A list of bytes after its count, and the bytes behind it. -/
def bytesField : List Byte → Option (List Byte × List Byte)
  | n :: l => if n.toNat ≤ l.length then some (l.take n.toNat, l.drop n.toNat) else none
  | [] => none

/-- The fields of a drill program (R82). -/
def programField (l : List Byte) : Option Program :=
  (bytesField l).bind fun x =>
    match x.2 with
    | c :: pl :: ep :: t1 :: t2 :: n :: rest =>
      (readPairs n.toNat rest).bind fun y =>
        match y.2 with
        | [m1, m2, ap, al] =>
          some { scope := x.1.map (·.toNat), chime := unmarked c, prealert := pl.toNat, evacuation := ep.toNat,
                 tone := beValue [t1, t2], targets := y.1.map fun t => beValue [t.1, t.2], muster := beValue [m1, m2],
                 allclearPattern := ap.toNat, allclear := al.toNat }
        | _ => none
    | _ => none

/-- An input definition of three bytes (R142). -/
def inputField (f b e : Byte) : InputOperand := ⟨inputFunctionOf f.toNat, unmarked b, edgeOf e.toNat⟩

/-- The polarity operand of CIRCUIT_SET_DIAL (R121); the codes are those of R183. -/
def polarityField (b : Byte) : PolarityGiven :=
  if b = 0xFF#8 then .notGiven else if b.toNat = 1 then .given .positive else if b.toNat = 2 then .given .negative else .unknown

/-- What CIRCUIT_WRITE carries with a mark code other than *empty*: a definition with every field outside its range, so that it
is refused BAD_VALUE as an unknown mark is (R120, R181). -/
def unknownMark : CircuitDef := ⟨255, 255, 255, 255, 255⟩

/-! ### Bodies -/

/-- The request of a kind and a body; `none` when the body's length is not one that the kind allows (R163, R181). A kind
that the part does not use is told apart by `kindKnown`. R35 gives no mark that tells BELL_RING's group number from its zone
range: the model tells them by the length of the body, four bytes or five (log entry 9). A byte 0xFF as expected maker or
model is read as ANY, though R142 allows the number 255, and ACTIVE and QUIET of NODE_POWER have the codes 0 and 1 of the line
command POWER (log entry 9). -/
def requestOf (t : Nat) (kind : Nat) (body : List Byte) : Option Instr :=
  match kind, body with
  | 0x01, [] => some (.identify t)
  | 0x02, [] => some (.status t)
  | 0x03, [y, m, d, a, b, c] => some (.timeSet t (dateField y m d) (beValue [a, b, c]))
  | 0x04, [a, b] => some (.timeTrim t (signed2 a b))
  | 0x05, [] => some (.timeRead t)
  | 0x06, [a, b, c, d, e, f, g] => some (.weekWrite t ([a, b, c, d, e, f, g].map unmarked))
  | 0x07, [] => some (.weekRead t)
  | 0x08, [a, b, c, d, e, f, p, q] => some (.exceptionAdd t (dateField a b c) (dateField d e f) (unmarked p) (flagOf q))
  | 0x09, [a, b, c] => some (.exceptionRemove t (dateField a b c))
  | 0x0A, [i] => some (.exceptionRead t i.toNat)
  | 0x0B, [a, b, c, m, n, s] => some (.timeChangeAdd t (dateField a b c) (beValue [m, n]) (signed1 s))
  | 0x0C, [a, b, c, m, n] => some (.timeChangeRemove t (dateField a b c) (beValue [m, n]))
  | 0x0D, [] => some (.timeChangeRead t)
  | 0x0E, [a, b, c, d] => some (.quietSet t (beValue [a, b]) (beValue [c, d]))
  | 0x0F, [] => some (.quietRead t)
  | 0x10, g :: l => (rangesField l).bind fun x => if x.2.isEmpty then some (.groupWrite t g.toNat x.1) else none
  | 0x11, [g] => some (.groupRead t g.toNat)
  | 0x12, p :: n :: l => (entriesField n.toNat l).map (.planWrite t p.toNat)
  | 0x13, p :: n :: l => (entriesField n.toNat l).map (.planAppend t p.toNat)
  | 0x14, [p] => some (.planClear t p.toNat)
  | 0x15, [p, a, b] => some (.planRead t p.toNat (beValue [a, b]))
  | 0x16, [a, b] => some (.timelineRead t (beValue [a, b]))
  | 0x17, [g, p, a, b] => some (.bellRing t (.group g.toNat) p.toNat (beValue [a, b]))
  | 0x17, [f, l, p, a, b] => some (.bellRing t (.zones ⟨f.toNat, l.toNat⟩) p.toNat (beValue [a, b]))
  | 0x18, [f, l] => some (.bellSilence t ⟨f.toNat, l.toNat⟩)
  | 0x19, [g, a, b] => some (.bellSettings t g.toNat (beValue [a, b]))
  | 0x1A, [] => some (.bellSettingsRead t)
  | 0x20, [b, f, l] => some (.buildingWrite t b.toNat ⟨f.toNat, l.toNat⟩)
  | 0x21, [] => some (.buildingRead t)
  | 0x22, [z, k] => some (.zoneDefine t z.toNat (namedOf k (.kindSounder, .sounder) (.kindSpeaker, .speaker)))
  | 0x23, [f, l, s, v] =>
    some (.zoneEnable t ⟨f.toNat, l.toNat⟩ (namedOf s (.sourceBell, .bell) (.sourceAnnounce, .announce)) (flagOf v))
  | 0x24, [f, l, s, v] =>
    some (.zoneMask t ⟨f.toNat, l.toNat⟩ (namedOf s (.sourceBell, .bell) (.sourceAnnounce, .announce)) (flagOf v))
  | 0x25, [f, l] => some (.zoneRead t ⟨f.toNat, l.toNat⟩)
  | 0x26, [b] => some (.yieldRelease t b.toNat)
  | 0x28, i :: r :: l =>
    (rangesField l).bind fun x =>
      match x.2 with
      | [c, a, b] =>
        some (.announceStart t (namedOf i (.inputP1, .p1) (.inputP2, .p2)) r.toNat x.1 (unmarked c) (beValue [a, b]))
      | _ => none
  | 0x29, [i] => some (.announceEnd t i.toNat)
  | 0x2A, [i] => some (.announceCancel t i.toNat)
  | 0x2B, [] => some (.announceList t)
  | 0x2C, [i, n] => some (.announceRead t i.toNat n.toNat)
  | 0x30, p :: l => (programField l).map (.programWrite t p.toNat)
  | 0x31, [p] => some (.programRead t p.toNat)
  | 0x32, [p, f] => some (.drillStart t p.toNat (flagOf f))
  | 0x33, [] => some (.drillAbort t)
  | 0x34, [] => some (.drillRead t)
  | 0x35, [i] => some (.drillRecordsRead t i.toNat)
  | 0x36, [a, b, c, m, n, p] => some (.scheduleAdd t (dateField a b c) (beValue [m, n]) p.toNat)
  | 0x37, [a, b, c, m, n] => some (.scheduleRemove t (dateField a b c) (beValue [m, n]))
  | 0x38, [] => some (.scheduleRead t)
  | 0x3A, [p, v] => some (.displaySet t p.toNat (namedOf v (.displayBlank, true) (.displayRestore, false)))
  | 0x3B, [] => some (.displayRead t)
  | 0x3C, [c, m] => some (.circuitWrite t c.toNat (if m = 0xFF#8 then none else some unknownMark))
  | 0x3C, [c, p, l, w, s, h] =>
    some (.circuitWrite t c.toNat (some ⟨p.toNat, l.toNat, w.toNat, s.toNat, h.toNat⟩))
  | 0x3D, [c, a, b, p] => some (.circuitSetDial t c.toNat (beValue [a, b]) (polarityField p))
  | 0x3E, [c] => some (.circuitStop t c.toNat)
  | 0x3F, [c] => some (.circuitRun t c.toNat)
  | 0x40, [f, l] => some (.circuitRead t ⟨f.toNat, l.toNat⟩)
  | 0x44, [f] => some (.countersRead t (flagOf f))
  | 0x45, [v] => some (.countersFreeze t (namedOf v (.countersFreeze, true) (.countersResume, false)))
  | 0x46, [p] => some (.nodeLinkRead t p.toNat)
  | 0x48, [p, mk, md, f, l, b, ta, ho, f0, b0, e0, f1, b1, e1, f2, b2, e2, f3, b3, e3] =>
    some (.rosterWrite t p.toNat
      { maker := unmarked mk, model := unmarked md, window := ⟨f.toNat, l.toNat⟩, building := unmarked b,
        tapAssigned := ta.toNat, holdOver := ho.toNat,
        inputs := [inputField f0 b0 e0, inputField f1 b1 e1, inputField f2 b2 e2, inputField f3 b3 e3] })
  | 0x49, [n] => some (.rosterLength t n.toNat)
  | 0x4A, [p] => some (.rosterRead t p.toNat)
  | 0x4B, [a, b, i] => some (.lineSettings t (flagOf a) (flagOf b) i.toNat)
  | 0x4C, [] => some (.lineSettingsRead t)
  | 0x4D, [f] => some (.chainRead t f.toNat)
  | 0x4E, [] => some (.lineStart t)
  | 0x4F, [p] => some (.lineRestart t p.toNat)
  | 0x50, [] => some (.lineStop t)
  | 0x51, [p, v] =>
    some (.nodePower t p.toNat (if v.toNat = 0 then some .active else if v.toNat = 1 then some .quiet else none))
  | 0x52, [p, a, b, n] => some (.nodeRead t p.toNat (beValue [a, b]) n.toNat)
  | 0x53, p :: a :: b :: l =>
    (bytesField l).bind fun x => if x.2.isEmpty then some (.nodeWrite t p.toNat (beValue [a, b]) x.1) else none
  | 0x58, [a, b, v] => some (.noticeEnable t (BitVec.ofNat 16 (beValue [a, b])) (flagOf v))
  | 0x59, [] => some (.noticeEnableRead t)
  | 0x5A, [] => some (.storeSave t)
  | 0x5B, [] => some (.storeLoad t)
  | 0x5C, [] => some (.restart t)
  | _, _ => none

/-- The kinds that the part uses (R182). -/
def kindKnown (k : Nat) : Bool :=
  (0x01 ≤ k && k ≤ 0x1A) || (0x20 ≤ k && k ≤ 0x26) || (0x28 ≤ k && k ≤ 0x2C) || (0x30 ≤ k && k ≤ 0x38) ||
  (0x3A ≤ k && k ≤ 0x40) || (0x44 ≤ k && k ≤ 0x46) || (0x48 ≤ k && k ≤ 0x53) || (0x58 ≤ k && k ≤ 0x5C)

/-- What a received frame asks, in the order of R163: tag 0, an unknown kind, a bad length, or a request. -/
def heldOf (t kind : Nat) (body : List Byte) : HeldFrame :=
  if t = 0 then .tagZero kind
  else if kindKnown kind then
    match requestOf t kind body with
    | some i => .request i
    | none => .badLength t kind
  else .unknownKind t kind

/-- The check byte of a frame covers its length, tag, kind and body (R181). -/
def frameCheck (t kind : Byte) (body : List Byte) : Byte := crc8 (byteOf (body.length + 2) :: t :: kind :: body)

end Sys2Proof.Machine
end

