-- ==== Sys2Proof/Machine/Image.lean ====
section
/-! DEFINITION. The image of the table store in the serial memory, byte by byte (R168, R185). The head, the length and the
check are those of R185; the arrangement of the sections is the model's own (log entry 12). -/

namespace Sys2Proof.Machine

/-! ### Fields -/

/-- How a value is written as bytes, and read back from the front of a list of bytes. -/
structure Field (α : Type) where
  write : α → List Byte
  read : List Byte → Option (α × List Byte)

/-- A one-byte number. -/
def Field.byte : Field Nat where
  write n := [byteOf n]
  read
    | a :: l => some (a.toNat, l)
    | [] => none

/-- A two-byte number (R181). -/
def Field.word : Field Nat where
  write := be2
  read
    | a :: b :: l => some (beValue [a, b], l)
    | _ => none

/-- A three-byte number (R181). -/
def Field.triple : Field Nat where
  write := be3
  read
    | a :: b :: c :: l => some (beValue [a, b, c], l)
    | _ => none

/-- A value with a one-byte code. -/
def Field.code {α : Type} (f : α → Nat) (g : Nat → Option α) : Field α where
  write a := [byteOf (f a)]
  read
    | b :: l => (g b.toNat).map fun a => (a, l)
    | [] => none

/-- One field after another. -/
def Field.both {α β : Type} (f : Field α) (g : Field β) : Field (α × β) where
  write x := f.write x.1 ++ g.write x.2
  read l := (f.read l).bind fun x => (g.read x.2).map fun y => ((x.1, y.1), y.2)

/-- A field of another form. -/
def Field.as {α β : Type} (f : Field α) (forth : α → β) (back : β → α) : Field β where
  write b := f.write (back b)
  read l := (f.read l).map fun x => (forth x.1, x.2)

/-- A flag (R181). -/
def Field.flag : Field Bool :=
  .code (fun b => if b then 1 else 0) fun n => if n = 0 then some false else if n = 1 then some true else none

/-- A value that may be absent: a flag, and the value if it is present. -/
def Field.option {α : Type} (f : Field α) : Field (Option α) where
  write
    | none => [0#8]
    | some a => 1#8 :: f.write a
  read
    | b :: l =>
      if b = 0#8 then some (none, l) else if b = 1#8 then (f.read l).map fun x => (some x.1, x.2) else none
    | [] => none

/-- `n` values, one after another. -/
def Field.readMany {α : Type} (f : Field α) : Nat → List Byte → Option (List α × List Byte)
  | 0, l => some ([], l)
  | n + 1, l => (f.read l).bind fun x => (f.readMany n x.2).map fun y => (x.1 :: y.1, y.2)

/-- A list after its two-byte count. -/
def Field.list {α : Type} (f : Field α) : Field (List α) where
  write l := be2 l.length ++ l.flatMap f.write
  read l := (Field.word.read l).bind fun x => f.readMany x.1 x.2

/-- A table of a fixed number of records. -/
def Field.table {α : Type} (f : Field α) (n : Nat) : Field (Vector α n) where
  write v := v.toList.flatMap f.write
  read l := (f.readMany n l).bind fun x =>
    if h : x.1.length = n then some (⟨x.1.toArray, by simpa using h⟩, x.2) else none

/-! ### The records of the tables -/

/-- A range (R181). -/
def Field.range : Field Range := (Field.byte.both .byte).as (fun x => ⟨x.1, x.2⟩) fun r => (r.first, r.last)

/-- A signed one-byte number (R181). -/
def Field.signed : Field Int := Field.byte.as (fun n => (BitVec.ofNat 8 n).toInt) fun i => (BitVec.ofInt 8 i).toNat

/-- An exception record (R10). -/
def Field.exception : Field ExceptionRec :=
  (Field.word.both (Field.word.both (Field.byte.option.both .flag))).as
    (fun x => ⟨x.1, x.2.1, x.2.2.1, x.2.2.2⟩) fun e => (e.first, e.last, e.plan, e.quiet)

/-- A time-change record with its state (R14). -/
def Field.change : Field TimeChange :=
  (Field.word.both (Field.word.both (Field.signed.both .flag))).as
    (fun x => ⟨x.1, x.2.1, x.2.2.1, x.2.2.2⟩) fun c => (c.day, c.minute, c.shift, c.done)

/-- A bell entry (R22). -/
def Field.bellEntry : Field BellEntry :=
  (Field.triple.both (Field.byte.both (Field.byte.both .word))).as
    (fun x => ⟨x.1, x.2.1, x.2.2.1, x.2.2.2⟩) fun e => (e.time, e.group, e.pattern, e.duration)

/-- A zone's kind and enables (R41). -/
def Field.zone : Field StoredZone :=
  ((Field.code (fun k => if k = ZoneKind.speaker then 1 else 0)
      fun n => if n = 0 then some .sounder else if n = 1 then some .speaker else none).both (Field.flag.both .flag)).as
    (fun x => ⟨x.1, x.2.1, x.2.2⟩) fun z => (z.kind, z.bellOn, z.annOn)

/-- An input definition (R142). -/
def Field.input : Field InputDef :=
  ((Field.code InputFunction.code inputFunctionOf).both (Field.byte.option.both (.code Edge.code edgeOf))).as
    (fun x => ⟨x.1, x.2.1, x.2.2⟩) fun i => (i.function, i.building, i.edge)

/-- A roster record (R142). -/
def Field.rosterRecord : Field RosterRecord :=
  (Field.byte.option.both (Field.byte.option.both (Field.range.both (Field.byte.option.both
      (Field.byte.both (Field.byte.both (Field.input.table 4))))))).as
    (fun x => ⟨x.1, x.2.1, x.2.2.1, x.2.2.2.1, x.2.2.2.2.1, x.2.2.2.2.2.1, x.2.2.2.2.2.2⟩)
    fun r => (r.maker, r.model, r.window, r.building, r.tapAssigned, r.holdOver, r.inputs)

/-- A circuit definition (R110). -/
def Field.circuit : Field CircuitDef :=
  (Field.byte.both (Field.byte.both (Field.byte.both (Field.byte.both .byte)))).as
    (fun x => ⟨x.1, x.2.1, x.2.2.1, x.2.2.2.1, x.2.2.2.2⟩)
    fun d => (d.position, d.line, d.width, d.spacing, d.holdLimit)

/-- A drill program (R82). -/
def Field.program : Field Program :=
  (Field.byte.list.both (Field.byte.option.both (Field.byte.both (Field.byte.both (Field.word.both (Field.word.list.both
      (Field.word.both (Field.byte.both .byte)))))))).as
    (fun x => ⟨x.1, x.2.1, x.2.2.1, x.2.2.2.1, x.2.2.2.2.1, x.2.2.2.2.2.1, x.2.2.2.2.2.2.1, x.2.2.2.2.2.2.2.1,
      x.2.2.2.2.2.2.2.2⟩)
    fun f => (f.scope, f.chime, f.prealert, f.evacuation, f.tone, f.targets, f.muster, f.allclearPattern, f.allclear)

/-- The number of a scheduled entry's state. -/
def ScheduleState.number : ScheduleState → Nat
  | .waiting => 0 | .started => 1 | .missed => 2 | .refused => 3 | .notReady => 4

/-- The state of a scheduled entry with a number. -/
def scheduleStateOf : Nat → Option ScheduleState
  | 0 => some .waiting | 1 => some .started | 2 => some .missed | 3 => some .refused | 4 => some .notReady
  | _ => none

/-- A scheduled-drill entry with its state (R102). -/
def Field.scheduleEntry : Field ScheduleEntry :=
  (Field.word.both (Field.word.both (Field.byte.both (.code ScheduleState.number scheduleStateOf)))).as
    (fun x => ⟨x.1, x.2.1, x.2.2.1, x.2.2.2⟩) fun e => (e.day, e.minute, e.program, e.state)

/-! ### The sections (R168) -/

/-- The calendar's section: week table, exceptions, time changes, quiet window. -/
def Field.calendar : Field (Vector (Option Nat) 7 × List ExceptionRec × List TimeChange × Nat × Nat) :=
  (Field.byte.option.table 7).both (Field.exception.list.both (Field.change.list.both (Field.word.both .word)))

/-- The bell scheduler's section: groups, plans, grace, catch-up window. -/
def Field.bells : Field (Vector (List Range) 32 × Vector (List BellEntry) 16 × Nat × Nat) :=
  (Field.range.list.table 32).both ((Field.bellEntry.list.table 16).both (Field.byte.both .word))

/-- The arbiter's section: building ranges, zones. -/
def Field.arbiter : Field (Vector Range 8 × Vector StoredZone 64) := (Field.range.table 8).both (Field.zone.table 64)

/-- The chain builder's section: roster, length, line settings. -/
def Field.roster : Field (Vector RosterRecord 24 × Nat × Bool × Bool × Nat) :=
  (Field.rosterRecord.table 24).both (Field.byte.both (Field.flag.both (Field.flag.both .byte)))

/-- The drill timer's section: programs, schedule. -/
def Field.drills : Field (Vector (Option Program) 4 × List ScheduleEntry) :=
  (Field.program.option.table 4).both Field.scheduleEntry.list

/-- The table sections of an image: those of the calendar, the bell scheduler, the arbiter, the chain builder, the clock
driver, the drill timer and the control port (R168). -/
def Field.tables : Field Tables :=
  (Field.calendar.both (Field.bells.both (Field.arbiter.both (Field.roster.both
      ((Field.circuit.option.table 32).both (Field.drills.both (Field.flag.table 14))))))).as
    (fun x =>
      { week := x.1.1, exceptions := x.1.2.1, changes := x.1.2.2.1, quietStart := x.1.2.2.2.1, quietEnd := x.1.2.2.2.2,
        groups := x.2.1.1, plans := x.2.1.2.1, grace := x.2.1.2.2.1, catchUp := x.2.1.2.2.2, ranges := x.2.2.1.1,
        zones := x.2.2.1.2, roster := x.2.2.2.1.1, length := x.2.2.2.1.2.1, autoStart := x.2.2.2.1.2.2.1,
        autoSetup := x.2.2.2.1.2.2.2.1, interval := x.2.2.2.1.2.2.2.2, circuits := x.2.2.2.2.1,
        programs := x.2.2.2.2.2.1.1, schedule := x.2.2.2.2.2.1.2, enables := x.2.2.2.2.2.2 })
    fun t =>
      ((t.week, t.exceptions, t.changes, t.quietStart, t.quietEnd), (t.groups, t.plans, t.grace, t.catchUp),
        (t.ranges, t.zones), (t.roster, t.length, t.autoStart, t.autoSetup, t.interval), t.circuits,
        (t.programs, t.schedule), t.enables)

/-! ### The image (R185) -/

/-- The size of the serial memory, in bytes (R168). -/
def memorySize : Nat := 32768

/-- The head of an image: the marker, the format version, the length of the sections (R185). -/
def imageHead (length : Nat) : List Byte := [0xC3#8, 0x5A#8, Config.imageFormatVersion] ++ be2 length

/-- The check of an image: the 16-bit CRC over the head and the sections (R185). -/
def imageCheck (l : List Byte) : List Byte := be2 (crc16 l).toNat

/-- The bytes of the image with given sections (R185). -/
def imageWith (sections : List Byte) : List Byte :=
  let l := imageHead sections.length ++ sections
  l ++ imageCheck l

/-- The bytes of the image of the tables (R168, R185). -/
def imageOf (t : Tables) : List Byte := imageWith (Field.tables.write t)

/-- A run of bytes of the serial memory. -/
def SerialMemory.run (m : SerialMemory) (a n : Nat) : List Byte := Memory.readRun m.cells a n

/-- The serial memory with bytes written from address 0 on. -/
def SerialMemory.written (m : SerialMemory) (l : List Byte) : SerialMemory :=
  { m with cells := Memory.writeRun m.cells 0 (l.take memorySize) }

/-- The sections of the image in the memory, if its marker, version, length and check are good (R185). -/
def SerialMemory.sections (m : SerialMemory) : Option (List Byte) :=
  let n := beValue (m.run 3 2)
  if m.run 0 5 == imageHead n && n + 7 ≤ memorySize && m.run (n + 5) 2 == imageCheck (m.run 0 (n + 5)) then some (m.run 5 n)
  else none

/-- The tables that sections hold; every byte of them belongs to a table. -/
def sectionsRead (l : List Byte) : Option Tables :=
  match Field.tables.read l with
  | some (t, []) => some t
  | _ => none

end Sys2Proof.Machine
end

