-- ==== Sys2Proof/Machine/Store.lean ====
section
/-! DEFINITION. The table store: the image, STORE_SAVE and STORE_LOAD, the tables taken into the blocks (R168 to R170,
R179, R185). -/

namespace Sys2Proof.Machine

/-! ### The tables (R168) -/

/-- The tables of the part as they stand (R168). -/
def tablesOf (p : Part) (enables : Vector Bool 14) : Tables :=
  { week := p.cal.week, exceptions := p.cal.exceptions, changes := p.cal.changes, quietStart := p.cal.quietStart,
    quietEnd := p.cal.quietEnd, groups := p.bell.groups, plans := p.bell.plans, grace := p.bell.grace,
    catchUp := p.bell.catchUp, ranges := Tab.mapAll p.arb.buildings fun _ b => b.zones,
    zones := Tab.mapAll p.arb.zones fun _ z => ⟨z.kind, z.bellOn, z.annOn⟩, roster := p.chain.roster,
    length := p.chain.length, autoStart := p.chain.autoStart, autoSetup := p.chain.autoSetup, interval := p.chain.interval,
    circuits := Tab.mapAll p.clk.circuits fun _ c => c.map (·.definition), programs := p.drill.programs,
    schedule := p.drill.schedule, enables := enables }

/-- The stored tables replace those of the calendar, the bell scheduler, the arbiter, the chain builder and the drill
timer; yield states become CLEAR (R39). Circuits are replaced by their own rule. -/
def Part.withTables (p : Part) (t : Tables) : Part :=
  { p with
    cal := { p.cal with week := t.week, exceptions := t.exceptions, changes := t.changes, quietStart := t.quietStart,
                        quietEnd := t.quietEnd }
    bell := { p.bell with groups := t.groups, plans := t.plans, grace := t.grace, catchUp := t.catchUp }
    arb := { buildings := Tab.mapAll t.ranges fun _ r => ⟨r, .clear, none⟩,
             zones := Tab.mapAll p.arb.zones fun i z =>
               match t.zones[i]? with
               | some x => { z with kind := x.kind, bellOn := x.bellOn, annOn := x.annOn }
               | none => z }
    chain := { p.chain with roster := t.roster, length := t.length, autoStart := t.autoStart, autoSetup := t.autoSetup,
                            interval := t.interval }
    drill := { p.drill with programs := t.programs, schedule := t.schedule } }

/-! ### What an image may hold (R185) -/

/-- Whether a condition holds of each pair of neighbours of a list. -/
def neighbours {α : Type} (f : α → α → Bool) : List α → Bool
  | a :: b :: l => f a b && neighbours f (b :: l)
  | _ => true

/-- Whether no two of a list of ranges share a number. -/
def disjoint : List Range → Bool
  | [] => true
  | r :: l => l.all (fun q => !r.meets q) && disjoint l

/-- Whether a range lies within the zones (R39, R142). -/
def withinZones (r : Range) : Bool := r.first ≤ 63 && r.last ≤ 63

/-- Whether a roster record's fields lie in their ranges (R142). -/
def RosterRecord.allowed (r : RosterRecord) : Bool :=
  let building := fun (b : Option Nat) => b.all (· ≤ 7)
  let mark := fun (m : Option Nat) => m.all fun n => 1 ≤ n && n ≤ 255
  mark r.maker && mark r.model && withinZones r.window && building r.building && r.tapAssigned ≤ 2 && r.holdOver ≤ 255 &&
  r.inputs.toList.all fun i =>
    building i.building &&
    !((i.function == .clear || i.function == .count || i.function == .yield) && i.building != r.building)

/-- Whether the circuits' definitions are allowed and name no node line twice (R110). -/
def circuitsAllowed (l : List (Option CircuitDef)) : Bool :=
  let defs := l.filterMap id
  defs.all circuitAllowed && ((defs.map fun d => (d.position, d.line)).eraseDups.length == defs.length)

/-- Whether every section's values lie within the ranges their tables allow (R185). -/
def Tables.valid (t : Tables) : Bool :=
  t.week.toList.all planAllowed &&
  (t.exceptions.length ≤ 48 && t.exceptions.all (fun e => e.first ≤ e.last && e.last ≤ lastDay && planAllowed e.plan) &&
    neighbours (fun a b => a.last < b.first) t.exceptions) &&
  (t.changes.length ≤ 8 && t.changes.all (fun c => c.day ≤ lastDay && c.minute ≤ 1439 && shiftAllowed c.minute c.shift) &&
    neighbours (fun a b => a.moment.total < b.moment.total) t.changes) &&
  (t.quietStart ≤ 1439 && t.quietEnd ≤ 1439) &&
  t.groups.toList.all (fun g => g.length ≤ 4 && g.all withinZones) &&
  (t.plans.toList.all (fun p => p.all BellEntry.allowed && neighbours BellEntry.before p) &&
    (t.plans.toList.map List.length).sum ≤ 480) &&
  (t.grace ≤ 120 && t.catchUp ≤ 300) &&
  (t.ranges.toList.all withinZones && disjoint t.ranges.toList) &&
  (t.roster.toList.all RosterRecord.allowed && disjoint (t.roster.toList.map (·.window)) && t.length ≤ 24) &&
  (1 ≤ t.interval && t.interval ≤ 255) &&
  circuitsAllowed t.circuits.toList &&
  t.programs.toList.all (fun p => p.all programAllowed) &&
  (t.schedule.length ≤ 8 && t.schedule.all (fun e => e.day ≤ lastDay && e.minute ≤ 1439 && e.program ≤ 3) &&
    neighbours (fun a b => a.moment.total < b.moment.total) t.schedule)

/-- The tables of a VALID image; `none` for an INVALID one (R168, R173, R185). -/
def SerialMemory.tables (m : SerialMemory) (answers : Bool) : Option Tables :=
  if answers then (m.sections.bind sectionsRead).filter Tables.valid else none

/-- The tables that a start-up loads: those of a VALID image, unless a save has left it unfinished (R169, R171, R179). -/
def SerialMemory.stored (m : SerialMemory) (answers : Bool) : Option Tables := if m.torn then none else m.tables answers

/-! ### STORE_SAVE (R169) -/

/-- The memory when a save of an image is cut: head first, bytes of the image up to a free place before the last of its
check (R169, R185; log entry 74). -/
def SerialMemory.cut (m : SerialMemory) (image : List Byte) (draw : Nat) : SerialMemory :=
  { m.written (image.take (1 + Config.writtenAtCut draw % (image.length - 1))) with torn := true }

/-- A power loss or a RESTART ends a save in progress (R169). -/
def State.cutSave (s : State) : State :=
  match s.port.saving with
  | some t => { s with memory := s.memory.cut (imageOf t) s.draws, draws := s.draws + 1 }
  | none => s

/-- STORE_SAVE (R169), its slot found free: the copy is made, and the image state becomes INVALID with the first write (log
entry 12). -/
def storeSave (s : State) : State × Answer :=
  ({ s with port := { s.port with saving := some (tablesOf s.part s.port.enables), imageState := .invalid } },
   ⟨.accepted, .none⟩)

/-- What the serial memory holds after a save that did not go well: a free value (R169, R179; log entry 60). -/
def State.afterStoreFault (s : State) (t : Tables) : SerialMemory :=
  { SerialMemory.blank.written (Config.afterStoreFault s.draws (s.memory.run 0 memorySize) (imageOf t)) with torn := true }

/-- Writing and read-back finish (R169, R179). -/
def storeSaveComplete (good : Bool) (s : State) : State :=
  match s.port.saving with
  | some t =>
    if s.powered then
      let ended := fun (st : Status) => s.part.endOp st .none
      if good then
        finish { s with part := ended .ok, memory := { s.memory.written (imageOf t) with torn := false },
                        port := { s.port with saving := none, imageState := .valid } }
      else
        finish { s with part := ended .storeFault, memory := s.afterStoreFault t, draws := s.draws + 1,
                        port := { s.port with saving := none, imageState := .invalid } }
    else s
  | none => s

/-! ### STORE_LOAD (R170) -/

/-- STORE_LOAD (R170), its slot found free. -/
def storeLoad (s : State) : State × Answer :=
  if s.part.chain.line != .down || !s.part.idle then (s, ⟨.wrongState, .none⟩)
  else ({ s with part := { s.part with drill := { s.part.drill with startedSince := false } },
                 port := { s.port with loading := true } }, ⟨.accepted, .none⟩)

/-- Every stored table is replaced at one moment, and each block acts as its own rules state (R39, R41, R61, R79, R102,
R120, R170). -/
def Part.loadTables (p : Part) (t : Tables) : Part :=
  let cleared := p.clearClaims
  let q := cleared.withTables t
  let q := q.each (upTo 32) fun q c => (q.defineCircuit c (Tab.get t.circuits c none)).evaluateCircuit c
  (Part.rosterChanged cleared q).loadSelections

/-- The read of the image is complete (R170). The enables are replaced after every notice of the load, its OP_DONE
included, and a load that ends OK leaves the image state as it was (log entry 38). -/
def storeLoadComplete (answers : Bool) (s : State) : State :=
  if s.powered && s.port.loading then
    let s := { s with port := { s.port with loading := false } }
    match s.memory.tables answers with
    | none =>
      finish { s with part := s.part.endOp .badImage .none, port := { s.port with imageState := .invalid } }
    | some t =>
      if s.part.chain.line != .down || !s.part.idle || s.part.drill.startedSince then finish { s with part := s.part.endOp .wrongState .none }
      else
        let q := finish { s with part := (Part.settle (s.part.loadTables t)).endOp .ok .none }
        { q with port := { q.port with enables := t.enables } }
  else s

end Sys2Proof.Machine
end

