-- ==== Sys2Proof/Machine/Control.lean ====
section
/-! DEFINITION. The control port's own requests and events, power and start-up (R7, R161 to R167, R171 to R173). -/

namespace Sys2Proof.Machine

/-! ### Requests -/

/-- The capacities that IDENTIFY gives, in the order of the table of R173; the last is the table store's in KiB (log entry
10). -/
def capacities : List Nat := [64, 8, 24, 32, 16, 480, 48, 8, 8, 2, 4, 8, 4, 32, 32, 2, 4, 32]

/-- IDENTIFY (R173). -/
def identify (s : State) : State × Answer :=
  (s, okWith (.identify Config.partCode Config.partVersion Config.imageFormatVersion capacities))

/-- The number of positions in each node state, in the order of R145. -/
def Part.stateCounts (p : Part) : List Nat :=
  [NodeState.absent, .found, .mismatch .model, .setting, .ready .active, .suspect, .lost].map fun n =>
    ((upTo 24).filter fun pos => (p.node pos).sameKind n).length

/-- STATUS (R173): the reply reports the dropped flag and clears it (R166). -/
def status (s : State) : State × Answer :=
  let o := s.port
  let op := o.longOp.map fun l => (l.tag, l.kind, (s.part.now - l.accepted) / unitsPerTenth, l.ending.isSome)
  ({ s with port := { o with dropped := false } },
   okWith (.status s.part.time.quality s.part.chain.line s.part.stateCounts (s.part.drill.run.map (·.phase))
     s.part.ann.records.length o.imageState o.badFrames o.overruns o.dropped op o.lastLong))

/-- The bit of a notice kind in the set of NOTICE_ENABLE: bit k stands for code 0x60 + k (R181). -/
def enableBit (place : Nat) : Nat := if place < 7 then place else place + 1

/-- NOTICE_ENABLE (R167, R181). -/
def noticeEnable (kinds : BitVec 16) (on : Option Bool) (s : State) : State × Answer :=
  if s.port.saving.isSome then (s, ⟨.busy, .none⟩)
  else if kinds = 0#16 || kinds.getLsbD 7 || kinds.getLsbD 15 || on.isNone then (s, ⟨.badValue, .none⟩)
  else
    let e := Tab.mapAll s.port.enables fun i x => if kinds.getLsbD (enableBit i) then on.getD x else x
    ({ s with port := { s.port with enables := e } }, okWith (.enables e.toList))

/-- NOTICE_ENABLE_READ (R167). -/
def noticeEnableRead (s : State) : State × Answer := (s, okWith (.enables s.port.enables.toList))

/-- RESTART (R172): from now no request is taken and no notice begun; a long operation ends without OP_DONE, a save with
an INVALID image (R169; log entry 74); a trim is cancelled (R5). -/
def restart (s : State) : State × Answer :=
  ({ s.cutSave with
            part := s.part.cancelTrim,
            port := { s.port with rx := .heldOff, buffer := [], taking := false, restarting := true, longOp := none,
                                  saving := none, loading := false } }, okOnly)

/-! ### The receiver (R161) -/

/-- The bad-frame count rises by one (R161). -/
def Port.badFrame (p : Port) : Port := { p with badFrames := saturate16 (p.badFrames + 1) }

/-- Whether the receiver is collecting a frame. -/
def State.inFrame (s : State) : Bool := s.powered && s.port.rx == .inFrame

/-- A start byte in HUNTING (R161); inside a frame the byte is one of the frame's. -/
def startByte (s : State) : State :=
  if s.powered && s.port.rx == .hunting then { s with port := { s.port with rx := .inFrame } } else s

/-- A length below 2 or above 248 (R161). -/
def frameLengthAbandon (length : Byte) (s : State) : State :=
  if s.inFrame && (length.toNat < 2 || 248 < length.toNat) then { s with port := { s.port.badFrame with rx := .hunting } }
  else s

/-- A gap of more than 20 ms inside a frame; the byte that ends it is examined as a possible start byte (R161). -/
def frameGapTimeout (next : Byte) (s : State) : State :=
  if s.inFrame then
    { s with port := { s.port.badFrame with rx := if next = 0xA5#8 then .inFrame else .hunting } }
  else s

/-- A frame's check byte arrives (R161): the frame is discarded, or received and handed to the input buffer (R162). -/
def frameReceived (t kind : Byte) (body : List Byte) (check : Byte) (s : State) : State :=
  if s.inFrame then
    let o := { s.port with rx := .hunting }
    if 246 < body.length || frameCheck t kind body != check then { s with port := o.badFrame }
    else finish { s with port := o.enter t.toNat kind.toNat (heldOf t.toNat kind.toNat body) }
  else s

/-- The end of the frame being sent; the transmitter takes what is next (R166). -/
def transmitDone (s : State) : State :=
  if s.powered && s.port.sending.isSome then
    { s with port := { s.port with sending := none }.transmit, marks := { s.marks with tx := false } }
  else s

/-! ### Power and start-up -/

/-- The part without main power: the backup domain is all it holds (R7; log entry 28). -/
def Part.dark (p : Part) : Part :=
  { Part.reset with backup := p.backup, time := ⟨if p.backup.valid then .set else .unset, 0, false⟩ }

/-- The port before a start-up (R171). -/
def Port.dark : Port := { Port.reset with rx := .heldOff, notices := [], sending := none }

/-- The backup domain with the tenth that has elapsed and that an event was still to count (R7). -/
def State.kept (s : State) : Backup := if s.marks.count then s.part.backup.count else s.part.backup

/-- Main power fails (R7). A save in progress leaves the image INVALID (R169; log entry 74). -/
def mainPowerLoss (s : State) : State :=
  if s.powered then
    { s.cutSave with part := { s.part with backup := s.kept }.dark, port := Port.dark, powered := false,
                     marks := Marks.none }
  else s

/-- The battery falls below the level that holds the backup domain while main power is absent (R7). -/
def batteryLow (s : State) : State :=
  if s.powered then s else { s with part := { s.part with backup := Backup.lost }.dark }

/-- Whether a RESTART has been taken and its reply sent whole (R172). -/
def State.restartReady (s : State) : Bool :=
  s.powered && s.port.restarting && s.port.sending.isNone && s.port.replies.isEmpty

/-- The blocks after the start-up's steps 1 to 4 (R171). -/
def Part.startUp (backup : Backup) (stored : Option Tables) : Part :=
  let p := { Part.reset with backup := backup }
  let p := match stored with
    | some t =>
      let q := p.withTables t
      { q with clk := { q.clk with circuits := Tab.mapAll t.circuits fun _ d => d.map Circuit.fresh } }
    | none => p
  let p := ((p.restoreTime).restoreCircuits backup.valid).startSelections
  if p.chain.autoStart && 0 < p.chain.length then p.startLine false else p

/-- The port after a start-up: STARTED ahead of the notices of the start-up, all created with every enable on, and
then the enables of the image (R171). -/
def Port.startUp (cause : StartCause) (stored : Option Tables) (backupValid starting : Bool) (l : List Message) : Port :=
  let o := { Port.dark with rx := .hunting, imageState := if stored.isSome then .valid else .invalid }
  let o := (o.offer (.started cause stored.isSome backupValid starting)).drain l
  { o with enables := (stored.map (·.enables)).getD o.enables }

/-- START_UP (R171): after a power-on, or after the reply to RESTART has been sent. -/
def startUp (answers : Bool) (s : State) : State :=
  if !s.powered || s.restartReady then
    let stored := s.memory.stored answers
    let p := Part.startUp s.kept stored
    let cause := if s.powered then StartCause.restart else .powerOn
    { s with part := { p with outbox := [] },
             port := Port.startUp cause stored s.part.backup.valid (p.chain.line == .building) p.outbox,
             powered := true, marks := Marks.none }
  else s

end Sys2Proof.Machine
end

