-- ==== Sys2Proof/Machine/PortCommands.lean ====
section
/-! DEFINITION. The meanings of the commands of the control port, the table store, power and start-up (R7, R161 to R173). -/

namespace Sys2Proof.Machine

/-- IDENTIFY (R173). -/
def execIdentify (tag : Nat) (s : State) : Result := .next (request (.identify tag) tag 0x01 identify s)

/-- STATUS (R173). -/
def execStatus (tag : Nat) (s : State) : Result := .next (request (.status tag) tag 0x02 status s)

/-- NOTICE_ENABLE (R167). -/
def execNoticeEnable (tag : Nat) (kinds : BitVec 16) (on : Option Bool) (s : State) : Result :=
  .next (request (.noticeEnable tag kinds on) tag 0x58 (noticeEnable kinds on) s)

/-- NOTICE_ENABLE_READ (R167). -/
def execNoticeEnableRead (tag : Nat) (s : State) : Result :=
  .next (request (.noticeEnableRead tag) tag 0x59 noticeEnableRead s)

/-- STORE_SAVE (R169). -/
def execStoreSave (tag : Nat) (s : State) : Result :=
  .next (request (.storeSave tag) tag 0x5A (longOp tag 0x5A storeSave) s)

/-- STORE_LOAD (R170). -/
def execStoreLoad (tag : Nat) (s : State) : Result :=
  .next (request (.storeLoad tag) tag 0x5B (longOp tag 0x5B storeLoad) s)

/-- RESTART (R172). -/
def execRestart (tag : Nat) (s : State) : Result := .next (request (.restart tag) tag 0x5C restart s)

/-- FRAME_RECEIVED (R161). -/
def execFrameReceived (frameTag : Byte) (kind : Byte) (body : List Byte) (check : Byte) (s : State) : Result :=
  .next (frameReceived frameTag kind body check s)

/-- FRAME_GAP_TIMEOUT (R161). -/
def execFrameGapTimeout (next : Byte) (s : State) : Result := .next (frameGapTimeout next s)

/-- TRANSMIT_DONE (R166). -/
def execTransmitDone (s : State) : Result := .next (transmitDone s)

/-- START_UP (R171). -/
def execStartUp (answers : Bool) (s : State) : Result := .next (startUp answers s)

/-- MAIN_POWER_LOSS (R7). -/
def execMainPowerLoss (s : State) : Result := .next (mainPowerLoss s)

/-- BATTERY_LOW (R7). -/
def execBatteryLow (s : State) : Result := .next (batteryLow s)

/-- STORE_SAVE_COMPLETE (R169). -/
def execStoreSaveComplete (good : Bool) (s : State) : Result := .next (storeSaveComplete good s)

/-- STORE_LOAD_COMPLETE (R170). -/
def execStoreLoadComplete (answers : Bool) (s : State) : Result := .next (storeLoadComplete answers s)

/-- START_BYTE (R161). -/
def execStartByte (s : State) : Result := .next (startByte s)

/-- FRAME_LENGTH_ABANDON (R161). -/
def execFrameLengthAbandon (length : Byte) (s : State) : Result := .next (frameLengthAbandon length s)

end Sys2Proof.Machine
end

