-- ==== Sys2Proof/Machine/TimeCommands.lean ====
section
/-! DEFINITION. The meanings of the commands of campus time and the calendar (R1 to R19). -/

namespace Sys2Proof.Machine

/-- Whether campus time stands on the last tenth of its date (R1). -/
def Part.atDateEnd (p : Part) : Bool := p.isSet && p.backup.tod == dayTenths - 1

/-- A WAITING time-change record is reached (R15). -/
def Part.takeChange (p : Part) : Part :=
  match p.reachedChange with
  | some c => p.applyChange c
  | none => p

/-- An event that counts the tenth of campus time that was due: what it marks is whether it has reached a whole minute by
counting (R1, R17; log entry 2). -/
def counted (f : Part → Part) (minute : Bool) (s : State) : State :=
  let t := event f s
  { t with marks := { t.marks with count := false, minute := minute } }

/-- The end of a date: DAY_START, at whose first tenth a whole minute is reached (R1, R17). -/
def dayStart (s : State) : State :=
  if s.powered && s.part.atDateEnd && s.part.backup.day != lastDay then counted Part.dayStart true s else s

/-- The end of the range: campus time becomes UNSET (R1, R2). -/
def rangeEnd (s : State) : State :=
  if s.powered && s.part.atDateEnd && s.part.backup.day == lastDay then counted Part.becomeUnset false s else s

/-- A campus second of a trim in progress is complete (R5). -/
def trimSecond (s : State) : State :=
  if s.powered && s.part.isSet && s.part.nextTenth == .trim then
    counted Part.trimSecond (s.part.trimmedCount % 600 == 0) s
  else s

/-- TIME_SET (R3). -/
def execTimeSet (tag : Nat) (date : CalDate) (tenths : Nat) (s : State) : Result :=
  .next (request (.timeSet tag date tenths) tag 0x03 (ofPart (Part.timeSet date tenths)) s)

/-- TIME_TRIM (R5). -/
def execTimeTrim (tag : Nat) (amount : Int) (s : State) : Result :=
  .next (request (.timeTrim tag amount) tag 0x04 (ofPart (Part.timeTrim amount)) s)

/-- TIME_READ (R6). -/
def execTimeRead (tag : Nat) (s : State) : Result :=
  .next (request (.timeRead tag) tag 0x05 (ofReader Part.timeRead) s)

/-- WEEK_WRITE (R9). -/
def execWeekWrite (tag : Nat) (entries : List (Option Nat)) (s : State) : Result :=
  .next (request (.weekWrite tag entries) tag 0x06 (ofPart (Part.weekWrite entries)) s)

/-- WEEK_READ (R9). -/
def execWeekRead (tag : Nat) (s : State) : Result :=
  .next (request (.weekRead tag) tag 0x07 (ofReader Part.weekRead) s)

/-- EXCEPTION_ADD (R10). -/
def execExceptionAdd (tag : Nat) (first : CalDate) (last : CalDate) (plan : Option Nat) (quiet : Option Bool) (s : State) :
    Result :=
  .next (request (.exceptionAdd tag first last plan quiet) tag 0x08 (ofPart (Part.exceptionAdd first last plan quiet)) s)

/-- EXCEPTION_REMOVE (R11). -/
def execExceptionRemove (tag : Nat) (first : CalDate) (s : State) : Result :=
  .next (request (.exceptionRemove tag first) tag 0x09 (ofPart (Part.exceptionRemove first)) s)

/-- EXCEPTION_READ (R11). -/
def execExceptionRead (tag : Nat) (index : Nat) (s : State) : Result :=
  .next (request (.exceptionRead tag index) tag 0x0A (ofReader (Part.exceptionRead index)) s)

/-- TIME_CHANGE_ADD (R14). -/
def execTimeChangeAdd (tag : Nat) (date : CalDate) (minute : Nat) (shift : Int) (s : State) : Result :=
  .next (request (.timeChangeAdd tag date minute shift) tag 0x0B (ofPart (Part.timeChangeAdd date minute shift)) s)

/-- TIME_CHANGE_REMOVE (R16). -/
def execTimeChangeRemove (tag : Nat) (date : CalDate) (minute : Nat) (s : State) : Result :=
  .next (request (.timeChangeRemove tag date minute) tag 0x0C (ofPart (Part.timeChangeRemove date minute)) s)

/-- TIME_CHANGE_READ (R16). -/
def execTimeChangeRead (tag : Nat) (s : State) : Result :=
  .next (request (.timeChangeRead tag) tag 0x0D (ofReader Part.timeChangeRead) s)

/-- QUIET_SET (R18). -/
def execQuietSet (tag : Nat) (start : Nat) (stop : Nat) (s : State) : Result :=
  .next (request (.quietSet tag start stop) tag 0x0E (ofPart (Part.quietSet start stop)) s)

/-- QUIET_READ (R18). -/
def execQuietRead (tag : Nat) (s : State) : Result :=
  .next (request (.quietRead tag) tag 0x0F (ofReader Part.quietRead) s)

/-- DAY_START (R1). -/
def execDayStart (s : State) : Result := .next (dayStart s)

/-- RANGE_END (R1). -/
def execRangeEnd (s : State) : Result := .next (rangeEnd s)

/-- TRIM_SECOND (R5). -/
def execTrimSecond (s : State) : Result := .next (trimSecond s)

/-- MINUTE_BOUNDARY (R17). -/
def execMinuteBoundary (s : State) : Result :=
  .next (event (fun p => if p.isSet && p.backup.tod % 600 == 0 then p.minuteBoundary else p) s)

/-- TIME_CHANGE_REACHED (R15). -/
def execTimeChangeReached (s : State) : Result := .next (event Part.takeChange s)

end Sys2Proof.Machine
end

