-- ==== Sys2Proof/Machine/ZoneCommands.lean ====
section
/-! DEFINITION. The meanings of the zone and building requests (R40, R54, R55, R58, R61, R62). -/

namespace Sys2Proof.Machine

/-- BUILDING_WRITE (R40). -/
def execBuildingWrite (tag : Nat) (building : Nat) (zones : Range) (s : State) : Result :=
  .next (request (.buildingWrite tag building zones) tag 0x20 (ofPart (Part.buildingWrite building zones)) s)

/-- BUILDING_READ (R40). -/
def execBuildingRead (tag : Nat) (s : State) : Result :=
  .next (request (.buildingRead tag) tag 0x21 (ofReader Part.buildingRead) s)

/-- ZONE_DEFINE (R61). -/
def execZoneDefine (tag : Nat) (zone : Nat) (kind : Option ZoneKind) (s : State) : Result :=
  .next (request (.zoneDefine tag zone kind) tag 0x22 (ofPart (Part.zoneDefine zone kind)) s)

/-- ZONE_ENABLE (R54). -/
def execZoneEnable (tag : Nat) (zones : Range) (source : Option Source) (on : Option Bool) (s : State) : Result :=
  .next (request (.zoneEnable tag zones source on) tag 0x23 (ofPart (Part.zoneEnable zones source on)) s)

/-- ZONE_MASK (R55). -/
def execZoneMask (tag : Nat) (zones : Range) (source : Option Source) (set : Option Bool) (s : State) : Result :=
  .next (request (.zoneMask tag zones source set) tag 0x24 (ofPart (Part.zoneMask zones source set)) s)

/-- ZONE_READ (R62). -/
def execZoneRead (tag : Nat) (zones : Range) (s : State) : Result :=
  .next (request (.zoneRead tag zones) tag 0x25 (ofReader (Part.zoneRead zones)) s)

/-- YIELD_RELEASE (R58). -/
def execYieldRelease (tag : Nat) (building : Nat) (s : State) : Result :=
  .next (request (.yieldRelease tag building) tag 0x26 (ofPart (Part.yieldRelease building)) s)

end Sys2Proof.Machine
end

