-- ==== Sys2Proof/Machine/Dispatch.lean ====
section
/-! DEFINITION. Every command sent to its meaning: one arm per constructor of `Instr`, in the order of the table. -/

namespace Sys2Proof.Machine

def exec (i : Instr) (s : State) : Host.Outcome State Fault Refusal :=
  match i with
  | .identify tag => Sys2Proof.Machine.execIdentify tag s
  | .status tag => Sys2Proof.Machine.execStatus tag s
  | .timeSet tag date tenths => Sys2Proof.Machine.execTimeSet tag date tenths s
  | .timeTrim tag amount => Sys2Proof.Machine.execTimeTrim tag amount s
  | .timeRead tag => Sys2Proof.Machine.execTimeRead tag s
  | .weekWrite tag entries => Sys2Proof.Machine.execWeekWrite tag entries s
  | .weekRead tag => Sys2Proof.Machine.execWeekRead tag s
  | .exceptionAdd tag first last plan quiet => Sys2Proof.Machine.execExceptionAdd tag first last plan quiet s
  | .exceptionRemove tag first => Sys2Proof.Machine.execExceptionRemove tag first s
  | .exceptionRead tag index => Sys2Proof.Machine.execExceptionRead tag index s
  | .timeChangeAdd tag date minute shift => Sys2Proof.Machine.execTimeChangeAdd tag date minute shift s
  | .timeChangeRemove tag date minute => Sys2Proof.Machine.execTimeChangeRemove tag date minute s
  | .timeChangeRead tag => Sys2Proof.Machine.execTimeChangeRead tag s
  | .quietSet tag start stop => Sys2Proof.Machine.execQuietSet tag start stop s
  | .quietRead tag => Sys2Proof.Machine.execQuietRead tag s
  | .groupWrite tag group ranges => Sys2Proof.Machine.execGroupWrite tag group ranges s
  | .groupRead tag group => Sys2Proof.Machine.execGroupRead tag group s
  | .planWrite tag plan entries => Sys2Proof.Machine.execPlanWrite tag plan entries s
  | .planAppend tag plan entries => Sys2Proof.Machine.execPlanAppend tag plan entries s
  | .planClear tag plan => Sys2Proof.Machine.execPlanClear tag plan s
  | .planRead tag plan index => Sys2Proof.Machine.execPlanRead tag plan index s
  | .timelineRead tag index => Sys2Proof.Machine.execTimelineRead tag index s
  | .bellRing tag selector pattern duration => Sys2Proof.Machine.execBellRing tag selector pattern duration s
  | .bellSilence tag zones => Sys2Proof.Machine.execBellSilence tag zones s
  | .bellSettings tag grace catchUp => Sys2Proof.Machine.execBellSettings tag grace catchUp s
  | .bellSettingsRead tag => Sys2Proof.Machine.execBellSettingsRead tag s
  | .buildingWrite tag building zones => Sys2Proof.Machine.execBuildingWrite tag building zones s
  | .buildingRead tag => Sys2Proof.Machine.execBuildingRead tag s
  | .zoneDefine tag zone kind => Sys2Proof.Machine.execZoneDefine tag zone kind s
  | .zoneEnable tag zones source on => Sys2Proof.Machine.execZoneEnable tag zones source on s
  | .zoneMask tag zones source set => Sys2Proof.Machine.execZoneMask tag zones source set s
  | .zoneRead tag zones => Sys2Proof.Machine.execZoneRead tag zones s
  | .yieldRelease tag building => Sys2Proof.Machine.execYieldRelease tag building s
  | .announceStart tag input rank spec chime limit => Sys2Proof.Machine.execAnnounceStart tag input rank spec chime limit s
  | .announceEnd tag id => Sys2Proof.Machine.execAnnounceEnd tag id s
  | .announceCancel tag id => Sys2Proof.Machine.execAnnounceCancel tag id s
  | .announceList tag => Sys2Proof.Machine.execAnnounceList tag s
  | .announceRead tag id index => Sys2Proof.Machine.execAnnounceRead tag id index s
  | .programWrite tag program fields => Sys2Proof.Machine.execProgramWrite tag program fields s
  | .programRead tag program => Sys2Proof.Machine.execProgramRead tag program s
  | .drillStart tag program force => Sys2Proof.Machine.execDrillStart tag program force s
  | .drillAbort tag => Sys2Proof.Machine.execDrillAbort tag s
  | .drillRead tag => Sys2Proof.Machine.execDrillRead tag s
  | .drillRecordsRead tag index => Sys2Proof.Machine.execDrillRecordsRead tag index s
  | .scheduleAdd tag date minute program => Sys2Proof.Machine.execScheduleAdd tag date minute program s
  | .scheduleRemove tag date minute => Sys2Proof.Machine.execScheduleRemove tag date minute s
  | .scheduleRead tag => Sys2Proof.Machine.execScheduleRead tag s
  | .displaySet tag position blank => Sys2Proof.Machine.execDisplaySet tag position blank s
  | .displayRead tag => Sys2Proof.Machine.execDisplayRead tag s
  | .circuitWrite tag circuit definition => Sys2Proof.Machine.execCircuitWrite tag circuit definition s
  | .circuitSetDial tag circuit reading polarity => Sys2Proof.Machine.execCircuitSetDial tag circuit reading polarity s
  | .circuitStop tag circuit => Sys2Proof.Machine.execCircuitStop tag circuit s
  | .circuitRun tag circuit => Sys2Proof.Machine.execCircuitRun tag circuit s
  | .circuitRead tag circuits => Sys2Proof.Machine.execCircuitRead tag circuits s
  | .countersRead tag clear => Sys2Proof.Machine.execCountersRead tag clear s
  | .countersFreeze tag freeze => Sys2Proof.Machine.execCountersFreeze tag freeze s
  | .nodeLinkRead tag position => Sys2Proof.Machine.execNodeLinkRead tag position s
  | .rosterWrite tag position record => Sys2Proof.Machine.execRosterWrite tag position record s
  | .rosterLength tag length => Sys2Proof.Machine.execRosterLength tag length s
  | .rosterRead tag position => Sys2Proof.Machine.execRosterRead tag position s
  | .lineSettings tag autoStart autoSetup interval => Sys2Proof.Machine.execLineSettings tag autoStart autoSetup interval s
  | .lineSettingsRead tag => Sys2Proof.Machine.execLineSettingsRead tag s
  | .chainRead tag first => Sys2Proof.Machine.execChainRead tag first s
  | .lineStart tag => Sys2Proof.Machine.execLineStart tag s
  | .lineRestart tag position => Sys2Proof.Machine.execLineRestart tag position s
  | .lineStop tag => Sys2Proof.Machine.execLineStop tag s
  | .nodePower tag position power => Sys2Proof.Machine.execNodePower tag position power s
  | .nodeRead tag position address count => Sys2Proof.Machine.execNodeRead tag position address count s
  | .nodeWrite tag position address bytes => Sys2Proof.Machine.execNodeWrite tag position address bytes s
  | .noticeEnable tag kinds on => Sys2Proof.Machine.execNoticeEnable tag kinds on s
  | .noticeEnableRead tag => Sys2Proof.Machine.execNoticeEnableRead tag s
  | .storeSave tag => Sys2Proof.Machine.execStoreSave tag s
  | .storeLoad tag => Sys2Proof.Machine.execStoreLoad tag s
  | .restart tag => Sys2Proof.Machine.execRestart tag s
  | .frameReceived frameTag kind body check => Sys2Proof.Machine.execFrameReceived frameTag kind body check s
  | .frameGapTimeout next => Sys2Proof.Machine.execFrameGapTimeout next s
  | .transmitDone => Sys2Proof.Machine.execTransmitDone s
  | .startUp answers => Sys2Proof.Machine.execStartUp answers s
  | .mainPowerLoss => Sys2Proof.Machine.execMainPowerLoss s
  | .batteryLow => Sys2Proof.Machine.execBatteryLow s
  | .dayStart => Sys2Proof.Machine.execDayStart s
  | .rangeEnd => Sys2Proof.Machine.execRangeEnd s
  | .trimSecond => Sys2Proof.Machine.execTrimSecond s
  | .minuteBoundary => Sys2Proof.Machine.execMinuteBoundary s
  | .timeChangeReached => Sys2Proof.Machine.execTimeChangeReached s
  | .bellEntryReached index => Sys2Proof.Machine.execBellEntryReached index s
  | .latestStart posting => Sys2Proof.Machine.execLatestStart posting s
  | .claimEndTime zone => Sys2Proof.Machine.execClaimEndTime zone s
  | .chimeEnd id => Sys2Proof.Machine.execChimeEnd id s
  | .limitTime id => Sys2Proof.Machine.execLimitTime id s
  | .scheduledDrillReached => Sys2Proof.Machine.execScheduledDrillReached s
  | .drillWakeWaitEnd => Sys2Proof.Machine.execDrillWakeWaitEnd s
  | .probeEchoWaitEnd => Sys2Proof.Machine.execProbeEchoWaitEnd s
  | .prealertEnd => Sys2Proof.Machine.execPrealertEnd s
  | .targetReached building => Sys2Proof.Machine.execTargetReached building s
  | .toneEnd => Sys2Proof.Machine.execToneEnd s
  | .musterLimit => Sys2Proof.Machine.execMusterLimit s
  | .allclearEnd => Sys2Proof.Machine.execAllclearEnd s
  | .impulseSpacingEnd circuit => Sys2Proof.Machine.execImpulseSpacingEnd circuit s
  | .confirmationWaitEnd circuit => Sys2Proof.Machine.execConfirmationWaitEnd circuit s
  | .lineCycle noise => Sys2Proof.Machine.execLineCycle noise s
  | .nodeLivenessTimeout position => Sys2Proof.Machine.execNodeLivenessTimeout position s
  | .hailWindowEnd => Sys2Proof.Machine.execHailWindowEnd s
  | .setupWaitEnd => Sys2Proof.Machine.execSetupWaitEnd s
  | .headPortClose test => Sys2Proof.Machine.execHeadPortClose test s
  | .headPortFault kind => Sys2Proof.Machine.execHeadPortFault kind s
  | .faultedRetryExpiry test => Sys2Proof.Machine.execFaultedRetryExpiry test s
  | .retryExpiry => Sys2Proof.Machine.execRetryExpiry s
  | .cutSettleEnd => Sys2Proof.Machine.execCutSettleEnd s
  | .storeSaveComplete good => Sys2Proof.Machine.execStoreSaveComplete good s
  | .storeLoadComplete answers => Sys2Proof.Machine.execStoreLoadComplete answers s
  | .nodeInputEdge place input => Sys2Proof.Machine.execNodeInputEdge place input s
  | .nodePulseEnd place line => Sys2Proof.Machine.execNodePulseEnd place line s
  | .nodeWarmupEnd place => Sys2Proof.Machine.execNodeWarmupEnd place s
  | .nodeCutOnwardEnd place => Sys2Proof.Machine.execNodeCutOnwardEnd place s
  | .nodeIsolated place => Sys2Proof.Machine.execNodeIsolated place s
  | .nodeHoldOverEnd place => Sys2Proof.Machine.execNodeHoldOverEnd place s
  | .nodeLineReset place => Sys2Proof.Machine.execNodeLineReset place s
  | .nodePowerRestart place fitted => Sys2Proof.Machine.execNodePowerRestart place fitted s
  | .startByte => Sys2Proof.Machine.execStartByte s
  | .frameLengthAbandon length => Sys2Proof.Machine.execFrameLengthAbandon length s
  | .nodePowerLoss place => Sys2Proof.Machine.execNodePowerLoss place s
  | .onwardSegmentChange place segment => Sys2Proof.Machine.execOnwardSegmentChange place segment s

end Sys2Proof.Machine
end

