-- ==== Sys2Proof/Machine/Idle.lean ====
section
/-! DEFINITION. What the machine does when no command waits (log entries 1 and 2): it takes a held request, or brings up
the events that are due, or lets one unit of 20 ms pass. -/

namespace Sys2Proof.Machine

/-! ### Campus time events -/

/-- The end of a date that counting has reached: a day start, or the range end (R1). -/
def Part.endOfDate (p : Part) : List Instr := if p.backup.day = lastDay then [.rangeEnd] else [.dayStart]

/-- The event that the next tenth of campus time brings, when it is no ordinary tenth (R1, R5). -/
def Part.countDue (p : Part) : List Instr :=
  match p.nextTenth with
  | .trim => [.trimSecond]
  | .dayEnd => p.endOfDate
  | .plain | .wait => []

/-- The bell entries at the present campus time (R29). -/
def Part.entriesDue (p : Part) : List Instr :=
  ((upTo p.bell.timeline.entries.length).filter p.entryDue).map .bellEntryReached

/-- A WAITING scheduled entry at the present campus time (R103). -/
def Part.scheduleDue (p : Part) : Bool :=
  p.isSet && p.drill.schedule.any fun e => e.state == .waiting && e.moment == p.campus

/-- Whether what stands at the present campus time is still to be reached: a bell entry, a scheduled drill or a time change
(R15, R29, R103). -/
def Part.momentDue (p : Part) : Bool := !p.entriesDue.isEmpty || p.scheduleDue || p.reachedChange.isSome

/-! ### Elapsed time events -/

/-- The postings whose latest start has come (R48), claims that have become PENDING again after it among them (log entry
69). -/
def Part.latestDue (p : Part) : List Nat :=
  ((upTo 64).filterMap fun z => (p.zone z).bell.bind fun b =>
    if b.state == .pending && b.latest ≤ p.now then some b.posting else none).eraseDups

/-- The announcements whose chime end or limit time has come (R71, R75). -/
def Part.announceDue (p : Part) : List Instr :=
  p.ann.records.flatMap fun a =>
    (if a.stage == .chiming && a.chimeEnd.any (· ≤ p.now) then [Instr.chimeEnd a.id] else []) ++
    (if a.started && a.limitTime.any (· ≤ p.now) then [Instr.limitTime a.id] else [])

/-- The timed ends of the drill run that have come (R86, R87, R89, R94 to R96). -/
def Part.drillDue (p : Part) : List Instr :=
  match p.drill.run with
  | none => []
  | some r =>
    ((r.timers.filter (p.targetDue r)).map fun t => Instr.targetReached t.building) ++
    match r.phase with
    | .checking =>
      if r.probing then (if r.probesDone then [.probeEchoWaitEnd] else [])
      else if r.wakeEnd ≤ p.now then [.drillWakeWaitEnd] else []
    | .prealert => if r.prealertAt ≤ p.now then [.prealertEnd] else []
    | .evacuate => if r.toneAt ≤ p.now then [.toneEnd] else []
    | .muster => if r.limitAt ≤ p.now then [.musterLimit] else []
    | .allclear => if r.allclearAt ≤ p.now then [.allclearEnd] else []

/-- Whether an impulse that waits for the fast spacing may be handed (R113). -/
def Part.spacingDue (p : Part) (c : Nat) : Bool :=
  (p.circuit c).any fun r => r.flight.any fun i =>
    !i.handed && i.sentAt.isNone && !i.everSent && r.mode != .wait && p.isSet && r.spaced ≤ p.now

/-- Whether a confirmation wait has run out (R115). -/
def Part.waitDue (p : Part) (c : Nat) : Bool :=
  (p.circuit c).any fun r => r.flight.any fun i =>
    !i.resendDue && r.mode != .wait && i.sentAt.any fun t => r.waitEnd t ≤ p.now

/-- The timed ends of circuits that have come (R113, R115). -/
def Part.circuitsDue (p : Part) : List Instr :=
  ((upTo 32).filter p.spacingDue).map .impulseSpacingEnd ++ ((upTo 32).filter p.waitDue).map .confirmationWaitEnd

/-- The timed ends of the chain builder that have come; a port test finds what the port was last found to be
(R149, R151, R155, R156, R159; log entry 22). -/
def Part.chainDue (p : Part) : List Instr :=
  (match p.chain.step with
    | some (.hail _ _ _ (some k)) => if hailWindows ≤ k then [.hailWindowEnd] else []
    | some (.setup _ (.wait t) _) => if t ≤ p.now then [.setupWaitEnd] else []
    | some (.cutSettle k) => if cutCycles ≤ k then [.cutSettleEnd] else []
    | _ => []) ++
  (if p.chain.headCut.any (· ≤ p.now) then [.headPortClose p.chain.headPort] else []) ++
  (if p.retryDue then
    match p.chain.line with
    | .faulted => [.faultedRetryExpiry p.chain.headPort]
    | .partialLine => [.retryExpiry]
    | _ => []
  else [])

/-- The positions whose missing run has reached its limit (R134). -/
def Part.livenessEvents (p : Part) : List Instr := ((upTo 24).filter p.livenessDue).map .nodeLivenessTimeout

/-! ### Node events -/

/-- The events of one node that have come (R111, R129, R137, R148). -/
def Node.due (n : Node) (world place : Nat) : List Instr :=
  ((upTo n.lines.length).filter fun k =>
    n.powered && (n.lines[k]?).any fun l => l.pulse.any fun p => p.2 ≤ world).map (.nodePulseEnd place) ++
  (if n.warmupDue world then [.nodeWarmupEnd place] else []) ++
  (if n.cutDue world then [.nodeCutOnwardEnd place] else []) ++
  (if n.isolationDue then [.nodeIsolated place] else []) ++
  (if n.holdOverDue world then [.nodeHoldOverEnd place] else []) ++
  (if n.lineResetDue world then [.nodeLineReset place] else [])

/-- The events of the nodes of a line, from a place on. -/
def nodesDue (world place : Nat) : List Node → List Instr
  | [] => []
  | n :: l => n.due world place ++ nodesDue world (place + 1) l

/-! ### What is due -/

/-- The groups of events that are due, in the order in which they are taken, each with the marks it leaves. -/
def State.groups (s : State) : List (List Instr × Marks) :=
  let p := s.part
  let m := s.marks
  (if s.powered then
    [ (if m.count && p.isSet then p.countDue else [], m),
      (p.entriesDue, m),
      (if p.scheduleDue then [.scheduledDrillReached] else [], m),
      (if p.reachedChange.isSome then [.timeChangeReached] else [], m),
      (if m.minute then [.minuteBoundary] else [], { m with minute := false }),
      (p.latestDue.map .latestStart ++ ((upTo 64).filter p.bellDue).map .claimEndTime ++ p.announceDue, m),
      (p.drillDue, m),
      (p.circuitsDue, m),
      (p.chainDue ++ p.livenessEvents, m) ]
   else []) ++
  [(nodesDue s.world 0 s.nodes, m)] ++
  (if s.powered then
    [ (if s.restartReady then [.startUp true] else [], m),
      (if m.tx && s.port.sending.isSome then [.transmitDone] else [], { m with tx := false }),
      (if m.store && s.port.saving.isSome then [.storeSaveComplete true] else [], { m with store := false }),
      (if m.store && s.port.loading then [.storeLoadComplete true] else [], { m with store := false }),
      (if s.cycleDue then [.lineCycle Noise.quiet] else [], m) ]
   else [])

/-- The first group that holds an event. -/
def firstGroup : List (List Instr × Marks) → Option (List Instr × Marks)
  | [] => none
  | g :: l => if g.1.isEmpty then firstGroup l else some g

/-! ### A tick -/

/-- A tenth of elapsed time passes for campus time (R1, R5, R7). -/
def Part.passTenth (p : Part) (powered : Bool) : Part :=
  if powered then
    if p.isSet then
      match p.nextTenth with
      | .plain => { p with backup := { p.backup with tod := p.backup.tod + 1 } }
      | .wait => { p with time := { p.time with held := true } }
      | .trim | .dayEnd => p
    else p
  else { p with backup := p.backup.count }

/-- Whether the next tenth is no ordinary one, so that an event brings it (R1, R5). -/
def Part.countHeld (p : Part) : Bool := p.isSet && (p.nextTenth == .trim || p.nextTenth == .dayEnd)

/-- One unit of 20 ms passes (log entry 2). -/
def tick (s : State) : State :=
  let world := s.world + 1
  let tenth := world % unitsPerTenth == 0
  let p := if s.powered then { s.part with now := s.part.now + 1 } else s.part
  let q := if tenth then p.passTenth s.powered else p
  { s with
    part := q, world := world, nodes := tickNodes world (s.powered && p.chain.headCut.isSome) s.nodes,
    marks := { count := tenth && s.powered && p.countHeld,
               minute := tenth && s.powered && q.backup != p.backup && q.backup.tod % 600 == 0,
               cycle := s.powered && q.driving, tx := s.powered && s.port.sending.isSome,
               store := s.powered && (s.port.saving.isSome || s.port.loading) } }

/-! ### Idling -/

/-- Whether the head of the input buffer can be taken (R162). -/
def State.canTake (s : State) : Bool :=
  s.listening && !s.port.buffer.isEmpty && decide (s.port.replies.length < replyLimit)

/-- The head of the input buffer is taken: a request is put before the machine as the next command, any other frame is
answered by the port itself (R162, R163). -/
def takeHeld (s : State) : State :=
  match s.port.buffer.head? with
  | some (.request i) => { s with pending := [i], port := { s.port with taking := true } }
  | _ => finish { s with port := s.port.answerHeld }

/-- Whether a tenth of campus time that an event was to count is an ordinary one after all, a request having cancelled the
trim or set the time before the event (R1, R5). What stands at the present campus time is reached before it passes: an entry
there that an edit has built since is not left WAITING behind campus time (R28, R34). -/
def State.lateTenth (s : State) : Bool :=
  s.powered && s.marks.count && s.part.isSet && !s.part.countHeld && !s.part.momentDue

/-- That tenth is counted as the ordinary one it is (R1, R5). -/
def countLate (s : State) : State :=
  let q := s.part.passTenth true
  { s with part := q, marks := { s.marks with count := false, minute := q.backup != s.part.backup && q.backup.tod % 600 == 0 } }

/-- What a step does when no command waits. -/
def idle (s : State) : State :=
  if s.canTake then takeHeld s
  else if s.lateTenth then countLate s
  else
    match firstGroup s.groups with
    | some g => { s with pending := g.1, marks := g.2 }
    | none => tick s

end Sys2Proof.Machine
end

