-- ==== Sys2Proof/Machine/Step.lean ====
section
/-! DEFINITION. One step: the command at the front of the queue, or what the machine does when none waits (log entries 1
and 2). -/

namespace Sys2Proof.Machine

/-- One step: three outcomes, of which this block has only `next` (INVENTORY.md, Faults). -/
def step (s : State) : Host.Outcome State Fault Refusal :=
  match s.pending with
  | [] => .next (idle s)
  | c :: rest => exec c { s with pending := rest }

/-- The command that a word spells put at the front of the queue; no row of the table gives bits, so a word spells no
command and the state is left as it is. -/
def State.withFetchWord (s : State) (nbits w : Nat) : State :=
  match decodeTableWord nbits w with
  | some c => { s with pending := c :: s.pending }
  | none => s

end Sys2Proof.Machine
end

