-- ==== Sys2Proof/Machine/Replies.lean ====
section
/-! DEFINITION. The frames that the part sends: replies and notices as bytes (R163, R165, R166, R181, R182). The fields stand in
the order of the rule that names them; what R181 leaves open about them is in log entry 10. -/

namespace Sys2Proof.Machine

/-! ### Fields (R181) -/

/-- A number of `n` bytes, most significant byte first. -/
def wide : Nat → Nat → List Byte
  | 0, _ => []
  | n + 1, v => wide n (v / 256) ++ [byteOf v]

/-- A number of `n` bytes that may be negative, in two's complement. -/
def wideSigned (n : Nat) (i : Int) : List Byte := wide n (i % (256 ^ n : Nat)).toNat

/-- A mark in a field of `n` bytes. -/
def markBytes (n : Nat) : List Byte := List.replicate n 0xFF#8

/-- A field of `n` bytes, or the mark *none*. -/
def orMark {α : Type} (n : Nat) (f : α → List Byte) : Option α → List Byte
  | none => markBytes n
  | some a => f a

/-- A list whose length varies, after its count. -/
def counted1 {α : Type} (f : α → List Byte) (l : List α) : List Byte := byteOf l.length :: l.flatMap f

/-- A number of one byte. -/
def num (n : Nat) : List Byte := [byteOf n]

/-- A number of one byte, or a mark. -/
def numOrMark (n : Option Nat) : List Byte := [markedByte n]

/-- A flag. -/
def flagBytes (b : Bool) : List Byte := [if b then 1#8 else 0#8]

/-- A moment of elapsed time, kept in units of 20 ms, and a duration that has no largest value: four bytes, in tenths. -/
def momentBytes (t : Nat) : List Byte := wide 4 (t / unitsPerTenth)

/-- A date alone. -/
def dateBytes (day : Nat) : List Byte := (timeBytes (some ⟨day, 0⟩)).take 3

/-- A campus date and time of day. -/
def campusBytes (t : CampusTime) : List Byte := timeBytes (some t)

/-- A range. -/
def rangeBytes (r : Range) : List Byte := [byteOf r.first, byteOf r.last]

/-- The code of a value whose name no table of spec 11 gives a code. -/
def valueByte (v : ValueName) (place : Nat) : List Byte := [Config.valueCode v place]

/-! ### Named values -/

/-- The code of a status (R181). -/
def Status.code : Status → Nat
  | .ok => 0x00 | .accepted => 0x01 | .badValue => 0x10 | .badLength => 0x11 | .unknownKind => 0x12 | .busy => 0x13
  | .full => 0x14 | .overlap => 0x15 | .duplicate => 0x16 | .notFound => 0x17 | .wrongState => 0x18 | .timeUnset => 0x19
  | .noConfirm => 0x20 | .nodeLost => 0x21 | .lineFault => 0x22 | .lineDown => 0x23 | .storeFault => 0x24 | .badImage => 0x25

/-- The code of a notice kind: bit k of the set of NOTICE_ENABLE stands for code 0x60 + k (R181). -/
def NoticeKind.code (k : NoticeKind) : Nat := 0x60 + enableBit k.place

/-- The event code of a TIME_EVENT (R181). -/
def TimeCause.code : TimeCause → Nat
  | .set .. => 1 | .jump .. => 2 | .change .. => 3 | .restored .. => 4 | .unsetRangeEnd => 5 | .trimDone => 6
  | .dayPlan .. => 7 | .quietBegins .. => 8 | .quietEnds .. => 9

/-- The event code of a CLOCK_STATE (R181); RESTORED, 5, is a form of its own. -/
def ClockEvent.code : ClockEvent → Nat
  | .correcting .. => 1 | .inStep => 2 | .noConfirm .. | .noLine => 3 | .reconciled .. => 4

/-- The event code of a DRILL_PHASE (R181); SCHEDULE_REFUSED, 9, and SCHEDULE_MISSED, 10, are forms of their own. -/
def DrillEvent.code : DrillEvent → Nat
  | .checking .. => 1 | .ready .. => 2 | .notReady .. => 3 | .prealert .. => 4 | .evacuate .. => 5 | .allclear .. => 6
  | .muster .. => 7 | .building .. => 8

/-- The event code of an ANNOUNCE_STATE (R181). -/
def AnnounceEvent.code : AnnounceEvent → Nat
  | .started .. => 1 | .live => 2 | .ending .. => 3 | .removed .. => 4

/-- The quality of campus time (R1). -/
def Quality.bytes : Quality → List Byte
  | .unset => valueByte .quality 0
  | .set => valueByte .quality 1

/-- The source of a day selection (R6). -/
def SelectionSource.bytes : SelectionSource → List Byte
  | .exception => valueByte .selectionSource 0
  | .week => valueByte .selectionSource 1
  | .none => markBytes 1

/-- Whether a record is WAITING or DONE (R14). -/
def changeStateBytes (done : Bool) : List Byte := valueByte .changeState (if done then 1 else 0)

/-- The quiet state (R6). -/
def insideBytes (inside : Bool) : List Byte := valueByte .quietState (if inside then 1 else 0)

/-- The state of a timeline entry (R25). -/
def EntryState.bytes : EntryState → List Byte
  | .waiting => valueByte .entryState 0
  | .fired => valueByte .entryState 1
  | .missed => valueByte .entryState 2
  | .passed => valueByte .entryState 3

/-- The state of a claim (R42). -/
def ClaimState.bytes : ClaimState → List Byte
  | .pending => valueByte .claimState 0
  | .sounding => valueByte .claimState 1

/-- The origin of a BELL claim (R42): plan, entry index and build number, or MANUAL. -/
def BellOrigin.bytes : BellOrigin → List Byte
  | .entry plan index build => valueByte .bellOrigin 0 ++ num plan ++ be2 index ++ num build
  | .manual => valueByte .bellOrigin 1

/-- The yield state of a building (R39). -/
def YieldState.bytes : YieldState → List Byte
  | .clear => valueByte .yieldState 0
  | .yielded => valueByte .yieldState 1
  | .held => valueByte .yieldState 2

/-- The kind of a zone; the codes are those of ZONE_DEFINE. -/
def kindBytes : ZoneKind → List Byte
  | .sounder => [Config.wireCode .kindSounder]
  | .speaker => [Config.wireCode .kindSpeaker]

/-- A paging input; the codes are those of ANNOUNCE_START. -/
def inputBytes : PagingInput → List Byte
  | .p1 => [Config.wireCode .inputP1]
  | .p2 => [Config.wireCode .inputP2]

/-- The state of an announcement, or the mark REMOVED (R64, R66). -/
def stageBytes : Option AnnounceStage → List Byte
  | some .queued => valueByte .announceStage 0
  | some .chiming => valueByte .announceStage 1
  | some .live => valueByte .announceStage 2
  | some .ending => valueByte .announceStage 3
  | none => markBytes 1

/-- The end cause of an announcement (R64). -/
def EndCause.bytes : EndCause → List Byte
  | .ended => valueByte .endCause 0
  | .limit => valueByte .endCause 1
  | .displaced => valueByte .endCause 2
  | .cancelled => valueByte .endCause 3

/-- A join state (R70). -/
def JoinState.bytes : JoinState → List Byte
  | .waiting => valueByte .joinState 0
  | .joined => valueByte .joinState 1
  | .lost => valueByte .joinState 2
  | .refused => valueByte .joinState 3
  | .left => valueByte .joinState 4

/-- A drill phase (R84); `none` is IDLE. -/
def phaseBytes : Option DrillPhase → List Byte
  | none => valueByte .drillPhase 0
  | some .checking => valueByte .drillPhase 1
  | some .prealert => valueByte .drillPhase 2
  | some .evacuate => valueByte .drillPhase 3
  | some .muster => valueByte .drillPhase 4
  | some .allclear => valueByte .drillPhase 5

/-- The state of a building timer (R84). -/
def TimerState.bytes : TimerState → List Byte
  | .waiting => valueByte .timerState 0
  | .running => valueByte .timerState 1
  | .partialRun => valueByte .timerState 2
  | .cleared => valueByte .timerState 3
  | .yielded => valueByte .timerState 4
  | .unfinished => valueByte .timerState 5

/-- The origin of a drill with the moment of a scheduled one (R84). -/
def DrillOrigin.bytes : DrillOrigin → List Byte
  | .request => valueByte .drillOrigin 0
  | .scheduled m => valueByte .drillOrigin 1 ++ campusBytes m

/-- The end cause of a drill (R98). -/
def DrillEnd.bytes : DrillEnd → List Byte
  | .complete => valueByte .drillEnd 0
  | .aborted => valueByte .drillEnd 1
  | .yielded => valueByte .drillEnd 2
  | .lineLost => valueByte .drillEnd 3

/-- The state of a scheduled-drill entry (R102). -/
def ScheduleState.bytes (s : ScheduleState) : List Byte := valueByte .scheduleState s.number

/-- Why a scheduled entry is refused (R103). -/
def ScheduleRefusal.bytes : ScheduleRefusal → List Byte
  | .empty => valueByte .scheduleRefusal 0
  | .busy => valueByte .scheduleRefusal 1

/-- Why a position failed the readiness check (R88). -/
def ProbeFailure.bytes : ProbeFailure → List Byte
  | .notReady => valueByte .probeFailure 0
  | .notActive => valueByte .probeFailure 1
  | .noEcho => valueByte .probeFailure 2

/-- A display mode; the codes are those of the DISPLAY command (R183). -/
def DisplayMode.bytes (m : DisplayMode) : List Byte := num m.code

/-- A polarity, and a line polarity, with the codes of R183. -/
def polarityBytes (p : Polarity) : List Byte := num p.code
def linePolarityBytes (p : LinePolarity) : List Byte := num (LinePolarity.code p)

/-- The mode of an impulse circuit (R110). -/
def CircuitMode.bytes : CircuitMode → List Byte
  | .stopped => valueByte .circuitMode 0
  | .run => valueByte .circuitMode 1
  | .advance => valueByte .circuitMode 2
  | .hold => valueByte .circuitMode 3
  | .wait => valueByte .circuitMode 4
  | .fault => valueByte .circuitMode 5

/-- The course of an impulse circuit (R110). -/
def Course.bytes : Course → List Byte
  | .none => markBytes 1
  | .inStep => valueByte .course 0
  | .advancing => valueByte .course 1
  | .holding => valueByte .course 2

/-- The state of the line (R145). -/
def LineState.bytes : LineState → List Byte
  | .down => valueByte .lineState 0
  | .building => valueByte .lineState 1
  | .running => valueByte .lineState 2
  | .partialLine => valueByte .lineState 3
  | .faulted => valueByte .lineState 4

/-- The state of a node, without what it carries (R145). -/
def NodeState.bytes : NodeState → List Byte
  | .absent => valueByte .nodeState 0
  | .found => valueByte .nodeState 1
  | .mismatch _ => valueByte .nodeState 2
  | .setting => valueByte .nodeState 3
  | .ready _ => valueByte .nodeState 4
  | .suspect => valueByte .nodeState 5
  | .lost => valueByte .nodeState 6

/-- The mismatch reason of a node state, or a mark (R145). -/
def NodeState.reasonBytes : NodeState → List Byte
  | .mismatch .model => valueByte .mismatchReason 0
  | .mismatch .header => valueByte .mismatchReason 1
  | .mismatch .inputs => valueByte .mismatchReason 2
  | .mismatch .noApply => valueByte .mismatchReason 3
  | _ => markBytes 1

/-- The power state of a READY node, or a mark (R145). -/
def NodeState.powerBytes : NodeState → List Byte
  | .ready .active => valueByte .powerState 0
  | .ready .quiet => valueByte .powerState 1
  | .ready .waking => valueByte .powerState 2
  | _ => markBytes 1

/-- A stop reason with its position, or marks (R145). -/
def stopBytes : Option (StopReason × Nat) → List Byte :=
  orMark 2 fun x => valueByte .stopReason (match x.1 with
    | .lostBelow => 0 | .endOfChain => 1 | .badHail => 2 | .mismatch => 3 | .lost => 4 | .noApply => 5 | .restartLost => 6
    | .onwardFault => 7 | .headFault => 8) ++ num x.2

/-- A task with its position, where it has one (R146). -/
def Task.bytes : Task → List Byte
  | .build => valueByte .task 0 ++ markBytes 1
  | .setup pos => valueByte .task 1 ++ num pos
  | .retry => valueByte .task 2 ++ markBytes 1
  | .access a => valueByte .task 3 ++ num a.position
  | .cut pos => valueByte .task 4 ++ num pos

/-! ### Records -/

/-- A day selection: plan, source, quiet-all-day flag (R6, R19). -/
def DaySelection.bytes (d : DaySelection) : List Byte := numOrMark d.plan ++ d.source.bytes ++ flagBytes d.quiet

/-- An exception record (R10). -/
def ExceptionRec.bytes (e : ExceptionRec) : List Byte :=
  dateBytes e.first ++ dateBytes e.last ++ numOrMark e.plan ++ flagBytes e.quiet

/-- A time-change record with its state (R14). -/
def TimeChange.bytes (c : TimeChange) : List Byte :=
  dateBytes c.day ++ be2 c.minute ++ wideSigned 1 c.shift ++ changeStateBytes c.done

/-- A bell entry (R22). -/
def bellEntryBytes (e : BellEntry) : List Byte := be3 e.time ++ num e.group ++ num e.pattern ++ be2 e.duration

/-- A timeline entry with its state and posted count (R25, R38). -/
def TimelineEntry.bytes (t : TimelineEntry) : List Byte := bellEntryBytes t.entry ++ t.state.bytes ++ numOrMark t.posted

/-- A building record (R39). -/
def Building.bytes (b : Building) : List Byte :=
  rangeBytes b.zones ++ b.yield.bytes ++ orMark 2 (fun x => num x.1 ++ num x.2) b.origin

/-- The end mode of a claim: EXPLICIT, or AUTO with its duration and, while it is SOUNDING, the time remaining (R62). -/
def endModeBytes (duration : Nat) (remaining : Option Nat) : List Byte :=
  if duration = 0 then valueByte .endMode 1
  else valueByte .endMode 0 ++ be2 duration ++ (remaining.map be2).getD []

/-- A BELL claim as ZONE_READ gives it (R62). -/
def bellClaimBytes (remaining : Option Nat) (c : BellClaim) : List Byte :=
  c.state.bytes ++ (Output.pattern c.pattern).bytes ++ endModeBytes c.duration remaining ++ c.origin.bytes ++
    momentBytes c.latest ++ flagBytes c.sounded

/-- An ANNOUNCE claim as ZONE_READ gives it (R62). -/
def AnnounceClaim.bytes (c : AnnounceClaim) : List Byte := c.state.bytes ++ c.output.bytes ++ endModeBytes 0 none ++ num c.id

/-- A DRILL claim as ZONE_READ gives it (R62). -/
def DrillClaim.bytes (c : DrillClaim) : List Byte :=
  c.state.bytes ++ (Output.pattern c.pattern).bytes ++ endModeBytes 0 none ++ num c.program

/-- A zone as ZONE_READ gives it (R62). -/
def ZoneReport.bytes (r : ZoneReport) : List Byte :=
  let z := r.record
  kindBytes z.kind ++ numOrMark r.owner ++ numOrMark r.building ++
  flagBytes z.bellOn ++ flagBytes z.bellMask ++ flagBytes z.annOn ++ flagBytes z.annMask ++
  orMark 1 (bellClaimBytes r.remaining) z.bell ++ orMark 1 AnnounceClaim.bytes z.ann ++ orMark 1 DrillClaim.bytes z.drill ++
  counted1 (fun o => num o.id ++ num o.rank) z.offers ++
  z.commanded.bytes ++ orMark 2 Output.bytes z.confirmed ++ flagBytes z.dirty ++
  valueByte .updateClass (if r.urgent then 0 else 1)

/-- The counts of a join list (R80). -/
def JoinCounts.bytes (c : JoinCounts) : List Byte :=
  [c.selected, c.ever, c.joined, c.waiting, c.lost, c.refused, c.withdrawn].map byteOf

/-- A record of ANNOUNCE_LIST (R81). -/
def AnnounceSummary.bytes (a : AnnounceSummary) : List Byte :=
  num a.id ++ inputBytes a.input ++ num a.rank ++ stageBytes (some a.stage) ++ num a.place ++ a.counts.bytes

/-- An entry of a join list; its settled flag is given in ENDING (R81). -/
def joinBytes (stage : AnnounceStage) (j : Join) : List Byte :=
  num j.zone ++ j.state.bytes ++ flagBytes j.ever ++ if stage = .ending then flagBytes j.settled else []

/-- The fields of an announcement record, without its join list (R64); the arrival number takes four bytes (log entry 10). -/
def Announcement.bytes (a : Announcement) : List Byte :=
  num a.id ++ inputBytes a.input ++ num a.rank ++ counted1 rangeBytes a.spec ++ numOrMark a.chime ++ be2 a.limit ++
  stageBytes (some a.stage) ++ wide 4 a.arrival ++ orMark 4 momentBytes a.start ++ orMark 4 momentBytes a.chimeEnd ++
  orMark 4 momentBytes a.limitTime ++ orMark 1 EndCause.bytes a.cause

/-- The fields of a drill program (R82). -/
def programBytes (f : Program) : List Byte :=
  counted1 num f.scope ++ numOrMark f.chime ++ num f.prealert ++ num f.evacuation ++ be2 f.tone ++ counted1 be2 f.targets ++
  be2 f.muster ++ num f.allclearPattern ++ num f.allclear

/-- A building timer, which begins with its building number (R98; R105 names none, log entry 10). -/
def BuildingTimer.bytes (t : BuildingTimer) : List Byte :=
  num t.building ++ t.state.bytes ++ be2 t.elapsed ++ be2 t.muster ++ flagBytes t.overdue ++ flagBytes t.partialFlag

/-- The start time of a drill, or the time-unset mark (R84, R181). -/
def startTimeBytes (t : Option CampusTime) : List Byte := timeBytes t

/-- The fields of a drill run record other than its timers (R84). -/
def DrillRun.bytes (r : DrillRun) : List Byte :=
  be2 r.number ++ num r.program ++ programBytes r.fields ++ r.origin.bytes ++ flagBytes r.forced ++ startTimeBytes r.startTime ++
  momentBytes r.accepted ++ phaseBytes (some r.phase) ++ momentBytes r.phaseStart ++ orMark 4 momentBytes r.evacuation ++
  flagBytes r.allLost

/-- A drill record (R98); its evacuation start in whole seconds takes two bytes (log entry 10). -/
def DrillRecord.bytes (r : DrillRecord) : List Byte :=
  be2 r.number ++ num r.program ++ r.origin.bytes ++ flagBytes r.forced ++ startTimeBytes r.startTime ++ r.cause.bytes ++
  orMark 2 be2 r.evacuation ++ counted1 BuildingTimer.bytes r.timers

/-- A scheduled-drill entry with its state (R102). -/
def ScheduleEntry.bytes (e : ScheduleEntry) : List Byte :=
  dateBytes e.day ++ be2 e.minute ++ num e.program ++ e.state.bytes

/-- A display entry (R109). -/
def displayBytes (d : Display × DisplayMode) : List Byte :=
  flagBytes d.1.blank ++ flagBytes d.1.drill ++ d.2.bytes ++ orMark 1 DisplayMode.bytes d.1.confirmed ++ flagBytes d.1.dirty

/-- A circuit definition (R110). -/
def circuitDefBytes (d : CircuitDef) : List Byte := [d.position, d.line, d.width, d.spacing, d.holdLimit].map byteOf

/-- An impulse in flight as CIRCUIT_READ gives it (R123). -/
def impulseBytes (since : Option Nat) (i : Impulse) : List Byte :=
  polarityBytes i.polarity ++ num i.sends ++ num i.reference ++ orMark 4 (wide 4) since

/-- A circuit as CIRCUIT_READ gives it (R123). -/
def CircuitReport.bytes (r : CircuitReport) : List Byte :=
  let c := r.circuit
  circuitDefBytes c.definition ++ orMark 2 be2 c.dial ++ polarityBytes c.polarity ++ c.mode.bytes ++ c.course.bytes ++
  flagBytes c.stopPending ++ orMark 6 (fun x => be2 x.1 ++ be2 x.2.1 ++ be2 x.2.2) r.target ++
  orMark 1 (impulseBytes r.sinceSend) c.flight ++ orMark 2 (fun x => num x.1 ++ linePolarityBytes x.2) r.reported

/-- A position's link as NODE_LINK_READ gives it (R141): the latest record in the layout of its window (R183). -/
def linkBytes (l : Link) : List Byte :=
  num l.missing ++ orMark 2 be2 l.since ++ l.baselines.toList.map byteOf ++
  orMark 1 (fun r => r.bytes.dropLast) l.latest

/-- A roster record (R142); an expected number 255 is sent as the byte that ANY has (log entry 9). -/
def RosterRecord.bytes (r : RosterRecord) : List Byte :=
  numOrMark r.maker ++ numOrMark r.model ++ rangeBytes r.window ++ numOrMark r.building ++ num r.tapAssigned ++ num r.holdOver ++
  r.inputs.toList.flatMap fun i => num i.function.code ++ numOrMark i.building ++ num i.edge.code

/-- A hail answer as CHAIN_READ gives it (R145, R149). -/
def HailAnswer.bytes (a : HailAnswer) : List Byte :=
  let i := a.identity
  num i.maker ++ num i.model ++ num i.version ++ num i.tapCapable ++ flagBytes i.quietCapable ++ num i.warmUp ++
  num i.inputCount ++ num i.lineCount ++ num i.recordCount ++ flagBytes a.failed ++ numOrMark a.former

/-- A runtime record (R145). -/
def Runtime.bytes (r : Runtime) : List Byte :=
  r.node.bytes ++ orMark 1 HailAnswer.bytes r.answer ++ r.node.reasonBytes ++ r.node.powerBytes ++
  orMark 3 (fun s => num s.index ++ be2 s.address) r.setup ++ flagBytes r.setupFault ++ flagBytes r.unfinished ++
  flagBytes r.restartOut

/-- The fourteen enables as the two bytes of NOTICE_ENABLE's set (R167, R181). -/
def enablesBytes (e : List Bool) : List Byte :=
  be2 ((upTo e.length).foldl (fun n i => if e.getD i false then n + 2 ^ enableBit i else n) 0)

/-! ### Replies (R163, R182) -/

/-- The fields that follow the status of a reply, in the order of the request's rule. The widths of IDENTIFY's part code and
version (log entry 7), the byte of lane bits of ANNOUNCE_LIST, the building numbers of DRILL_READ and the order of the
counters of COUNTERS_READ (log entry 10) are the model's choice. -/
def ReplyBody.bytes : ReplyBody → List Byte
  | .none => []
  | .identify code version format caps =>
    be2 code.toNat ++ be2 version.toNat ++ [format] ++ caps.flatMap fun c => if c ≤ 255 then num c else be2 c
  | .status q line positions phase anns image bad overruns dropped op last =>
    q.bytes ++ line.bytes ++ positions.map byteOf ++ phaseBytes phase ++ num anns ++
    valueByte .imageState (if image = .valid then 1 else 0) ++ be2 bad ++ be2 overruns ++ flagBytes dropped ++
    orMark 1 (fun x => num x.1 ++ num x.2.1 ++ wide 4 x.2.2.1 ++ flagBytes x.2.2.2) op ++
    orMark 3 (fun r => num r.tag ++ num r.kind ++ num r.status.code) last
  | .time d tod wd q trim valid sel inside next =>
    campusBytes ⟨d.number, tod⟩ ++ num wd ++ q.bytes ++ wideSigned 2 trim ++ flagBytes valid ++ sel.bytes ++
    insideBytes inside ++ orMark 7 (fun x => campusBytes x.1 ++ wideSigned 1 x.2) next
  | .week es => es.flatMap numOrMark
  | .exceptions n rs => num n ++ counted1 ExceptionRec.bytes rs
  | .changeState done => changeStateBytes done
  | .changes rs => counted1 TimeChange.bytes rs
  | .quiet a b inside => be2 a ++ be2 b ++ insideBytes inside
  | .group rs => counted1 rangeBytes rs
  | .planCounts n free => be2 n ++ be2 free
  | .planFree free => be2 free
  | .plan n free es => be2 n ++ be2 free ++ counted1 bellEntryBytes es
  | .timeline date pl build furthest w f m p keys es =>
    orMark 3 dateBytes date ++ numOrMark pl ++ num build ++ orMark 3 dateBytes furthest ++ be2 w ++ be2 f ++ be2 m ++ be2 p ++
    be2 keys ++ counted1 TimelineEntry.bytes es
  | .rung s p r => num s ++ num p ++ num r
  | .count n => num n
  | .bellSettings g c => num g ++ be2 c
  | .buildings bs => bs.flatMap Building.bytes
  | .zones rs => counted1 ZoneReport.bytes rs
  | .announceStarted id st place =>
    num id ++ stageBytes st ++ (match st with
      | some .queued => num place
      | some _ => []
      | Option.none => EndCause.displaced.bytes)
  | .announceStage st => stageBytes st
  | .announceList rs p1 p2 taps =>
    counted1 AnnounceSummary.bytes rs ++ numOrMark p1 ++ numOrMark p2 ++
    taps.flatMap fun t => num t.1 ++ num (bit 1 t.2.1 + bit 2 t.2.2)
  | .announcement a chime limit n js =>
    a.bytes ++ orMark 1 num chime ++ orMark 2 be2 limit ++ num n ++ counted1 (joinBytes a.stage) js
  | .program f => orMark 1 programBytes f
  | .runNumber n => be2 n
  | .drill Option.none _ _ _ _ _ => phaseBytes Option.none
  | .drill (some r) left header timers claims probes =>
    r.bytes ++ orMark 2 be2 left ++ orMark 2 be2 header ++ counted1 BuildingTimer.bytes timers ++
    counted1 (fun x => num x.1 ++ num x.2) claims ++
    if r.phase = .checking then counted1 (fun x => num x.1 ++ numOrMark x.2.1 ++ flagBytes x.2.2) probes else []
  | .drillRecord n r => num n ++ orMark 1 DrillRecord.bytes r
  | .scheduleState st => st.bytes
  | .schedule es => counted1 ScheduleEntry.bytes es
  | .displayMode m => m.bytes
  | .displays ds => ds.flatMap displayBytes
  | .circuitMode m c => m.bytes ++ c.bytes
  | .circuitStop m pending => m.bytes ++ flagBytes pending
  | .circuits rs => counted1 (orMark 1 CircuitReport.bytes) rs
  | .counters cs g fr => cs.flatMap (fun c => be2 c.1 ++ be2 c.2) ++ be2 g ++ flagBytes fr
  | .frozen fr => flagBytes fr
  | .nodeLink n l line flight classes =>
    n.bytes ++ linkBytes l ++ line.bytes ++
    orMark 1 (fun x => num x.1 ++ num x.2.1 ++ counted1 num x.2.2) flight ++
    classes.flatMap fun c => num c.1 ++ num c.2
  | .roster r n => r.bytes ++ num n
  | .lineSettings a s i => flagBytes a ++ flagBytes s ++ num i
  | .chain line reach stop a s i work ps =>
    line.bytes ++ num reach ++ stopBytes stop ++ flagBytes a ++ flagBytes s ++ num i ++ counted1 Task.bytes work ++
    counted1 Runtime.bytes ps
  | .enables e => enablesBytes e

/-- The body of a reply begins with the status (R163, R181). -/
def Reply.bodyBytes (r : Reply) : List Byte := byteOf r.status.code :: r.body.bytes

/-! ### Notices (R165, R181) -/

/-- The fields that a cause adds to a TIME_EVENT (R19). -/
def TimeCause.bytes : TimeCause → List Byte
  | .set n => num n
  | .jump old size n => campusBytes old ++ wideSigned 5 size ++ num n
  | .change m s n => campusBytes m ++ wideSigned 1 s ++ num n
  | .restored n s => num n ++ wideSigned 2 s
  | .unsetRangeEnd => valueByte .unsetCause 0
  | .trimDone => []
  | .dayPlan d sel n => dateBytes d ++ sel.bytes ++ num n
  | .quietBegins a b | .quietEnds a b => be2 a ++ be2 b

/-- The fields that an event adds to an ANNOUNCE_STATE (R80). -/
def AnnounceEvent.bytes : AnnounceEvent → List Byte
  | .started t => momentBytes t
  | .live => []
  | .ending c | .removed c => c.bytes

/-- What every notice of a drill gives (R104). -/
def DrillHead.bytes (h : DrillHead) : List Byte := be2 h.number ++ num h.program ++ h.origin.bytes ++ flagBytes h.forced

/-- The result of the readiness check (R88). -/
def Readiness.bytes (r : Readiness) : List Byte :=
  counted1 num r.ready ++ counted1 num r.notReady ++ counted1 num r.yielded ++
  counted1 (fun x => num x.1 ++ x.2.bytes) r.failed

/-- The fields that an event adds to a DRILL_PHASE (R104). -/
def DrillEvent.bytes : DrillEvent → List Byte
  | .checking n => num n
  | .ready r | .notReady r => r.bytes
  | .prealert c r | .evacuate c r | .allclear c r => num c ++ num r
  | .muster early => flagBytes early
  | .building t => t.bytes

/-- The fields that an event adds to a CLOCK_STATE (R123). -/
def ClockEvent.bytes : ClockEvent → List Byte
  | .correcting b a => be2 b ++ be2 a
  | .inStep => []
  | .noConfirm p r n l => valueByte .clockFault 0 ++ polarityBytes p ++ num r ++ num n ++ linePolarityBytes l
  | .noLine => valueByte .clockFault 1
  | .reconciled d n l => valueByte .reconciled (if d then 0 else 1) ++ num n ++ linePolarityBytes l

/-- The cause of a YIELD_STATE with its fields (R58). -/
def YieldCause.bytes : YieldCause → List Byte
  | .trigger p i b a d => valueByte .yieldCause 0 ++ [p, i, b, a, d].map byteOf
  | .inputsInactive => valueByte .yieldCause 1
  | .release => valueByte .yieldCause 2

/-- The fields of an OP_DONE after its status (R164). -/
def opFieldBytes : OpFields → List Byte
  | .none => []
  | .line st reach stop => st.bytes ++ num reach ++ (stop.map fun x => stopBytes (some x)).getD []
  | .bytes l => l

/-- The fields of a notice, which follow its flags, in the order of the rule that names them. -/
def Notice.fields : Notice → List Byte
  | .started c store backup line =>
    valueByte .startCause (if c = .powerOn then 0 else 1) ++ flagBytes store ++ flagBytes backup ++ flagBytes line
  | .timeEvent c t q => num c.code ++ campusBytes t ++ q.bytes ++ c.bytes
  | .bellFired late plan index build e s p r =>
    num plan ++ be2 index ++ num build ++ be3 e.time ++ num e.group ++ num e.pattern ++ be2 e.duration ++ num s ++ num p ++
    num r ++ flagBytes late.isSome ++ (late.map campusBytes).getD []
  | .bellsMissedJump old new late missed => num 1 ++ campusBytes old ++ campusBytes new ++ be2 late ++ be2 missed
  | .bellsMissedStale o n missed => num 2 ++ o.bytes ++ num n ++ flagBytes missed
  | .bellsMissedLimit plan index time group => num 3 ++ num plan ++ be2 index ++ be3 time ++ num group
  | .announceState id input rank e st c =>
    num e.code ++ num id ++ inputBytes input ++ num rank ++ stageBytes st ++ c.bytes ++ e.bytes
  | .drillPhase h e ph => num e.code ++ h.bytes ++ phaseBytes ph ++ e.bytes
  | .scheduleRefused m program r ph => num 9 ++ phaseBytes ph ++ campusBytes m ++ num program ++ r.bytes
  | .scheduleMissed ms ph => num 10 ++ phaseBytes ph ++ counted1 campusBytes ms
  | .drillOverdue h b target muster => h.bytes ++ num b ++ be2 target ++ be2 muster
  | .drillResult r => r.bytes
  | .clockState c dial pol mode course e =>
    num e.code ++ num c ++ orMark 2 be2 dial ++ polarityBytes pol ++ mode.bytes ++ course.bytes ++ e.bytes
  | .clockRestored n u valid => num 5 ++ markBytes 1 ++ num n ++ num u ++ flagBytes valid
  | .nodeState p old new missing stop fault =>
    num p ++ old.bytes ++ new.bytes ++ num missing ++ new.reasonBytes ++ stopBytes stop ++ flagBytes fault
  | .setupFault p i c => num p ++ num i ++ valueByte .setupFault (if c = .badCheck then 0 else 1)
  | .lineFault p k => numOrMark p ++ num k.code
  | .yieldState b old new c => num b ++ old.bytes ++ new.bytes ++ c.bytes
  | .counterLevel p c l => num p ++ valueByte .counter (if c = .missed then 0 else 1) ++ be2 l
  | .opDone tag kind st f => num tag ++ num kind ++ num st.code ++ opFieldBytes f

/-- The body of a notice: its flags, whose bit 0 is the dropped flag, and its fields (R166, R181). -/
def Notice.body (n : Notice) (dropped : Bool) : List Byte := flagBytes dropped ++ n.fields

/-! ### Frames (R181) -/

/-- The bytes of a frame: start, length, tag, kind, body, check. -/
def frameBytes (tag kind : Nat) (body : List Byte) : List Byte :=
  0xA5#8 :: byteOf (body.length + 2) :: byteOf tag :: byteOf kind :: body ++ [frameCheck (byteOf tag) (byteOf kind) body]

/-- The bytes on the wire for the frame being sent: a reply with its request's tag, a notice with tag 0. -/
def SentFrame.bytes : SentFrame → List Byte
  | .reply r => frameBytes r.tag r.kind r.bodyBytes
  | .notice n dropped => frameBytes 0 n.kind.code (n.body dropped)

/-- What stands on the wire: the frame that the transmitter is sending, if any (R166). -/
def Port.wire (p : Port) : List Byte := (p.sending.map SentFrame.bytes).getD []

end Sys2Proof.Machine
end

