-- ==== Sys2Proof/Safety.lean ====
section
/-! DEFINITION. What holds of the machine between any two steps, and the words that statements about it are made of. -/

namespace Sys2Proof.Machine

/-! ### The invariant -/

/-- The control port holds no more than its places, and its counts have not passed 65,535 (R161 to R165). -/
def Port.bounded (o : Port) : Prop :=
  o.buffer.length ≤ bufferLimit ∧ o.replies.length ≤ replyLimit ∧ o.notices.length ≤ noticeLimit ∧
  o.badFrames ≤ 65535 ∧ o.overruns ≤ 65535

/-- An OP_DONE waits in its slot only while the notice queue is full (R164). -/
def Port.endingWaits (o : Port) : Prop :=
  ∀ op, o.longOp = some op → op.ending.isSome = true → o.notices.length = noticeLimit

/-- The transmitter is not left free beside a reply or a notice that it may begin (R166, R172). -/
def Port.busyEnough (o : Port) : Prop :=
  o.sending = none → o.replies = [] ∧ (o.notices = [] ∨ o.restarting = true)

/-- No input that serves no record leaves a record waiting in its queue (R67). -/
def Part.settled (p : Part) : Prop := ∀ i : PagingInput, p.served? i = none → p.queue i = []

/-- The line has at most 24 nodes, each with its setup store in canonical form (R142, R184). -/
def nodesSound (l : List Node) : Prop := l.length ≤ 24 ∧ ∀ n ∈ l, Memory.wf n.store = true

/-- The serial memory is in canonical form (R168, R185; log entry 13). -/
def SerialMemory.wf (m : SerialMemory) : Prop := Memory.wf m.cells = true

/-- The exception list is kept in order of date, no date covered twice (R10). -/
def exceptionsApart (l : List ExceptionRec) : Prop :=
  (∀ e ∈ l, e.first ≤ e.last) ∧ l.Pairwise fun a b => a.last < b.first

/-- No two of a table's ranges share a zone. -/
def rangesApart {n : Nat} (v : Vector Range n) : Prop :=
  ∀ i j (hi : i < n) (hj : j < n), i ≠ j → (v[i]).meets v[j] = false

/-- No two defined circuits name one line of one node (R110). -/
def linesApart (v : Vector (Option CircuitDef) 32) : Prop :=
  ∀ i j (hi : i < 32) (hj : j < 32), i ≠ j → ∀ a b, v[i] = some a → v[j] = some b → ¬(a.position = b.position ∧ a.line = b.line)

/-- What the tables keep: exceptions apart (R10), building ranges apart (R39), zone windows apart (R142), no line of a node
twice (R110). -/
def Part.lawful (p : Part) : Prop :=
  exceptionsApart p.cal.exceptions ∧ rangesApart (p.arb.buildings.map (·.zones)) ∧
  rangesApart (p.chain.roster.map (·.window)) ∧ linesApart (p.clk.circuits.map fun r => r.map (·.definition))

/-- Campus time stays within its date (R1), a time-change record within its own (R14), and, while main power is present and
campus time SET, no WAITING record is past: its moment is campus time or later, and later while a tenth that has elapsed is
still to be counted (R15). -/
def State.timely (s : State) : Prop :=
  s.part.backup.tod < dayTenths ∧ (∀ c ∈ s.part.cal.changes, c.minute ≤ 1439) ∧
  (s.powered = true → s.part.isSet = true → ∀ c ∈ s.part.cal.changes, c.done = false →
    s.part.campus.total + (if s.marks.count then 1 else 0) ≤ c.moment.total)

/-- What holds between any two steps. -/
def State.Inv (s : State) : Prop :=
  s.port.bounded ∧ s.port.endingWaits ∧ s.port.busyEnough ∧ s.part.outbox = [] ∧ s.part.settled ∧ nodesSound s.nodes ∧
  s.memory.wf ∧ s.part.lawful ∧ s.timely

/-! ### Words for statements -/

/-- A request with this tag, not held before, is taken at once: the port listens, no frame is held, the reply list has
room, and nothing is on its way from the blocks to the port (R161 to R163). -/
def State.ready (s : State) (tag : Nat) : Prop :=
  s.listening = true ∧ tag ≠ 0 ∧ s.port.buffer = [] ∧ s.port.replies.length < replyLimit ∧ s.part.outbox = []

/-- The replies that have been made and not yet sent whole, oldest first (R163, R166). -/
def Port.made (o : Port) : List Reply :=
  (match o.sending with
    | some (.reply r) => [r]
    | _ => []) ++ o.replies

/-- The machine with one more reply made, which the transmitter begins if it can, and nothing else changed. -/
def State.replied (s : State) (tag kind : Nat) (a : Answer) : State :=
  { s with port := { s.port with replies := s.port.replies ++ [replyOf tag kind a] }.transmit }

/-- From `s` to `t` one reply has been made. -/
def State.answers (s t : State) (tag kind : Nat) (a : Answer) : Prop :=
  t.port.made = s.port.made ++ [replyOf tag kind a]

/-- From `s` to `t` the port has made these replies and taken these notices of the blocks, in this order, the transmitter
beginning what it can when all are in (R163 to R166). -/
def State.reports (s t : State) (replies : List Reply) (notices : List Notice) : Prop :=
  t.port = (notices.foldl Port.offer { s.port with replies := s.port.replies ++ replies }).transmit

/-- What a request of another block and an event leave as it is: the serial memory, the nodes, power, outside time, the
marks, the queue of commands, and in the port all but replies, notices and the long-operation slot. -/
def State.sameOutside (s t : State) : Prop :=
  t.memory = s.memory ∧ t.nodes = s.nodes ∧ t.powered = s.powered ∧ t.world = s.world ∧ t.marks = s.marks ∧
  t.pending = s.pending ∧ t.port.rx = s.port.rx ∧ t.port.buffer = s.port.buffer ∧ t.port.enables = s.port.enables ∧
  t.port.badFrames = s.port.badFrames ∧ t.port.overruns = s.port.overruns ∧ t.port.imageState = s.port.imageState ∧
  t.port.saving = s.port.saving ∧ t.port.loading = s.port.loading ∧ t.port.restarting = s.port.restarting

/-- A timeline built by the build rule, for a date at a time of day, from a list of plan entries (R26, R27): what it holds,
the state of each entry by how the date compares with the furthest date, and the furthest date and the fired record after
it. -/
def Bells.builds (old new : Bells) (day tod : Nat) (plan : Option Nat) (es : List BellEntry) : Prop :=
  let later := old.furthest.all (· < day)
  let byTime := fun (e : BellEntry) => if e.time * 10 < tod then EntryState.passed else .waiting
  let key := fun (e : BellEntry) => old.fired.find? fun k => k.time == e.time && k.group == e.group
  new.timeline.date = some day ∧ new.timeline.plan = plan ∧ new.timeline.build = (old.timeline.build + 1) % 256 ∧
  new.timeline.entries.map (·.entry) = es ∧
  (later = true → new.furthest = some day ∧ new.fired = []) ∧
  (later = false → new.furthest = old.furthest ∧ new.fired = old.fired) ∧
  ∀ x ∈ new.timeline.entries, x.posted = none ∧
    (later = true → x.state = byTime x.entry) ∧
    (old.furthest = some day →
      (key x.entry = none → x.state = byTime x.entry) ∧
      ∀ k, key x.entry = some k → x.state = if k.missed then .missed else .fired) ∧
    ∀ f, old.furthest = some f → day < f → x.state = .passed

/-- The zones that a drill posts its claims to, building by building: those of the scope buildings whose timer is not YIELDED
(R89), but for a building that has yielded in this drill and is CLEAR again (R100). -/
def Part.drillTargets (p : Part) (r : DrillRun) : List Nat :=
  (r.timers.filter fun x =>
    x.state != .yielded && !(r.barred.contains x.building && (p.building x.building).yield == .clear)).flatMap fun x =>
      (List.range 64).filter fun z => (p.building x.building).zones.has z

/-- From `p` to `q` a drill has posted claims with a pattern to zones (R53, R89): an open zone holds one, SOUNDING where it is
able to sound, and every other zone keeps the DRILL claim that it had. Where no announcement is queued that could start in the
same step, no announcement has an open zone, or waits for it, any longer: those that did have recorded it LOST (R46). -/
def Part.drillsPosted (p q : Part) (zs : List Nat) (pattern program : Nat) : Prop :=
  ∀ z < 64,
    let old := p.zone z
    let new := q.zone z
    let posted := z ∈ zs ∧ p.closedZone z = false
    (¬ posted → new.drill.map (·.pattern) = old.drill.map (·.pattern)) ∧
    (posted → new.drill = some ⟨if p.able z then .sounding else .pending, pattern, program⟩ ∧
      (p.able z = true → new.commanded = .pattern pattern) ∧
      ((∀ a ∈ p.ann.records, a.stage ≠ .queued) → new.ann = none ∧ new.offers = [] ∧
        ∀ a ∈ q.ann.records, (∃ c, old.ann = some c ∧ c.id = a.id) ∨ (∃ o ∈ old.offers, o.id = a.id) →
          ∀ j ∈ a.joins, j.zone = z → j.state = .lost))

/-- The line engine without its queues. -/
def LineEngine.fixed (l : LineEngine) : LineEngine := { l with urgent := [], output := [], clock := [], service := [] }

/-- The chain builder without the runtime records. -/
def Chain.fixed (c : Chain) : Chain := { c with runtime := Vector.replicate 24 Runtime.reset }

/-- What no claim, announcement, display or power command touches: elapsed time, the backup domain, the time keeper, the
calendar, the bell scheduler, the drill timer, the buildings, the circuits, all of the line engine but its queues and all
of the chain builder but its runtime records. -/
def Part.core (p : Part) :
    Nat × Backup × TimeKeeper × Calendar × Bells × DrillTimer × Vector Building 8 × Vector (Option Circuit) 32 × LineEngine ×
      Chain :=
  (p.now, p.backup, p.time, p.cal, p.bell, p.drill, p.arb.buildings, p.clk.circuits, p.line.fixed, p.chain.fixed)

/-- What a zone's record holds that only requests set (R41). -/
@[simp] def Zone.flags (z : Zone) : ZoneKind × Bool × Bool × Bool × Bool := (z.kind, z.bellOn, z.annOn, z.bellMask, z.annMask)

/-- The tables of the calendar, without the marks on time-change records. -/
@[simp] def Calendar.layout (c : Calendar) :=
  (c.week, c.exceptions, c.quietStart, c.quietEnd, c.changes.map fun x => (x.day, x.minute, x.shift))

/-- The tables of the bell scheduler. -/
@[simp] def Bells.layout (b : Bells) := (b.groups, b.plans, b.grace, b.catchUp)

/-- The tables of the arbiter, with the masks. -/
@[simp] def Arbiter.layout (a : Arbiter) := (a.buildings.map (·.zones), a.zones.map Zone.flags)

/-- The tables of the drill timer, without the states of scheduled entries. -/
@[simp] def DrillTimer.layout (d : DrillTimer) := (d.programs, d.schedule.map fun e => (e.day, e.minute, e.program))

/-- The definitions of the circuits. -/
@[simp] def ClockDriver.layout (c : ClockDriver) := c.circuits.map fun r => r.map (·.definition)

/-- The tables of the chain builder. -/
@[simp] def Chain.layout (c : Chain) := (c.roster, c.length, c.autoStart, c.autoSetup, c.interval)

/-- The tables that the host fills: all that the image holds but the enables (R168), and the masks. -/
def Part.layout (p : Part) :=
  (p.cal.layout, p.bell.layout, p.arb.layout, p.drill.layout, p.clk.layout, p.chain.layout)

/-- Elapsed time, campus time with its quality, trim and flag, the calendar and the bell scheduler. -/
def Part.clock (p : Part) : Nat × Nat × Nat × Bool × TimeKeeper × Calendar × Bells :=
  (p.now, p.backup.day, p.backup.tod, p.backup.valid, p.time, p.cal, p.bell)

/-- The tables of an image are in place, but for the enables, which the port holds, and for the marks that time has put on
time-change records and scheduled drills: the yield states are CLEAR (R39, R168). -/
def Part.holdsTables (p : Part) (t : Tables) : Prop :=
  p.cal.week = t.week ∧ p.cal.exceptions = t.exceptions ∧ p.cal.quietStart = t.quietStart ∧ p.cal.quietEnd = t.quietEnd ∧
  p.cal.changes.map (fun c => (c.day, c.minute, c.shift)) = t.changes.map (fun c => (c.day, c.minute, c.shift)) ∧
  p.bell.groups = t.groups ∧ p.bell.plans = t.plans ∧ p.bell.grace = t.grace ∧ p.bell.catchUp = t.catchUp ∧
  p.chain.roster = t.roster ∧ p.chain.length = t.length ∧ p.chain.autoStart = t.autoStart ∧
  p.chain.autoSetup = t.autoSetup ∧ p.chain.interval = t.interval ∧ p.drill.programs = t.programs ∧
  p.drill.schedule.map (fun e => (e.day, e.minute, e.program)) = t.schedule.map (fun e => (e.day, e.minute, e.program)) ∧
  (∀ b < 8, some (p.building b).zones = t.ranges[b]? ∧ (p.building b).yield = .clear ∧ (p.building b).origin = none) ∧
  (∀ c < 32, some ((p.circuit c).map (·.definition)) = t.circuits[c]?) ∧
  ∀ z < 64, ∀ x, t.zones[z]? = some x → ((p.zone z).kind, (p.zone z).bellOn, (p.zone z).annOn) = (x.kind, x.bellOn, x.annOn)

/-- The commands that write the tables, or replace the blocks whole: table edits, STORE_LOAD_COMPLETE, start-up and the
loss of power or of the backup domain. -/
def writesTables : Instr → Bool
  | .weekWrite .. | .exceptionAdd .. | .exceptionRemove .. | .timeChangeAdd .. | .timeChangeRemove .. | .quietSet ..
  | .groupWrite .. | .planWrite .. | .planAppend .. | .planClear .. | .bellSettings .. | .buildingWrite ..
  | .zoneDefine .. | .zoneEnable .. | .zoneMask .. | .programWrite .. | .scheduleAdd .. | .scheduleRemove ..
  | .circuitWrite .. | .rosterWrite .. | .rosterLength .. | .lineSettings .. | .storeLoadComplete _ | .startUp _
  | .mainPowerLoss | .batteryLow => true
  | _ => false

/-- The commands that move elapsed time, campus time, the calendar or the bell scheduler: their requests and events, RESTART,
which cancels a trim, STORE_LOAD_COMPLETE, start-up and the loss of power or of the backup domain. -/
def movesClock : Instr → Bool
  | .timeSet .. | .timeTrim .. | .weekWrite .. | .exceptionAdd .. | .exceptionRemove .. | .timeChangeAdd ..
  | .timeChangeRemove .. | .quietSet .. | .groupWrite .. | .planWrite .. | .planAppend .. | .planClear .. | .bellRing ..
  | .bellSettings .. | .dayStart | .rangeEnd | .trimSecond | .minuteBoundary | .timeChangeReached | .bellEntryReached _ | .restart ..
  | .latestStart _ | .storeLoadComplete _ | .startUp _ | .mainPowerLoss | .batteryLow => true
  | _ => false

/-- The events of the line nodes and of the wiring. -/
def touchesNodes : Instr → Bool
  | .nodeInputEdge .. | .nodePulseEnd .. | .nodeWarmupEnd _ | .nodeCutOnwardEnd _ | .nodeIsolated _ | .nodeHoldOverEnd _
  | .nodeLineReset _ | .nodePowerRestart .. | .nodePowerLoss _ | .onwardSegmentChange .. => true
  | _ => false

/-- The kind byte of a request (R182). -/
def requestKind : Instr → Option Nat
  | .identify .. => some 0x01
  | .status .. => some 0x02
  | .timeSet .. => some 0x03
  | .timeTrim .. => some 0x04
  | .timeRead .. => some 0x05
  | .weekWrite .. => some 0x06
  | .weekRead .. => some 0x07
  | .exceptionAdd .. => some 0x08
  | .exceptionRemove .. => some 0x09
  | .exceptionRead .. => some 0x0A
  | .timeChangeAdd .. => some 0x0B
  | .timeChangeRemove .. => some 0x0C
  | .timeChangeRead .. => some 0x0D
  | .quietSet .. => some 0x0E
  | .quietRead .. => some 0x0F
  | .groupWrite .. => some 0x10
  | .groupRead .. => some 0x11
  | .planWrite .. => some 0x12
  | .planAppend .. => some 0x13
  | .planClear .. => some 0x14
  | .planRead .. => some 0x15
  | .timelineRead .. => some 0x16
  | .bellRing .. => some 0x17
  | .bellSilence .. => some 0x18
  | .bellSettings .. => some 0x19
  | .bellSettingsRead .. => some 0x1A
  | .buildingWrite .. => some 0x20
  | .buildingRead .. => some 0x21
  | .zoneDefine .. => some 0x22
  | .zoneEnable .. => some 0x23
  | .zoneMask .. => some 0x24
  | .zoneRead .. => some 0x25
  | .yieldRelease .. => some 0x26
  | .announceStart .. => some 0x28
  | .announceEnd .. => some 0x29
  | .announceCancel .. => some 0x2A
  | .announceList .. => some 0x2B
  | .announceRead .. => some 0x2C
  | .programWrite .. => some 0x30
  | .programRead .. => some 0x31
  | .drillStart .. => some 0x32
  | .drillAbort .. => some 0x33
  | .drillRead .. => some 0x34
  | .drillRecordsRead .. => some 0x35
  | .scheduleAdd .. => some 0x36
  | .scheduleRemove .. => some 0x37
  | .scheduleRead .. => some 0x38
  | .displaySet .. => some 0x3A
  | .displayRead .. => some 0x3B
  | .circuitWrite .. => some 0x3C
  | .circuitSetDial .. => some 0x3D
  | .circuitStop .. => some 0x3E
  | .circuitRun .. => some 0x3F
  | .circuitRead .. => some 0x40
  | .countersRead .. => some 0x44
  | .countersFreeze .. => some 0x45
  | .nodeLinkRead .. => some 0x46
  | .rosterWrite .. => some 0x48
  | .rosterLength .. => some 0x49
  | .rosterRead .. => some 0x4A
  | .lineSettings .. => some 0x4B
  | .lineSettingsRead .. => some 0x4C
  | .chainRead .. => some 0x4D
  | .lineStart .. => some 0x4E
  | .lineRestart .. => some 0x4F
  | .lineStop .. => some 0x50
  | .nodePower .. => some 0x51
  | .nodeRead .. => some 0x52
  | .nodeWrite .. => some 0x53
  | .noticeEnable .. => some 0x58
  | .noticeEnableRead .. => some 0x59
  | .storeSave .. => some 0x5A
  | .storeLoad .. => some 0x5B
  | .restart .. => some 0x5C
  | _ => none

end Sys2Proof.Machine
end

