-- ==== Sys2Proof/Certificates/Slice0/Obligations.lean ====
section
/-! DEFINITION. The statements for the provers, in the order of OBLIGATIONS.json.

`State.ready s tag` says that a request with this tag is taken at once; `State.replied` is the machine with one more
reply made and nothing else changed, so that a statement `exec c s = .next (s.replied …)` also says what the command
leaves unchanged; `State.sameOutside` is the frame of the commands that change a block (Safety.lean). A premise
`s.part.settled` is a part of the invariant that `StepKeepsTheInvariant` states. -/

open Sys2Proof Sys2Proof.Machine

/-! ### The machine -/

/-- A step takes the command at the front of the queue and runs it on the queue's rest (log entry 1). -/
def Obligations.StepRunsTheFrontCommand : Prop :=
  ∀ (c : Instr) (rest : List Instr) (s : State), s.pending = c :: rest →
    step s = exec c { s with pending := rest }

/-- On an empty queue a step takes a held frame: a request is presented, and a frame that is none is answered BAD_VALUE,
UNKNOWN_KIND or BAD_LENGTH. Or else it counts a tenth whose event a request has forestalled, once nothing that stands at the
present campus time is still to be reached, a WAITING bell entry there being brought up first; or brings up the first group
of events that is due, or lets one unit of 20 ms pass. At every fifth unit campus time then counts a tenth while it is SET,
and the counter of a valid backup domain counts without main power; while campus time is UNSET it stands. The tick, its
marks and the tenth of a trim are the model's choice (log entries 1, 2, 6 and 27); that a bell entry at the present campus
time is reached however that time was, is deduced (log entry 65). -/
def Obligations.EmptyQueueStep : Prop :=
  ∀ s : State, s.pending = [] →
    (s.listening = true → s.port.replies.length < replyLimit → ∀ l,
      (∀ i, s.port.buffer = .request i :: l →
        step s = .next { s with pending := [i], port := { s.port with taking := true } }) ∧
      (s.part.outbox = [] →
        let rest := { s with port := { s.port with buffer := l } }
        (∀ k, s.port.buffer = .tagZero k :: l → step s = .next (rest.replied 0 k ⟨.badValue, .none⟩)) ∧
        (∀ t k, s.port.buffer = .unknownKind t k :: l → step s = .next (rest.replied t k ⟨.unknownKind, .none⟩)) ∧
        (∀ t k, s.port.buffer = .badLength t k :: l → step s = .next (rest.replied t k ⟨.badLength, .none⟩)))) ∧
    (s.canTake = false → s.powered = true → s.marks.count = true → s.part.time.quality = .set →
      (∀ (i : Nat) (e : TimelineEntry), s.part.bell.timeline.date = some s.part.backup.day →
        s.part.bell.timeline.entries[i]? = some e → e.state = .waiting → e.entry.time * 10 = s.part.backup.tod →
        ∃ t, step s = .next t ∧ t.part = s.part ∧ t.marks = s.marks ∧ .bellEntryReached i ∈ t.pending)) ∧
    (s.canTake = false → s.powered = true → s.marks.count = true → s.part.time.quality = .set → s.part.momentDue = false →
      (s.part.nextTenth = .plain → step s = .next { s with
        part := { s.part with backup := { s.part.backup with tod := s.part.backup.tod + 1 } },
        marks := { s.marks with count := false, minute := (s.part.backup.tod + 1) % 600 == 0 } }) ∧
      (s.part.nextTenth = .wait → step s = .next { s with
        part := { s.part with time := { s.part.time with held := true } },
        marks := { s.marks with count := false, minute := false } })) ∧
    (∀ l m, s.canTake = false → s.lateTenth = false → firstGroup s.groups = some (l, m) →
      step s = .next { s with pending := l, marks := m }) ∧
    (s.canTake = false → s.lateTenth = false → firstGroup s.groups = none →
      let tenth := (s.world + 1) % 5 = 0
      let b := s.part.backup
      ∃ t, step s = .next t ∧ t.world = s.world + 1 ∧ t.port = s.port ∧ t.memory = s.memory ∧ t.powered = s.powered ∧
        t.draws = s.draws ∧ t.pending = [] ∧
        t.nodes = tickNodes (s.world + 1) (s.powered && s.part.chain.headCut.isSome) s.nodes ∧
        t.part = { s.part with now := if s.powered then s.part.now + 1 else s.part.now
                               backup := t.part.backup, time := t.part.time } ∧
        t.marks.cycle = (s.powered && s.part.driving) ∧ t.marks.tx = (s.powered && s.port.sending.isSome) ∧
        t.marks.store = (s.powered && (s.port.saving.isSome || s.port.loading)) ∧
        (¬ tenth ∨ (s.powered = true ∧ s.part.time.quality = .unset) →
          t.part.backup = b ∧ t.part.time = s.part.time ∧ t.marks.count = false ∧ t.marks.minute = false) ∧
        (tenth → s.powered = true → s.part.time.quality = .set →
          (s.part.nextTenth = .plain → t.part.backup = { b with tod := b.tod + 1 } ∧ t.part.time = s.part.time ∧
            t.marks.count = false ∧ t.marks.minute = ((b.tod + 1) % 600 == 0)) ∧
          (s.part.nextTenth = .wait → t.part.backup = b ∧ t.part.time = { s.part.time with held := true } ∧
            t.marks.count = false ∧ t.marks.minute = false) ∧
          (s.part.nextTenth = .trim ∨ s.part.nextTenth = .dayEnd → t.part.backup = b ∧ t.part.time = s.part.time ∧
            t.marks.count = true ∧ t.marks.minute = false)) ∧
        (tenth → s.powered = false → t.part.time = s.part.time ∧ t.marks.count = false ∧ t.marks.minute = false ∧
          (b.valid = false → t.part.backup = b) ∧
          (b.valid = true → b.tod < 863999 → t.part.backup = { b with tod := b.tod + 1 }) ∧
          (b.valid = true → 863999 ≤ b.tod → b.day < 36524 → t.part.backup = { b with day := b.day + 1, tod := 0 }) ∧
          (b.valid = true → 863999 ≤ b.tod → 36524 ≤ b.day → t.part.backup = b)))

/-- The machine right after reset: campus time UNSET, the backup domain invalid, the line DOWN with no roster, every
table with the values of an INVALID image, the receiver HUNTING with nothing held, counted or in progress, every notice
enabled, STARTED on its way (the blank memory and the absence of nodes are the model's choice, log entries 3 and 4). A
power-on of a part that has lost its backup domain and whose serial memory holds no image ends there, whether or not the
memory answers. -/
def Obligations.ResetState : Prop :=
  (let p := State.reset.part
  let o := State.reset.port
  State.reset.powered = true ∧ State.reset.pending = [] ∧
  p.time.quality = .unset ∧ p.time.trim = 0 ∧ p.backup.valid = false ∧ p.backup.tod = 0 ∧ p.backup.day = 0 ∧
  p.cal.week.toList = List.replicate 7 none ∧ p.cal.exceptions = [] ∧ p.cal.changes = [] ∧
  p.cal.quietStart = 0 ∧ p.cal.quietEnd = 0 ∧ p.cal.inside = false ∧ p.cal.selection = ⟨none, .none, false⟩ ∧
  p.bell.groups.toList = List.replicate 32 [] ∧ p.bell.plans.toList = List.replicate 16 [] ∧ p.bell.grace = 30 ∧
  p.bell.catchUp = 120 ∧ p.bell.timeline = ⟨none, none, 0, []⟩ ∧ p.bell.fired = [] ∧
  (∀ z < 64, (p.zone z).kind = .sounder ∧ (p.zone z).bellOn = true ∧ (p.zone z).annOn = true ∧
    (p.zone z).bellMask = false ∧ (p.zone z).annMask = false ∧ (p.zone z).hasClaim = false ∧ (p.zone z).offers = [] ∧
    (p.zone z).commanded = .silent ∧ (p.zone z).confirmed = none ∧ (p.zone z).dirty = false) ∧
  (∀ b < 8, (p.building b).yield = .clear ∧ (p.building b).zones.isEmpty = true) ∧
  p.ann.records = [] ∧ p.ann.lastId = 0 ∧ p.drill.run = none ∧ p.drill.runCounter = 0 ∧ p.drill.records = [] ∧
  p.drill.schedule = [] ∧ p.drill.programs.toList = List.replicate 4 none ∧
  (∀ c < 32, p.circuit c = none) ∧ (∀ n < 24, (p.display n).mode = .time ∧ (p.display n).confirmed = none) ∧
  p.line.seq = 1 ∧ p.line.cycle = 0 ∧ p.line.flight = none ∧ p.line.giveUps = 0 ∧ p.line.frozen = false ∧
  p.chain.line = .down ∧ p.chain.length = 0 ∧ p.chain.autoStart = false ∧ p.chain.autoSetup = true ∧
  p.chain.interval = 10 ∧ (∀ n < 24, p.node n = .absent) ∧
  o.rx = .hunting ∧ o.buffer = [] ∧ o.replies = [] ∧ o.longOp = none ∧ o.lastLong = none ∧ o.dropped = false ∧
  o.badFrames = 0 ∧ o.overruns = 0 ∧ o.imageState = .invalid ∧ o.enables.toList = List.replicate 14 true ∧
  o.sending = some (.notice (.started .powerOn false false false) false)) ∧
  (∀ answers, exec (.startUp answers)
      { State.reset with part := Part.reset.dark, port := Port.dark, powered := false } = .next State.reset)

/-- The reset state satisfies the invariant that every step keeps: the port's, the stores', the tables'
and campus time's. -/
def Obligations.ResetSatisfiesTheInvariant : Prop :=
  State.reset.Inv

/-- Every step keeps the invariant: the port stays within its places and its counts saturate, an OP_DONE waits only for a
full notice queue, the transmitter is never left idle beside work, no free paging input leaves a record waiting (its head
starts at the end of the step, deduced, log entry 16), each setup store and the serial memory keep their canonical form, and
the tables keep their laws: no date covered by two exceptions (R10), no zone in two buildings (R39) or two windows (R142), no line of a node named by two circuits (R110).
Campus time stays within its date and the records of time changes within theirs, and while campus time is SET and main power
present no WAITING record lies before campus time, nor at it while an elapsed tenth is still to be counted (R15). -/
def Obligations.StepKeepsTheInvariant : Prop :=
  ∀ s t : State, s.Inv → step s = .next t → t.Inv

/-! ### Formats -/

/-- A status record written in the bytes of a window is read back as itself, with every field at every value. -/
def Obligations.StatusRecordReadsBack : Prop :=
  ∀ r : StatusRecord, r.allowed = true → StatusRecord.ofBytes r.bytes = some r

/-- A line command written as its kind's code and fields is read back as itself, with every field at every value. -/
def Obligations.LineCommandReadsBack : Prop :=
  ∀ c : LineCommand, c.allowed = true → LineCommand.read c.code c.fieldBytes = some c

/-! ### Requests in general -/

/-- Every request that is taken is answered with one reply of its tag and kind; one that is refused changes nothing
else. -/
def Obligations.EveryRequestIsAnswered : Prop :=
  ∀ (i : Instr) (kind tag : Nat) (s : State), requestKind i = some kind → i.tag? = some tag → s.ready tag →
    ∃ t a, exec i s = .next t ∧ State.answers s t tag kind a ∧
      (a.status ≠ .ok → a.status ≠ .accepted → t = s.replied tag kind ⟨a.status, .none⟩)

/-- A request with tag 0 is refused BAD_VALUE and has no effect. While main power is absent, the receiver is HELD_OFF or the
part restarts, a request changes nothing. -/
def Obligations.RequestsWithoutEffect : Prop :=
  (∀ (i : Instr) (kind : Nat) (s : State), requestKind i = some kind → i.tag? = some 0 → s.listening = true →
    s.port.buffer = [] → s.port.replies.length < replyLimit → s.part.outbox = [] →
    exec i s = .next (s.replied 0 kind ⟨.badValue, .none⟩)) ∧
  (∀ (i : Instr) (kind : Nat) (s : State), requestKind i = some kind → s.listening = false → exec i s = .next s)

/-- A request that cannot be taken at once is held while fewer than two frames are held. With two held it is answered
BUSY, or, the reply list being full, counted as an overrun. A held request is taken as it is presented, and leaves the
buffer. -/
def Obligations.RequestsAreHeldInOrder : Prop :=
  ∀ (i : Instr) (kind tag : Nat) (s : State), requestKind i = some kind → i.tag? = some tag → s.listening = true →
    s.part.outbox = [] →
    ((s.port.taking && s.port.buffer.head? == some (HeldFrame.request i)) = false →
      (s.port.replies.length = replyLimit ∨ s.port.buffer ≠ []) →
      (s.port.buffer.length < 2 →
        exec i s = .next { s with port := { s.port with buffer := s.port.buffer ++ [HeldFrame.request i] }.transmit }) ∧
      (2 ≤ s.port.buffer.length → s.port.replies.length < replyLimit →
        exec i s = .next (s.replied tag kind ⟨.busy, .none⟩)) ∧
      (2 ≤ s.port.buffer.length → replyLimit ≤ s.port.replies.length →
        exec i s = .next { s with port := { s.port with overruns := min (s.port.overruns + 1) 65535 }.transmit })) ∧
    (∀ l, tag ≠ 0 → (∀ k, i ≠ .restart k) → s.port.taking = true → s.port.buffer = .request i :: l →
      s.port.replies.length < replyLimit →
      ∃ t a, exec i s = .next t ∧ t.port.buffer = l ∧ t.port.taking = false ∧ State.answers s t tag kind a)

/-! ### Requests that read -/

/-- TIME_READ gives what its rule lists. (The number that stands for the weekday, Monday 0 to Sunday 6, is the model's choice,
log entry 10.) -/
def Obligations.TimeReadGivesCampusTime : Prop :=
  ∀ (s : State) (tag : Nat), s.ready tag →
    ∃ sel inside, exec (.timeRead tag) s = .next (s.replied tag 0x05 ⟨.ok,
        .time (dateOf s.part.backup.day) s.part.backup.tod ((s.part.backup.day + 5) % 7) s.part.time.quality
          s.part.time.trim s.part.backup.valid sel inside
          ((s.part.cal.changes.find? fun c => !c.done).map fun c => (c.moment, c.shift))⟩) ∧
      (s.part.time.quality = .set → sel = s.part.cal.selection ∧ inside = s.part.cal.inside) ∧
      (s.part.time.quality = .unset → sel.source = .none ∧ inside = false)

/-- The reads of the calendar and of the bell scheduler answer OK with the tables as they stand, or BAD_VALUE for a number
above the list's. -/
def Obligations.CalendarAndBellReads : Prop :=
  (∀ (s : State) (tag i : Nat), s.ready tag →
    exec (.weekRead tag) s = .next (s.replied tag 0x07 ⟨.ok, .week s.part.cal.week.toList⟩) ∧
    (i ≤ 47 → exec (.exceptionRead tag i) s = .next (s.replied tag 0x0A ⟨.ok,
      .exceptions s.part.cal.exceptions.length ((s.part.cal.exceptions.drop i).take 16)⟩)) ∧
    (47 < i → exec (.exceptionRead tag i) s = .next (s.replied tag 0x0A ⟨.badValue, .none⟩)) ∧
    exec (.timeChangeRead tag) s = .next (s.replied tag 0x0D ⟨.ok, .changes s.part.cal.changes⟩) ∧
    exec (.quietRead tag) s = .next (s.replied tag 0x0F ⟨.ok,
      .quiet s.part.cal.quietStart s.part.cal.quietEnd s.part.cal.inside⟩)) ∧
  (∀ (s : State) (tag n i : Nat), s.ready tag →
    (n ≤ 31 → exec (.groupRead tag n) s = .next (s.replied tag 0x11 ⟨.ok, .group (Tab.get s.part.bell.groups n [])⟩)) ∧
    (31 < n → exec (.groupRead tag n) s = .next (s.replied tag 0x11 ⟨.badValue, .none⟩)) ∧
    (n ≤ 15 → i ≤ 479 → exec (.planRead tag n i) s = .next (s.replied tag 0x15 ⟨.ok,
      .plan (s.part.plan n).length (480 - (s.part.bell.plans.toList.map List.length).sum)
        (((s.part.plan n).drop i).take 32)⟩)) ∧
    (15 < n ∨ 479 < i → exec (.planRead tag n i) s = .next (s.replied tag 0x15 ⟨.badValue, .none⟩)) ∧
    (i ≤ 479 → exec (.timelineRead tag i) s = .next (s.replied tag 0x16 ⟨.ok,
      let t := s.part.bell.timeline
      let count := fun st => (t.entries.filter fun e => e.state == st).length
      .timeline t.date t.plan t.build s.part.bell.furthest (count .waiting) (count .fired) (count .missed) (count .passed)
        s.part.bell.fired.length ((t.entries.drop i).take 20)⟩)) ∧
    (479 < i → exec (.timelineRead tag i) s = .next (s.replied tag 0x16 ⟨.badValue, .none⟩)) ∧
    exec (.bellSettingsRead tag) s = .next (s.replied tag 0x1A ⟨.ok, .bellSettings s.part.bell.grace s.part.bell.catchUp⟩))

/-- ZONE_READ answers for 1 to 3 zones from 0 to 63 with the record of each, its owner and building, its update class and
the time remaining of a SOUNDING AUTO bell claim, and is refused for any other range. BUILDING_READ gives all 8 records.
ANNOUNCE_LIST gives each record, the records served and each position's taps; ANNOUNCE_READ gives one record with what
remains of its times and 32 entries of its join list. -/
def Obligations.ZoneAndAnnounceReads : Prop :=
  (∀ (s : State) (tag : Nat) (r : Range), s.ready tag →
    (r.first ≤ r.last → r.last ≤ 63 → r.last ≤ r.first + 2 →
      exec (.zoneRead tag r) s = .next (s.replied tag 0x25 ⟨.ok, .zones (r.toList.map fun z =>
        { zone := z, owner := s.part.owner z, building := s.part.buildingOf z, record := s.part.zone z,
          urgent := s.part.urgent z,
          remaining := (s.part.zone z).bell.bind fun b =>
            if b.state == .sounding then b.endTime.map fun t => (t - s.part.now) / 5 else none })⟩)) ∧
    (r.last < r.first ∨ 63 < r.last ∨ r.first + 2 < r.last →
      exec (.zoneRead tag r) s = .next (s.replied tag 0x25 ⟨.badValue, .none⟩)) ∧
    exec (.buildingRead tag) s = .next (s.replied tag 0x21 ⟨.ok, .buildings s.part.arb.buildings.toList⟩)) ∧
  (∀ (s : State) (tag id i : Nat), s.ready tag →
    exec (.announceList tag) s = .next (s.replied tag 0x2B ⟨.ok, .announceList
      (s.part.byId.map fun a => ⟨a.id, a.input, a.rank, a.stage, s.part.placeOf a, a.counts⟩)
      ((s.part.served? .p1).map (·.id)) ((s.part.served? .p2).map (·.id))
      ((upTo 24).map fun pos => (s.part.tapCapacity pos, s.part.taps pos 1 none, s.part.taps pos 2 none))⟩) ∧
    (∀ a, i ≤ 63 → s.part.announcement id = some a →
      exec (.announceRead tag id i) s = .next (s.replied tag 0x2C ⟨.ok, .announcement a
        (a.chimeEnd.map fun t => (t - s.part.now) / 5) (a.limitTime.map fun t => (t - s.part.now) / 5)
        a.joins.length ((a.joins.drop i).take 32)⟩)) ∧
    (i ≤ 63 → s.part.announcement id = none →
      exec (.announceRead tag id i) s = .next (s.replied tag 0x2C ⟨.notFound, .none⟩)) ∧
    (63 < i → exec (.announceRead tag id i) s = .next (s.replied tag 0x2C ⟨.badValue, .none⟩)))

/-- The drill timer's reads: a program or *empty*, the run as it stands, a record by its index, the whole schedule. (That
DRILL_READ names the building of each timer and of each count of zones is the model's choice, log entry 10.) -/
def Obligations.DrillReads : Prop :=
  ∀ (s : State) (tag n : Nat), s.ready tag →
    (n ≤ 3 → exec (.programRead tag n) s =
      .next (s.replied tag 0x31 ⟨.ok, .program (Tab.get s.part.drill.programs n none)⟩)) ∧
    (3 < n → exec (.programRead tag n) s = .next (s.replied tag 0x31 ⟨.badValue, .none⟩)) ∧
    (n ≤ 3 → exec (.drillRecordsRead tag n) s =
      .next (s.replied tag 0x35 ⟨.ok, .drillRecord s.part.drill.records.length s.part.drill.records[n]?⟩)) ∧
    (3 < n → exec (.drillRecordsRead tag n) s = .next (s.replied tag 0x35 ⟨.badValue, .none⟩)) ∧
    exec (.scheduleRead tag) s = .next (s.replied tag 0x38 ⟨.ok, .schedule s.part.drill.schedule⟩) ∧
    (s.part.drill.run = none → exec (.drillRead tag) s =
      .next (s.replied tag 0x34 ⟨.ok, .drill none none none [] [] []⟩)) ∧
    (∀ r, s.part.drill.run = some r → exec (.drillRead tag) s = .next (s.replied tag 0x34 ⟨.ok, .drill (some r)
      (s.part.phaseLeft r) s.part.drillElapsed
      (r.timers.map fun t => if t.state.isRunning then { t with elapsed := s.part.drillTenths r } else t)
      (r.timers.map fun t => (t.building,
        ((zonesOf (s.part.building t.building).zones).filter fun z => (s.part.zone z).drill.isSome).length))
      (if r.phase == .checking then
        (s.part.positions.filter (s.part.inScope r.fields.scope)).map fun pos =>
          match r.probes.find? fun x => x.position == pos with
          | some x => (pos, some x.number, x.echoed)
          | none => (pos, none, false)
      else [])⟩))

/-- The reads of the clock driver, the line engine and the chain builder.
IDENTIFY gives the part code, the versions (their values and widths are the model's, log entry 7) and the capacities; STATUS
gives the state of the part and clears the dropped flag that it reports; NOTICE_ENABLE_READ gives the enables. -/
def Obligations.LineAndPortReads : Prop :=
  (∀ (s : State) (tag n : Nat) (r : Range), s.ready tag →
    exec (.displayRead tag) s = .next (s.replied tag 0x3B ⟨.ok,
      .displays (s.part.clk.displays.toList.map fun d => (d, d.mode))⟩) ∧
    (r.first ≤ r.last → r.last ≤ 31 → r.last ≤ r.first + 7 →
      exec (.circuitRead tag r) s = .next (s.replied tag 0x40 ⟨.ok,
        .circuits (r.toList.map fun c => (s.part.circuit c).map s.part.circuitReport)⟩)) ∧
    (r.last < r.first ∨ 31 < r.last ∨ r.first + 7 < r.last →
      exec (.circuitRead tag r) s = .next (s.replied tag 0x40 ⟨.badValue, .none⟩)) ∧
    (n ≤ 23 →
      let dirty := fun (u : Bool) => ((List.range 64).filter fun z => (s.part.zone z).dirty && s.part.urgent z == u).length
      exec (.nodeLinkRead tag n) s = .next (s.replied tag 0x46 ⟨.ok,
        .nodeLink (s.part.node n) (s.part.link n) s.part.chain.line
          (s.part.line.flight.map fun f => (f.seq, f.sends, f.waiting ++ f.confirmed))
          [(s.part.line.urgent.length + dirty true, 0), (s.part.line.output.length + dirty false, 0),
           (s.part.line.clock.length, s.part.line.passedClock), (s.part.line.service.length, s.part.line.passedService)]⟩)) ∧
    (n ≤ 23 → exec (.rosterRead tag n) s = .next (s.replied tag 0x4A ⟨.ok, .roster (s.part.rosterAt n) s.part.chain.length⟩)) ∧
    (n ≤ 23 → exec (.chainRead tag n) s = .next (s.replied tag 0x4D ⟨.ok, .chain s.part.chain.line s.part.chain.reach
      s.part.chain.stop s.part.chain.autoStart s.part.chain.autoSetup s.part.chain.interval s.part.chain.work
      ((s.part.chain.runtime.toList.drop n).take 8)⟩)) ∧
    (23 < n → exec (.nodeLinkRead tag n) s = .next (s.replied tag 0x46 ⟨.badValue, .none⟩) ∧
      exec (.rosterRead tag n) s = .next (s.replied tag 0x4A ⟨.badValue, .none⟩) ∧
      exec (.chainRead tag n) s = .next (s.replied tag 0x4D ⟨.badValue, .none⟩)) ∧
    exec (.lineSettingsRead tag) s = .next (s.replied tag 0x4C ⟨.ok,
      .lineSettings s.part.chain.autoStart s.part.chain.autoSetup s.part.chain.interval⟩)) ∧
  (∀ (s : State) (tag : Nat), s.ready tag →
    exec (.identify tag) s = .next (s.replied tag 0x01 ⟨.ok, .identify Config.partCode Config.partVersion
      Config.imageFormatVersion [64, 8, 24, 32, 16, 480, 48, 8, 8, 2, 4, 8, 4, 32, 32, 2, 4, 32]⟩) ∧
    exec (.status tag) s = .next (State.replied { s with port := { s.port with dropped := false } } tag 0x02 ⟨.ok,
      .status s.part.time.quality s.part.chain.line s.part.stateCounts (s.part.drill.run.map (·.phase))
        s.part.ann.records.length s.port.imageState s.port.badFrames s.port.overruns s.port.dropped
        (s.port.longOp.map fun l => (l.tag, l.kind, (s.part.now - l.accepted) / 5, l.ending.isSome)) s.port.lastLong⟩) ∧
    exec (.noticeEnableRead tag) s = .next (s.replied tag 0x59 ⟨.ok, .enables s.port.enables.toList⟩))

/-! ### Campus time and the calendar -/

/-- TIME_SET with a date that exists and a time of day sets campus time: the quality is SET, no trim remains, the flag of
the backup domain is set when the quality was UNSET, and the value is the request's. From UNSET every WAITING time-change
record and scheduled drill at or before the value is passed, and the timeline is built. From SET it is a jump, ahead of which the
entries at the old time, reached already, fire: the WAITING time-change records that it passes are DONE (one at the old time
itself among them, the model's choice, log entry 61), the scheduled drills that it passes MISSED; an entry of the timeline
that it passes fires late within the catch-up window and is MISSED beyond it, an entry at the new time fires, and a new date
takes its selection and its timeline; on the furthest date itself the entries in the fired record are FIRED or MISSED as that
has them, and the others go by the new time. Where no bell entry, scheduled drill or circuit is concerned, the notices are those of
the calendar alone: SET or JUMP, then DAY_PLAN with the selection of a date, then QUIET_BEGINS or QUIET_ENDS with a change of
the quiet state. A value equal to the present one cancels the trim and changes nothing else. Any other
operand is refused. -/
def Obligations.TimeSetSetsCampusTime : Prop :=
  ∀ (s : State) (tag tod : Nat) (date : CalDate), s.ready tag →
    let day := date.number
    let new := day * 864000 + tod
    let old := s.part.backup.day * 864000 + s.part.backup.tod
    let room := 0 < s.part.bell.grace ∧ s.part.bell.fired.length + s.part.bell.timeline.entries.length ≤ 480
    let quiet := fun (sel : DaySelection) => sel.quiet || inWindow s.part.cal.quietStart s.part.cal.quietEnd tod
    let timeEvent := fun (c : TimeCause) => Notice.timeEvent c ⟨day, tod⟩ .set
    let quietEvent := fun (sel : DaySelection) =>
      if quiet sel = s.part.cal.inside then [] else [timeEvent (if quiet sel = true
        then .quietBegins s.part.cal.quietStart s.part.cal.quietEnd
        else .quietEnds s.part.cal.quietStart s.part.cal.quietEnd)]
    let passes := fun (lo hi : Nat) => (s.part.cal.changes.filter fun c =>
      !c.done && decide (lo ≤ c.day * 864000 + c.minute * 600 ∧ c.day * 864000 + c.minute * 600 ≤ hi)).length
    let alone := s.part.settled ∧ (∀ c < 32, s.part.circuit c = none)
    let reports := State.reports s
    (date.valid = true → tod ≤ 863999 →
      ∃ t, exec (.timeSet tag date tod) s = .next t ∧ State.answers s t tag 0x03 ⟨.ok, .none⟩ ∧ State.sameOutside s t ∧
        t.part.campus = ⟨day, tod⟩ ∧ t.part.time.quality = .set ∧ t.part.time.trim = 0 ∧
        t.part.backup.valid = (s.part.backup.valid || s.part.time.quality == .unset) ∧ t.part.now = s.part.now ∧
        t.part.cal.week = s.part.cal.week ∧ t.part.cal.exceptions = s.part.cal.exceptions ∧
        t.part.cal.quietStart = s.part.cal.quietStart ∧ t.part.cal.quietEnd = s.part.cal.quietEnd ∧
        t.part.bell.groups = s.part.bell.groups ∧ t.part.bell.plans = s.part.bell.plans ∧
        t.part.bell.grace = s.part.bell.grace ∧ t.part.bell.catchUp = s.part.bell.catchUp ∧
        t.part.drill.programs = s.part.drill.programs ∧ t.part.arb.buildings = s.part.arb.buildings ∧
        t.part.chain.roster = s.part.chain.roster ∧ t.part.chain.line = s.part.chain.line ∧
        (s.part.time.quality = .unset →
          let sel := s.part.selectionFor day
          t.part.cal.selection = sel ∧ t.part.cal.inside = quiet sel ∧
          t.part.cal.changes = s.part.cal.changes.map (fun c =>
            { c with done := c.done || decide (c.day * 864000 + c.minute * 600 ≤ new) }) ∧
          t.part.drill.schedule = s.part.drill.schedule.map (fun e =>
            if e.state = .waiting ∧ e.day * 864000 + e.minute * 600 ≤ new then { e with state := .missed } else e) ∧
          Bells.builds { s.part.bell with furthest := s.part.bell.furthest.filter (· == day) } t.part.bell day tod sel.plan
            (sel.plan.elim [] s.part.plan) ∧
          (alone → (∀ e ∈ s.part.drill.schedule, e.state = .waiting → new < e.day * 864000 + e.minute * 600) →
            reports t [replyOf tag 0x03 ⟨.ok, .none⟩]
              ([timeEvent (.set (passes 0 new)), timeEvent (.dayPlan day sel 0)] ++ quietEvent sel))) ∧
        (s.part.time.quality = .set → old ≠ new →
          let sel := if s.part.backup.day = day then s.part.cal.selection else s.part.selectionFor day
          let passed := fun (m : Nat) => old < m ∧ m < new
          t.part.cal.selection = sel ∧ t.part.cal.inside = quiet sel ∧
          t.part.cal.changes = s.part.cal.changes.map (fun c =>
            { c with done := c.done ||
                decide (old ≤ c.day * 864000 + c.minute * 600 ∧ c.day * 864000 + c.minute * 600 ≤ new) }) ∧
          ((∀ e ∈ s.part.drill.schedule, e.state = .waiting →
              e.day * 864000 + e.minute * 600 ≠ old ∧ e.day * 864000 + e.minute * 600 ≠ new) →
            t.part.drill.schedule = s.part.drill.schedule.map fun e =>
              if e.state = .waiting ∧ passed (e.day * 864000 + e.minute * 600) then { e with state := .missed } else e) ∧
          (s.part.backup.day = day → ∀ (i : Nat) (e : TimelineEntry), s.part.bell.timeline.entries[i]? = some e →
            let m := e.entry.time * 10
            ∃ e', t.part.bell.timeline.entries[i]? = some e' ∧ e'.entry = e.entry ∧
              (e.state ≠ .waiting ∨ (m ≠ s.part.backup.tod ∧ m ≠ tod ∧ (m < s.part.backup.tod ∨ tod < m)) → e' = e) ∧
              (e.state = .waiting → s.part.backup.tod < m → m < tod → s.part.bell.catchUp * 10 < tod - m →
                e' = { e with state := .missed, posted := none }) ∧
              (e.state = .waiting → s.part.backup.tod < m → m < tod → tod - m ≤ s.part.bell.catchUp * 10 → room →
                e'.state = .fired) ∧
              (e.state = .waiting → (m = s.part.backup.tod ∨ m = tod) → s.part.bell.timeline.date = some day → room → e'.state = .fired)) ∧
          (s.part.backup.day ≠ day →
            t.part.bell.timeline.date = some day ∧ t.part.bell.timeline.plan = sel.plan ∧
            t.part.bell.timeline.build = (s.part.bell.timeline.build + 1) % 256 ∧
            t.part.bell.timeline.entries.map (·.entry) = sel.plan.elim [] s.part.plan ∧
            (s.part.backup.day < day → s.part.bell.furthest.all (· < day) = true → t.part.bell.furthest = some day ∧
              ∀ x ∈ t.part.bell.timeline.entries,
                let m := x.entry.time * 10
                (tod < m → x.state = .waiting) ∧
                (m < tod → s.part.bell.catchUp * 10 < tod - m → x.state = .missed) ∧
                (m ≤ tod → tod - m ≤ s.part.bell.catchUp * 10 → 0 < s.part.bell.grace →
                  t.part.bell.timeline.entries.length ≤ 480 → x.state = .fired)) ∧
            (∀ f, s.part.bell.furthest = some f → day < f → t.part.bell.furthest = some f ∧
              ((∀ e ∈ s.part.bell.timeline.entries, e.state = .waiting → e.entry.time * 10 ≠ s.part.backup.tod) →
                t.part.bell.fired = s.part.bell.fired) ∧ ∀ x ∈ t.part.bell.timeline.entries, x.state = .passed) ∧
            (s.part.bell.furthest = some day →
              (∀ e ∈ s.part.bell.timeline.entries, e.state = .waiting → e.entry.time * 10 ≠ s.part.backup.tod) →
              t.part.bell.furthest = some day ∧ ∀ x ∈ t.part.bell.timeline.entries,
                let m := x.entry.time * 10
                let key := s.part.bell.fired.find? fun k => k.time == x.entry.time && k.group == x.entry.group
                (∀ k, key = some k → x.state = if k.missed then .missed else .fired) ∧
                (key = none → m < tod → x.state = .passed) ∧ (key = none → tod < m → x.state = .waiting) ∧
                (key = none → m = tod → 0 < s.part.bell.grace →
                  s.part.bell.fired.length + t.part.bell.timeline.entries.length ≤ 480 → x.state = .fired))) ∧
          (alone → (∀ e ∈ s.part.bell.timeline.entries, e.state ≠ .waiting) →
            (s.part.backup.day ≠ day → sel.plan.elim [] s.part.plan = []) →
            (∀ e ∈ s.part.drill.schedule, e.state = .waiting →
              let m := e.day * 864000 + e.minute * 600
              m ≠ old ∧ m ≠ new ∧ ¬ passed m) →
            reports t [replyOf tag 0x03 ⟨.ok, .none⟩]
              (timeEvent (.jump s.part.campus ((new : Int) - old) (passes old new)) ::
                (if s.part.backup.day = day then [] else [timeEvent (.dayPlan day sel 0)]) ++ quietEvent sel)))) ∧
    (s.part.settled → s.part.time.quality = .set → s.part.campus = ⟨date.number, tod⟩ → date.valid = true → tod ≤ 863999 →
      exec (.timeSet tag date tod) s =
        .next (State.replied { s with part := { s.part with time := ⟨.set, 0, false⟩ } } tag 0x03 ⟨.ok, .none⟩)) ∧
    (date.valid = false ∨ 863999 < tod →
      exec (.timeSet tag date tod) s = .next (s.replied tag 0x03 ⟨.badValue, .none⟩))

/-- The requests that edit the calendar's day tables: WEEK_WRITE replaces the seven entries, EXCEPTION_ADD puts a record
into its place by first date, EXCEPTION_REMOVE takes out the one with a first date, QUIET_SET replaces the window. While
campus time is SET today's selection is what the tables then give: one that differs builds the timeline by the build rule
and is reported, with the quiet state when its quiet-all-day flag differs, and one that is equal leaves the bells and reports
nothing. After QUIET_SET the quiet state is what the window gives, and a change of it is reported with the new window. While
campus time is UNSET the selection and the timeline stay. -/
def Obligations.CalendarEdits : Prop :=
  ∀ (s : State) (tag : Nat), s.ready tag → s.port.saving = none →
    let quietState := fun (quiet : Bool) =>
      quiet || inWindow s.part.cal.quietStart s.part.cal.quietEnd s.part.backup.tod
    let timeEvent := fun (c : TimeCause) => Notice.timeEvent c s.part.campus s.part.time.quality
    let follows := fun (kind : Nat) (t : State) =>
      let reports := State.reports s t [replyOf tag kind ⟨.ok, .none⟩]
      State.sameOutside s t ∧ t.part.core = { s.part with cal := t.part.cal, bell := t.part.bell }.core ∧
      t.part.bell = { s.part.bell with timeline := t.part.bell.timeline, furthest := t.part.bell.furthest,
                                       fired := t.part.bell.fired } ∧
      (s.part.time.quality = .set →
        let old := s.part.cal.selection
        let sel := t.part.selectionFor s.part.backup.day
        t.part.cal.selection = sel ∧
        (sel ≠ old → Bells.builds s.part.bell t.part.bell s.part.backup.day s.part.backup.tod sel.plan
          (sel.plan.elim [] s.part.plan)) ∧
        (sel = old → t.part.bell = s.part.bell ∧ t.part.cal.inside = s.part.cal.inside ∧ (s.part.settled → reports [])) ∧
        (sel ≠ old → sel.quiet = old.quiet → t.part.cal.inside = s.part.cal.inside ∧
          (s.part.settled → reports [timeEvent (.dayPlan s.part.backup.day sel 0)])) ∧
        (sel ≠ old → sel.quiet ≠ old.quiet → t.part.cal.inside = quietState sel.quiet ∧
          (s.part.settled → reports (timeEvent (.dayPlan s.part.backup.day sel 0) ::
            (if quietState sel.quiet = s.part.cal.inside then [] else [timeEvent (if quietState sel.quiet = true
              then .quietBegins s.part.cal.quietStart s.part.cal.quietEnd
              else .quietEnds s.part.cal.quietStart s.part.cal.quietEnd)]))))) ∧
      (s.part.time.quality = .unset → t.part.cal.selection = s.part.cal.selection ∧ t.part.bell = s.part.bell ∧
        t.part.cal.inside = s.part.cal.inside ∧ (s.part.settled → reports []))
    (∀ entries : List (Option Nat), entries.length = 7 → (∀ e ∈ entries, ∀ n, e = some n → n ≤ 15) →
      ∃ t, exec (.weekWrite tag entries) s = .next t ∧ State.answers s t tag 0x06 ⟨.ok, .none⟩ ∧ follows 0x06 t ∧
        t.part.cal.week.toList = entries ∧ t.part.cal.exceptions = s.part.cal.exceptions ∧
        t.part.cal.changes = s.part.cal.changes ∧ t.part.cal.quietStart = s.part.cal.quietStart ∧
        t.part.cal.quietEnd = s.part.cal.quietEnd) ∧
    (∀ (first last : CalDate) (plan : Option Nat) (quiet : Bool), first.valid = true → last.valid = true →
      first.number ≤ last.number → (∀ n, plan = some n → n ≤ 15) →
      (∀ e ∈ s.part.cal.exceptions, last.number < e.first ∨ e.last < first.number) → s.part.cal.exceptions.length < 48 →
      ∃ t before after, exec (.exceptionAdd tag first last plan (some quiet)) s = .next t ∧
        State.answers s t tag 0x08 ⟨.ok, .none⟩ ∧ follows 0x08 t ∧ s.part.cal.exceptions = before ++ after ∧
        t.part.cal.exceptions = before ++ ⟨first.number, last.number, plan, quiet⟩ :: after ∧
        (∀ e ∈ before, e.first ≤ first.number) ∧ (∀ e ∈ after.head?, first.number < e.first) ∧
        t.part.cal.week = s.part.cal.week ∧ t.part.cal.changes = s.part.cal.changes) ∧
    (∀ first : CalDate, first.valid = true → (∃ e ∈ s.part.cal.exceptions, e.first = first.number) →
      ∃ t, exec (.exceptionRemove tag first) s = .next t ∧ State.answers s t tag 0x09 ⟨.ok, .none⟩ ∧ follows 0x09 t ∧
        t.part.cal.exceptions = s.part.cal.exceptions.filter (fun e => e.first != first.number) ∧
        t.part.cal.week = s.part.cal.week ∧ t.part.cal.changes = s.part.cal.changes) ∧
    (∀ start stop : Nat, start ≤ 1439 → stop ≤ 1439 →
      let now := s.part.isSet && (s.part.cal.selection.quiet || inWindow start stop s.part.backup.tod)
      ∃ t, exec (.quietSet tag start stop) s = .next t ∧ State.answers s t tag 0x0E ⟨.ok, .none⟩ ∧ State.sameOutside s t ∧
        t.part.core =
          { s.part with cal := { s.part.cal with quietStart := start, quietEnd := stop, inside := now } }.core ∧
        (s.part.settled → State.reports s t [replyOf tag 0x0E ⟨.ok, .none⟩]
          (if now = s.part.cal.inside then [] else [timeEvent (if now = true then .quietBegins start stop else .quietEnds start stop)])))

/-- TIME_TRIM, TIME_CHANGE_ADD, TIME_CHANGE_REMOVE, GROUP_WRITE and BELL_SETTINGS replace what they name and nothing else.
A time-change record goes into its place by moment and is DONE at once when its moment is not later than campus time.
(That TIME_TRIM with 0 queues no TRIM_DONE is deduced, log entry 64, and what it does to a lengthened second in progress
is the model's choice, log entry 6.) -/
def Obligations.TimeAndBellTables : Prop :=
  ∀ (s : State) (tag : Nat), s.ready tag → s.part.settled → s.port.saving = none →
    (∀ amount : Int, s.part.time.quality = .set → -600 ≤ amount → amount ≤ 600 →
      exec (.timeTrim tag amount) s = .next (State.replied { s with part := { s.part with
        time := { s.part.time with trim := amount, held := s.part.time.held && decide (amount < 0) } } } tag 0x04 ⟨.ok, .none⟩)) ∧
    (∀ (date : CalDate) (minute : Nat) (shift : Int), date.valid = true → minute ≤ 1439 → shift ≠ 0 → shift % 15 = 0 →
      -120 ≤ shift → shift ≤ 120 → 0 ≤ minute + shift → minute + shift ≤ 1439 →
      (∀ c ∈ s.part.cal.changes, ¬ (c.day = date.number ∧ c.minute = minute)) → s.part.cal.changes.length < 8 →
      ∃ before after, s.part.cal.changes = before ++ after ∧
        (∀ c ∈ before, c.day * 864000 + c.minute * 600 ≤ date.number * 864000 + minute * 600) ∧
        (∀ c ∈ after.head?, date.number * 864000 + minute * 600 < c.day * 864000 + c.minute * 600) ∧
        let done := s.part.isSet && decide (date.number * 864000 + minute * 600 ≤ s.part.backup.day * 864000 + s.part.backup.tod)
        exec (.timeChangeAdd tag date minute shift) s = .next (State.replied { s with part := { s.part with
          cal := { s.part.cal with changes := before ++ ⟨date.number, minute, shift, done⟩ :: after } } }
            tag 0x0B ⟨.ok, .changeState done⟩)) ∧
    (∀ (date : CalDate) (minute : Nat), date.valid = true →
      (∃ c ∈ s.part.cal.changes, c.day = date.number ∧ c.minute = minute) →
      exec (.timeChangeRemove tag date minute) s = .next (State.replied { s with part := { s.part with
        cal := { s.part.cal with changes :=
          s.part.cal.changes.filter fun c => !(c.day == date.number && c.minute == minute) } } } tag 0x0C ⟨.ok, .none⟩)) ∧
    (∀ (g : Nat) (rs : List Range), g ≤ 31 → 1 ≤ rs.length → rs.length ≤ 4 → (∀ r ∈ rs, r.first ≤ 63 ∧ r.last ≤ 63) →
      (∃ r ∈ rs, r.first ≤ r.last) →
      exec (.groupWrite tag g rs) s = .next (State.replied { s with part := { s.part with
        bell := { s.part.bell with groups := s.part.bell.groups.setIfInBounds g rs } } } tag 0x10 ⟨.ok, .none⟩)) ∧
    (∀ grace catchUp : Nat, grace ≤ 120 → catchUp ≤ 300 →
      exec (.bellSettings tag grace catchUp) s = .next (State.replied { s with part := { s.part with
        bell := { s.part.bell with grace := grace, catchUp := catchUp } } } tag 0x19 ⟨.ok, .none⟩))

/-! ### Bells -/

/-- PLAN_WRITE, PLAN_APPEND and PLAN_CLEAR leave a plan with the entries they say, in order of time and group, and every
other plan, group and setting as it was. The timeline is built anew from the plan, by the build rule, when it is today's
and campus time is SET, and is left otherwise. -/
def Obligations.PlanEdits : Prop :=
  ∀ (s : State) (tag n : Nat) (es : List BellEntry), s.ready tag → s.port.saving = none → n ≤ 15 →
    let ordered := fun (l : List BellEntry) => l.Pairwise fun a b => a.time < b.time ∨ (a.time = b.time ∧ a.group < b.group)
    let total := fun (p : Part) => (p.bell.plans.toList.map List.length).sum
    let follows := fun (t : State) =>
      State.sameOutside s t ∧ t.part.core = { s.part with bell := t.part.bell }.core ∧
      t.part.bell = { s.part.bell with plans := t.part.bell.plans, timeline := t.part.bell.timeline,
                                       furthest := t.part.bell.furthest, fired := t.part.bell.fired } ∧
      (∀ m, m ≠ n → t.part.plan m = s.part.plan m) ∧
      (s.part.time.quality = .set → s.part.cal.selection.plan = some n →
        Bells.builds s.part.bell t.part.bell s.part.backup.day s.part.backup.tod (some n) (t.part.plan n)) ∧
      (s.part.time.quality = .unset ∨ s.part.cal.selection.plan ≠ some n →
        t.part.bell = { s.part.bell with plans := t.part.bell.plans })
    (es.length ≤ 32 → (∀ e ∈ es, e.allowed = true) → (es.map fun e => (e.time, e.group)).Nodup →
      total s.part - (s.part.plan n).length + es.length ≤ 480 → total s.part ≤ 480 →
      ∃ t, exec (.planWrite tag n es) s = .next t ∧
        State.answers s t tag 0x12 ⟨.ok, .planCounts es.length (480 - total t.part)⟩ ∧ follows t ∧
        (t.part.plan n).Perm es ∧ ordered (t.part.plan n)) ∧
    (1 ≤ es.length → es.length ≤ 32 → (∀ e ∈ es, e.allowed = true) →
      ((s.part.plan n ++ es).map fun e => (e.time, e.group)).Nodup → total s.part + es.length ≤ 480 →
      ∃ t, exec (.planAppend tag n es) s = .next t ∧
        State.answers s t tag 0x13 ⟨.ok, .planCounts ((s.part.plan n).length + es.length) (480 - total t.part)⟩ ∧ follows t ∧
        (t.part.plan n).Perm (s.part.plan n ++ es) ∧ (ordered (s.part.plan n) → ordered (t.part.plan n))) ∧
    (∃ t, exec (.planClear tag n) s = .next t ∧ State.answers s t tag 0x14 ⟨.ok, .planFree (480 - total t.part)⟩ ∧
      follows t ∧ t.part.plan n = [])

/-- BELL_RING posts a claim into every zone of its selector, and no other zone changes. A zone that refuses stays as it
was; an enabled, unmasked zone that is able to sound and holds neither an ANNOUNCE nor a DRILL claim sounds the pattern;
with a bell grace above 0, a zone that holds a DRILL claim or is not able to sound holds the claim PENDING up to its latest
start. The reply counts every zone once. (`unmixed`: with a grace of 0, the zone's claim does not carry the number of the
new posting, which the model gives, log entry 12.) -/
def Obligations.BellRingPostsClaims : Prop :=
  ∀ (s : State) (tag pattern duration : Nat) (sel : Selector), s.ready tag → s.part.settled → pattern ≤ 15 →
    pattern ≠ 6 → pattern ≠ 7 → pattern ≠ 8 → duration ≤ 600 →
    let zs := match sel with
      | .group g => if g ≤ 31 then s.part.groupZones g else []
      | .zones r => if r.first ≤ 63 ∧ r.last ≤ 63 then r.toList else []
    zs ≠ [] →
    ∃ t sounding pending refused, exec (.bellRing tag sel pattern duration) s = .next t ∧
      State.answers s t tag 0x17 ⟨.ok, .rung sounding pending refused⟩ ∧ sounding + pending + refused = zs.length ∧
      State.sameOutside s t ∧
      t.part.core = { s.part with bell := { s.part.bell with postings := s.part.bell.postings + 1 } }.core ∧
      let unmixed := fun (z : Nat) => 0 < s.part.bell.grace ∨ ∀ b, (s.part.zone z).bell = some b → b.posting ≠ s.part.bell.postings
      (∀ z < 64, z ∉ zs → unmixed z → t.part.zone z = s.part.zone z) ∧
      ∀ z ∈ zs, z < 64 ∧
        let old := s.part.zone z
        let new := t.part.zone z
        let refuses := !old.bellOn || (s.part.owner z).isNone || !s.part.buildingClear z
        (refuses = true → unmixed z → new = old) ∧
        (refuses = false → s.part.able z = true → old.drill = none → old.ann = none → old.bellMask = false →
          new.commanded = .pattern pattern ∧ ∃ b, new.bell = some b ∧ b.state = .sounding ∧ b.pattern = pattern ∧
            b.origin = .manual ∧ b.duration = duration ∧ b.latest = s.part.now + s.part.bell.grace * 50 ∧
            b.endTime = if duration = 0 then none else some (s.part.now + duration * 5)) ∧
        (refuses = false → 0 < s.part.bell.grace → (s.part.able z = false ∨ old.drill.isSome = true) →
          ∃ b, new.bell = some b ∧ b.state = .pending ∧ b.pattern = pattern ∧ b.duration = duration ∧
            b.latest = s.part.now + s.part.bell.grace * 50 ∧ b.endTime = none)

/-- BELL_SILENCE ends every BELL claim in its range, answers with their number, and leaves every other zone; a range that
is empty or passes zone 63 is refused. -/
def Obligations.BellSilenceEndsClaims : Prop :=
  ∀ (s : State) (tag : Nat) (r : Range), s.ready tag →
    (s.part.settled → r.first ≤ r.last → r.last ≤ 63 →
      ∃ t, exec (.bellSilence tag r) s = .next t ∧
        State.answers s t tag 0x18 ⟨.ok, .count (r.toList.filter fun z => (s.part.zone z).bell.isSome).length⟩ ∧
        State.sameOutside s t ∧ t.part.core = s.part.core ∧
        ∀ z < 64, (r.has z = true → (t.part.zone z).bell = none) ∧
          (r.has z = false ∨ (s.part.zone z).bell = none → t.part.zone z = s.part.zone z)) ∧
    (r.last < r.first ∨ 63 < r.last → exec (.bellSilence tag r) s = .next (s.replied tag 0x18 ⟨.badValue, .none⟩))

/-! ### Zones and buildings -/

/-- BUILDING_WRITE replaces one building's range and ZONE_DEFINE one zone's kind, and nothing else.
PROGRAM_WRITE, SCHEDULE_ADD and SCHEDULE_REMOVE change their own table and nothing else; a scheduled drill goes into
its place by moment, and is MISSED at once when its moment is not later than campus time. -/
def Obligations.BuildingZoneAndDrillTables : Prop :=
  (∀ (s : State) (tag : Nat), s.ready tag → s.part.settled → s.port.saving = none →
    (∀ (b : Nat) (r : Range), b ≤ 7 → r.first ≤ 63 → r.last ≤ 63 → (s.part.building b).yield = .clear →
      s.part.drill.run = none →
      (∀ c ≤ 7, c ≠ b → ∀ z ≤ 63, ¬ ((s.part.building c).zones.has z = true ∧ r.has z = true)) →
      exec (.buildingWrite tag b r) s = .next (State.replied { s with part := { s.part with
        arb := { s.part.arb with buildings :=
          s.part.arb.buildings.setIfInBounds b { s.part.building b with zones := r } } } } tag 0x20 ⟨.ok, .none⟩)) ∧
    (∀ (z : Nat) (k : ZoneKind), z ≤ 63 → (s.part.zone z).hasClaim = false → (s.part.zone z).offers = [] →
      exec (.zoneDefine tag z (some k)) s = .next (State.replied { s with part := { s.part with
        arb := { s.part.arb with zones := s.part.arb.zones.setIfInBounds z { s.part.zone z with kind := k } } } }
          tag 0x22 ⟨.ok, .none⟩))) ∧
  (∀ (s : State) (tag : Nat), s.ready tag → s.part.settled → s.port.saving = none →
    (∀ (n : Nat) (f : Program), n ≤ 3 → programAllowed f = true → (∀ r, s.part.drill.run = some r → r.program ≠ n) →
      exec (.programWrite tag n f) s = .next (State.replied { s with part := { s.part with
        drill := { s.part.drill with programs := s.part.drill.programs.setIfInBounds n (some f) } } } tag 0x30 ⟨.ok, .none⟩)) ∧
    (∀ (date : CalDate) (minute n : Nat), date.valid = true → minute ≤ 1439 → n ≤ 3 →
      (∀ e ∈ s.part.drill.schedule, ¬ (e.day = date.number ∧ e.minute = minute)) → s.part.drill.schedule.length < 8 →
      ∃ before after, s.part.drill.schedule = before ++ after ∧
        (∀ e ∈ before, e.day * 864000 + e.minute * 600 ≤ date.number * 864000 + minute * 600) ∧
        (∀ e ∈ after.head?, date.number * 864000 + minute * 600 < e.day * 864000 + e.minute * 600) ∧
        let st := if s.part.isSet = true ∧ date.number * 864000 + minute * 600 ≤ s.part.backup.day * 864000 + s.part.backup.tod
          then ScheduleState.missed else .waiting
        exec (.scheduleAdd tag date minute n) s = .next (State.replied { s with part := { s.part with
          drill := { s.part.drill with schedule := before ++ ⟨date.number, minute, n, st⟩ :: after } } }
            tag 0x36 ⟨.ok, .scheduleState st⟩)) ∧
    (∀ (date : CalDate) (minute : Nat), date.valid = true →
      (∃ e ∈ s.part.drill.schedule, e.day = date.number ∧ e.minute = minute) →
      exec (.scheduleRemove tag date minute) s = .next (State.replied { s with part := { s.part with
        drill := { s.part.drill with schedule :=
          s.part.drill.schedule.filter fun e => !(e.day == date.number && e.minute == minute) } } } tag 0x37 ⟨.ok, .none⟩)))

/-- ZONE_ENABLE and ZONE_MASK set the enable or the mask of a source in every zone of a range and answer with the number of
zones that it changed in; every other flag of every zone stays. BELL turned off leaves no PENDING bell claim in the range;
ANNOUNCE turned off leaves no PENDING announcement claim and no offer in it, and no announcement waits for a zone of it.
Where no higher claim stands in the way, a mask that is set returns a SOUNDING claim of its source to PENDING, or ends it
DISABLED when its enable is off, and a mask that is cleared lets the PENDING claim of its source sound. -/
def Obligations.ZoneSwitches : Prop :=
  ∀ (s : State) (tag : Nat) (r : Range) (on : Bool), s.ready tag → r.first ≤ r.last → r.last ≤ 63 →
    let count := fun (f : Zone → Bool) => (r.toList.filter fun z => f (s.part.zone z) != on).length
    let frame := fun (t : State) => State.sameOutside s t ∧ t.part.core = s.part.core
    (s.port.saving = none →
      (∃ t, exec (.zoneEnable tag r (some .bell) (some on)) s = .next t ∧
        State.answers s t tag 0x23 ⟨.ok, .count (count (·.bellOn))⟩ ∧ frame t ∧
        ∀ z < 64, (t.part.zone z).flags =
            { s.part.zone z with bellOn := if r.has z then on else (s.part.zone z).bellOn }.flags ∧
          (r.has z = true → on = false → ∀ b, (t.part.zone z).bell = some b → b.state = .sounding)) ∧
      (∃ t, exec (.zoneEnable tag r (some .announce) (some on)) s = .next t ∧
        State.answers s t tag 0x23 ⟨.ok, .count (count (·.annOn))⟩ ∧ frame t ∧
        ∀ z < 64, (t.part.zone z).flags =
            { s.part.zone z with annOn := if r.has z then on else (s.part.zone z).annOn }.flags ∧
          (r.has z = true → on = false →
            (t.part.zone z).offers = [] ∧ (∀ a, (t.part.zone z).ann = some a → a.state = .sounding) ∧
            ((∀ a ∈ s.part.ann.records, ∀ j ∈ a.joins, j.zone = z → j.state = .waiting →
                ∃ o ∈ (s.part.zone z).offers, o.id = a.id) →
              ∀ a ∈ t.part.ann.records, ∀ j ∈ a.joins, j.zone = z → j.state ≠ .waiting)))) ∧
    (∃ t, exec (.zoneMask tag r (some .bell) (some on)) s = .next t ∧
      State.answers s t tag 0x24 ⟨.ok, .count (count (·.bellMask))⟩ ∧ frame t ∧
      (∀ z < 64, (t.part.zone z).flags =
        { s.part.zone z with bellMask := if r.has z then on else (s.part.zone z).bellMask }.flags) ∧
      (s.part.settled → (∀ z < 64, r.has z = true → (s.part.zone z).ann = none) →
        ∀ z < 64, r.has z = true → (s.part.zone z).bellMask = !on → (s.part.zone z).drill = none →
          ∀ b, (s.part.zone z).bell = some b →
            (on = true → b.state = .sounding → (t.part.zone z).commanded = .silent ∧ (t.part.zone z).bell =
              if (s.part.zone z).bellOn then some { b with state := .pending, endTime := none } else none) ∧
            (on = false → b.state = .pending → s.part.now ≤ b.latest → s.part.able z = true →
              (t.part.zone z).commanded = .pattern b.pattern ∧ (t.part.zone z).bell = some { b with
                state := .sounding, sounded := true,
                endTime := if b.duration = 0 then none else some (s.part.now + b.duration * 5) }))) ∧
    (∃ t, exec (.zoneMask tag r (some .announce) (some on)) s = .next t ∧
      State.answers s t tag 0x24 ⟨.ok, .count (count (·.annMask))⟩ ∧ frame t ∧
      (∀ z < 64, (t.part.zone z).flags =
        { s.part.zone z with annMask := if r.has z then on else (s.part.zone z).annMask }.flags) ∧
      (s.part.settled →
        (∀ z < 64, r.has z = true → (s.part.zone z).annOn = true ∧ (s.part.zone z).drill = none) →
        t.part.ann = s.part.ann ∧
        ∀ z < 64, r.has z = true → (s.part.zone z).annMask = !on → ∀ a, (s.part.zone z).ann = some a →
          (on = true → (t.part.zone z).ann = some { a with state := .pending }) ∧
          (on = false → s.part.able z = true →
            (t.part.zone z).commanded = a.output ∧ (t.part.zone z).ann = some { a with state := .sounding })))

/-- A zone that is re-evaluated sounds nothing while it is not able to sound, and otherwise its DRILL claim, or else its
unmasked ANNOUNCE claim, or else its unmasked BELL claim that is not stale; it is commanded what it sounds. A claim that was
SOUNDING when a higher one is selected is cut and ends, and a PENDING one waits on. A claim that was SOUNDING and is not
selected, with no higher claim in its place, returns to PENDING, or ends with its enable off; a PENDING one is kept. The zone
becomes dirty exactly when its command changes while its owner is READY or SUSPECT. The announcement of a claim that ends so
records the zone LOST. (That each such act looks at the claims left on the owner's zones, `Part.claimsClear`, is deduced,
log entry 33.) -/
def Obligations.SoundingRule : Prop :=
  (∀ (able served : Bool) (now : Nat) (z : Zone), let z' := z.evaluate able served now
    let cutBell := z.bell.bind fun b => if b.state = .sounding then none else some b
    let cutAnn := z.ann.bind fun a => if a.state = .sounding then none else some a
    let keptBell := z.bell.bind fun b =>
      if b.state = .pending then some b
      else if z.bellOn = true then some { b with state := .pending, endTime := none } else none
    let keptAnn := z.ann.bind fun a =>
      if a.state = .pending ∨ z.annOn = true then some { a with state := .pending } else none
    (able = false → z'.commanded = .silent ∧ z'.bell = keptBell ∧ z'.ann = keptAnn ∧
      z'.drill = z.drill.map fun d => { d with state := .pending }) ∧
    (able = true → ∀ d, z.drill = some d →
      z'.commanded = .pattern d.pattern ∧ z'.drill = some { d with state := .sounding } ∧ z'.ann = cutAnn ∧
      z'.bell = cutBell) ∧
    (z.drill = none → z'.drill = none) ∧
    (able = true → z.drill = none → ∀ a, z.ann = some a → z.annMask = false →
      z'.commanded = a.output ∧ z'.ann = some { a with state := .sounding } ∧ z'.bell = cutBell) ∧
    (able = true → z.drill = none → (z.ann = none ∨ z.annMask = true) → ∀ b, z.bell = some b → z.bellMask = false →
      (b.state = .sounding ∨ now ≤ b.latest) →
      z'.commanded = .pattern b.pattern ∧ z'.ann = keptAnn ∧ z'.bell = some (if b.state = .sounding then b else
        { b with state := .sounding, sounded := true,
                 endTime := if b.duration = 0 then none else some (now + b.duration * 5) })) ∧
    (able = true → z.drill = none → (z.ann = none ∨ z.annMask = true) →
      (∀ b, z.bell = some b → z.bellMask = true ∨ (b.state = .pending ∧ b.latest < now)) →
      z'.commanded = .silent ∧ z'.ann = keptAnn ∧ z'.bell = keptBell) ∧
    z'.flags = z.flags ∧ z'.offers = z.offers ∧ z'.confirmed = z.confirmed ∧
    (served = true → z'.commanded ≠ z.commanded → z'.dirty = true) ∧
    (served = false ∨ z'.commanded = z.commanded → z'.dirty = z.dirty)) ∧
  (∀ (p : Part) (z : Nat) (f : Zone → Zone) (a : AnnounceClaim), (p.zone z).ann = some a →
    let q := p.changeZone z f
    ((q.zone z).ann = none → p.reviseZone z f = Part.claimsClear p (q.loseJoin a.id z .lost) z) ∧
    ((q.zone z).ann.isSome = true → p.reviseZone z f = Part.claimsClear p q z))

/-- YIELD_RELEASE makes a HELD building CLEAR, leaves every other building and is reported by YIELD_STATE; in any other yield
state it is refused WRONG_STATE, and above building 7 BAD_VALUE.
The yield rule: an edge of a YIELD input, and a level of one in the first record of its node in READY, make its building
YIELDED; a trigger ends every claim and empties every offer list of the building's zones, which are SILENT from then on, is
reported by YIELD_STATE with the position, the input and the numbers of claims ended, and changes nothing of a building that
is YIELDED already. A YIELDED building is HELD, with its YIELD_STATE, once no YIELD input of it that is counted reads its
active level, and stays as it is before that. -/
def Obligations.YieldRelease : Prop :=
  (∀ (s : State) (tag b : Nat), s.ready tag →
    (b ≤ 7 → (s.part.building b).yield = .held →
      ∃ t, exec (.yieldRelease tag b) s = .next t ∧ State.answers s t tag 0x26 ⟨.ok, .none⟩ ∧ State.sameOutside s t ∧
        t.part.core = (s.part.modBuilding b fun x => { x with yield := .clear }).core ∧
        (s.part.settled → (∀ z < 64, (s.part.building b).zones.has z = true → (s.part.zone z).ann = none) →
          State.reports s t [replyOf tag 0x26 ⟨.ok, .none⟩] [.yieldState b .held .clear .release])) ∧
    (b ≤ 7 → (s.part.building b).yield ≠ .held →
      exec (.yieldRelease tag b) s = .next (s.replied tag 0x26 ⟨.wrongState, .none⟩)) ∧
    (7 < b → exec (.yieldRelease tag b) s = .next (s.replied tag 0x26 ⟨.badValue, .none⟩))) ∧
  (∀ (p : Part) (b pos input : Nat), b ≤ 7 →
    ((p.building b).yield = .yielded → p.yieldTrigger b pos input = p) ∧
    ((p.building b).yield ≠ .yielded → p.lawful →
      let q := p.yieldTrigger b pos input
      let has := fun (z : Nat) => (p.building b).zones.has z
      let count := fun (f : Zone → Bool) => ((List.range 64).filter fun z => has z && f (p.zone z)).length
      let notice := Message.notice (.yieldState b (p.building b).yield .yielded
        (.trigger pos input (count (·.bell.isSome)) (count (·.ann.isSome)) (count (·.drill.isSome))))
      q.arb.buildings = p.arb.buildings.setIfInBounds b { p.building b with yield := .yielded, origin := some (pos, input) } ∧
      q.clock = p.clock ∧ q.layout = p.layout ∧
      (∀ z < 64, has z = true →
        (q.zone z).hasClaim = false ∧ (q.zone z).offers = [] ∧ (q.zone z).commanded = .silent) ∧
      notice ∈ q.outbox ∧
      (p.drill.run = none → (∀ z < 64, has z = true → (p.zone z).ann = none ∧ (p.zone z).offers = []) →
        q.outbox = p.outbox ++ [notice]))) ∧
  (∀ (p : Part) (pos b : Nat) (i : Fin 4), b ≤ 7 →
    let d := (p.rosterAt pos).inputs[i]
    d.function = .yield → d.building = some b →
    (∀ edges : List Nat, 0 < edges.getD i 0 → ((p.deliverEdges pos edges).building b).yield = .yielded) ∧
    (∀ (inputs : List (Nat × Bool)) (x : Nat × Bool), inputs[i.val]? = some x → x.2 = (d.edge == .rising) →
      ((p.yieldLevels pos inputs).building b).yield = .yielded)) ∧
  (∀ (p : Part) (b : Nat), b ≤ 7 → (p.building b).yield = .yielded →
    let inactive := ∀ pos < 24, (p.node pos).isServed = true → ∀ i : Fin 4,
      let d := (p.rosterAt pos).inputs[i]
      d.function = .yield → d.building = some b → ∀ r x, (p.link pos).latest = some r → r.inputs[i.val]? = some x →
        x.2 ≠ (d.edge == .rising)
    (inactive → p.testHeld b = { p with
      arb := { p.arb with buildings := p.arb.buildings.setIfInBounds b { p.building b with yield := .held } },
      outbox := p.outbox ++ [.notice (.yieldState b .yielded .held .inputsInactive)] }) ∧
    (¬ inactive → p.testHeld b = p))

/-! ### Announcements -/

/-- ANNOUNCE_START gives a record the next id after the last id, counting cyclically through 1 to 255, that no record holds.
With its input busy the record is QUEUED behind every
queued record of its input with the same or a higher rank, the reply gives its place, and nothing else changes. With its
input free it starts: it is not QUEUED, has started at the present moment, keeps what the request gave, has its chime end a pass
length of its chime later, and the reply gives the state that it is in. As the only announcement it is REFUSED by each zone of its specification that is a SOUNDER, has
ANNOUNCE off, no owner or a building that is not CLEAR, WAITS for each other zone whose owner's tap capacity is 0, and JOINS
the rest, which sound its chime or its lane where they can, and STARTED gives the counts of its join list; refused by all of
them it is removed at once, STARTED being followed by ENDING and REMOVED with cause DISPLACED. (The mark for a record that has
left the table is the model's, log entry 10.) -/
def Obligations.AnnounceStart : Prop :=
  ∀ (s : State) (tag rank limit : Nat) (input : PagingInput) (spec : List Range) (chime : Option Nat),
    s.ready tag → s.part.settled → rank ≤ 3 → 1 ≤ spec.length → spec.length ≤ 4 →
    (∀ r ∈ spec, r.first ≤ 63 ∧ r.last ≤ 63) → (∃ r ∈ spec, r.first ≤ r.last) →
    (∀ c, chime = some c → c ≤ 15 ∧ c ≠ 6 ∧ c ≠ 7 ∧ c ≠ 8) → (limit = 0 ∨ (5 ≤ limit ∧ limit ≤ 600)) →
    s.part.ann.records.length < 8 →
    let id := s.part.ann.nextId
    let seconds := if limit = 0 then 120 else limit
    let new : Announcement :=
      { id := id, input := input, rank := rank, spec := spec, chime := chime, limit := seconds, stage := .queued,
        arrival := s.part.ann.arrivals + 1, start := none, chimeEnd := none, limitTime := none, cause := none, joins := [] }
    let zones := (List.range 64).filter fun z => spec.any fun r => r.has z
    let refuses := fun (z : Nat) =>
      (s.part.zone z).kind == .sounder || !(s.part.zone z).annOn || (s.part.owner z).isNone || !s.part.buildingClear z
    let outcome := fun (z : Nat) =>
      if refuses z = true then JoinState.refused
      else if (s.part.owner z).elim 0 s.part.tapCapacity = 0 then .waiting else .joined
    let present : Output := match chime with
      | some c => .pattern c
      | none => .audio (if input = .p1 then 1 else 2)
    let passLengths := [10, 20, 20, 24, 10, 20, 30, 4, 40, 20, 30, 20, 25, 20, 20, 30]
    1 ≤ id ∧ id ≤ 255 ∧ (∀ a ∈ s.part.ann.records, a.id ≠ id) ∧
    (∃ k < 255, id = (s.part.ann.lastId + k) % 255 + 1 ∧
      ∀ m < k, ∃ a ∈ s.part.ann.records, a.id = (s.part.ann.lastId + m) % 255 + 1) ∧
    ((s.part.served? input).isSome = true → (∀ a ∈ s.part.ann.records, a.arrival ≤ s.part.ann.arrivals) →
      let ahead := s.part.ann.records.filter fun a => a.input == input && a.stage == .queued && decide (rank ≤ a.rank)
      exec (.announceStart tag (some input) rank spec chime limit) s = .next (State.replied { s with part :=
        { s.part with ann := ⟨s.part.ann.records ++ [new], id, s.part.ann.arrivals + 1⟩ } } tag 0x28
          ⟨.ok, .announceStarted id (some .queued) (ahead.length + 1)⟩)) ∧
    (s.part.served? input = none →
      ∃ t stage, exec (.announceStart tag (some input) rank spec chime limit) s = .next t ∧
        State.answers s t tag 0x28 ⟨.ok, .announceStarted id stage 0⟩ ∧ State.sameOutside s t ∧
        t.part.core = s.part.core ∧ t.part.ann.lastId = id ∧ t.part.ann.arrivals = s.part.ann.arrivals + 1 ∧
        stage ≠ some .queued ∧ stage = (t.part.announcement id).map (·.stage) ∧
        (∀ a ∈ t.part.ann.records, a.id = id →
          a.stage ≠ .queued ∧ a.start = some s.part.now ∧ a.input = input ∧ a.rank = rank ∧ a.spec = spec ∧
          a.chime = chime ∧ a.limit = seconds ∧ a.joins.map (·.zone) = zones ∧ (a.stage = .chiming → chime.isSome = true) ∧
          (a.stage = .live → chime = none) ∧
          (a.stage = .chiming → a.chimeEnd = chime.map fun c => s.part.now + passLengths.getD c 0 * 5) ∧
          ((a.stage = .chiming ∨ a.stage = .live) → a.limitTime = some (s.part.now + seconds * 50))) ∧
        (s.part.ann.records = [] → (∀ z < 64, (s.part.zone z).ann = none ∧ (s.part.zone z).offers = []) →
          let count := fun (st : JoinState) => (zones.filter fun z => outcome z == st).length
          let counts : JoinCounts :=
            ⟨zones.length, count .joined, count .joined, count .waiting, 0, count .refused, 0⟩
          let began := if chime.isSome = true then AnnounceStage.chiming else .live
          let event := fun (e : AnnounceEvent) (st : Option AnnounceStage) =>
            Notice.announceState id input rank e st counts
          let reports := State.reports s t [replyOf tag 0x28 ⟨.ok, .announceStarted id stage 0⟩]
          ((∃ z ∈ zones, refuses z = false) →
            stage = some began ∧ reports [event (.started s.part.now) (some began)] ∧
            (t.part.ann.records.map (·.joins)) =
              [zones.map fun z => ⟨z, outcome z, outcome z == .joined, false⟩] ∧
            ∀ z ∈ zones,
              (outcome z = .joined →
                (t.part.zone z).ann.map (fun a => (a.id, a.output)) = some (id, present) ∧
                (s.part.able z = true → (s.part.zone z).drill = none → (s.part.zone z).annMask = false →
                  (t.part.zone z).commanded = present)) ∧
              (outcome z = .waiting → (t.part.zone z).ann = none ∧
                (t.part.zone z).offers = [⟨id, rank, s.part.now⟩])) ∧
          ((∀ z ∈ zones, refuses z = true) → stage = none ∧ t.part.ann.records = [] ∧
            reports [event (.started s.part.now) (some began), event (.ending .displaced) (some .ending),
              event (.removed .displaced) none])))

/-- ANNOUNCE_END and ANNOUNCE_CANCEL take a QUEUED record out of the table and end one that is CHIMING or LIVE, which stays
in ENDING with cause ENDED or is gone. REMOVED, with the cause CANCELLED, is the notice of a record cancelled while QUEUED.
An unknown id is NOT_FOUND, a record that is ENDING already WRONG_STATE. (The fields
of the ANNOUNCE_CANCEL reply, and the mark for a record that has left the table, are the model's reading, log entries 44 and
10.) -/
def Obligations.AnnounceEndAndCancel : Prop :=
  ∀ (s : State) (tag id : Nat), s.ready tag →
    let frame := fun (t : State) => State.sameOutside s t ∧ t.part.core = s.part.core
    (∀ a, s.part.announcement id = some a → a.stage = .queued →
      let reports := fun (t : State) (kind : Nat) (b : ReplyBody) =>
        s.part.settled → (∀ b ∈ s.part.ann.records, b.id = id → b.stage = .queued) →
          State.reports s t [replyOf tag kind ⟨.ok, b⟩]
            [.announceState id a.input a.rank (.removed .cancelled) none a.counts]
      (∃ t, exec (.announceEnd tag id) s = .next t ∧ State.answers s t tag 0x29 ⟨.ok, .announceStage none⟩ ∧ frame t ∧
        reports t 0x29 (.announceStage none) ∧ ∀ b ∈ t.part.ann.records, b.id ≠ id) ∧
      (∃ t, exec (.announceCancel tag id) s = .next t ∧ State.answers s t tag 0x2A ⟨.ok, .none⟩ ∧ frame t ∧
        reports t 0x2A .none ∧ ∀ b ∈ t.part.ann.records, b.id ≠ id)) ∧
    (∀ a, s.part.announcement id = some a → (a.stage = .chiming ∨ a.stage = .live) →
      (∃ t stage, exec (.announceEnd tag id) s = .next t ∧ State.answers s t tag 0x29 ⟨.ok, .announceStage stage⟩ ∧
        frame t ∧ (stage = none ∨ stage = some .ending) ∧
        ∀ b ∈ t.part.ann.records, b.id = id → b.stage = .ending ∧ b.cause = some .ended) ∧
      (∃ t stage, exec (.announceCancel tag id) s = .next t ∧ State.answers s t tag 0x2A ⟨.ok, .announceStage stage⟩ ∧
        frame t ∧ (stage = none ∨ stage = some .ending) ∧
        ∀ b ∈ t.part.ann.records, b.id = id → b.stage = .ending ∧ b.cause = some .ended)) ∧
    (s.part.announcement id = none →
      exec (.announceEnd tag id) s = .next (s.replied tag 0x29 ⟨.notFound, .none⟩) ∧
      exec (.announceCancel tag id) s = .next (s.replied tag 0x2A ⟨.notFound, .none⟩)) ∧
    (∀ a, s.part.announcement id = some a → a.stage = .ending →
      exec (.announceEnd tag id) s = .next (s.replied tag 0x29 ⟨.wrongState, .none⟩) ∧
      exec (.announceCancel tag id) s = .next (s.replied tag 0x2A ⟨.wrongState, .none⟩))

/-! ### Drills -/

/-- DRILL_START of a defined program in IDLE is accepted with the next run number. A run that is still on has that number,
the program and its force flag. CHECKING gives the number of the nodes woken. While a scope node had to be woken and not every
building has yielded, the run waits in CHECKING for the longest warm-up of the woken nodes and one second. With none to wake the
READY and ACTIVE nodes of the buildings that have not yielded are probed at once, each with its own number, and with none of these
either a run that is not forced, over a building with a node, is NOT_READY at once and leaves no record. With every building
yielded the run closes at once, with cause YIELDED. (That a node already WAKING is counted as woken in that number is deduced,
log entry 57, and the phase that READY and NOT_READY give for a run that ends, log entry 49.) -/
def Obligations.DrillStart : Prop :=
  ∀ (s : State) (tag n : Nat) (f : Program) (force : Bool), s.ready tag → n ≤ 3 → Tab.get s.part.drill.programs n none = some f →
    s.part.drill.run = none →
    let number := s.part.drill.runCounter % 65535 + 1
    ∃ t, exec (.drillStart tag n (some force)) s = .next t ∧ State.answers s t tag 0x32 ⟨.accepted, .runNumber number⟩ ∧
      State.sameOutside s t ∧ t.part.core = { s.part with drill := t.part.drill }.core ∧ t.part.drill.runCounter = number ∧
      t.part.drill.programs = s.part.drill.programs ∧ t.part.drill.schedule = s.part.drill.schedule ∧
      (∀ r, t.part.drill.run = some r → r.number = number ∧ r.program = n ∧ r.fields = f ∧ r.forced = force ∧
        r.origin = .request ∧ r.accepted = s.part.now ∧ r.startTime = if s.part.isSet then some s.part.campus else none) ∧
      let mine := fun (pos : Nat) => (s.part.rosterAt pos).building.any fun b =>
        f.scope.contains b && (s.part.building b).yield == .clear
      let woken := s.part.positions.filter fun pos => mine pos && (s.part.node pos).isReady && !(s.part.node pos).isActive
      let head : DrillHead := ⟨number, n, .request, force⟩
      let reports := fun (l : List Notice) => s.part.settled →
        State.reports s t [replyOf tag 0x32 ⟨.accepted, .runNumber number⟩]
          (.drillPhase head (.checking woken.length) (some .checking) :: l)
      let probed := s.part.positions.filter fun pos => (s.part.node pos).isActive && (s.part.rosterAt pos).building.any fun b =>
        decide (b < 8) && f.scope.contains b && (s.part.building b).yield == .clear
      ((∃ b ∈ f.scope, b < 8 ∧ (s.part.building b).yield = .clear) →
        (woken ≠ [] →
          ∃ r, t.part.drill.run = some r ∧ r.phase = .checking ∧ r.probing = false ∧ r.woken = woken ∧
            r.wakeEnd = s.part.now + (((woken.map fun pos =>
              ((s.part.runtime pos).identity.map (·.warmUp)).getD 0).foldl max 0) + 1) * 50 ∧ reports []) ∧
        (woken = [] → probed ≠ [] →
          ∃ r, t.part.drill.run = some r ∧ r.phase = .checking ∧ r.woken = [] ∧ r.probing = true ∧
            r.probes = probed.mapIdx (fun k pos => ⟨pos, (s.part.drill.probeCounter + k) % 255 + 1, none, false, true⟩) ∧
            reports []) ∧
        (woken = [] → probed = [] → force = false →
          (∃ pos ∈ s.part.positions, ∃ b ∈ f.scope, b < 8 ∧ (s.part.building b).yield = .clear ∧
            (s.part.rosterAt pos).building = some b) →
          t.part.drill.run = none ∧ t.part.drill.records = s.part.drill.records ∧
            ∃ x, x.notReady ≠ [] ∧ reports [.drillPhase head (.notReady x) none])) ∧
      ((∀ b ∈ f.scope, b < 8 → (s.part.building b).yield ≠ .clear) → t.part.drill.run = none ∧
        ∃ last x, t.part.drill.records.getLast? = some last ∧ last.number = number ∧ last.cause = .yielded ∧
          x.yielded = (List.range 8).filter f.scope.contains ∧
          reports [.drillPhase head (.ready x) none, .drillResult last])

/-- DRILL_ABORT returns to IDLE: no zone holds a DRILL claim, no display shows the drill, and the last of at most four
records is the run's with cause ABORTED: a timer that was running is UNFINISHED with the drill elapsed of the moment as its
value, and every other timer is as it was. In IDLE it is refused WRONG_STATE. -/
def Obligations.DrillAbort : Prop :=
  ∀ (s : State) (tag : Nat), s.ready tag →
    (∀ r, s.part.drill.run = some r →
      ∃ t, exec (.drillAbort tag) s = .next t ∧ State.answers s t tag 0x33 ⟨.ok, .none⟩ ∧ State.sameOutside s t ∧
        t.part.core = { s.part with drill := t.part.drill }.core ∧ t.part.drill.run = none ∧
        t.part.drill.runCounter = s.part.drill.runCounter ∧ t.part.drill.programs = s.part.drill.programs ∧
        t.part.drill.schedule = s.part.drill.schedule ∧ (∀ z < 64, (t.part.zone z).drill = none) ∧
        (∀ pos < 24, (t.part.display pos).drill = false) ∧ t.part.drill.records.length ≤ 4 ∧
        ∃ last, t.part.drill.records.getLast? = some last ∧ last.cause = .aborted ∧ last.number = r.number ∧
          last.program = r.program ∧ (∀ x ∈ last.timers, x.state ≠ .running ∧ x.state ≠ .partialRun) ∧
          ((r.timers.map (·.building)).Nodup → last.timers = r.timers.map fun x =>
            if x.state = .running ∨ x.state = .partialRun then { x with
              state := .unfinished
              elapsed := min 36000 ((r.evacuation.map fun e => (s.part.now - e) / 5).getD 0) } else x)) ∧
    (s.part.drill.run = none → exec (.drillAbort tag) s = .next (s.replied tag 0x33 ⟨.wrongState, .none⟩))

/-! ### Displays and clock circuits -/

/-- DISPLAY_SET sets the blank flag of one entry and answers with the mode that follows; a change of mode makes the entry
dirty while its node is READY or SUSPECT. Every other entry stays. -/
def Obligations.DisplaySet : Prop :=
  ∀ (s : State) (tag pos : Nat) (blank : Bool), s.ready tag →
    (pos ≤ 23 →
      let mode : DisplayMode := if blank then .blank else if (s.part.display pos).drill then .drill else .time
      ∃ t, exec (.displaySet tag pos (some blank)) s = .next t ∧ State.answers s t tag 0x3A ⟨.ok, .displayMode mode⟩ ∧
        State.sameOutside s t ∧ t.part.core = s.part.core ∧
        t.part.display pos = { s.part.display pos with
          blank := blank,
          dirty := (s.part.display pos).dirty || (mode != (s.part.display pos).mode && (s.part.node pos).isServed) } ∧
        ∀ q, q ≠ pos → t.part.display q = s.part.display q) ∧
    (23 < pos → exec (.displaySet tag pos (some blank)) s = .next (s.replied tag 0x3A ⟨.badValue, .none⟩)) ∧
    exec (.displaySet tag pos none) s = .next (s.replied tag 0x3A ⟨.badValue, .none⟩)

/-- CIRCUIT_WRITE empties a circuit, defines it anew, or replaces the timings of its line with its dial and polarity kept; a
circuit emptied or defined anew has its dial UNKNOWN in the backup domain (POSITIVE and, when emptied, without
an owner there: the model's choice, as in log entry 3). New timings leave the mode and the course of a circuit that is STOPPED,
in WAIT or in FAULT, and have any other evaluated with them. CIRCUIT_SET_DIAL sets the dial and a given polarity, here and in the
backup domain, or with none given the polarity that the last record of the node reports for the line, or else the circuit's
own; it puts a circuit whose node is not READY into WAIT and any other into the mode that its evaluation gives. An evaluation
gives RUN and IN STEP at the target or one behind it, with an impulse for the one, HOLD within the hold limit ahead of it, and
ADVANCE with an impulse otherwise; while campus time is UNSET it gives RUN and no impulse. No other circuit changes. -/
def Obligations.CircuitWriteAndSetDial : Prop :=
  ∀ (s : State) (tag c : Nat), s.ready tag → s.part.settled → c ≤ 31 →
    let compared := fun (reading limit : Nat) =>
      let target := s.part.backup.tod / 600 % 720
      let behind := (target + 720 - reading) % 720
      let ahead := (reading + 720 - target) % 720
      if s.part.isSet = false then (CircuitMode.run, none, false)
      else if behind ≤ 1 then (.run, some Course.inStep, decide (behind = 1))
      else if ahead ≤ limit then (.hold, some .holding, false)
      else (.advance, some .advancing, true)
    let others := fun (t : State) => (∀ k, k ≠ c → t.part.circuit k = s.part.circuit k) ∧ State.sameOutside s t ∧
      t.part.clock = s.part.clock ∧ t.part.arb = s.part.arb ∧ t.part.ann = s.part.ann ∧ t.part.drill = s.part.drill ∧
      t.part.chain = s.part.chain ∧ t.part.clk.displays = s.part.clk.displays
    (s.port.saving = none → (∀ r, s.part.circuit c = some r → r.flight = none) →
      (∃ t, exec (.circuitWrite tag c none) s = .next t ∧ State.answers s t tag 0x3C ⟨.ok, .none⟩ ∧ others t ∧
        t.part.circuit c = none ∧ t.part.backup.dials[c]? = some ⟨none, .positive, none⟩) ∧
      (∀ d : CircuitDef, circuitAllowed d = true →
        (∀ k ≤ 31, k ≠ c → ∀ r, s.part.circuit k = some r →
          ¬ (r.definition.position = d.position ∧ r.definition.line = d.line)) →
        ∃ t, exec (.circuitWrite tag c (some d)) s = .next t ∧ State.answers s t tag 0x3C ⟨.ok, .none⟩ ∧ others t ∧
          ((∀ r, s.part.circuit c = some r → ¬ (r.definition.position = d.position ∧ r.definition.line = d.line)) →
            t.part.circuit c = some
              { definition := d, dial := none, polarity := .positive, mode := .stopped, course := .none, flight := none,
                stopPending := false, lastSend := none } ∧
            t.part.backup.dials[c]? = some ⟨none, .positive, some (d.position, d.line)⟩) ∧
          (∀ r, s.part.circuit c = some r → r.definition.position = d.position → r.definition.line = d.line →
            (r.mode = .stopped ∨ r.mode = .wait ∨ r.mode = .fault) →
            t.part.circuit c = some { r with definition := d } ∧ t.part.backup = s.part.backup) ∧
          (∀ r reading, s.part.circuit c = some r → r.definition.position = d.position → r.definition.line = d.line →
            (r.mode = .run ∨ r.mode = .advance ∨ r.mode = .hold) → r.dial = some reading →
            let x := compared reading d.holdLimit
            t.part.backup = s.part.backup ∧ ∃ r', t.part.circuit c = some r' ∧
              r' = { r with definition := d, mode := x.1, course := x.2.1.getD r.course, flight := r'.flight } ∧
              (r'.flight.isSome = x.2.2) ∧
              ∀ i, r'.flight = some i → i.polarity = r.polarity.flip ∧ i.sends = 1 ∧ i.sentAt = none))) ∧
    (∀ (r : Circuit) (reading : Nat) (given : PolarityGiven), s.part.circuit c = some r → reading ≤ 719 → given ≠ .unknown →
      (r.flight = none ∨ r.mode = .wait) →
      let reported := (s.part.link r.definition.position).latest.bind fun l => l.lines[r.definition.line]?
      let g := match given with
        | .given g => g
        | _ => (reported.bind Prod.snd).getD r.polarity
      ∃ t mode course, exec (.circuitSetDial tag c reading given) s = .next t ∧
        State.answers s t tag 0x3D ⟨.ok, .circuitMode mode course⟩ ∧ others t ∧
        t.part.backup.dials[c]? = some ⟨some reading, g, some (r.definition.position, r.definition.line)⟩ ∧
        (∃ r', t.part.circuit c = some r' ∧ r'.definition = r.definition ∧ r'.dial = some reading ∧ r'.polarity = g ∧
          r'.mode = mode ∧ r'.course = course ∧ r'.stopPending = false ∧
          ((s.part.node r.definition.position).isReady = false →
            r' = { r with dial := some reading, polarity := g, mode := .wait, flight := none, stopPending := false }) ∧
          ((s.part.node r.definition.position).isReady = true →
            let x := compared reading r.definition.holdLimit
            mode = x.1 ∧ course = x.2.1.getD r.course ∧ r'.flight.isSome = x.2.2)))

/-- CIRCUIT_STOP stops a circuit: at once without an impulse in flight, after it with one; CIRCUIT_RUN withdraws a stop
that is pending, whatever the circuit's mode, and starts a stopped circuit, which waits while its node is not READY, and in
step runs IN STEP. -/
def Obligations.CircuitStopAndRun : Prop :=
  ∀ (s : State) (tag c : Nat) (r : Circuit), s.ready tag → s.part.settled → c ≤ 31 → s.part.circuit c = some r →
    let becomes := fun (r' : Circuit) => { s with part := s.part.setCircuit c (some r') }
    ((r.mode = .stopped ∨ r.mode = .fault) →
      exec (.circuitStop tag c) s = .next (s.replied tag 0x3E ⟨.ok, .circuitStop r.mode r.stopPending⟩)) ∧
    (r.mode ≠ .stopped → r.mode ≠ .fault → r.flight.isSome = true →
      exec (.circuitStop tag c) s = .next (State.replied (becomes { r with stopPending := true }) tag 0x3E
        ⟨.ok, .circuitStop r.mode true⟩)) ∧
    (r.mode = .wait → r.flight = none →
      exec (.circuitStop tag c) s = .next (State.replied (becomes { r with mode := .stopped }) tag 0x3E
        ⟨.ok, .circuitStop .stopped r.stopPending⟩)) ∧
    ((r.mode = .run ∨ r.mode = .advance ∨ r.mode = .hold) → r.flight = none →
      exec (.circuitStop tag c) s = .next (State.replied (becomes { r with mode := .stopped, course := .none }) tag 0x3E
        ⟨.ok, .circuitStop .stopped r.stopPending⟩)) ∧
    ((r.mode = .fault ∨ r.dial = none) →
      exec (.circuitRun tag c) s = .next (s.replied tag 0x3F ⟨.wrongState, .none⟩)) ∧
    (r.mode ≠ .fault → r.mode ≠ .stopped → r.dial.isSome = true →
      exec (.circuitRun tag c) s = .next (State.replied (becomes { r with stopPending := false }) tag 0x3F
        ⟨.ok, .circuitStop r.mode false⟩)) ∧
    (r.mode = .stopped → r.dial.isSome = true → (s.part.node r.definition.position).isReady = false →
      exec (.circuitRun tag c) s = .next (State.replied (becomes { r with mode := .wait, stopPending := false }) tag 0x3F
        ⟨.ok, .circuitStop .wait false⟩)) ∧
    (r.mode = .stopped → r.flight = none → r.course = .none → s.part.isSet = true →
      (s.part.node r.definition.position).isReady = true → r.dial = some (s.part.backup.tod / 600 % 720) →
      exec (.circuitRun tag c) s = .next (State.replied
        (becomes { r with mode := .run, course := .inStep, stopPending := false }) tag 0x3F ⟨.ok, .circuitStop .run false⟩))

/-! ### The line and the chain -/

/-- LINE_SETTINGS replaces the three settings. COUNTERS_READ gives every position's counts and, with the clear value, sets
them, the give-up count and the armed levels back; COUNTERS_FREEZE freezes counting or lets it go on. Nothing else
changes. -/
def Obligations.LineTables : Prop :=
  ∀ (s : State) (tag : Nat), s.ready tag → s.part.settled →
    (∀ (start setup : Bool) (interval : Nat), s.port.saving = none → 1 ≤ interval → interval ≤ 255 →
      exec (.lineSettings tag (some start) (some setup) interval) s = .next (State.replied { s with part := { s.part with
        chain := { s.part.chain with autoStart := start, autoSetup := setup, interval := interval } } }
          tag 0x4B ⟨.ok, .none⟩)) ∧
    (let counts := s.part.line.links.toList.map fun l => (l.missed, l.badcheck)
      let reply : Answer := ⟨.ok, .counters counts s.part.line.giveUps s.part.line.frozen⟩
      exec (.countersRead tag (some false)) s = .next (s.replied tag 0x44 reply) ∧
      ∃ t, exec (.countersRead tag (some true)) s = .next t ∧ State.answers s t tag 0x44 reply ∧ State.sameOutside s t ∧
        t.part = { s.part with line := { s.part.line with giveUps := 0, links := t.part.line.links } } ∧
        ∀ pos < 24, t.part.link pos =
          { s.part.link pos with missed := 0, badcheck := 0, levels := ⟨true, true, true, true⟩ }) ∧
    (∀ freeze : Bool, exec (.countersFreeze tag (some freeze)) s = .next (State.replied { s with part := { s.part with
      line := { s.part.line with frozen := freeze } } } tag 0x45 ⟨.ok, .frozen freeze⟩))

/-- ROSTER_WRITE and ROSTER_LENGTH, on a line that is DOWN, replace one record or the length, and no other table, neither
the clock nor the bells change. A zone that has lost its owner node by it holds no claim and is in no offer list. -/
def Obligations.RosterWrites : Prop :=
  ∀ (s : State) (tag : Nat), s.ready tag → s.port.saving = none → s.part.chain.line = .down →
    let follows := fun (t : State) =>
      State.sameOutside s t ∧ t.part.clock = s.part.clock ∧
      (t.part.cal.layout, t.part.bell.layout, t.part.arb.layout, t.part.drill.layout, t.part.clk.layout) =
        (s.part.cal.layout, s.part.bell.layout, s.part.arb.layout, s.part.drill.layout, s.part.clk.layout) ∧
      ∀ z < 64, (s.part.owner z).isSome = true → t.part.owner z = none →
        (t.part.zone z).hasClaim = false ∧ (t.part.zone z).offers = []
    (∀ (pos : Nat) (r : RosterOperand), pos ≤ 23 → rosterAllowed r = true →
      (∀ q < 24, q ≠ pos → ∀ z, ¬ ((s.part.rosterAt q).window.has z = true ∧ r.window.has z = true)) →
      ∃ t, exec (.rosterWrite tag pos r) s = .next t ∧ State.answers s t tag 0x48 ⟨.ok, .none⟩ ∧ follows t ∧
        t.part.chain.layout = { s.part.chain with roster := t.part.chain.roster }.layout ∧
        t.part.rosterAt pos = rosterOf r ∧ ∀ q, q ≠ pos → t.part.rosterAt q = s.part.rosterAt q) ∧
    (∀ n ≤ 24, ∃ t, exec (.rosterLength tag n) s = .next t ∧ State.answers s t tag 0x49 ⟨.ok, .none⟩ ∧ follows t ∧
        t.part.chain.layout = { s.part.chain with length := n }.layout)

/-- LINE_START on a line that is DOWN, with a roster, is accepted: the long-operation slot takes it, the line is BUILDING
from reach 0 and the head cuts its own port for one second. An occupied slot refuses it BUSY, any other line state or an
empty roster WRONG_STATE.
STORE_SAVE copies the tables as they stand and is accepted, the image becoming INVALID with the first byte written (in the
model as the request is accepted, log entry 12). STORE_LOAD is accepted on a line that is DOWN with the drill timer IDLE.
RESTART is answered OK and cancels a trim, and from then on no request is taken: the receiver is held off and its buffer
emptied as the request is taken (the model's reading, log entry 29). A save in progress is cut: the memory holds the
beginning of the image, head first and without the end of its check, and is marked so that a start-up finds it INVALID (how
much has been written is a free value, log entry 74). An occupied slot refuses the first two BUSY. -/
def Obligations.LongOperationsBegin : Prop :=
  (∀ (s : State) (tag : Nat), s.ready tag → s.part.settled →
    (s.port.longOp = none → s.part.chain.line = .down → 0 < s.part.chain.length →
      exec (.lineStart tag) s = .next (State.replied { s with
        part := { s.part with chain := { s.part.chain with
          line := .building, buildOp := true, reach := 0, headCut := some (s.part.now + 50) } },
        port := { s.port with longOp := some ⟨tag, 0x4E, s.part.now, none⟩ } } tag 0x4E ⟨.accepted, .none⟩)) ∧
    (s.port.longOp.isSome = true → exec (.lineStart tag) s = .next (s.replied tag 0x4E ⟨.busy, .none⟩)) ∧
    (s.port.longOp = none → (s.part.chain.line ≠ .down ∨ s.part.chain.length = 0) →
      exec (.lineStart tag) s = .next (s.replied tag 0x4E ⟨.wrongState, .none⟩))) ∧
  (∀ (s : State) (tag : Nat), s.ready tag →
    (s.port.longOp = none →
      exec (.storeSave tag) s = .next (State.replied { s with
        port := { s.port with saving := some (tablesOf s.part s.port.enables), imageState := .invalid,
                              longOp := some ⟨tag, 0x5A, s.part.now, none⟩ } } tag 0x5A ⟨.accepted, .none⟩)) ∧
    (s.port.longOp = none → s.part.chain.line = .down → s.part.drill.run = none →
      exec (.storeLoad tag) s = .next (State.replied { s with
        part := { s.part with drill := { s.part.drill with startedSince := false } },
        port := { s.port with loading := true, longOp := some ⟨tag, 0x5B, s.part.now, none⟩ } } tag 0x5B
          ⟨.accepted, .none⟩)) ∧
    (s.port.longOp = none → (s.part.chain.line ≠ .down ∨ s.part.drill.run.isSome = true) →
      exec (.storeLoad tag) s = .next (s.replied tag 0x5B ⟨.wrongState, .none⟩)) ∧
    (s.port.longOp.isSome = true → exec (.storeSave tag) s = .next (s.replied tag 0x5A ⟨.busy, .none⟩) ∧
      exec (.storeLoad tag) s = .next (s.replied tag 0x5B ⟨.busy, .none⟩)) ∧
    ∃ t memory draws, exec (.restart tag) s = .next t ∧ State.answers s t tag 0x5C ⟨.ok, .none⟩ ∧
      (s.port.saving = none → memory = s.memory ∧ draws = s.draws) ∧
      (∀ x, s.port.saving = some x → ∃ k, 1 ≤ k ∧ k < (imageOf x).length ∧
        memory = { s.memory.written ((imageOf x).take k) with torn := true }) ∧
      t = State.replied { s with
        part := { s.part with time := { s.part.time with trim := 0, held := false } },
        memory := memory, draws := draws,
        port := { s.port with
          rx := .heldOff, buffer := [], taking := false, restarting := true, longOp := none, saving := none,
          loading := false } } tag 0x5C ⟨.ok, .none⟩ ∧
      (∀ i kind, requestKind i = some kind → exec i t = .next t))

/-- LINE_STOP makes the line DOWN: every position is ABSENT, no command is handed or in flight, no task is left, the reach
is 0, and no stop reason or retry timer remains; the clock, the bells and every table stay. A build of LINE_START or
LINE_RESTART, a cut and a host access in progress end LINE_DOWN: the last result says so, and the slot is free or holds the
OP_DONE that waits for room. On a line that is DOWN it changes nothing. -/
def Obligations.LineStop : Prop :=
  ∀ (s : State) (tag : Nat), s.ready tag →
    (s.part.chain.line ≠ .down →
      ∃ t, exec (.lineStop tag) s = .next t ∧ State.answers s t tag 0x50 ⟨.ok, .none⟩ ∧ State.sameOutside s t ∧
        t.part.clock = s.part.clock ∧ t.part.layout = s.part.layout ∧ t.part.chain.line = .down ∧ t.part.chain.reach = 0 ∧
        t.part.chain.stop = none ∧ t.part.chain.retryAt = none ∧ t.part.chain.work = [] ∧ t.part.chain.step = none ∧
        t.part.chain.buildOp = false ∧ t.part.chain.headCut = none ∧ (∀ n < 24, t.part.node n = .absent) ∧
        t.part.line.urgent = [] ∧ t.part.line.output = [] ∧ t.part.line.clock = [] ∧ t.part.line.service = [] ∧
        t.part.line.flight = none ∧
        ((s.part.chain.buildOp = true ∨ (∃ a, .access a ∈ s.part.chain.work) ∨ (∃ q, .cut q ∈ s.part.chain.work)) →
          ∀ op, s.port.longOp = some op →
            t.port.lastLong = some ⟨op.tag, op.kind, .lineDown⟩ ∧
            (s.port.enabled .opDone = false → t.port.longOp = none) ∧
            (t.port.longOp = none ∨
              t.port.longOp = some { op with ending := some (.opDone op.tag op.kind .lineDown .none) }))) ∧
    (s.part.settled → s.part.chain.line = .down → exec (.lineStop tag) s = .next (s.replied tag 0x50 ⟨.ok, .none⟩))

/-- LINE_RESTART, NODE_READ and NODE_WRITE, accepted while the chain builder has no task, begin their first step: the cut
commanded at the position before, or made at the head's own port; a STORE_READ of up to 8 bytes; a SETUP_PUT of up to 6
bytes to the store. Behind a task at work, the new task waits at the end of the work list. -/
def Obligations.LineRestartAndHostAccess : Prop :=
  ∀ (s : State) (tag pos : Nat), s.ready tag → s.part.settled → s.port.longOp = none →
    let takes := fun (kind : Nat) (p : Part) => State.replied { s with
      part := p, port := { s.port with longOp := some ⟨tag, kind, s.part.now, none⟩ } } tag kind ⟨.accepted, .none⟩
    let begins := fun (t : Task) (st : Step) (c : LineCommand) (target : Nat) =>
      let handed : Handed := ⟨c, some target, s.part.now, .step (s.part.chain.stepNo + 1)⟩
      { s.part with
        chain := { s.part.chain with work := [t], step := some st, stepNo := s.part.chain.stepNo + 1 },
        line := { s.part.line with service := inOrder handed s.part.line.service } }
    let queued := fun (t : Task) => { s.part with chain := { s.part.chain with work := s.part.chain.work ++ [t] } }
    let idle := s.part.chain.work = [] ∧ s.part.chain.step = none
    let restartable := pos < s.part.chain.length ∧ (s.part.chain.line = .running ∨ s.part.chain.line = .partialLine) ∧
      (pos = 0 ∨ (s.part.node (pos - 1)).isServed = true)
    (restartable → idle → 0 < pos →
      exec (.lineRestart tag pos) s = .next (takes 0x4F (begins (.cut pos) (.cutOnward 0) .cutOnward (pos - 1)))) ∧
    (restartable → idle → pos = 0 →
      ∃ t, exec (.lineRestart tag pos) s = .next t ∧ State.answers s t tag 0x4F ⟨.accepted, .none⟩ ∧
        State.sameOutside s t ∧ t.port.longOp = some ⟨tag, 0x4F, s.part.now, none⟩ ∧ t.part.clock = s.part.clock ∧
        t.part.layout = s.part.layout ∧ t.part.chain.line = .building ∧ t.part.chain.reach = 0 ∧
        t.part.chain.work = [.cut 0] ∧ t.part.chain.step = some .portCut ∧
        t.part.chain.headCut = some (s.part.now + 50) ∧ (∀ n < 24, t.part.node n = .absent) ∧ t.part.line.flight = none) ∧
    (restartable → s.part.chain.step.isSome = true → (∀ t ∈ s.part.chain.work, ∀ q, t ≠ .cut q) →
      exec (.lineRestart tag pos) s = .next (takes 0x4F (queued (.cut pos)))) ∧
    (∀ address count : Nat, pos ≤ 23 → (s.part.node pos).isReady = true → 1 ≤ count → count ≤ 240 →
      address + count ≤ 65536 →
      let task := Task.access ⟨pos, address, count, none, [], 0, true, 0⟩
      (idle → exec (.nodeRead tag pos address count) s =
        .next (takes 0x52 (begins task .access (.storeRead (some address) (min 8 count)) pos))) ∧
      (s.part.chain.step.isSome = true → (∀ t ∈ s.part.chain.work, ∀ a, t ≠ .access a) →
        exec (.nodeRead tag pos address count) s = .next (takes 0x52 (queued task)))) ∧
    (∀ (address : Nat) (bytes : List Byte), pos ≤ 23 → (s.part.node pos).isReady = true → 1 ≤ bytes.length →
      bytes.length ≤ 240 → address + bytes.length ≤ 65536 →
      let task := Task.access ⟨pos, address, bytes.length, some bytes, [], 0, true, 0⟩
      (idle → exec (.nodeWrite tag pos address bytes) s =
        .next (takes 0x53 (begins task .access (.setupPut 255 (some address) (bytes.take 6)) pos))) ∧
      (s.part.chain.step.isSome = true → (∀ t ∈ s.part.chain.work, ∀ a, t ≠ .access a) →
        exec (.nodeWrite tag pos address bytes) s = .next (takes 0x53 (queued task))))

/-- NODE_POWER for a READY node. POWER QUIET is handed unless the node is QUIET or the command is handed or in flight
already (that one handed already is not handed again is the model's reading, log entry 81); a wake makes a QUIET node WAKING
and hands it POWER ACTIVE, takes back a POWER QUIET that still waits, with the wake that was kept for it, keeps a wake for
one that is in flight, and leaves any other node as it is. A node that is not READY refuses WRONG_STATE. -/
def Obligations.NodePower : Prop :=
  ∀ (s : State) (tag pos : Nat), s.ready tag → s.part.settled → pos ≤ 23 →
    let reply := fun (p : Part) => State.replied { s with part := p } tag 0x51 ⟨.ok, .none⟩
    let mine := fun (h : Handed) => h.command == .power true && h.target == some pos
    let handed := fun (q : Bool) =>
      { s.part.line with output := inOrder ⟨.power q, some pos, s.part.now, .power⟩ s.part.line.output }
    let remembers := fun (w : Bool) => { s.part.chain with
      runtime := s.part.chain.runtime.setIfInBounds pos { s.part.runtime pos with wakeAfter := w } }
    let waits := s.part.line.output.any mine
    let flies := s.part.line.flight.any fun f => f.command == .power true && f.target == some pos
    ((s.part.node pos).isReady = false → ∀ v, exec (.nodePower tag pos (some v)) s =
      .next (s.replied tag 0x51 ⟨.wrongState, .none⟩)) ∧
    ((s.part.node pos).isReady = true →
      ((s.part.node pos = .ready .quiet ∨ waits = true ∨ flies = true) →
        exec (.nodePower tag pos (some .quiet)) s = .next (reply s.part)) ∧
      (s.part.node pos ≠ .ready .quiet → waits = false → flies = false →
        exec (.nodePower tag pos (some .quiet)) s = .next (reply { s.part with line := handed true })) ∧
      (s.part.node pos = .ready .quiet → waits = false → flies = false →
        let woken := { s.part.runtime pos with node := .ready .waking, wakeFrom := none }
        exec (.nodePower tag pos (some .active)) s = .next (reply { s.part with
          line := handed false,
          chain := { s.part.chain with runtime := s.part.chain.runtime.setIfInBounds pos woken } })) ∧
      (s.part.node pos ≠ .ready .quiet → flies = false →
        exec (.nodePower tag pos (some .active)) s = .next (reply { s.part with
          line := { s.part.line with output := s.part.line.output.filter fun h => !mine h },
          chain := if waits = true then remembers false else s.part.chain })) ∧
      (s.part.node pos ≠ .ready .quiet → waits = false → flies = true →
        exec (.nodePower tag pos (some .active)) s = .next (reply { s.part with chain := remembers true })))

/-- While a STORE_SAVE is in progress, every request that edits a stored table is refused BUSY and changes nothing. -/
def Obligations.EditsAreBusyWhileSaving : Prop :=
  ∀ (s : State) (tag : Nat), s.ready tag → s.port.saving.isSome = true →
    ∀ i : Instr, i.tag? = some tag → ∀ kind, requestKind i = some kind →
      (match i with
        | .weekWrite .. | .exceptionAdd .. | .exceptionRemove .. | .timeChangeAdd .. | .timeChangeRemove .. | .quietSet ..
        | .groupWrite .. | .planWrite .. | .planAppend .. | .planClear .. | .bellSettings .. | .buildingWrite ..
        | .zoneDefine .. | .zoneEnable .. | .programWrite .. | .scheduleAdd .. | .scheduleRemove .. | .circuitWrite ..
        | .rosterWrite .. | .rosterLength .. | .lineSettings .. | .noticeEnable .. => true
        | _ => false) = true →
      exec i s = .next (s.replied tag kind ⟨.busy, .none⟩)

/-! ### The control port, the table store and power -/

/-- NOTICE_ENABLE sets the enable of each named kind to the value, changes nothing else, and is answered with all fourteen
enables; it is refused BUSY while a STORE_SAVE is in progress, and BAD_VALUE for a set that is empty or marks bit 7 or 15,
which belong to no kind. NOTICE_ENABLE_READ gives the fourteen enables. Bit k of the set stands for code 0x60 + k. -/
def Obligations.NoticeEnable : Prop :=
  ∀ (s : State) (tag : Nat) (kinds : BitVec 16), s.ready tag →
    let bit := fun (k : Fin 14) => if k.val < 7 then k.val else k.val + 1
    (∀ on : Bool, s.port.saving = none → kinds ≠ 0#16 → kinds.getLsbD 7 = false → kinds.getLsbD 15 = false →
      let e := Vector.ofFn fun k : Fin 14 => if kinds.getLsbD (bit k) then on else s.port.enables[k]
      exec (.noticeEnable tag kinds (some on)) s =
        .next (State.replied { s with port := { s.port with enables := e } } tag 0x58 ⟨.ok, .enables e.toList⟩)) ∧
    (∀ on, s.port.saving.isSome = true →
      exec (.noticeEnable tag kinds on) s = .next (s.replied tag 0x58 ⟨.busy, .none⟩)) ∧
    (∀ on, s.port.saving = none → (kinds = 0#16 ∨ kinds.getLsbD 7 = true ∨ kinds.getLsbD 15 = true) →
      exec (.noticeEnable tag kinds on) s = .next (s.replied tag 0x58 ⟨.badValue, .none⟩)) ∧
    exec (.noticeEnableRead tag) s = .next (s.replied tag 0x59 ⟨.ok, .enables s.port.enables.toList⟩)

/-- A save whose writes were accepted and read back equal leaves in the memory the image of the copy, which is read back as
the copy when its values are allowed, by a load and by a start-up, and ends OK with the image VALID; any other ends
STORE_FAULT with the image INVALID, and a start-up before a good save finds no image (what it leaves in the memory is a free
value, log entry 60). A load that finds no VALID image ends BAD_IMAGE with the image
INVALID; one that finds the line no longer DOWN, or a drill in progress or started meanwhile, ends WRONG_STATE; both leave
every table. The final status is the last result. OP_DONE is queued and the slot is free, or, with the queue full, the slot
keeps the operation marked as ending; with OP_DONE off the slot is free at once. -/
def Obligations.StoreWorkEnds : Prop :=
  ∀ s : State, s.powered = true → s.part.outbox = [] →
    let ends := fun (t : State) (st : Status) =>
      t.part = s.part ∧ t.port.enables = s.port.enables ∧ t.nodes = s.nodes ∧ t.port.buffer = s.port.buffer ∧
      ∀ op, s.port.longOp = some op →
        let done : Notice := .opDone op.tag op.kind st .none
        t.port.lastLong = some ⟨op.tag, op.kind, st⟩ ∧
        (s.port.enabled .opDone = false → t.port.longOp = none) ∧
        (s.port.enabled .opDone = true → s.port.notices.length < 32 → t.port.longOp = none ∧
          (done ∈ t.port.notices ∨ t.port.sending = some (.notice done s.port.dropped))) ∧
        (s.port.enabled .opDone = true → 32 ≤ s.port.notices.length → s.port.sending.isSome = true →
          t.port.longOp = some { op with ending := some done } ∧ t.port.notices = s.port.notices ∧
          t.port.dropped = s.port.dropped)
    (∀ tables, s.port.saving = some tables →
      (∃ t, exec (.storeSaveComplete true) s = .next t ∧ ends t .ok ∧ t.port.saving = none ∧
        t.memory = { s.memory.written (imageOf tables) with torn := false } ∧ t.port.imageState = .valid ∧
        (s.memory.wf → tables.valid = true → t.memory.tables true = some tables ∧ t.memory.stored true = some tables)) ∧
      (∃ t, exec (.storeSaveComplete false) s = .next t ∧ ends t .storeFault ∧ t.port.saving = none ∧
        t.port.imageState = .invalid ∧ ∀ answers, t.memory.stored answers = none)) ∧
    (∀ answers, s.port.loading = true →
      (s.memory.tables answers = none →
        ∃ t, exec (.storeLoadComplete answers) s = .next t ∧ ends t .badImage ∧ t.port.loading = false ∧
          t.memory = s.memory ∧ t.port.imageState = .invalid) ∧
      ((s.memory.tables answers).isSome = true →
        (s.part.chain.line ≠ .down ∨ s.part.drill.run.isSome = true ∨ s.part.drill.startedSince = true) →
        ∃ t, exec (.storeLoadComplete answers) s = .next t ∧ ends t .wrongState ∧ t.port.loading = false ∧
          t.memory = s.memory ∧ t.port.imageState = s.port.imageState))

/-- A load of a VALID image, with the line DOWN, the drill timer IDLE and no drill started meanwhile, puts every stored
table in place: no claim, no announcement and no yield is left, masks stay, circuits take the stored definitions, and the
enables are the stored ones (replaced after the load's own OP_DONE, which is the model's choice, log entry 38). While campus
time is SET the time-change records at or before it are DONE and the WAITING scheduled drills MISSED. Today's
selection is made from them (NONE while campus time is UNSET) and the timeline built by the build rule from its plan (while
campus time is UNSET that is the model's reading, log entry 63). -/
def Obligations.StoreLoadReplacesTables : Prop :=
  ∀ (s : State) (answers : Bool) (tables : Tables), s.powered = true → s.port.loading = true →
    s.memory.tables answers = some tables → s.part.chain.line = .down → s.part.drill.run = none →
    s.part.drill.startedSince = false →
    ∃ t, exec (.storeLoadComplete answers) s = .next t ∧ t.port.loading = false ∧ t.port.enables = tables.enables ∧
      t.memory = s.memory ∧ (∀ op, s.port.longOp = some op → t.port.lastLong = some ⟨op.tag, op.kind, .ok⟩) ∧
      t.part.holdsTables tables ∧
      (let past := fun (day minute : Nat) => s.part.time.quality = .set ∧
          day * 864000 + minute * 600 ≤ s.part.backup.day * 864000 + s.part.backup.tod
       t.part.cal.changes = tables.changes.map (fun c => { c with done := c.done || decide (past c.day c.minute) }) ∧
       t.part.drill.schedule = tables.schedule.map (fun e =>
         if e.state = .waiting ∧ past e.day e.minute then { e with state := .missed } else e)) ∧
      (∀ z < 64, (t.part.zone z).hasClaim = false ∧ (t.part.zone z).offers = [] ∧
        (t.part.zone z).bellMask = (s.part.zone z).bellMask ∧ (t.part.zone z).annMask = (s.part.zone z).annMask) ∧
      (let sel := if s.part.time.quality = .set then t.part.selectionFor s.part.backup.day else ⟨none, .none, false⟩
       t.part.campus = s.part.campus ∧ t.part.time = s.part.time ∧ t.part.cal.selection = sel ∧
        Bells.builds s.part.bell t.part.bell s.part.backup.day s.part.backup.tod sel.plan (sel.plan.elim [] t.part.plan)) ∧
      t.part.ann.records = []

/-- The check computation gives the check value of spec 11.4, and a few frames carry the requests their bytes spell, in
the order of examination: tag 0, an unknown kind, a bad length, a request.
The receiver: a start byte begins a frame, a length outside 2 to 248 and a gap abandon it as a bad frame, the byte that
ends the gap being examined as a possible start byte, and a check byte that does not agree discards it. A frame that
agrees enters the input buffer, or finds it full and is answered BUSY, or, with the reply list full, is counted as an
overrun. The counts stop at 65,535. -/
def Obligations.Receiver : Prop :=
  (crc8 [0x31#8, 0x32#8, 0x33#8, 0x34#8, 0x35#8, 0x36#8, 0x37#8, 0x38#8, 0x39#8] = 0xF4#8 ∧
  heldOf 7 0x05 [] = .request (.timeRead 7) ∧
  heldOf 7 0x03 [24#8, 5#8, 6#8, 0x04#8, 0x65#8, 0x20#8] = .request (.timeSet 7 ⟨2024, 5, 6⟩ 288032) ∧
  heldOf 9 0x19 [30#8, 0x01#8, 0x2C#8] = .request (.bellSettings 9 30 300) ∧
  heldOf 9 0x52 [3#8, 0x12#8, 0x34#8, 8#8] = .request (.nodeRead 9 3 0x1234 8) ∧
  heldOf 0 0x05 [] = .tagZero 0x05 ∧ heldOf 7 0x1B [] = .unknownKind 7 0x1B ∧ heldOf 7 0x05 [0#8] = .badLength 7 0x05) ∧
  (∀ s : State, s.powered = true →
    let port := fun (o : Port) => { s with port := o }
    let bad := { s.port with badFrames := min (s.port.badFrames + 1) 65535 }
    (s.port.rx = .hunting → exec .startByte s = .next (port { s.port with rx := .inFrame })) ∧
    (s.port.rx = .inFrame → exec .startByte s = .next s) ∧
    (s.port.rx = .inFrame →
      (∀ length : Byte, length.toNat < 2 ∨ 248 < length.toNat →
        exec (.frameLengthAbandon length) s = .next (port { bad with rx := .hunting })) ∧
      (∀ next : Byte, exec (.frameGapTimeout next) s =
        .next (port { bad with rx := if next = 0xA5#8 then .inFrame else .hunting })) ∧
      (∀ (tag kind : Byte) (body : List Byte), body.length ≤ 246 →
        let found := heldOf tag.toNat kind.toNat body
        let check := crc8 (BitVec.ofNat 8 (body.length + 2) :: tag :: kind :: body)
        let hunts := { s.port with rx := .hunting }
        (∀ c, c ≠ check → exec (.frameReceived tag kind body c) s = .next (port { bad with rx := .hunting })) ∧
        (s.part.outbox = [] →
          (s.port.buffer.length < 2 → exec (.frameReceived tag kind body check) s =
            .next (port { hunts with buffer := s.port.buffer ++ [found] }.transmit)) ∧
          (2 ≤ s.port.buffer.length → s.port.replies.length < 4 → exec (.frameReceived tag kind body check) s =
            .next ((port hunts).replied tag.toNat kind.toNat ⟨.busy, .none⟩)) ∧
          (2 ≤ s.port.buffer.length → 4 ≤ s.port.replies.length → exec (.frameReceived tag kind body check) s =
            .next (port { hunts with overruns := min (s.port.overruns + 1) 65535 }.transmit))))))

/-- While a frame is being sent nothing else is begun, short of a power failure. When it has been sent whole, the oldest
reply is begun if there is one, and otherwise, unless the part restarts, the notice at the head of the queue, which
carries the dropped flag and clears it; the place it leaves goes to an OP_DONE that waits. A free transmitter begins the
reply of a request before the notices that the request makes. A STATUS reply reports the flag and clears it.
A notice whose kind is enabled goes to the end of a queue of fewer than 32, and is dropped, with the flag set, from a full
one; one whose kind is not enabled leaves no trace. The notices of one step are taken in the order of their making.
A frame on the wire is its start byte, length, tag, kind, body and check; the body of a reply begins with the code of its
status and that of a notice, whose tag is 0, with its flags, and with its cause or event code where R181 gives one. (The
codes of other named values are the model's constants, log entry 10.) -/
def Obligations.TransmitterOrder : Prop :=
  (let frame := fun (tag kind : Nat) (body : List Byte) =>
    let l := BitVec.ofNat 8 (body.length + 2) :: BitVec.ofNat 8 tag :: BitVec.ofNat 8 kind :: body
    0xA5#8 :: l ++ [crc8 l]
  (∀ s : State, s.port.sending = none → s.port.wire = []) ∧
  (∀ (s : State) (r : Reply), s.port.sending = some (.reply r) →
    s.port.wire = frame r.tag r.kind (BitVec.ofNat 8 r.status.code :: r.body.bytes) ∧
    (r.body = .none → s.port.wire = frame r.tag r.kind [BitVec.ofNat 8 r.status.code])) ∧
  (∀ (s : State) (n : Notice) (dropped : Bool), s.port.sending = some (.notice n dropped) →
    s.port.wire = frame 0 n.kind.code ((if dropped then 1#8 else 0#8) :: n.fields)) ∧
  [Status.ok, .accepted, .badValue, .badLength, .unknownKind, .busy, .full, .overlap, .duplicate, .notFound, .wrongState,
      .timeUnset, .noConfirm, .nodeLost, .lineFault, .lineDown, .storeFault, .badImage].map Status.code =
    [0x00, 0x01, 0x10, 0x11, 0x12, 0x13, 0x14, 0x15, 0x16, 0x17, 0x18, 0x19, 0x20, 0x21, 0x22, 0x23, 0x24, 0x25] ∧
  [NoticeKind.started, .timeEvent, .bellFired, .bellsMissed, .announceState, .drillPhase, .drillOverdue, .drillResult,
      .clockState, .nodeState, .lineFault, .yieldState, .counterLevel, .opDone].map NoticeKind.code =
    [0x60, 0x61, 0x62, 0x63, 0x64, 0x65, 0x66, 0x68, 0x69, 0x6A, 0x6B, 0x6C, 0x6D, 0x6E] ∧
  (∀ (c : TimeCause) (t : CampusTime) (q : Quality), (Notice.timeEvent c t q).fields.head? = some (BitVec.ofNat 8 (match c with
    | .set .. => 1 | .jump .. => 2 | .change .. => 3 | .restored .. => 4 | .unsetRangeEnd => 5 | .trimDone => 6
    | .dayPlan .. => 7 | .quietBegins .. => 8 | .quietEnds .. => 9))) ∧
  (∀ (h : DrillHead) (e : DrillEvent) (ph : Option DrillPhase), (Notice.drillPhase h e ph).fields.head? =
    some (BitVec.ofNat 8 (match e with
      | .checking .. => 1 | .ready .. => 2 | .notReady .. => 3 | .prealert .. => 4 | .evacuate .. => 5 | .allclear .. => 6
      | .muster .. => 7 | .building .. => 8)))) ∧
  ∀ s : State, s.powered = true →
    let free := { s with marks := { s.marks with tx := false } }
    (s.port.sending.isSome = true →
      (∀ c t, c ≠ .transmitDone → c ≠ .mainPowerLoss → exec c s = .next t → t.port.sending = s.port.sending) ∧
      (∀ r rs, s.port.replies = r :: rs → exec .transmitDone s =
        .next { free with port := { s.port with sending := some (.reply r), replies := rs } }) ∧
      (∀ n ns, s.port.replies = [] → s.port.notices = n :: ns → s.port.restarting = false →
        (s.port.longOp.bind (·.ending)) = none → exec .transmitDone s =
          .next { free with port := { s.port with sending := some (.notice n s.port.dropped), notices := ns,
                                                  dropped := false } }) ∧
      (∀ n ns op e, s.port.replies = [] → s.port.notices = n :: ns → s.port.restarting = false →
        s.port.longOp = some op → op.ending = some e → exec .transmitDone s =
          .next { free with port := { s.port with sending := some (.notice n s.port.dropped), notices := ns ++ [e],
                                                  dropped := false, longOp := none } }) ∧
      (s.port.replies = [] → (s.port.notices = [] ∨ s.port.restarting = true) → exec .transmitDone s =
        .next { free with port := { s.port with sending := none } })) ∧
    (∀ i kind tag, requestKind i = some kind → i.tag? = some tag → s.ready tag → s.port.sending = none →
      s.port.replies = [] → ∃ t a, exec i s = .next t ∧ t.port.sending = some (.reply (replyOf tag kind a))) ∧
    (∀ tag, s.ready tag → ∃ t q l ps ph n im bf ov op last, exec (.status tag) s = .next t ∧
      State.answers s t tag 0x02 ⟨.ok, .status q l ps ph n im bf ov s.port.dropped op last⟩ ∧ t.port.dropped = false) ∧
    (∀ (o : Port) (n : Notice),
      (o.enables[n.kind.place]? = some false → o.offer n = o) ∧
      (o.enables[n.kind.place]? = some true → o.notices.length < 32 → o.offer n = { o with notices := o.notices ++ [n] }) ∧
      (o.enables[n.kind.place]? = some true → 32 ≤ o.notices.length → o.offer n = { o with dropped := true })) ∧
    (∀ l : List Notice, s.part.outbox = l.map .notice → finish s =
      { s with part := { s.part with outbox := [] }, port := (l.foldl Port.offer s.port).transmit })

/-- Main power fails: the backup domain is kept, with the tenth that had elapsed and was still to be counted; the port is held
off and empty, nothing is pending in the blocks (log entry 28), and the memory, the nodes and the world go on, but a save in
progress is cut: the memory holds the beginning of the image and is marked so that a start-up finds it INVALID (how much has
been written is a free value, log entry 74). The battery failing afterwards loses the backup domain: the flag, the counter and every dial
(POSITIVE and without an owner, the model's choice, log entry 3). While main power is absent a further failure, and with
main power a low battery, change nothing (log entry 5). -/
def Obligations.PowerFails : Prop :=
  ∀ s : State,
    (s.powered = true → ∃ t, exec .mainPowerLoss s = .next t ∧ t.powered = false ∧ t.part.backup = s.kept ∧
      (s.port.saving = none → t.memory = s.memory) ∧
      (∀ x, s.port.saving = some x → ∃ k, 1 ≤ k ∧ k < (imageOf x).length ∧
        t.memory = { s.memory.written ((imageOf x).take k) with torn := true }) ∧
      t.nodes = s.nodes ∧ t.world = s.world ∧ t.pending = s.pending ∧ t.port.rx = .heldOff ∧
      t.port.buffer = [] ∧ t.port.replies = [] ∧ t.port.notices = [] ∧ t.port.sending = none ∧ t.port.saving = none ∧
      t.port.longOp = none ∧ t.part.chain.line = .down ∧ t.part.drill.run = none ∧ t.part.ann.records = [] ∧
      (∀ z < 64, (t.part.zone z).hasClaim = false)) ∧
    (s.powered = false → exec .mainPowerLoss s = .next s ∧
      ∃ t, exec .batteryLow s = .next t ∧ t.powered = false ∧ t.part.backup.valid = false ∧
        t.part.backup.day = 0 ∧ t.part.backup.tod = 0 ∧
        (∀ c < 32, t.part.backup.dials[c]? = some ⟨none, .positive, none⟩) ∧ t.memory = s.memory ∧ t.nodes = s.nodes) ∧
    (s.powered = true → exec .batteryLow s = .next s)

/-- START_UP, after a power-on or after the reply to RESTART has been sent: every table of a VALID image is in place, with the
enables, the masks clear and the yield states CLEAR, and the image state says which it is (`SerialMemory.stored` gives the
image's tables unless a save has left it unfinished); with an INVALID one the tables are those of reset. Elapsed time begins at 0.
Campus time is SET only from a valid backup domain, at its counter with the shifts that fell due applied, and is UNSET otherwise;
the time-change records that this has passed are DONE, and while campus time is SET the WAITING scheduled drills that it has
passed are MISSED, today's selection is made and the timeline built. A circuit takes the dial and the polarity of its entry in a
valid backup domain and waits, or is STOPPED with its dial UNKNOWN, here and in the entry; the line is DOWN or, with auto line
start, BUILDING; the receiver is HUNTING, and STARTED is the first notice. (`State.kept` is the backup domain with the tenth that
had elapsed and was still to be counted; a counter whose flag is invalid is put to 0, the model's choice, log entry 62, as it is
that a record due at a shift out of the range is DONE, log entry 34.) -/
def Obligations.StartUp : Prop :=
  ∀ (s : State) (answers : Bool),
    (s.powered = false ∨ (s.port.restarting = true ∧ s.port.sending = none ∧ s.port.replies = [])) →
    let stored := s.memory.stored answers
    let due := fun (l : List TimeChange) => l.filter fun c =>
      !c.done && c.day * 864000 + c.minute * 600 ≤ s.kept.day * 864000 + s.kept.tod
    ∃ t, exec (.startUp answers) s = .next t ∧ t.powered = true ∧ t.part.now = 0 ∧ t.memory = s.memory ∧
      t.nodes = s.nodes ∧ t.world = s.world ∧ t.pending = s.pending ∧
      t.port.rx = .hunting ∧ t.port.buffer = [] ∧ t.port.replies = [] ∧ t.port.longOp = none ∧ t.port.restarting = false ∧
      t.port.saving = none ∧ t.port.badFrames = 0 ∧ t.port.overruns = 0 ∧
      t.port.imageState = (if stored.isSome then .valid else .invalid) ∧
      t.port.sending = some (.notice (.started (if s.powered then .restart else .powerOn) stored.isSome s.part.backup.valid
        (t.part.chain.line == .building)) false) ∧
      t.part.ann.records = [] ∧ t.part.drill.run = none ∧ (∀ n < 24, t.part.node n = .absent) ∧
      (∀ z < 64, (t.part.zone z).hasClaim = false ∧ (t.part.zone z).commanded = .silent ∧ (t.part.zone z).offers = [] ∧
        (t.part.zone z).bellMask = false ∧ (t.part.zone z).annMask = false ∧ (t.part.zone z).confirmed = none ∧
        (t.part.zone z).dirty = false) ∧
      (∀ b < 8, (t.part.building b).yield = .clear ∧ (t.part.building b).origin = none) ∧
      (s.part.backup.valid = false → t.part.time.quality = .unset ∧ t.part.backup.tod = 0 ∧ t.part.backup.day = 0) ∧
      (stored = none → t.part.layout = Part.reset.layout ∧ t.part.chain.line = .down ∧
        t.port.enables.toList = List.replicate 14 true) ∧
      (∀ tables, stored = some tables →
        t.port.enables = tables.enables ∧ t.part.holdsTables tables ∧
        (t.part.chain.line = .building ↔ tables.autoStart = true ∧ 0 < tables.length) ∧
        (∀ (c : Nat) (d : CircuitDef) (e : DialEntry), tables.circuits[c]? = some (some d) → s.kept.dials[c]? = some e →
          let restored := s.part.backup.valid = true ∧ e.dial.isSome = true ∧ e.owner = some (d.position, d.line)
          let circuit : Circuit := { definition := d, dial := none, polarity := .positive, mode := .stopped, course := .none,
                                     flight := none, stopPending := false, lastSend := none }
          (restored → t.part.circuit c = some { circuit with dial := e.dial, polarity := e.polarity, mode := .wait } ∧
            t.part.backup.dials[c]? = some e) ∧
          (¬ restored → t.part.circuit c = some circuit ∧
            t.part.backup.dials[c]? = some ⟨none, .positive, some (d.position, d.line)⟩))) ∧
      t.part.drill.schedule = (stored.elim [] (·.schedule)).map (fun e =>
        if e.state = .waiting ∧ t.part.time.quality = .set ∧ e.day * 864000 + e.minute * 600 ≤ t.part.campus.total
        then { e with state := .missed } else e) ∧
      (s.part.backup.valid = false → t.part.cal.changes = stored.elim [] (·.changes)) ∧
      (s.part.backup.valid = true →
        let shift := ((due (stored.elim [] (·.changes))).map (·.shift)).sum
        let moved : Int := s.kept.day * 864000 + s.kept.tod + shift * 600
        t.part.cal.changes = (stored.elim [] (·.changes)).map (fun c =>
          let m := c.day * 864000 + c.minute * 600
          { c with done := c.done || decide (m ≤ s.kept.day * 864000 + s.kept.tod ∨
            (0 ≤ moved ∧ moved < 36525 * 864000 ∧ (m : Int) ≤ moved)) }) ∧
        (0 ≤ moved → moved < 36525 * 864000 → t.part.time.quality = .set ∧ (t.part.campus.total : Int) = moved) ∧
        (moved < 0 ∨ 36525 * 864000 ≤ moved → t.part.time.quality = .unset)) ∧
      (t.part.time.quality = .set →
        let sel := t.part.selectionFor t.part.backup.day
        t.part.cal.selection = sel ∧ Bells.builds Part.reset.bell t.part.bell t.part.backup.day t.part.backup.tod sel.plan
          (sel.plan.elim [] t.part.plan)) ∧
      (t.part.time.quality = .unset → t.part.cal.selection = ⟨none, .none, false⟩ ∧
        t.part.bell.timeline = Part.reset.bell.timeline ∧ t.part.bell.furthest = none ∧ t.part.bell.fired = [])

/-! ### Events of the blocks -/

/-- The end of a date brings the next date at 0 with its selection and its timeline, built by the build rule, and the end of
the range UNSET with the value held and the bells as they were. A trimmed second moves the count and the remainder (the
tenth at which it does is the model's choice, log entry 6); one that ends the date, or the range, brings the same. A whole
minute that counting has reached evaluates the quiet state and every circuit (that each of these leaves its mark for the
whole minute is the model's, log entry 2). A time change is marked DONE and its shift applied, the entries at its moment
having fired. With no circuit defined the notices of each are those of the time keeper and the calendar: TRIM_DONE with the
last of a trim (ahead of a new date's, the model's choice, log entry 76; none for a trim that the end of the range cancels,
even in its last second, deduced, log entry 64), DAY_PLAN with the selection of a date, UNSET and
DAY_PLAN at the end of the range (log entry 36), CHANGE with a time change, and after these QUIET_BEGINS or QUIET_ENDS with a
change of the quiet state. -/
def Obligations.CampusTimeEvents : Prop :=
  ∀ s : State, s.powered = true → s.part.time.quality = .set →
    let counts := fun (t : State) (minute : Bool) =>
      State.sameOutside { s with marks := { s.marks with count := false, minute := minute } } t ∧ t.part.layout = s.part.layout
    let alone := s.part.settled ∧ s.part.outbox = [] ∧ (∀ c < 32, s.part.circuit c = none)
    let quietEvent := fun (old new : Bool) (at' : CampusTime) (q : Quality) => if new = old then [] else
      [Notice.timeEvent (if new = true then .quietBegins s.part.cal.quietStart s.part.cal.quietEnd
        else .quietEnds s.part.cal.quietStart s.part.cal.quietEnd) at' q]
    let newDate := fun (t : State) (first : List TimeCause) =>
      let sel := s.part.selectionFor (s.part.backup.day + 1)
      let midnight : CampusTime := ⟨s.part.backup.day + 1, 0⟩
      let quiet := sel.quiet || inWindow s.part.cal.quietStart s.part.cal.quietEnd 0
      (alone → State.reports s t []
        ((first.map fun c => .timeEvent c midnight .set) ++
          .timeEvent (.dayPlan (s.part.backup.day + 1) sel 0) midnight .set ::
          quietEvent s.part.cal.inside quiet midnight .set)) ∧
      counts t true ∧ t.part.campus = ⟨s.part.backup.day + 1, 0⟩ ∧ t.part.cal.selection = sel ∧
        t.part.cal.inside = (sel.quiet || inWindow s.part.cal.quietStart s.part.cal.quietEnd 0) ∧
        Bells.builds s.part.bell t.part.bell (s.part.backup.day + 1) 0 sel.plan (sel.plan.elim [] s.part.plan)
    let endOfRange := fun (t : State) (minute : Bool) =>
      (alone → State.reports s t []
        ([.timeEvent .unsetRangeEnd ⟨36524, 863999⟩ .unset,
          .timeEvent (.dayPlan 36524 ⟨none, .none, false⟩ 0) ⟨36524, 863999⟩ .unset] ++
          quietEvent s.part.cal.inside false ⟨36524, 863999⟩ .unset)) ∧
      counts t minute ∧ t.part.campus = ⟨36524, 863999⟩ ∧ t.part.time = ⟨.unset, 0, false⟩ ∧ t.part.backup.valid = false ∧
        t.part.cal.selection = ⟨none, .none, false⟩ ∧ t.part.cal.inside = false ∧ t.part.bell = s.part.bell
    let trimmed := (0 < s.part.time.trim ∧ s.part.backup.tod % 10 = 8) ∨
      (s.part.time.trim < 0 ∧ s.part.backup.tod % 10 = 9 ∧ s.part.time.held = true)
    let count := s.part.backup.tod + if 0 < s.part.time.trim then 2 else 1
    let time : TimeKeeper := ⟨.set, s.part.time.trim - s.part.time.trim.sign, false⟩
    let trimDone := if time.trim = 0 then [TimeCause.trimDone] else []
    (s.part.backup.tod = 863999 → s.part.backup.day ≠ 36524 →
      ∃ t, exec .dayStart s = .next t ∧ newDate t [] ∧ t.part.time = { s.part.time with held := false }) ∧
    (s.part.backup.tod = 863999 → s.part.backup.day = 36524 → ∃ t, exec .rangeEnd s = .next t ∧ endOfRange t false) ∧
    (trimmed →
      (s.part.settled → s.part.outbox = [] → count < 864000 →
        ∃ t, exec .trimSecond s = .next t ∧
          t.part = { s.part with backup := { s.part.backup with tod := count }, time := time } ∧
          t.marks = { s.marks with count := false, minute := count % 600 == 0 } ∧ t.nodes = s.nodes ∧ t.memory = s.memory ∧
          t.pending = s.pending ∧ t.world = s.world ∧ t.powered = true ∧
          State.reports s t [] (trimDone.map fun c => .timeEvent c ⟨s.part.backup.day, count⟩ .set)) ∧
      (864000 = count → s.part.backup.day < 36524 → ∃ t, exec .trimSecond s = .next t ∧ newDate t trimDone ∧ t.part.time = time) ∧
      (864000 = count → s.part.backup.day = 36524 → ∃ t, exec .trimSecond s = .next t ∧ endOfRange t true)) ∧
    (s.part.backup.tod % 600 = 0 →
      ∃ t, exec .minuteBoundary s = .next t ∧ State.sameOutside s t ∧ t.part.layout = s.part.layout ∧
        t.part.campus = s.part.campus ∧ t.part.time = s.part.time ∧ t.part.bell = s.part.bell ∧
        t.part.cal = { s.part.cal with
          inside := s.part.cal.selection.quiet || inWindow s.part.cal.quietStart s.part.cal.quietEnd s.part.backup.tod } ∧
        (alone → State.reports s t [] (quietEvent s.part.cal.inside t.part.cal.inside s.part.campus .set)) ∧
        ∀ c < 32, ∀ (r : Circuit) (d : Nat), s.part.circuit c = some r → r.dial = some d → r.flight = none →
          (r.mode = .run ∨ r.mode = .advance ∨ r.mode = .hold) →
          let target := s.part.backup.tod / 600 % 720
          let behind := (target + 720 - d) % 720
          let ahead := (d + 720 - target) % 720
          ∃ r', t.part.circuit c = some r' ∧ r'.definition = r.definition ∧ r'.dial = some d ∧ r'.polarity = r.polarity ∧
            (behind = 0 → r'.mode = .run ∧ r'.course = .inStep ∧ r'.flight = none) ∧
            (behind = 1 → r'.mode = .run ∧ r'.course = .inStep ∧
              ∃ i, r'.flight = some i ∧ i.polarity = r.polarity.flip ∧ i.sends = 1 ∧ i.sentAt = none) ∧
            (1 < behind → ahead ≤ r.definition.holdLimit → r'.mode = .hold ∧ r'.course = .holding ∧ r'.flight = none) ∧
            (1 < behind → r.definition.holdLimit < ahead → r'.mode = .advance ∧ r'.course = .advancing ∧
              ∃ i, r'.flight = some i ∧ i.polarity = r.polarity.flip ∧ i.sends = 1 ∧ i.sentAt = none)) ∧
    (∀ c, s.part.reachedChange = some c → 0 ≤ (s.part.campus.total : Int) + c.shift * 600 →
      ∃ t, exec .timeChangeReached s = .next t ∧ State.sameOutside s t ∧ t.part.layout = s.part.layout ∧
        (t.part.campus.total : Int) = s.part.campus.total + c.shift * 600 ∧
        t.part.time = { s.part.time with held := false } ∧ { c with done := true } ∈ t.part.cal.changes ∧
        (alone → t.part.backup.day = s.part.backup.day → (∀ e ∈ s.part.bell.timeline.entries, e.state ≠ .waiting) →
          (∀ e ∈ s.part.drill.schedule, e.state ≠ .waiting) →
          let marked := (s.part.cal.changes.filter fun x => x != c && !x.done &&
            decide (s.part.campus.total ≤ x.day * 864000 + x.minute * 600 ∧
              x.day * 864000 + x.minute * 600 ≤ t.part.campus.total)).length
          let quiet :=
            s.part.cal.selection.quiet || inWindow s.part.cal.quietStart s.part.cal.quietEnd t.part.backup.tod
          State.reports s t []
            (.timeEvent (.change ⟨c.day, c.minute * 600⟩ c.shift marked) t.part.campus .set ::
              quietEvent s.part.cal.inside quiet t.part.campus .set)))

/-- A timeline entry that is reached fires: its key stands in the fired record, and it is posted to its group, whose zones that
are enabled, unmasked, able to sound and free of higher claims sound its pattern; BELL_FIRED gives the three counts of the
posting, which add up to the group's zones, and the posted count is that of the zones which took it. With a bell grace of 0 a
claim that cannot sound is dropped at once, which BELLS_MISSED with cause STALE reports after BELL_FIRED, and the entry of which
no claim sounds is MISSED, here and in the fired record. With the fired record full an entry is MISSED and posted nowhere, which
BELLS_MISSED with cause LIMIT reports. A posting's latest start ends its PENDING claims, of which BELLS_MISSED with cause STALE
gives those that have never sounded: an entry of the current timeline that is FIRED, with a posted count equal to that number,
becomes MISSED, its key with it, and no other entry and no posting by hand changes anything. A claim's end time ends it and is
not reported. No other zone changes. (The number that names a posting is the model's, log entry 12. Deduced: that a claim which
has sounded past its latest start and is PENDING again ends so too, with a further report that may count 0 claims, log entry 69,
and that an entry fires at the present campus time however that time was reached, log entry 65.) -/
def Obligations.BellEvents : Prop :=
  ∀ s : State, s.powered = true → s.part.settled →
    (∀ (i : Nat) (e : TimelineEntry), s.part.time.quality = .set → s.part.bell.timeline.date = some s.part.backup.day →
      s.part.bell.timeline.entries[i]? = some e → e.state = .waiting → e.entry.time * 10 = s.part.backup.tod →
      let others := fun (t : State) => ∀ k, k ≠ i → t.part.bell.timeline.entries[k]? = s.part.bell.timeline.entries[k]?
      (0 < s.part.bell.grace → s.part.bell.fired.length < 480 →
        ∃ t n sounding pending refused, exec (.bellEntryReached i) s = .next t ∧ State.sameOutside s t ∧ others t ∧
          sounding + pending + refused = (s.part.groupZones e.entry.group).length ∧ n = sounding + pending ∧
          (s.part.outbox = [] → State.reports s t [] [.bellFired none (s.part.bell.timeline.plan.getD 0) i
            s.part.bell.timeline.build e.entry sounding pending refused]) ∧
          t.part.clock = { s.part with bell := t.part.bell }.clock ∧ t.part.bell.layout = s.part.bell.layout ∧
          t.part.bell.fired = s.part.bell.fired ++ [⟨e.entry.time, e.entry.group, false⟩] ∧
          t.part.bell.timeline.entries[i]? = some { e with state := .fired, posted := some n } ∧
          (∀ z < 64, z ∉ s.part.groupZones e.entry.group → t.part.zone z = s.part.zone z) ∧
          ∀ z ∈ s.part.groupZones e.entry.group, (s.part.zone z).bellOn = true → (s.part.zone z).bellMask = false →
            s.part.able z = true → (s.part.zone z).ann = none → (s.part.zone z).drill = none →
              (t.part.zone z).commanded = .pattern e.entry.pattern ∧ ∃ b, (t.part.zone z).bell = some b ∧
                b.state = .sounding ∧ b.pattern = e.entry.pattern ∧ b.duration = e.entry.duration) ∧
      (∀ plan, s.part.bell.grace = 0 → s.part.bell.fired.length < 480 → s.part.bell.timeline.plan = some plan →
        (∀ z < 64, ∀ b, (s.part.zone z).bell = some b → b.posting ≠ s.part.bell.postings) →
        ∃ t sounding pending refused, exec (.bellEntryReached i) s = .next t ∧ State.sameOutside s t ∧ others t ∧
          sounding + pending + refused = (s.part.groupZones e.entry.group).length ∧
          let build := s.part.bell.timeline.build
          let missed := sounding = 0 ∧ 0 < pending
          (s.part.outbox = [] → State.reports s t [] (.bellFired none plan i build e.entry sounding pending refused ::
            if pending = 0 then [] else [.bellsMissedStale (.entry plan i build) pending (decide missed)])) ∧
          t.part.clock = { s.part with bell := t.part.bell }.clock ∧ t.part.bell.layout = s.part.bell.layout ∧
          t.part.bell.fired = (s.part.bell.fired ++ [FiredKey.mk e.entry.time e.entry.group false]).map (fun (k : FiredKey) =>
            if missed ∧ k.time = e.entry.time ∧ k.group = e.entry.group then { k with missed := true } else k) ∧
          t.part.bell.timeline.entries[i]? =
            some { e with state := if missed then .missed else .fired, posted := some (sounding + pending) } ∧
          ∀ z < 64,
            let takes := z ∈ s.part.groupZones e.entry.group ∧ (s.part.zone z).bellOn = true ∧ s.part.closedZone z = false
            (¬ takes → t.part.zone z = s.part.zone z) ∧
            (takes →
              let sounds := (s.part.zone z).bellMask = false ∧ s.part.able z = true ∧ (s.part.zone z).ann = none ∧
                (s.part.zone z).drill = none
              (sounds → (t.part.zone z).commanded = .pattern e.entry.pattern ∧
                ∃ b, (t.part.zone z).bell = some b ∧ b.state = .sounding ∧ b.posting = s.part.bell.postings) ∧
              (¬ sounds → (s.part.zone z).ann = none → (t.part.zone z).bell = none))) ∧
      (480 ≤ s.part.bell.fired.length →
        ∃ t, exec (.bellEntryReached i) s = .next t ∧ State.sameOutside s t ∧ others t ∧ t.part.arb = s.part.arb ∧
          t.part.bell.fired = s.part.bell.fired ∧
          t.part.bell.timeline.entries[i]? = some { e with state := .missed, posted := none } ∧
          (s.part.outbox = [] → State.reports s t []
            [.bellsMissedLimit (s.part.bell.timeline.plan.getD 0) i e.entry.time e.entry.group]))) ∧
    (∀ (posting z : Nat) (b : BellClaim), z < 64 → (s.part.zone z).bell = some b → b.posting = posting →
      b.state = .pending → b.latest ≤ s.part.now →
      ∃ t, exec (.latestStart posting) s = .next t ∧ State.sameOutside s t ∧
        (∀ y < 64, ((s.part.zone y).awaits posting = true → (t.part.zone y).bell = none) ∧
          ((s.part.zone y).awaits posting = false → t.part.zone y = s.part.zone y)) ∧
        ((∀ y < 64, ∀ c, (s.part.zone y).bell = some c → c.posting = posting → c.origin = b.origin) →
          let stale := ((List.range 64).filter fun y => (s.part.zone y).bell.any fun c =>
            c.posting == posting && c.state == .pending && !c.sounded).length
          let reports := fun (missed : Bool) => s.part.outbox = [] →
            State.reports s t [] [.bellsMissedStale b.origin stale missed]
          (b.origin = .manual → t.part.bell = s.part.bell ∧ reports false) ∧
          ∀ plan k build, b.origin = .entry plan k build →
            let missed := fun (e : TimelineEntry) => s.part.bell.timeline.build = build ∧
              s.part.bell.timeline.plan = some plan ∧ s.part.bell.timeline.entries[k]? = some e ∧ e.state = .fired ∧
              e.posted = some stale
            ((∀ e, ¬ missed e) → t.part.bell = s.part.bell ∧ reports false) ∧
            (∀ e, missed e → reports true ∧ t.part.bell = { s.part.bell with
              timeline := { s.part.bell.timeline with
                entries := s.part.bell.timeline.entries.modify k fun x => { x with state := .missed } }
              fired := s.part.bell.fired.map fun x =>
                if x.time = e.entry.time ∧ x.group = e.entry.group then { x with missed := true } else x }))) ∧
    (∀ (z e : Nat) (b : BellClaim), z < 64 → (s.part.zone z).bell = some b → b.state = .sounding → b.endTime = some e →
      e ≤ s.part.now →
      ∃ t, exec (.claimEndTime z) s = .next t ∧ State.sameOutside s t ∧ t.part.core = s.part.core ∧
        (t.part.zone z).bell = none ∧ (∀ y < 64, y ≠ z → t.part.zone y = s.part.zone y) ∧
        (s.part.outbox = [] → State.reports s t [] []))

/-- A chime end makes its record LIVE (or, when it loses its last zone by it, ENDING), and where it is the only record, a
JOINED zone that is able to sound its claim takes the audio of its lane; when every JOINED zone does, LIVE is its notice. A
limit time ends its record with cause LIMIT; when it is the only record and has nothing to give back or to settle, ENDING and
REMOVED are its notices. (The mark for a record that has left the table is the model's, log entry 10.) -/
def Obligations.AnnounceEvents : Prop :=
  ∀ (s : State) (id : Nat) (a : Announcement), s.powered = true → s.part.announcement id = some a →
    (a.stage = .chiming → (∃ m, a.chimeEnd = some m ∧ m ≤ s.part.now) →
      ∃ t, exec (.chimeEnd id) s = .next t ∧ State.sameOutside s t ∧ t.part.core = s.part.core ∧
        (∀ b ∈ t.part.ann.records, b.id = id → b.chimeEnd = none ∧ (b.stage = .live ∨ b.stage = .ending)) ∧
        (s.part.ann.records = [a] → ∀ j ∈ a.joins, j.zone < 64 → j.state = .joined →
          ∀ c, (s.part.zone j.zone).ann = some c → (s.part.zone j.zone).drill = none →
            (s.part.zone j.zone).annMask = false → s.part.able j.zone = true →
              (t.part.zone j.zone).commanded = .audio a.input.lane) ∧
        (s.part.outbox = [] → s.part.ann.records = [a] →
          (∀ j ∈ a.joins, j.state = .joined → j.zone < 64 ∧ (s.part.zone j.zone).ann.isSome = true ∧
            (s.part.zone j.zone).drill = none ∧ (s.part.zone j.zone).annMask = false ∧ s.part.able j.zone = true) →
          State.reports s t [] [.announceState id a.input a.rank .live (some .live) a.counts])) ∧
    ((a.stage = .chiming ∨ a.stage = .live) → (∃ m, a.limitTime = some m ∧ m ≤ s.part.now) →
      ∃ t, exec (.limitTime id) s = .next t ∧ State.sameOutside s t ∧ t.part.core = s.part.core ∧
        (∀ b ∈ t.part.ann.records, b.id = id → b.stage = .ending ∧ b.cause = some .limit) ∧
        (s.part.outbox = [] → s.part.ann.records = [a] →
          (∀ j ∈ a.joins, j.state ≠ .joined ∧ j.state ≠ .waiting ∧ (j.state = .left → j.settled = true)) →
          t.part.ann.records = [] ∧ State.reports s t []
            [.announceState id a.input a.rank (.ending .limit) (some .ending) a.counts,
              .announceState id a.input a.rank (.removed .limit) none a.counts]))

/-- A scheduled drill that is reached in IDLE with its program defined is STARTED and starts a run of its own number, not
forced; a run that its readiness check has ended at once leaves it NOT_READY. With a run in progress or an empty program it
is REFUSED, which SCHEDULE_REFUSED reports with its cause, and nothing else in the part changes. -/
def Obligations.ScheduledDrill : Prop :=
  ∀ (s : State) (e : ScheduleEntry), s.powered = true → s.part.time.quality = .set →
    (s.part.drill.schedule.find? fun x => x.state == .waiting && x.moment == s.part.campus) = some e →
    let becomes := fun (st : ScheduleState) => s.part.drill.schedule.map fun x =>
      if x.state = .waiting ∧ x.day = e.day ∧ x.minute * 600 = e.minute * 600 then { x with state := st } else x
    (∀ f, s.part.drill.run = none → Tab.get s.part.drill.programs e.program none = some f →
      ∃ t, exec .scheduledDrillReached s = .next t ∧ State.sameOutside s t ∧
        t.part.core = { s.part with drill := t.part.drill }.core ∧ t.part.drill.layout = s.part.drill.layout ∧
        t.part.drill.runCounter = s.part.drill.runCounter % 65535 + 1 ∧
        (t.part.drill.run.isSome = true → t.part.drill.schedule = becomes .started) ∧
        ((∀ x ∈ s.part.drill.schedule, x.day = e.day → x.minute = e.minute → x.state = .waiting) →
          t.part.drill.schedule = becomes .started ∨
            (t.part.drill.run = none ∧ t.part.drill.schedule = becomes .notReady)) ∧
        ∀ r, t.part.drill.run = some r → r.number = t.part.drill.runCounter ∧ r.program = e.program ∧ r.fields = f ∧
          r.forced = false ∧ r.origin = .scheduled ⟨e.day, e.minute * 600⟩ ∧ r.accepted = s.part.now ∧
          r.startTime = some s.part.campus) ∧
    (s.part.settled → s.part.outbox = [] →
      (s.part.drill.run.isSome = true ∨ Tab.get s.part.drill.programs e.program none = none) →
      ∃ t, exec .scheduledDrillReached s = .next t ∧ State.sameOutside s t ∧
        t.part = { s.part with drill := { s.part.drill with schedule := becomes .refused } } ∧
        State.reports s t [] [.scheduleRefused ⟨e.day, e.minute * 600⟩ e.program
          (if s.part.drill.run.isSome = true then .busy else .empty) (s.part.drill.run.map (·.phase))])

/-- The readiness check of a drill: the wake wait's end begins the probing of the READY and ACTIVE nodes of the buildings that
have not yielded, each with its own number; a building is not ready when one of its nodes below the roster length is not READY and
ACTIVE or has not echoed its probe. The end of the probing starts the prealert or the evacuation when every building is ready
or the run is forced, the buildings that are not ready being marked partial. A DRILL claim with the chime, or with the
evacuation pattern, is then posted to every zone of the scope buildings whose timer is not YIELDED: a zone without an owner or in
a building that is not CLEAR refuses it, and any other holds it, SOUNDING where it is able to sound, the announcement that held
its slot and those of its offer list recording it LOST. The evacuation starts the timers and the displays. A run all of whose
buildings have yielded closes with its record, cause YIELDED; one that is not ready and not forced returns to IDLE without a
record. READY or NOT_READY gives the ready, not-ready and yielded buildings and the failed positions with their reasons, and
PREALERT or EVACUATE the zones claimed and refused. (The event and the phase that these notices give are deduced where R104 leaves
them open, log entry 49.) -/
def Obligations.DrillCheck : Prop :=
  ∀ (s : State) (r : DrillRun), s.powered = true → s.part.drill.run = some r → r.phase = .checking →
    let frame := fun (t : State) => State.sameOutside s t ∧ t.part.clock = s.part.clock ∧ t.part.layout = s.part.layout
    let sounds := fun (r' : DrillRun) => r'.number = r.number ∧ r'.phase = if r.fields.prealert = 0 then .evacuate else .prealert
    (r.probing = false → r.wakeEnd ≤ s.part.now →
      let judged := (r.timers.filter fun x => x.state != .yielded).map (·.building)
      let nodes := s.part.positions.filter fun pos =>
        (s.part.rosterAt pos).building.any judged.contains && (s.part.node pos).isActive
      ∃ t, exec .drillWakeWaitEnd s = .next t ∧ frame t ∧
        (nodes ≠ [] → t.part.drill.run = some { r with probing := true, probes := nodes.mapIdx fun k pos =>
          ⟨pos, (s.part.drill.probeCounter + k) % 255 + 1, none, false, true⟩ }) ∧
        (nodes = [] → ∀ r', t.part.drill.run = some r' → sounds r')) ∧
    (r.probing = true → (∀ x ∈ r.probes, x.judged = false ∨ x.echoed = true ∨ ∃ n, x.seen = some n ∧ 3 ≤ n) →
      let fails := fun (b pos : Nat) => pos < s.part.chain.length ∧ (s.part.rosterAt pos).building = some b ∧
        ¬ (s.part.node pos = .ready .active ∧ ∃ x ∈ r.probes, x.position = pos ∧ x.echoed = true)
      let x := s.part.readiness r
      let short := x.notReady
      let judges := fun (b : Nat) => ∃ y ∈ r.timers, y.building = b ∧ y.state ≠ .yielded
      let head : DrillHead := ⟨r.number, r.program, r.origin, r.forced⟩
      let reports := fun (t : State) (l : List Notice) => s.part.settled → s.part.outbox = [] → State.reports s t [] l
      let next : DrillPhase := if r.fields.prealert = 0 then .evacuate else .prealert
      let zs := s.part.drillTargets r
      let claimed := (zs.filter fun z => !s.part.closedZone z).length
      let marked := r.timers.map fun y => { y with partialFlag := y.partialFlag || short.contains y.building }
      (∀ b, (b ∈ short ↔ judges b ∧ ∃ pos < 24, fails b pos) ∧ (b ∈ x.ready ↔ judges b ∧ ∀ pos < 24, ¬ fails b pos)) ∧
      x.yielded = (r.timers.filter fun y => y.state == .yielded).map (·.building) ∧
      (∀ pos why, (pos, why) ∈ x.failed ↔ pos < 24 ∧ (∃ b, judges b ∧ fails b pos) ∧
        why = if (s.part.node pos).isReady = false then .notReady
          else if s.part.node pos ≠ .ready .active then .notActive else .noEcho) ∧
      ∃ t, exec .probeEchoWaitEnd s = .next t ∧ frame t ∧
        (r.allYielded = false → (short = [] ∨ r.forced = true) →
          ∃ r', t.part.drill.run = some r' ∧ sounds r' ∧ r'.phaseStart = s.part.now ∧
            (0 < r.fields.prealert → r'.timers = marked) ∧
            (r.fields.prealert = 0 → r'.evacuation = some s.part.now ∧ r'.timers = (marked.map fun y =>
                if y.state = .waiting then { y with state := if y.partialFlag then .partialRun else .running, elapsed := 0 } else y) ∧
              ∀ pos < 24, s.part.inScope r.fields.scope pos = true → (t.part.display pos).drill = true) ∧
            s.part.drillsPosted t.part zs (if r.fields.prealert = 0 then r.fields.evacuation else r.fields.chime.getD 0) r.program ∧
            ((∀ z ∈ zs, (s.part.zone z).ann = none ∧ (s.part.zone z).offers = []) → reports t
              [.drillPhase head (if short = [] then .ready x else .notReady x) (some next),
                .drillPhase head (if r.fields.prealert = 0 then .evacuate claimed (zs.length - claimed)
                  else .prealert claimed (zs.length - claimed)) (some next)])) ∧
        (r.allYielded = true ∨ (short ≠ [] ∧ r.forced = false) → t.part.drill.run = none) ∧
        (r.allYielded = true → ∃ last, t.part.drill.records.getLast? = some last ∧ last.number = r.number ∧
          last.cause = .yielded ∧ reports t [.drillPhase head (.ready x) none, .drillResult last]) ∧
        (r.allYielded = false → short ≠ [] → r.forced = false → t.part.drill.records = s.part.drill.records ∧
          reports t [.drillPhase head (.notReady x) none]))

/-- The timed ends of a drill that sounds: the prealert's end starts the evacuation, whose pattern every DRILL claim takes
and whose timers run; a target reached marks its timer overdue; the tone's end releases every DRILL claim, and the muster
goes on while a timer runs; the muster limit leaves every timer that ran UNFINISHED with the limit as its value and gives the
all-clear, whose pattern is posted as a DRILL claim to the zones of the buildings whose timer is not YIELDED, or with no
all-clear length the record; the all-clear's end releases the claims and the displays and leaves the record. EVACUATE, and
after the BUILDING of every timer UNFINISHED ALLCLEAR, give the zones claimed and refused (after a prealert the claims held and
0, deduced, log entry 78).
A CLEAR edge of a building whose timer runs makes it CLEARED with the drill elapsed as its value, reported with BUILDING; in
EVACUATE the last of them to stop brings the early stop, and the notices follow the run: BUILDING, MUSTER, then DRILL_RESULT
without an all-clear length. A CLEAR edge of a building whose timer does not run changes nothing. COUNT edges add to the
building's muster count, up to 65,535, whatever the state of its timer. Outside EVACUATE and MUSTER neither changes anything.
A yield makes the building's timer YIELDED, with the value 0 in CHECKING
and PREALERT and the drill elapsed in EVACUATE and MUSTER, where one that no longer runs stays; a probe of the building is not
judged any more; and when every timer is YIELDED the drill closes with cause YIELDED. A scope node that drops out marks its
building partial, a running timer becoming PARTIAL, and the run lost when every scope node is LOST or ABSENT. -/
def Obligations.DrillTimedEnds : Prop :=
  (∀ (s : State) (r : DrillRun), s.powered = true → s.part.drill.run = some r →
    let frame := fun (t : State) => State.sameOutside s t ∧ t.part.core = { s.part with drill := t.part.drill }.core ∧
      t.part.drill.programs = s.part.drill.programs ∧ t.part.drill.schedule = s.part.drill.schedule
    let head : DrillHead := ⟨r.number, r.program, r.origin, r.forced⟩
    let released := fun (t : State) => ∀ z < 64, (t.part.zone z).drill = none
    let recorded := fun (t : State) (cause : DrillEnd) => t.part.drill.run = none ∧ t.part.drill.records.length ≤ 4 ∧
      (∀ pos < 24, (t.part.display pos).drill = false) ∧ ∃ last, t.part.drill.records.getLast? = some last ∧
        last.number = r.number ∧ last.cause = cause
    let unfinished := fun (l : List BuildingTimer) => (∀ x ∈ l, x.state.isRunning = false) ∧
      ((r.timers.map (·.building)).Nodup → l = r.timers.map fun x => if x.state = .running ∨ x.state = .partialRun
        then { x with state := .unfinished, elapsed := r.fields.muster * 10 } else x)
    (r.phase = .prealert → r.phaseStart + r.fields.prealert * 50 ≤ s.part.now →
      ∃ t r', exec .prealertEnd s = .next t ∧ frame t ∧ t.part.drill.run = some r' ∧ r'.phase = .evacuate ∧
        r'.number = r.number ∧ r'.phaseStart = s.part.now ∧ r'.evacuation = some s.part.now ∧
        r'.timers = r.timers.map (fun x => if x.state = .waiting then
          { x with state := if x.partialFlag then .partialRun else .running, elapsed := 0 } else x) ∧
        (∀ z < 64, (t.part.zone z).drill.map (·.pattern) = (s.part.zone z).drill.map fun _ => r.fields.evacuation) ∧
        (∀ pos < 24, s.part.inScope r.fields.scope pos = true → (t.part.display pos).drill = true) ∧
        (s.part.settled → s.part.outbox = [] →
          (∀ z < 64, (s.part.zone z).drill.isSome = true → ∀ a, (s.part.zone z).ann = some a → a.state = .pending) →
          State.reports s t [] [.drillPhase head
            (.evacuate ((List.range 64).filter fun z => (s.part.zone z).drill.isSome).length 0) (some .evacuate)])) ∧
    (∀ (b e : Nat) (x : BuildingTimer), s.part.settled → s.part.outbox = [] →
      (r.phase = .evacuate ∨ r.phase = .muster) → r.evacuation = some e →
      (r.timers.find? fun y => y.building == b) = some x → x.state.isRunning = true → x.overdue = false →
      r.fields.target b * 10 ≤ min 36000 ((s.part.now - e) / 5) →
      ∃ t, exec (.targetReached b) s = .next t ∧ State.sameOutside s t ∧
        t.part = { s.part with drill := { s.part.drill with run := some { r with
          timers := r.timers.map fun y => if y.building = b then { y with overdue := true } else y } } } ∧
        State.reports s t [] [.drillOverdue head b (r.fields.target b) x.muster]) ∧
    (∀ e, r.phase = .evacuate → r.evacuation = some e → e + r.fields.tone * 50 ≤ s.part.now →
      ∃ t, exec .toneEnd s = .next t ∧ frame t ∧
        ((∃ x ∈ r.timers, x.state.isRunning = true) → s.part.now < e + r.fields.muster * 50 →
          released t ∧ t.part.drill.run = some { r with phase := .muster, phaseStart := s.part.now }) ∧
        ∀ r', t.part.drill.run = some r' → r'.number = r.number ∧ (r'.phase = .muster ∨ r'.phase = .allclear)) ∧
    (∀ e, r.phase = .muster → r.evacuation = some e → e + r.fields.muster * 50 ≤ s.part.now →
      ∃ t, exec .musterLimit s = .next t ∧ frame t ∧
        (0 < r.fields.allclear → ∃ r', t.part.drill.run = some r' ∧ r'.number = r.number ∧ r'.phase = .allclear ∧
          r'.phaseStart = s.part.now ∧ unfinished r'.timers ∧
          ((r.timers.map (·.building)).Nodup →
            let zs := s.part.drillTargets r
            let claimed := (zs.filter fun z => !s.part.closedZone z).length
            s.part.drillsPosted t.part zs r.fields.allclearPattern r.program ∧
            (s.part.settled → s.part.outbox = [] → (∀ z ∈ zs, (s.part.zone z).ann = none ∧ (s.part.zone z).offers = []) →
              State.reports s t [] ((r.timers.filter (·.state.isRunning)).map (fun x => .drillPhase head
                  (.building { x with state := .unfinished, elapsed := r.fields.muster * 10 }) (some .muster)) ++
                [.drillPhase head (.allclear claimed (zs.length - claimed)) (some .allclear)])))) ∧
        (r.fields.allclear = 0 → recorded t (if r.allLost then .lineLost else .complete) ∧
          ∀ last ∈ t.part.drill.records.getLast?, unfinished last.timers)) ∧
    (r.phase = .allclear → r.phaseStart + r.fields.allclear * 50 ≤ s.part.now →
      ∃ t, exec .allclearEnd s = .next t ∧ frame t ∧ released t ∧
        recorded t (if r.allLost then .lineLost else .complete))) ∧
  (∀ (p : Part) (r : DrillRun), p.drill.run = some r →
    let withRun := fun (r' : DrillRun) => { p with drill := { p.drill with run := some r' } }
    let head : DrillHead := ⟨r.number, r.program, r.origin, r.forced⟩
    let timed := r.phase = .evacuate ∨ r.phase = .muster
    let tenths := min 36000 ((r.evacuation.map fun e => (p.now - e) / 5).getD 0)
    let musters := p.now < r.evacuation.getD 0 + r.fields.muster * 50
    let changed := fun (b : Nat) (f : BuildingTimer → BuildingTimer) =>
      r.timers.map fun y => if y.building = b then f y else y
    let runs := fun (l : List BuildingTimer) => ∃ y ∈ l, y.state.isRunning = true
    let closes := fun (q : Part) (cause : DrillEnd) (l : List BuildingTimer) => q.drill.run = none ∧
      ∃ last, q.drill.records.getLast? = some last ∧ last.number = r.number ∧ last.cause = cause ∧ last.timers = l
    (∀ (b : Nat) (x : BuildingTimer), (r.timers.find? fun y => y.building == b) = some x →
      let departs := fun (st : TimerState) => changed b fun y => { y with state := st, elapsed := tenths }
      let building := fun (st : TimerState) =>
        Message.notice (.drillPhase head (.building { x with state := st, elapsed := tenths }) (some r.phase))
      (¬ timed ∨ x.state.isRunning = false → p.clearEdge b = p) ∧
      (timed → x.state.isRunning = true →
        let left := departs .cleared
        (runs left → (r.phase = .muster → musters) → p.clearEdge b =
          { withRun { r with timers := left } with outbox := p.outbox ++ [building .cleared] }) ∧
        (¬ runs left → r.phase = .evacuate →
          (∀ z < 64, 0 < r.fields.allclear ∨ ((p.clearEdge b).zone z).drill = none) ∧
          (0 < r.fields.allclear →
            ∃ r', (p.clearEdge b).drill.run = some r' ∧ r'.phase = .allclear ∧ r'.phaseStart = p.now ∧ r'.timers = left) ∧
          (r.fields.allclear = 0 → closes (p.clearEdge b) (if r.allLost then .lineLost else .complete) left ∧
            ((∀ z < 64, (p.zone z).drill = none) → ∃ record, (p.clearEdge b).outbox = p.outbox ++ [building .cleared,
              .notice (.drillPhase head (.muster true) (some .muster)), .notice (.drillResult record)])))) ∧
      (timed → ∀ n, p.countEdges b n = withRun { r with
        timers := changed b fun y => { y with muster := min (y.muster + n) 65535 } }) ∧
      (let barred := b :: r.barred
       let early := changed b fun y => { y with state := .yielded, elapsed := 0 }
       let all := fun (l : List BuildingTimer) => ∀ y ∈ l, y.state = .yielded
       (r.phase = .allclear → p.drillYield b = withRun { r with barred := barred }) ∧
       (r.phase = .prealert →
        (¬ all early → p.drillYield b = withRun { r with timers := early, barred := barred }) ∧
        (all early → closes (p.drillYield b) .yielded early)) ∧
       (timed → x.state.isRunning = true →
        (runs (departs .yielded) → (r.phase = .muster → musters) → p.drillYield b =
          { withRun { r with timers := departs .yielded, barred := barred } with outbox := p.outbox ++ [building .yielded] }) ∧
        (all (departs .yielded) → closes (p.drillYield b) .yielded (departs .yielded))) ∧
       (timed → x.state.isRunning = false → runs r.timers → (r.phase = .muster → musters) →
        p.drillYield b = withRun { r with barred := barred }) ∧
       (r.phase = .checking → r.probing = true →
        let spares := r.probes.map fun y => if (p.rosterAt y.position).building = some b
          then { y with judged := false, seen := if y.seen.isSome then y.seen else some 3 } else y
        (∃ y ∈ spares, y.judged = true ∧ y.echoed = false ∧ ∀ n, y.seen = some n → n < 3) →
          (p.drillYield b).drill = { p.drill with run := some { r with
            timers := early, barred := barred, probes := spares } }))) ∧
    (∀ b n, ¬ timed → p.clearEdge b = p ∧ p.countEdges b n = p) ∧
    (∀ b, (r.timers.find? fun y => y.building == b) = none → p.drillYield b = p) ∧
    (∀ pos,
      let scopeNode := fun (q : Nat) => q < p.chain.length ∧ ∃ b ∈ r.fields.scope, (p.rosterAt q).building = some b
      let lost := r.allLost = true ∨ ∀ q < 24, scopeNode q → p.node q = .lost ∨ p.node q = .absent
      (¬ scopeNode pos → p.dropOut pos = p) ∧
      (scopeNode pos → ∃ r', p.dropOut pos = withRun r' ∧ (r'.allLost = true ↔ lost) ∧ r' = { r with
        allLost := r'.allLost
        timers := r.timers.map fun y =>
          if (r.phase = .prealert ∨ timed) ∧ (p.rosterAt pos).building = some y.building then { y with
            partialFlag := true, state := if y.state.isRunning = true then .partialRun else y.state } else y })))

/-- An impulse that waited for the fast spacing is handed to the line. An impulse whose confirmation wait has run out is
handed again, up to three sends in all, the re-send waiting while campus time is UNSET; after the third its circuit is in
FAULT.
The confirmation law: a record of the circuit's node with a count other than the reference count and with the impulse's
polarity moves the dial by exactly one, here and in the backup domain, takes that polarity and removes the impulse, stopping
a circuit whose stop is pending; any other record, and one of another node, leaves the circuit as it is. At the first record
of the node in READY such a record, the node not having restarted, moves the dial likewise, and any other has the impulse
sent again with the count that it gives as its reference; a notice says which. (The mode that a circuit takes by it, ADVANCE
while its course is ADVANCING and RUN otherwise, is deduced, log entry 19; that a node assigned again counts as restarted
is deduced too, log entry 59; a line that the record does not hold has the count 0, the model's choice, log entry 79.) -/
def Obligations.CircuitEvents : Prop :=
  (∀ (s : State) (c : Nat) (r : Circuit) (i : Impulse), s.powered = true → s.part.settled → s.part.outbox = [] → c < 32 →
    s.part.circuit c = some r → r.flight = some i → r.mode ≠ .wait →
    let flies := fun (i' : Impulse) => s.part.setCircuit c (some { r with flight := some i' })
    let handed : Handed :=
      ⟨.impulse r.definition.line i.polarity r.definition.width, some r.definition.position, s.part.now, .circuit c⟩
    let hands := fun (i' : Impulse) =>
      { flies i' with line := { s.part.line with clock := inOrder handed s.part.line.clock } }
    let becomes := fun (p : Part) => (Host.Outcome.next { s with part := p, port := s.port.transmit } : Result)
    (i.handed = false → i.sentAt = none → i.everSent = false → s.part.time.quality = .set →
      (∀ m, r.lastSend = some m → m + r.definition.spacing * 5 ≤ s.part.now) →
      exec (.impulseSpacingEnd c) s = becomes (hands { i with handed := true, resendDue := false })) ∧
    (∀ m, i.sentAt = some m → i.resendDue = false → m + r.definition.width * 5 + 10 ≤ s.part.now →
      (i.sends < 3 → s.part.time.quality = .set → exec (.confirmationWaitEnd c) s =
        becomes (hands { i with sends := i.sends + 1, sentAt := none, handed := true, resendDue := false })) ∧
      (i.sends < 3 → s.part.time.quality = .unset → exec (.confirmationWaitEnd c) s =
        becomes (flies { i with resendDue := true })) ∧
      (3 ≤ i.sends → ∃ t, exec (.confirmationWaitEnd c) s = .next t ∧ State.sameOutside s t ∧
        t.part = s.part.setCircuit c (some { r with
          mode := .fault, course := .none, flight := none, stopPending := false })))) ∧
  (∀ (p : Part) (pos c : Nat) (r : Circuit) (lines : List (Nat × LinePolarity)), c < 32 → p.circuit c = some r →
    let confirms := fun (i : Impulse) (l : Nat × LinePolarity) => l.1 ≠ i.reference ∧ l.2 = some i.polarity
    let moved := fun (q : Part) (i : Impulse) => ∃ r', q.circuit c = some r' ∧ r'.definition = r.definition ∧
      r'.dial = r.dial.map (fun d => (d + 1) % 720) ∧ r'.polarity = i.polarity ∧
      q.backup.dials[c]? = some ⟨r'.dial, i.polarity, some (r.definition.position, r.definition.line)⟩ ∧
      (r.stopPending = true → r'.mode = .stopped ∧ r'.course = .none ∧ r'.flight = none ∧ r'.stopPending = false)
    let examined := p.examineImpulses pos lines
    let reconciled := p.reconcileCircuits pos lines
    (r.definition.position ≠ pos → examined.circuit c = some r ∧ reconciled.circuit c = some r) ∧
    (r.definition.position = pos → ∀ i, r.flight = some i →
      (r.mode ≠ .wait → i.sentAt.isSome = true → ∀ l, lines[r.definition.line]? = some l →
        (confirms i l → moved examined i) ∧ (¬ confirms i l → examined.circuit c = some r)) ∧
      (r.mode = .wait →
        let l := (lines[r.definition.line]?).getD (0, none)
        let reports := fun (delivered : Bool) => ∃ d g m k,
          Message.notice (.clockState c d g m k (.reconciled delivered l.1 l.2)) ∈ reconciled.outbox
        examined.circuit c = some r ∧
        (confirms i l → i.restarted = false → moved reconciled i ∧ reports true) ∧
        (¬ confirms i l ∨ i.restarted = true → reports false ∧ reconciled.circuit c = some { r with
          mode := if r.course = .advancing then .advance else .run,
          flight := some { i with sends := 1, sentAt := none, reference := l.1, handed := p.isSet, resendDue := !p.isSet,
                                  restarted := false } }))) ∧
    (r.flight = none → examined.circuit c = some r ∧ reconciled.circuit c = some r))

/-! ### Line cycles and the chain builder's events -/

/-- A line cycle that is due drives one down half along the nodes, each of which is left as it takes it, moves the cycle index
on, and leaves the tables, the clock, the bells and what lies outside the part; none is due while no cycle is driven, and in
a unit of 20 ms that has had its cycle (the mark is the model's, log entry 2). The mark of a reported restart ends as a node applies ASSIGN
for its position. From the up half the part takes the 24 windows in order, the hail window, the echo waits, the settlement of a held cycle, the end of an ASSIGN and the task at hand; from a
valid record it keeps the record, takes its confirmation and its onward fault, and then a restart report, or else its edges
(CLEAR, then COUNT, then YIELD), what its node's state makes of it, its power, its impulses, its probe echo and the test of
its buildings for HELD.
The slot carries the command in flight again, or nothing in the cycle that settles its send, or else what the choice takes:
the clock class once passed 4 times, the service class once passed 8 times, or the highest class that holds work, and in it
the zone update when no handed command is older, or the command at the head of the queue. Each choice counts the clock and
the service class passed once more when they hold work that it does not take, and from 0 otherwise. A queue keeps the order of
handing, and at one moment of one block the order of number.
An empty or bad window lengthens the missing run, and, counting not being frozen, raises its counter up to 65,535, an armed
level reached being reported and spent; a valid record ends the run, becomes the latest and gives the baselines, from which
its new edges are counted unless the node has restarted or is new. A run of 5 makes a READY node SUSPECT, one of 25 a node
that is SUSPECT, FOUND or SETTING LOST.
A record that gives the sequence number confirms the command in flight for its node. After a held cycle a command not yet
confirmed is sent again, up to three sends, and otherwise leaves the slot, counted as given up unless it is confirmed; each
zone of an update takes its output as confirmed if its owner confirmed it, and is UNKNOWN and dirty if its owner, READY or
SUSPECT, did not. Where no other block has anything to report, NODE_STATE is the notice of a
change of node state. (Deduced: that a command left without a target is counted as given up, log entry 30; the order CLEAR,
COUNT, YIELD, log entry 40; the lowest YIELD input with an edge as the origin, log entry 20; that an ASSIGN ends after the up half,
log entry 17, and that the part knows of its application, log entry 54; that NODE_STATE gives no stop reason where the change causes none, log entry 72. The moment of handing is one
unit of 20 ms, the model's choice, log entry 70.) -/
def Obligations.LineCyclesAndLiveness : Prop :=
  (∀ (s : State) (noise : Noise),
    ((s.powered = false ∨ s.part.driving = false ∨ s.marks.cycle = false) → exec (.lineCycle noise) s = .next s) ∧
    (s.powered = true → s.part.driving = true → s.marks.cycle = true →
      let slot := s.part.nextSlot.2
      let serves := fun (i : PagingInput) => s.part.ann.records.any fun a =>
        a.input == i && (a.stage == .chiming || a.stage == .live)
      let chosen := s.part.nextSlot.1
      let counted := { chosen with
        line := { chosen.line with cycle := (chosen.line.cycle + 1) % 50 },
        chain := { chosen.chain with step := match chosen.chain.step with
          | some (.cutSettle k) => some (.cutSettle (k + 1))
          | st => st } }
      let reached := passAlong noise s.world (chosen.downHalf slot) 0 true slot s.nodes
      let begun := match slot with
        | some ⟨_, _, .assign pos⟩ =>
          if reached.any (·.assigned) = true then counted.modLink pos fun l => { l with reported := false } else counted
        | _ => counted
      ∃ t, exec (.lineCycle noise) s = .next t ∧
        t = finish { s with
          part := (begun.takeUpHalf (s.part.line.flight.any fun f => !f.resend) slot
            (windowOf (sentIn noise 0 reached)) (hailWindowOf noise reached)).settle
          nodes := reached.map (·.node), marks := { s.marks with cycle := false } } ∧
        t.part.clock = s.part.clock ∧ t.part.layout = s.part.layout ∧
        t.memory = s.memory ∧ t.powered = true ∧ t.world = s.world ∧ t.marks = { s.marks with cycle := false } ∧
        t.pending = s.pending ∧ t.port.buffer = s.port.buffer ∧ t.port.enables = s.port.enables ∧
        ((∀ x ∈ s.part.chain.work, x ≠ .cut 0) → t.part.line.cycle = (s.part.line.cycle + 1) % 50) ∧
        ((∀ a ∈ s.part.ann.records, ∀ b ∈ s.part.ann.records, a.stage ≠ .queued → b.stage ≠ .queued →
            a.input = b.input → a = b) →
          t.nodes = (passAlong noise s.world
            { index := s.part.line.cycle,
              time := if s.part.line.cycle = 0 then some (if s.part.isSet then some s.part.campus else none) else none,
              drill := s.part.drillElapsed, slot := slot, lane1 := serves .p1, lane2 := serves .p2 }
            0 true slot s.nodes).map (·.node)))) ∧
  (∀ p : Part,
    let holds := fun (k : SlotClass) => p.line.queueOf k ≠ [] ∨ p.classZones k ≠ []
    let clock := holds .clock ∧ 4 ≤ p.line.passedClock
    let service := holds .service ∧ 8 ≤ p.line.passedService
    let sends := fun (target : Option Nat) (c : LineCommand) => p.nextSlot.2 = some ⟨p.line.seq, target, c⟩
    (clock → p.chosenClass = some .clock) ∧ (¬ clock → service → p.chosenClass = some .service) ∧
    (¬ clock → ¬ service →
      (holds .urgent → p.chosenClass = some .urgent) ∧
      (¬ holds .urgent → holds .output → p.chosenClass = some .output) ∧
      (¬ holds .urgent → ¬ holds .output → holds .clock → p.chosenClass = some .clock) ∧
      (¬ holds .urgent → ¬ holds .output → ¬ holds .clock → holds .service → p.chosenClass = some .service) ∧
      (¬ holds .urgent → ¬ holds .output → ¬ holds .clock → ¬ holds .service → p.chosenClass = none)) ∧
    (∀ f, p.line.flight = some f →
      (f.resend = true → p.nextSlot.2 = some ⟨f.seq, f.target, f.command⟩ ∧
        p.nextSlot.1.line.flight = some { f with sends := f.sends + 1, resend := false }) ∧
      (f.resend = false → p.nextSlot = (p, none))) ∧
    (p.line.flight = none → p.chosenClass = none → p.nextSlot.2 = none) ∧
    (p.line.flight = none → let l := p.nextSlot.1.line
      (holds .clock → p.chosenClass ≠ some .clock → l.passedClock = p.line.passedClock + 1) ∧
      (¬ holds .clock ∨ p.chosenClass = some .clock → l.passedClock = 0) ∧
      (holds .service → p.chosenClass ≠ some .service → l.passedService = p.line.passedService + 1) ∧
      (¬ holds .service ∨ p.chosenClass = some .service → l.passedService = 0)) ∧
    (∀ k, p.line.flight = none → p.chosenClass = some k →
      let zs := p.classZones k
      let age := p.dirtyAge zs
      (∀ h q, p.line.queueOf k = h :: q → (zs = [] ∨ h.handedAt < age) →
        sends h.target (if h.sender = .display then .display (p.display (h.target.getD 0)).mode else h.command) ∧
        p.nextSlot.1.line.seq = p.line.seq % 255 + 1) ∧
      (∀ z l, zs = z :: l → (∀ h ∈ (p.line.queueOf k).head?, age ≤ h.handedAt) →
        ∃ hi, z ≤ hi ∧ hi < 64 ∧ sends none (.zoneOutput z hi (p.zone z).commanded) ∧
          (∀ y, z ≤ y → y ≤ hi → y ∈ zs ∧ (p.zone y).commanded = (p.zone z).commanded) ∧
          (hi + 1 ∈ zs → (p.zone (hi + 1)).commanded ≠ (p.zone z).commanded))) ∧
    (∀ (x : Handed) (q : List Handed), ∃ before after, q = before ++ after ∧ inOrder x q = before ++ x :: after ∧
      let overtakes := fun (h : Handed) =>
        x.handedAt = h.handedAt ∧ x.sender.block = h.sender.block ∧ x.rank < h.rank
      (∀ h ∈ before, ¬ overtakes h) ∧ ∀ h ∈ after.head?, overtakes h)) ∧
  (∀ (p : Part) (held : Bool) (slot : Option Slot) (windows : Nat → Window) (hail : HailWindow),
    let taken := (List.range 24).foldl (fun q pos => q.takeWindow pos (windows pos)) p
    let hailed := match hail with
      | .empty => taken.hailEmpty
      | .bad => taken.hailBad
      | .answer a => taken.hailAnswered a
    let echoes := hailed.countEchoWaits
    p.takeUpHalf held slot windows hail = ((if held = true then echoes.settleFlight else echoes).endAssign slot).work) ∧
  (∀ (p : Part) (pos : Nat) (r : StatusRecord), (p.node pos).isExamined = true →
    let fault := ((p.link pos).latest.map (·.onward)).getD .none
    let kept := ((p.keepRecord pos r).takeConfirmation pos r).onwardChange pos fault r.onward
    let delivered := kept.deliverEdges pos (p.newEdges pos r)
    let used := match delivered.node pos with
      | .suspect | .lost => if r.restarted = true then delivered else delivered.nodeReturns pos r
      | .found => delivered.firstRecord pos
      | .ready _ => if (delivered.link pos).firstDue = true then delivered.firstDuties pos r else delivered
      | _ => delivered
    let powered := used.takePower pos r
    let examined := if (powered.node pos).isReady = true then powered.examineImpulses pos r.lines else powered
    let echoed := examined.takeEcho pos r.probeEcho
    (r.restarted = true → (p.link pos).reported = false →
      p.takeWindow pos (.valid r) = (kept.restartReport pos).modLink pos fun l => { l with reported := true }) ∧
    (r.restarted = false ∨ (p.link pos).reported = true → p.takeWindow pos (.valid r) =
      if (echoed.node pos).isServed = true then (echoed.yieldBuildings pos).foldl Part.testHeld echoed else echoed)) ∧
  (∀ (p : Part) (pos : Nat) (edges : List Nat),
    let sum := fun (q : Part) (f : InputFunction) (b : Nat) => q.edgesFor pos edges f b
    let cleared := (List.range 8).foldl (fun q b => if 0 < sum q .clear b then q.clearEdge b else q) p
    let counted := (List.range 8).foldl (fun q b => if 0 < sum q .count b then q.countEdges b (sum q .count b) else q) cleared
    let yielded := (List.range 8).foldl (fun q b => match (q.yieldInputs pos b).find? fun i => 0 < edges.getD i 0 with
      | some i => q.yieldTrigger b pos i
      | none => q) counted
    ((∀ n ∈ edges, n = 0) → p.deliverEdges pos edges = p) ∧
    ((∃ n ∈ edges, n ≠ 0) → p.deliverEdges pos edges = yielded)) ∧
  (∀ (p : Part) (pos : Nat), pos < 24 →
    let l := p.link pos
    (∀ c : CounterName, let q := (p.missWindow pos c)
      (q.link pos).missing = min 255 (l.missing + 1) ∧ (q.link pos).latest = l.latest ∧
      (q.link pos).baselines = l.baselines ∧
      (p.line.frozen = true → (q.link pos).missed = l.missed ∧ (q.link pos).badcheck = l.badcheck ∧
        (q.link pos).levels = l.levels ∧ q.outbox = p.outbox) ∧
      (p.line.frozen = false → c = .missed →
        (q.link pos).missed = min (l.missed + 1) 65535 ∧ (q.link pos).badcheck = l.badcheck ∧
        (l.levels.missedHalf = true → l.missed = 32767 → (q.link pos).levels.missedHalf = false ∧
          q.outbox = p.outbox ++ [.notice (.counterLevel pos .missed 32768)]) ∧
        (l.levels.missedFull = true → l.missed = 65534 → (q.link pos).levels.missedFull = false ∧
          q.outbox = p.outbox ++ [.notice (.counterLevel pos .missed 65535)]) ∧
        (l.missed ≠ 32767 → l.missed ≠ 65534 → l.missed ≤ 65535 → (q.link pos).levels = l.levels ∧ q.outbox = p.outbox)) ∧
      (p.line.frozen = false → c = .badcheck →
        (q.link pos).badcheck = min (l.badcheck + 1) 65535 ∧ (q.link pos).missed = l.missed ∧
        (l.levels.badHalf = true → l.badcheck = 32767 → (q.link pos).levels.badHalf = false ∧
          q.outbox = p.outbox ++ [.notice (.counterLevel pos .badcheck 32768)]) ∧
        (l.levels.badFull = true → l.badcheck = 65534 → (q.link pos).levels.badFull = false ∧
          q.outbox = p.outbox ++ [.notice (.counterLevel pos .badcheck 65535)]) ∧
        (l.badcheck ≠ 32767 → l.badcheck ≠ 65534 → l.badcheck ≤ 65535 →
          (q.link pos).levels = l.levels ∧ q.outbox = p.outbox))) ∧
    ((p.node pos).isExamined = true →
      p.takeWindow pos .empty = p.missWindow pos .missed ∧ p.takeWindow pos .bad = p.missWindow pos .badcheck) ∧
    (∀ r : StatusRecord,
      let q := p.keepRecord pos r
      (q.link pos).missing = 0 ∧ (q.link pos).since = some 0 ∧ (q.link pos).latest = some r ∧
      (∀ (i : Fin 4) (x : Nat × Bool), r.inputs[i.val]? = some x → (q.link pos).baselines[i] = x.1) ∧
      ((r.restarted = true ∨ l.fresh = true) → p.newEdges pos r = [0, 0, 0, 0]) ∧
      (r.restarted = false → l.fresh = false → ∀ (i : Fin 4) (x : Nat × Bool), r.inputs[i.val]? = some x →
        (p.newEdges pos r)[i.val]? = some ((x.1 + 256 - l.baselines[i]) % 256)) ∧
      (∀ f, p.line.flight = some f →
        (r.lastApplied = f.seq → pos ∈ f.waiting → (p.takeConfirmation pos r).line.flight = some { f with
          waiting := f.waiting.filter (· != pos), confirmed := f.confirmed ++ [pos] }) ∧
        ((r.lastApplied ≠ f.seq ∨ pos ∉ f.waiting) → p.takeConfirmation pos r = p)))) ∧
  (∀ (p : Part) (f : Flight), p.line.flight = some f →
    (f.waiting ≠ [] → f.sends < 3 → p.settleFlight = { p with line := { p.line with flight := some { f with resend := true } } }) ∧
    ((f.waiting = [] ∨ 3 ≤ f.sends) →
      let q := p.settleFlight
      q.line.flight = none ∧
      q.line.giveUps = (if p.line.frozen = true ∨ (f.waiting = [] ∧ f.confirmed ≠ []) then p.line.giveUps
        else min (p.line.giveUps + 1) 65535) ∧
      ∀ lo hi o, f.sender = .zones → f.command = .zoneOutput lo hi o → ∀ z < 64,
        (lo ≤ z → z ≤ hi → ∀ pos, p.owner z = some pos →
          (pos ∈ f.confirmed → q.zone z = { p.zone z with
            confirmed := some o, dirty := (p.zone z).dirty && (p.zone z).commanded != o }) ∧
          (pos ∉ f.confirmed → (p.node pos).isServed = true → (q.zone z).confirmed = none ∧ (q.zone z).dirty = true) ∧
          (pos ∉ f.confirmed → (p.node pos).isServed = false → q.zone z = p.zone z)) ∧
        ((z < lo ∨ hi < z) → q.zone z = p.zone z))) ∧
  (∀ (s : State) (pos : Nat), pos < 24 → s.powered = true →
    (((s.part.node pos).isReady = true ∧ 5 ≤ (s.part.link pos).missing) ∨
      ((s.part.node pos = .suspect ∨ s.part.node pos = .found ∨ s.part.node pos = .setting) ∧
        25 ≤ (s.part.link pos).missing)) →
    ∃ t, exec (.nodeLivenessTimeout pos) s = .next t ∧ State.sameOutside s t ∧ t.part.clock = s.part.clock ∧
      t.part.layout = s.part.layout ∧
      (s.part.chain.work = [] → s.part.chain.step = none →
        let new := if (s.part.node pos).isReady then NodeState.suspect else .lost
        t.part.node pos = new ∧
        (s.part.outbox = [] → s.part.ann.records = [] → s.part.drill.run = none →
          (∀ z < 64, (s.part.zone z).hasClaim = false ∧ (s.part.zone z).offers = []) →
          (∀ b < 8, (s.part.building b).yield ≠ .yielded) → (∀ c < 32, s.part.circuit c = none) →
          State.reports s t [] [.nodeState pos (s.part.node pos) new (s.part.link pos).missing none
            (s.part.runtime pos).setupFault])))

/-- The hail's end without an answer ends a build END_OF_CHAIN, or BAD_HAIL after a bad answer, with the line PARTIAL and
the retry timer started, and ends a restart's hail; a WAIT record's end goes on with the next record; the settling time
after a cut ends in a build that hails at the cut.
A valid hail answer of a node without another former position is kept as the position's; accepted, it is followed by ASSIGN,
and otherwise the position is MISMATCH and the build ends there. When ASSIGN has been carried the position is FOUND with its
setup unfinished, and its first record makes it SETTING and begins the setup: the replay of the store from address 9 with
auto-setup on and a record in the node's header, NODE_CONFIG at once otherwise, and then INPUT_CONFIG, POWER ACTIVE and DISPLAY. (Deduced: that the position is FOUND at the end of
the cycle that carried ASSIGN, log entry 17, and that its restart-outstanding flag is cleared then, log entry 73.) -/
def Obligations.ChainTimedEnds : Prop :=
  (∀ s : State, s.powered = true →
    let frame := fun (t : State) => State.sameOutside s t ∧ t.part.clock = s.part.clock ∧ t.part.layout = s.part.layout
    (∀ pos bad k, s.part.chain.work = [.build] → s.part.chain.step = some (.hail pos false bad (some k)) → 10 ≤ k →
      ∃ t, exec .hailWindowEnd s = .next t ∧ frame t ∧ t.part.chain.line = .partialLine ∧
        t.part.chain.stop = some (if 0 < bad then .badHail else .endOfChain, pos) ∧ t.part.chain.work = [] ∧
        t.part.chain.step = none ∧ t.part.chain.buildOp = false ∧
        t.part.chain.retryAt = some (s.part.now + s.part.chain.interval * 50)) ∧
    (∀ pos bad k, s.part.chain.work = [.setup pos] → s.part.chain.step = some (.hail pos true bad (some k)) → 10 ≤ k →
      ∃ t, exec .hailWindowEnd s = .next t ∧ frame t ∧ t.part.chain.work = [] ∧ t.part.chain.step = none ∧
        (s.part.chain.line = .running → t.part.chain.line = .partialLine ∧
          t.part.chain.stop = some (.restartLost, pos))) ∧
    (∀ pos deadline tries x, pos < 24 → s.part.chain.step = some (.setup pos (.wait deadline) tries) →
      deadline ≤ s.part.now → (s.part.runtime pos).setup = some x →
      ∃ t st, exec .setupWaitEnd s = .next t ∧ frame t ∧ t.part.chain.step = some (.setup pos st 0) ∧
        (t.part.runtime pos).setup = some ⟨x.index + 1, x.address + 3⟩) ∧
    (∀ pos k, s.part.chain.work = [.cut pos] → s.part.chain.step = some (.cutSettle k) → 60 ≤ k →
      s.part.chain.reach < s.part.chain.length → (s.part.node s.part.chain.reach).isReady = false →
      (∀ q < s.part.chain.reach, s.part.node q ≠ .lost ∧ (s.part.runtime q).restartOut = false) →
      ∃ t, exec .cutSettleEnd s = .next t ∧ frame t ∧ t.part.chain.work = [.build] ∧
        t.part.chain.step = some (.hail s.part.chain.reach false 0 none) ∧
        ∃ h ∈ t.part.line.service, h.command = .hail ∧ h.target = none)) ∧
  (∀ (p : Part) (pos : Nat), pos < 24 →
    let hands := fun (q : Part) (c : LineCommand) => ∃ h ∈ q.line.service ++ q.line.output,
      h.command = c ∧ h.target = some pos ∧ h.sender = .step q.chain.stepNo
    (∀ (a : HailAnswer) (bad : Nat) (k : Option Nat), p.chain.step = some (.hail pos false bad k) → p.chain.work = [.build] →
      (∀ q, a.former = some q → q = pos) →
      let r := p.rosterAt pos
      let wrongModel := (∃ m, r.maker = some m ∧ m ≠ a.identity.maker) ∨ (∃ m, r.model = some m ∧ m ≠ a.identity.model)
      let shortInputs := ∃ i : Fin 4, r.inputs[i].function ≠ .none ∧ a.identity.inputCount ≤ i
      let q := p.hailAnswered a
      (q.runtime pos).answer = some a ∧
      (a.failed = false → ¬ wrongModel → ¬ shortInputs → q.chain.step = some (.assign pos) ∧ hands q (.assign pos) ∧
        q.chain.line = p.chain.line) ∧
      (∀ reason, (a.failed = true ∧ reason = .header) ∨ (a.failed = false ∧ wrongModel ∧ reason = .model) ∨
          (a.failed = false ∧ ¬ wrongModel ∧ shortInputs ∧ reason = .inputs) →
        q.node pos = .mismatch reason ∧ q.chain.line = .partialLine ∧ q.chain.stop = some (.mismatch, pos) ∧
        q.chain.work = [] ∧ q.chain.step = none ∧ q.chain.retryAt = some (p.now + p.chain.interval * 50))) ∧
    (∀ (seq : Nat) (target : Option Nat), p.chain.step = some (.assign pos) →
      let q := p.endAssign (some ⟨seq, target, .assign pos⟩)
      q.node pos = .found ∧ (q.runtime pos).unfinished = true ∧ (q.runtime pos).restartOut = false ∧
      (q.link pos).missing = 0 ∧ (q.link pos).latest = none ∧ (q.link pos).since = none ∧ (q.link pos).fresh = true ∧
      q.chain.step = some (.first pos)) ∧
    (p.node pos = .found → p.chain.step = some (.first pos) → p.chain.work = [.build] →
      let q := p.firstRecord pos
      q.node pos = .setting ∧ (q.runtime pos).setupFault = false ∧
      (p.chain.autoSetup = false ∨ (∀ a, (p.runtime pos).answer = some a → a.identity.recordCount = 0) →
        q.chain.step = some (.setup pos .nodeConfig 0) ∧
        hands q (.nodeConfig (p.rosterAt pos).window (p.rosterAt pos).tapAssigned (p.rosterAt pos).holdOver)) ∧
      (p.chain.autoSetup = true → ∀ a, (p.runtime pos).answer = some a → 0 < a.identity.recordCount →
        q.chain.step = some (.setup pos (.read [] true) 0) ∧ hands q (.storeRead (some 9) 3))) ∧
    (p.chain.work = [.build] →
      (let q := p.setupConfirmed pos .nodeConfig [];
        q.chain.step = some (.setup pos .inputConfig 0) ∧
        hands q (.inputConfig ((p.rosterAt pos).inputs.toList.map fun d => (d.function, d.edge)))) ∧
      (let q := p.setupConfirmed pos .inputConfig [];
        q.chain.step = some (.setup pos .power 0) ∧ hands q (.power false)) ∧
      (let q := p.setupConfirmed pos .power [];
        q.chain.step = some (.setup pos .display 0) ∧ hands q (.display (p.display pos).mode)) ∧
      (let q := p.setupConfirmed pos .display [];
        (q.node pos).isReady = true ∧ (q.runtime pos).unfinished = false ∧ q.chain.step = none)))

/-- The head's port closes after its cut: sound, the build begins with a hail at position 0; a port that tests faulty, or
that reports a fault while cycles are driven, makes the line FAULTED: no node stays FOUND, SETTING, READY or SUSPECT,
nothing is handed or in flight, no task is left, and the retry timer runs. A retry of the test keeps it FAULTED, or makes
it PARTIAL or RUNNING again. A retry of a PARTIAL line waits behind the task at work, and is over at once while a node
reports an onward fault. With nothing at work it places a SETUP for every position with a restart outstanding, the first of which
is hailed, or else one for every position that is MISMATCH with NO_APPLY, the first of which is set up again, or else, with the
reach short of the roster length and no node LOST below it, a BUILD, which hails the reach or extends from it. (The stop position 0 of HEAD_FAULT is the model's reading, log entry 51, and `headPort`, the
kind the port was last found with, the model's own field, log entry 22.) -/
def Obligations.HeadPortAndRetries : Prop :=
  ∀ s : State, s.powered = true →
    let frame := fun (t : State) => State.sameOutside s t ∧ t.part.clock = s.part.clock ∧ t.part.layout = s.part.layout
    let retry := s.part.now + s.part.chain.interval * 50
    let faulted := fun (t : State) (kind : PortFault) =>
      frame t ∧ t.part.chain.line = .faulted ∧ t.part.chain.headPort = kind ∧ t.part.chain.headCut = none ∧
      (∀ pos < 24, (t.part.node pos).isFaultable = false) ∧ t.part.chain.work = [] ∧ t.part.chain.step = none ∧
      t.part.chain.retryAt = some retry ∧ t.part.line.flight = none ∧ t.part.line.urgent = [] ∧ t.part.line.output = [] ∧
      t.part.line.clock = [] ∧ t.part.line.service = []
    (∀ m, s.part.chain.headCut = some m → m ≤ s.part.now →
      (∀ test, test ≠ .none → ∃ t, exec (.headPortClose test) s = .next t ∧ faulted t test) ∧
      (s.part.chain.work = [] → s.part.chain.step = none → s.part.chain.reach = 0 → 0 < s.part.chain.length →
        (s.part.node 0).isReady = false →
        ∃ t, exec (.headPortClose .none) s = .next t ∧ frame t ∧ t.part.chain.headCut = none ∧
          t.part.chain.headPort = .none ∧ t.part.line.cycle = 0 ∧ t.part.chain.line = s.part.chain.line ∧
          t.part.chain.work = [.build] ∧ t.part.chain.step = some (.hail 0 false 0 none) ∧
          ∃ h ∈ t.part.line.service, h.command = .hail ∧ h.target = none)) ∧
    (s.part.driving = true →
      (∃ t, exec (.headPortFault .openLine) s = .next t ∧ faulted t .openLine) ∧
      (∃ t, exec (.headPortFault .shorted) s = .next t ∧ faulted t .shorted) ∧
      (∃ t, exec (.headPortFault .crossed) s = .next t ∧ faulted t .crossed)) ∧
    (∀ m, s.part.chain.retryAt = some m → m ≤ s.part.now →
      (s.part.chain.line = .faulted →
        (∀ test, test ≠ .none → ∃ t, exec (.faultedRetryExpiry test) s = .next t ∧ frame t ∧
          t.part.chain.line = .faulted ∧ t.part.chain.headPort = test ∧ t.part.chain.retryAt = some retry) ∧
        (∃ t, exec (.faultedRetryExpiry .none) s = .next t ∧ frame t ∧ t.part.chain.headPort = .none ∧
          t.part.chain.stop = some (.headFault, 0) ∧ t.part.line.cycle = 0 ∧
          (t.part.chain.line = .partialLine ∧ t.part.chain.retryAt = some retry ∨
            t.part.chain.line = .running ∧ t.part.chain.retryAt = none))) ∧
      (s.part.chain.line = .partialLine →
        (s.part.chain.step.isSome = true → .retry ∉ s.part.chain.work →
          ∃ t, exec .retryExpiry s = .next t ∧ frame t ∧ t.part.chain.line = .partialLine ∧
            t.part.chain.work = s.part.chain.work ++ [.retry] ∧ t.part.chain.step = s.part.chain.step ∧
            t.part.chain.retryAt = some retry) ∧
        (s.part.chain.work = [] → s.part.chain.step = none → s.part.onwardReported = true →
          ∃ t, exec .retryExpiry s = .next t ∧ frame t ∧ t.part.chain.line = .partialLine ∧ t.part.chain.work = [] ∧
            t.part.chain.step = none ∧ t.part.chain.retryAt = some retry) ∧
        (s.part.chain.work = [] → s.part.chain.step = none → s.part.onwardReported = false →
          let restarts := (List.range 24).filter fun q => (s.part.runtime q).restartOut
          let noApply := (List.range 24).filter fun q => s.part.node q == .mismatch .noApply
          let lostBelow := ∃ q < s.part.chain.reach, s.part.node q = .lost
          let reach := s.part.chain.reach
          let short := restarts = [] ∧ noApply = [] ∧ reach < s.part.chain.length
          let hails := fun (t : State) => ∃ h ∈ t.part.line.service, h.command = .hail ∧ h.target = none
          let keeps := fun (t : State) => t.part.chain.line = .partialLine ∧ t.part.chain.retryAt = some retry
          ∃ t, exec .retryExpiry s = .next t ∧ frame t ∧
            (∀ q ∈ restarts.head?, keeps t ∧ t.part.chain.work = restarts.map Task.setup ∧
              t.part.chain.step = some (.hail q true 0 none) ∧ hails t) ∧
            (restarts = [] → ∀ q ∈ noApply.head?, t.part.chain.work = noApply.map Task.setup ∧ t.part.node q = .setting ∧
              ∃ st, t.part.chain.step = some (.setup q st 0)) ∧
            (short → ¬ lostBelow → (s.part.node reach).isReady = false → keeps t ∧ t.part.chain.work = [.build] ∧
              t.part.chain.step = some (.hail reach false 0 none) ∧ hails t) ∧
            (short → ¬ lostBelow → (s.part.node reach).isReady = true → reach + 1 < s.part.chain.length → keeps t ∧
              t.part.chain.work = [.build] ∧ t.part.chain.step = some (.extend reach 0)) ∧
            (short → lostBelow → keeps t ∧ t.part.chain.work = [] ∧ t.part.chain.step = none))))

/-! ### The line nodes -/

/-- A node that loses its own power and regains it comes up as the rule lists, its onward switch as it was and the position
it last held as its former position, in whose window it sends its record, restarted and unassigned. -/
def Obligations.NodeRestarts : Prop :=
  ∀ (s : State) (place : Nat) (n : Node), s.nodes[place]? = some n →
    ∃ off on, exec (.nodePowerLoss place) s = .next { s with nodes := s.nodes.set place off } ∧ off.powered = false ∧
      exec (.nodePowerRestart place none) { s with nodes := s.nodes.set place off } =
        .next { s with nodes := s.nodes.set place on } ∧
      on.powered = true ∧ (∀ z < 64, on.applied z = .silent ∧ on.plays z = .silent) ∧ on.window.isEmpty = true ∧
      on.power = .active ∧ on.display = .blank ∧ on.lastApplied = 0 ∧ on.probeEcho = 0 ∧
      on.inputs.length = n.inputs.length ∧ (∀ i ∈ on.inputs, i.count = 0 ∧ i.function = .none) ∧
      on.lines.length = n.lines.length ∧ (∀ l ∈ on.lines, l.count = 0 ∧ l.polarity = none ∧ l.pulse = none) ∧
      on.lanes = [] ∧ on.holdOver = 30 ∧ on.readData = none ∧ on.closed = n.closed ∧ on.position = none ∧
      on.former = (n.position <|> n.former) ∧ on.store = n.store ∧
      (∀ p, on.former = some p → ∃ r, on.record = some r ∧ r.position = p ∧ r.restarted = true ∧ r.assigned = false) ∧
      (∀ world slot, (on.takeSlot world slot).assigned = false →
        (on.takeSlot world slot).node.record.map (fun r => (r.position, r.restarted, r.assigned)) =
          on.former.map fun p => (p, true, false))

/-- A node without a position acts on HAIL and on ASSIGN, and ignores every other command, its last applied staying as it
is. An ASSIGN that it applies gives it the position and clears its restarted flag, and from then on it takes the commands
for its position. A node never assigned sends no record. (That HAIL leaves the last applied number as it is is the model's
reading of R139, log entry 43.) -/
def Obligations.UnassignedNodes : Prop :=
  ∀ (n : Node) (world : Nat), n.position = none →
    (∀ s : Slot, s.command ≠ .hail → (∀ p, s.command ≠ .assign p) →
      let t := n.takeSlot world (some s)
      t.node = { n with sinceApplied := t.node.sinceApplied } ∧ t.answer = none ∧ t.assigned = false ∧ t.passes = true) ∧
    (∀ s : Slot, s.command = .hail →
      let t := n.takeSlot world (some s)
      t.answer.isSome = true ∧ t.node.answered = true ∧ t.node.position = none ∧ t.node.lastApplied = n.lastApplied ∧
        t.assigned = false ∧ t.passes = false) ∧
    (∀ (s : Slot) (p : Nat), s.command = .assign p → n.answered = true →
      let t := n.takeSlot world (some s)
      t.node.position = some p ∧ t.node.restarted = false ∧ t.node.lastApplied = s.seq ∧ t.assigned = true ∧
        ∀ s' : Slot, s'.target = some p → s'.seq ≠ s.seq → s'.command ≠ .hail → (∀ q, s'.command ≠ .assign q) →
          (∀ lo hi o, s'.command ≠ .zoneOutput lo hi o) →
            (t.node.takeSlot world (some s')).node.lastApplied = s'.seq) ∧
    (n.former = none → n.record = none)

/-- A node's other events: an input changes level, and an edge to its active level is counted; a pulse that has run is
counted with its polarity; a warm-up, the second of a CUT_ONWARD, isolation, the hold-over and a cut upstream come to their
ends; the segment beyond it changes. Everything else stays. (That a restart of a powered node changes nothing is the model's
choice, log entry 4; that a contact of an unpowered node keeps its level, its reading, log entry 23.) -/
def Obligations.NodeEvents : Prop :=
  ∀ (s : State) (place : Nat) (n : Node), s.nodes[place]? = some n →
    let becomes := fun (n' : Node) => (Host.Outcome.next { s with nodes := s.nodes.set place n' } : Result)
    (∀ (i : Nat) (x : NodeInput), n.inputs[i]? = some x →
      let active := if x.edge = .rising then !x.level else x.level
      exec (.nodeInputEdge place i) s = becomes { n with inputs := n.inputs.set i { x with
        level := !x.level, count := if n.powered && active then (x.count + 1) % 256 else x.count } }) ∧
    (∀ (k : Nat) (l : NodeLine) (p : Polarity) (e : Nat), n.lines[k]? = some l → l.pulse = some (p, e) →
      n.powered = true → e ≤ s.world →
      exec (.nodePulseEnd place k) s = becomes { n with lines := n.lines.set k ⟨(l.count + 1) % 256, some p, none⟩ }) ∧
    (n.powered = true → n.power = .warming → n.warmUntil ≤ s.world →
      exec (.nodeWarmupEnd place) s = becomes { n with power := .active }) ∧
    (∀ e, n.powered = true → n.cutUntil = some e → e ≤ s.world →
      exec (.nodeCutOnwardEnd place) s = becomes { n with closed := true, cutUntil := none }) ∧
    (n.powered = true → n.isolatedAt = none → 50 < n.missedFor → n.holdOver ≠ 0 →
      exec (.nodeIsolated place) s = becomes { n with isolatedAt := some s.world }) ∧
    (n.powered = true → n.isolatedAt = none → 50 < n.missedFor → n.holdOver = 0 →
      ∃ outputs, exec (.nodeIsolated place) s = becomes { n with
        isolatedAt := some s.world, heldOver := true, outputs := outputs, lanes := [] } ∧
        ∀ a ∈ outputs.toList, a.output = .silent) ∧
    (∀ e, n.powered = true → n.isolatedAt = some e → n.heldOver = false → e + n.holdOver * 50 ≤ s.world →
      ∃ outputs, exec (.nodeHoldOverEnd place) s = becomes { n with
        heldOver := true, outputs := outputs, lanes := [] } ∧ ∀ a ∈ outputs.toList, a.output = .silent) ∧
    (∀ e, n.powered = true → n.cutSince = some e → n.resetDone = false → e + 25 ≤ s.world →
      ∃ n', exec (.nodeLineReset place) s = becomes n' ∧ n'.closed = false ∧ n'.position = none ∧ n'.former = none ∧
        n'.restarted = true ∧ n'.resetDone = true ∧ n'.store = n.store ∧ n'.record = none) ∧
    (∀ segment, exec (.onwardSegmentChange place segment) s = becomes { n with segment := segment }) ∧
    (n.powered = true → exec (.nodePowerRestart place none) s = .next s)

/-! ### What commands leave alone -/

/-- The tables that the host fills, and the masks, change only by a request that writes them, a completed load, a start-up
or a loss of power.
Elapsed time, campus time, the calendar and the bell scheduler change only by a request or an event of theirs, a
completed load, a start-up or a loss of power.
The serial memory changes only by the end of a save's work, and by a power loss or a RESTART that cuts a save; the nodes
change only by a line cycle or by an event of their own; power comes and goes only by START_UP and the loss of main power. -/
def Obligations.CommandsKeepToTheirState : Prop :=
  (∀ (c : Instr) (s t : State), writesTables c = false → exec c s = .next t → t.part.layout = s.part.layout) ∧
  (∀ (c : Instr) (s t : State), movesClock c = false → exec c s = .next t → t.part.clock = s.part.clock) ∧
  (∀ (c : Instr) (s t : State), exec c s = .next t →
    t.world = s.world ∧ t.pending = s.pending ∧
    ((∀ good, c ≠ .storeSaveComplete good) → c ≠ .mainPowerLoss → (∀ tag, c ≠ .restart tag) → t.memory = s.memory) ∧
    ((∀ noise, c ≠ .lineCycle noise) → touchesNodes c = false → t.nodes = s.nodes) ∧
    ((∀ a, c ≠ .startUp a) → c ≠ .mainPowerLoss → t.powered = s.powered))
end

