-- ==== Sys2Proof/Laws/State.lean ====
section
/-! SUPPORT. What each named update of the part does to each field of it: one lemma per field and update. -/

namespace Sys2Proof.Machine

variable (p : Part)

/-! ### send -/

@[simp] theorem Part.send_now (m : Message) : (p.send m).now = p.now := rfl
@[simp] theorem Part.send_backup (m : Message) : (p.send m).backup = p.backup := rfl
@[simp] theorem Part.send_time (m : Message) : (p.send m).time = p.time := rfl
@[simp] theorem Part.send_cal (m : Message) : (p.send m).cal = p.cal := rfl
@[simp] theorem Part.send_bell (m : Message) : (p.send m).bell = p.bell := rfl
@[simp] theorem Part.send_arb (m : Message) : (p.send m).arb = p.arb := rfl
@[simp] theorem Part.send_ann (m : Message) : (p.send m).ann = p.ann := rfl
@[simp] theorem Part.send_drill (m : Message) : (p.send m).drill = p.drill := rfl
@[simp] theorem Part.send_clk (m : Message) : (p.send m).clk = p.clk := rfl
@[simp] theorem Part.send_line (m : Message) : (p.send m).line = p.line := rfl
@[simp] theorem Part.send_chain (m : Message) : (p.send m).chain = p.chain := rfl
@[simp] theorem Part.send_outbox (m : Message) : (p.send m).outbox = p.outbox ++ [m] := rfl

/-! ### note -/

@[simp] theorem Part.note_now (n : Notice) : (p.note n).now = p.now := rfl
@[simp] theorem Part.note_backup (n : Notice) : (p.note n).backup = p.backup := rfl
@[simp] theorem Part.note_time (n : Notice) : (p.note n).time = p.time := rfl
@[simp] theorem Part.note_cal (n : Notice) : (p.note n).cal = p.cal := rfl
@[simp] theorem Part.note_bell (n : Notice) : (p.note n).bell = p.bell := rfl
@[simp] theorem Part.note_arb (n : Notice) : (p.note n).arb = p.arb := rfl
@[simp] theorem Part.note_ann (n : Notice) : (p.note n).ann = p.ann := rfl
@[simp] theorem Part.note_drill (n : Notice) : (p.note n).drill = p.drill := rfl
@[simp] theorem Part.note_clk (n : Notice) : (p.note n).clk = p.clk := rfl
@[simp] theorem Part.note_line (n : Notice) : (p.note n).line = p.line := rfl
@[simp] theorem Part.note_chain (n : Notice) : (p.note n).chain = p.chain := rfl
@[simp] theorem Part.note_outbox (n : Notice) : (p.note n).outbox = p.outbox ++ [.notice n] := rfl

/-! ### endOp -/

@[simp] theorem Part.endOp_now (st : Status) (f : OpFields) : (p.endOp st f).now = p.now := rfl
@[simp] theorem Part.endOp_backup (st : Status) (f : OpFields) : (p.endOp st f).backup = p.backup := rfl
@[simp] theorem Part.endOp_time (st : Status) (f : OpFields) : (p.endOp st f).time = p.time := rfl
@[simp] theorem Part.endOp_cal (st : Status) (f : OpFields) : (p.endOp st f).cal = p.cal := rfl
@[simp] theorem Part.endOp_bell (st : Status) (f : OpFields) : (p.endOp st f).bell = p.bell := rfl
@[simp] theorem Part.endOp_arb (st : Status) (f : OpFields) : (p.endOp st f).arb = p.arb := rfl
@[simp] theorem Part.endOp_ann (st : Status) (f : OpFields) : (p.endOp st f).ann = p.ann := rfl
@[simp] theorem Part.endOp_drill (st : Status) (f : OpFields) : (p.endOp st f).drill = p.drill := rfl
@[simp] theorem Part.endOp_clk (st : Status) (f : OpFields) : (p.endOp st f).clk = p.clk := rfl
@[simp] theorem Part.endOp_line (st : Status) (f : OpFields) : (p.endOp st f).line = p.line := rfl
@[simp] theorem Part.endOp_chain (st : Status) (f : OpFields) : (p.endOp st f).chain = p.chain := rfl
@[simp] theorem Part.endOp_outbox (st : Status) (f : OpFields) : (p.endOp st f).outbox =
    p.outbox ++ [.opEnd st f] := rfl

/-! ### hand -/

@[simp] theorem Part.hand_now (c : LineCommand) (t : Option Nat) (w : Sender) : (p.hand c t w).now = p.now := rfl
@[simp] theorem Part.hand_backup (c : LineCommand) (t : Option Nat) (w : Sender) : (p.hand c t w).backup =
    p.backup := rfl
@[simp] theorem Part.hand_time (c : LineCommand) (t : Option Nat) (w : Sender) : (p.hand c t w).time = p.time := rfl
@[simp] theorem Part.hand_cal (c : LineCommand) (t : Option Nat) (w : Sender) : (p.hand c t w).cal = p.cal := rfl
@[simp] theorem Part.hand_bell (c : LineCommand) (t : Option Nat) (w : Sender) : (p.hand c t w).bell = p.bell := rfl
@[simp] theorem Part.hand_arb (c : LineCommand) (t : Option Nat) (w : Sender) : (p.hand c t w).arb = p.arb := rfl
@[simp] theorem Part.hand_ann (c : LineCommand) (t : Option Nat) (w : Sender) : (p.hand c t w).ann = p.ann := rfl
@[simp] theorem Part.hand_drill (c : LineCommand) (t : Option Nat) (w : Sender) : (p.hand c t w).drill =
    p.drill := rfl
@[simp] theorem Part.hand_clk (c : LineCommand) (t : Option Nat) (w : Sender) : (p.hand c t w).clk = p.clk := rfl
@[simp] theorem Part.hand_line (c : LineCommand) (t : Option Nat) (w : Sender) : (p.hand c t w).line =
    p.line.withQueue c.slotClass (inOrder ⟨c, t, p.now, w⟩ (p.line.queueOf c.slotClass)) := rfl
@[simp] theorem Part.hand_chain (c : LineCommand) (t : Option Nat) (w : Sender) : (p.hand c t w).chain =
    p.chain := rfl
@[simp] theorem Part.hand_outbox (c : LineCommand) (t : Option Nat) (w : Sender) : (p.hand c t w).outbox =
    p.outbox := rfl

/-! ### withdraw -/

@[simp] theorem Part.withdraw_now (k : SlotClass) (f : Handed → Bool) : (p.withdraw k f).now = p.now := rfl
@[simp] theorem Part.withdraw_backup (k : SlotClass) (f : Handed → Bool) : (p.withdraw k f).backup = p.backup := rfl
@[simp] theorem Part.withdraw_time (k : SlotClass) (f : Handed → Bool) : (p.withdraw k f).time = p.time := rfl
@[simp] theorem Part.withdraw_cal (k : SlotClass) (f : Handed → Bool) : (p.withdraw k f).cal = p.cal := rfl
@[simp] theorem Part.withdraw_bell (k : SlotClass) (f : Handed → Bool) : (p.withdraw k f).bell = p.bell := rfl
@[simp] theorem Part.withdraw_arb (k : SlotClass) (f : Handed → Bool) : (p.withdraw k f).arb = p.arb := rfl
@[simp] theorem Part.withdraw_ann (k : SlotClass) (f : Handed → Bool) : (p.withdraw k f).ann = p.ann := rfl
@[simp] theorem Part.withdraw_drill (k : SlotClass) (f : Handed → Bool) : (p.withdraw k f).drill = p.drill := rfl
@[simp] theorem Part.withdraw_clk (k : SlotClass) (f : Handed → Bool) : (p.withdraw k f).clk = p.clk := rfl
@[simp] theorem Part.withdraw_line (k : SlotClass) (f : Handed → Bool) : (p.withdraw k f).line =
    p.line.withQueue k ((p.line.queueOf k).filter fun h => !f h) := rfl
@[simp] theorem Part.withdraw_chain (k : SlotClass) (f : Handed → Bool) : (p.withdraw k f).chain = p.chain := rfl
@[simp] theorem Part.withdraw_outbox (k : SlotClass) (f : Handed → Bool) : (p.withdraw k f).outbox = p.outbox := rfl

/-! ### modRuntime -/

@[simp] theorem Part.modRuntime_now (pos : Nat) (f : Runtime → Runtime) : (p.modRuntime pos f).now = p.now := rfl
@[simp] theorem Part.modRuntime_backup (pos : Nat) (f : Runtime → Runtime) : (p.modRuntime pos f).backup =
    p.backup := rfl
@[simp] theorem Part.modRuntime_time (pos : Nat) (f : Runtime → Runtime) : (p.modRuntime pos f).time = p.time := rfl
@[simp] theorem Part.modRuntime_cal (pos : Nat) (f : Runtime → Runtime) : (p.modRuntime pos f).cal = p.cal := rfl
@[simp] theorem Part.modRuntime_bell (pos : Nat) (f : Runtime → Runtime) : (p.modRuntime pos f).bell = p.bell := rfl
@[simp] theorem Part.modRuntime_arb (pos : Nat) (f : Runtime → Runtime) : (p.modRuntime pos f).arb = p.arb := rfl
@[simp] theorem Part.modRuntime_ann (pos : Nat) (f : Runtime → Runtime) : (p.modRuntime pos f).ann = p.ann := rfl
@[simp] theorem Part.modRuntime_drill (pos : Nat) (f : Runtime → Runtime) : (p.modRuntime pos f).drill =
    p.drill := rfl
@[simp] theorem Part.modRuntime_clk (pos : Nat) (f : Runtime → Runtime) : (p.modRuntime pos f).clk = p.clk := rfl
@[simp] theorem Part.modRuntime_line (pos : Nat) (f : Runtime → Runtime) : (p.modRuntime pos f).line = p.line := rfl
@[simp] theorem Part.modRuntime_chain (pos : Nat) (f : Runtime → Runtime) : (p.modRuntime pos f).chain =
    { p.chain with runtime := Tab.modify p.chain.runtime pos f } := rfl
@[simp] theorem Part.modRuntime_outbox (pos : Nat) (f : Runtime → Runtime) : (p.modRuntime pos f).outbox =
    p.outbox := rfl

/-! ### modLink -/

@[simp] theorem Part.modLink_now (pos : Nat) (f : Link → Link) : (p.modLink pos f).now = p.now := rfl
@[simp] theorem Part.modLink_backup (pos : Nat) (f : Link → Link) : (p.modLink pos f).backup = p.backup := rfl
@[simp] theorem Part.modLink_time (pos : Nat) (f : Link → Link) : (p.modLink pos f).time = p.time := rfl
@[simp] theorem Part.modLink_cal (pos : Nat) (f : Link → Link) : (p.modLink pos f).cal = p.cal := rfl
@[simp] theorem Part.modLink_bell (pos : Nat) (f : Link → Link) : (p.modLink pos f).bell = p.bell := rfl
@[simp] theorem Part.modLink_arb (pos : Nat) (f : Link → Link) : (p.modLink pos f).arb = p.arb := rfl
@[simp] theorem Part.modLink_ann (pos : Nat) (f : Link → Link) : (p.modLink pos f).ann = p.ann := rfl
@[simp] theorem Part.modLink_drill (pos : Nat) (f : Link → Link) : (p.modLink pos f).drill = p.drill := rfl
@[simp] theorem Part.modLink_clk (pos : Nat) (f : Link → Link) : (p.modLink pos f).clk = p.clk := rfl
@[simp] theorem Part.modLink_line (pos : Nat) (f : Link → Link) : (p.modLink pos f).line =
    { p.line with links := Tab.modify p.line.links pos f } := rfl
@[simp] theorem Part.modLink_chain (pos : Nat) (f : Link → Link) : (p.modLink pos f).chain = p.chain := rfl
@[simp] theorem Part.modLink_outbox (pos : Nat) (f : Link → Link) : (p.modLink pos f).outbox = p.outbox := rfl

/-! ### modZone -/

@[simp] theorem Part.modZone_now (z : Nat) (f : Zone → Zone) : (p.modZone z f).now = p.now := rfl
@[simp] theorem Part.modZone_backup (z : Nat) (f : Zone → Zone) : (p.modZone z f).backup = p.backup := rfl
@[simp] theorem Part.modZone_time (z : Nat) (f : Zone → Zone) : (p.modZone z f).time = p.time := rfl
@[simp] theorem Part.modZone_cal (z : Nat) (f : Zone → Zone) : (p.modZone z f).cal = p.cal := rfl
@[simp] theorem Part.modZone_bell (z : Nat) (f : Zone → Zone) : (p.modZone z f).bell = p.bell := rfl
@[simp] theorem Part.modZone_arb (z : Nat) (f : Zone → Zone) : (p.modZone z f).arb =
    { p.arb with zones := Tab.modify p.arb.zones z f } := rfl
@[simp] theorem Part.modZone_ann (z : Nat) (f : Zone → Zone) : (p.modZone z f).ann = p.ann := rfl
@[simp] theorem Part.modZone_drill (z : Nat) (f : Zone → Zone) : (p.modZone z f).drill = p.drill := rfl
@[simp] theorem Part.modZone_clk (z : Nat) (f : Zone → Zone) : (p.modZone z f).clk = p.clk := rfl
@[simp] theorem Part.modZone_line (z : Nat) (f : Zone → Zone) : (p.modZone z f).line = p.line := rfl
@[simp] theorem Part.modZone_chain (z : Nat) (f : Zone → Zone) : (p.modZone z f).chain = p.chain := rfl
@[simp] theorem Part.modZone_outbox (z : Nat) (f : Zone → Zone) : (p.modZone z f).outbox = p.outbox := rfl

/-! ### changeZone -/

@[simp] theorem Part.changeZone_now (z : Nat) (f : Zone → Zone) : (p.changeZone z f).now = p.now := rfl
@[simp] theorem Part.changeZone_backup (z : Nat) (f : Zone → Zone) : (p.changeZone z f).backup = p.backup := rfl
@[simp] theorem Part.changeZone_time (z : Nat) (f : Zone → Zone) : (p.changeZone z f).time = p.time := rfl
@[simp] theorem Part.changeZone_cal (z : Nat) (f : Zone → Zone) : (p.changeZone z f).cal = p.cal := rfl
@[simp] theorem Part.changeZone_bell (z : Nat) (f : Zone → Zone) : (p.changeZone z f).bell = p.bell := rfl
@[simp] theorem Part.changeZone_arb (z : Nat) (f : Zone → Zone) : (p.changeZone z f).arb =
    { p.arb with zones := Tab.modify p.arb.zones z fun x => (f x).evaluate (p.able z) (p.served z) p.now } := rfl
@[simp] theorem Part.changeZone_ann (z : Nat) (f : Zone → Zone) : (p.changeZone z f).ann = p.ann := rfl
@[simp] theorem Part.changeZone_drill (z : Nat) (f : Zone → Zone) : (p.changeZone z f).drill = p.drill := rfl
@[simp] theorem Part.changeZone_clk (z : Nat) (f : Zone → Zone) : (p.changeZone z f).clk = p.clk := rfl
@[simp] theorem Part.changeZone_line (z : Nat) (f : Zone → Zone) : (p.changeZone z f).line = p.line := rfl
@[simp] theorem Part.changeZone_chain (z : Nat) (f : Zone → Zone) : (p.changeZone z f).chain = p.chain := rfl
@[simp] theorem Part.changeZone_outbox (z : Nat) (f : Zone → Zone) : (p.changeZone z f).outbox = p.outbox := rfl

/-! ### modBuilding -/

@[simp] theorem Part.modBuilding_now (b : Nat) (f : Building → Building) : (p.modBuilding b f).now = p.now := rfl
@[simp] theorem Part.modBuilding_backup (b : Nat) (f : Building → Building) : (p.modBuilding b f).backup =
    p.backup := rfl
@[simp] theorem Part.modBuilding_time (b : Nat) (f : Building → Building) : (p.modBuilding b f).time = p.time := rfl
@[simp] theorem Part.modBuilding_cal (b : Nat) (f : Building → Building) : (p.modBuilding b f).cal = p.cal := rfl
@[simp] theorem Part.modBuilding_bell (b : Nat) (f : Building → Building) : (p.modBuilding b f).bell = p.bell := rfl
@[simp] theorem Part.modBuilding_arb (b : Nat) (f : Building → Building) : (p.modBuilding b f).arb =
    { p.arb with buildings := Tab.modify p.arb.buildings b f } := rfl
@[simp] theorem Part.modBuilding_ann (b : Nat) (f : Building → Building) : (p.modBuilding b f).ann = p.ann := rfl
@[simp] theorem Part.modBuilding_drill (b : Nat) (f : Building → Building) : (p.modBuilding b f).drill =
    p.drill := rfl
@[simp] theorem Part.modBuilding_clk (b : Nat) (f : Building → Building) : (p.modBuilding b f).clk = p.clk := rfl
@[simp] theorem Part.modBuilding_line (b : Nat) (f : Building → Building) : (p.modBuilding b f).line = p.line := rfl
@[simp] theorem Part.modBuilding_chain (b : Nat) (f : Building → Building) : (p.modBuilding b f).chain =
    p.chain := rfl
@[simp] theorem Part.modBuilding_outbox (b : Nat) (f : Building → Building) : (p.modBuilding b f).outbox =
    p.outbox := rfl

/-! ### modAnn -/

@[simp] theorem Part.modAnn_now (id : Nat) (f : Announcement → Announcement) : (p.modAnn id f).now = p.now := rfl
@[simp] theorem Part.modAnn_backup (id : Nat) (f : Announcement → Announcement) : (p.modAnn id f).backup =
    p.backup := rfl
@[simp] theorem Part.modAnn_time (id : Nat) (f : Announcement → Announcement) : (p.modAnn id f).time = p.time := rfl
@[simp] theorem Part.modAnn_cal (id : Nat) (f : Announcement → Announcement) : (p.modAnn id f).cal = p.cal := rfl
@[simp] theorem Part.modAnn_bell (id : Nat) (f : Announcement → Announcement) : (p.modAnn id f).bell = p.bell := rfl
@[simp] theorem Part.modAnn_arb (id : Nat) (f : Announcement → Announcement) : (p.modAnn id f).arb = p.arb := rfl
@[simp] theorem Part.modAnn_ann (id : Nat) (f : Announcement → Announcement) : (p.modAnn id f).ann =
    { p.ann with records := p.ann.records.map fun a => if a.id == id then f a else a } := rfl
@[simp] theorem Part.modAnn_drill (id : Nat) (f : Announcement → Announcement) : (p.modAnn id f).drill =
    p.drill := rfl
@[simp] theorem Part.modAnn_clk (id : Nat) (f : Announcement → Announcement) : (p.modAnn id f).clk = p.clk := rfl
@[simp] theorem Part.modAnn_line (id : Nat) (f : Announcement → Announcement) : (p.modAnn id f).line = p.line := rfl
@[simp] theorem Part.modAnn_chain (id : Nat) (f : Announcement → Announcement) : (p.modAnn id f).chain =
    p.chain := rfl
@[simp] theorem Part.modAnn_outbox (id : Nat) (f : Announcement → Announcement) : (p.modAnn id f).outbox =
    p.outbox := rfl

/-! ### modEntries -/

@[simp] theorem Part.modEntries_now (f : List TimelineEntry → List TimelineEntry) : (p.modEntries f).now =
    p.now := rfl
@[simp] theorem Part.modEntries_backup (f : List TimelineEntry → List TimelineEntry) : (p.modEntries f).backup =
    p.backup := rfl
@[simp] theorem Part.modEntries_time (f : List TimelineEntry → List TimelineEntry) : (p.modEntries f).time =
    p.time := rfl
@[simp] theorem Part.modEntries_cal (f : List TimelineEntry → List TimelineEntry) : (p.modEntries f).cal =
    p.cal := rfl
@[simp] theorem Part.modEntries_bell (f : List TimelineEntry → List TimelineEntry) : (p.modEntries f).bell =
    { p.bell with timeline := { p.bell.timeline with entries := f p.bell.timeline.entries } } := rfl
@[simp] theorem Part.modEntries_arb (f : List TimelineEntry → List TimelineEntry) : (p.modEntries f).arb =
    p.arb := rfl
@[simp] theorem Part.modEntries_ann (f : List TimelineEntry → List TimelineEntry) : (p.modEntries f).ann =
    p.ann := rfl
@[simp] theorem Part.modEntries_drill (f : List TimelineEntry → List TimelineEntry) : (p.modEntries f).drill =
    p.drill := rfl
@[simp] theorem Part.modEntries_clk (f : List TimelineEntry → List TimelineEntry) : (p.modEntries f).clk =
    p.clk := rfl
@[simp] theorem Part.modEntries_line (f : List TimelineEntry → List TimelineEntry) : (p.modEntries f).line =
    p.line := rfl
@[simp] theorem Part.modEntries_chain (f : List TimelineEntry → List TimelineEntry) : (p.modEntries f).chain =
    p.chain := rfl
@[simp] theorem Part.modEntries_outbox (f : List TimelineEntry → List TimelineEntry) : (p.modEntries f).outbox =
    p.outbox := rfl

/-! ### setPlan -/

@[simp] theorem Part.setPlan_now (n : Nat) (es : List BellEntry) : (p.setPlan n es).now = p.now := rfl
@[simp] theorem Part.setPlan_backup (n : Nat) (es : List BellEntry) : (p.setPlan n es).backup = p.backup := rfl
@[simp] theorem Part.setPlan_time (n : Nat) (es : List BellEntry) : (p.setPlan n es).time = p.time := rfl
@[simp] theorem Part.setPlan_cal (n : Nat) (es : List BellEntry) : (p.setPlan n es).cal = p.cal := rfl
@[simp] theorem Part.setPlan_bell (n : Nat) (es : List BellEntry) : (p.setPlan n es).bell =
    { p.bell with plans := Tab.set p.bell.plans n es } := rfl
@[simp] theorem Part.setPlan_arb (n : Nat) (es : List BellEntry) : (p.setPlan n es).arb = p.arb := rfl
@[simp] theorem Part.setPlan_ann (n : Nat) (es : List BellEntry) : (p.setPlan n es).ann = p.ann := rfl
@[simp] theorem Part.setPlan_drill (n : Nat) (es : List BellEntry) : (p.setPlan n es).drill = p.drill := rfl
@[simp] theorem Part.setPlan_clk (n : Nat) (es : List BellEntry) : (p.setPlan n es).clk = p.clk := rfl
@[simp] theorem Part.setPlan_line (n : Nat) (es : List BellEntry) : (p.setPlan n es).line = p.line := rfl
@[simp] theorem Part.setPlan_chain (n : Nat) (es : List BellEntry) : (p.setPlan n es).chain = p.chain := rfl
@[simp] theorem Part.setPlan_outbox (n : Nat) (es : List BellEntry) : (p.setPlan n es).outbox = p.outbox := rfl

/-! ### modDisplay -/

@[simp] theorem Part.modDisplay_now (pos : Nat) (f : Display → Display) : (p.modDisplay pos f).now = p.now := rfl
@[simp] theorem Part.modDisplay_backup (pos : Nat) (f : Display → Display) : (p.modDisplay pos f).backup =
    p.backup := rfl
@[simp] theorem Part.modDisplay_time (pos : Nat) (f : Display → Display) : (p.modDisplay pos f).time = p.time := rfl
@[simp] theorem Part.modDisplay_cal (pos : Nat) (f : Display → Display) : (p.modDisplay pos f).cal = p.cal := rfl
@[simp] theorem Part.modDisplay_bell (pos : Nat) (f : Display → Display) : (p.modDisplay pos f).bell = p.bell := rfl
@[simp] theorem Part.modDisplay_arb (pos : Nat) (f : Display → Display) : (p.modDisplay pos f).arb = p.arb := rfl
@[simp] theorem Part.modDisplay_ann (pos : Nat) (f : Display → Display) : (p.modDisplay pos f).ann = p.ann := rfl
@[simp] theorem Part.modDisplay_drill (pos : Nat) (f : Display → Display) : (p.modDisplay pos f).drill =
    p.drill := rfl
@[simp] theorem Part.modDisplay_clk (pos : Nat) (f : Display → Display) : (p.modDisplay pos f).clk =
    { p.clk with displays := Tab.modify p.clk.displays pos f } := rfl
@[simp] theorem Part.modDisplay_line (pos : Nat) (f : Display → Display) : (p.modDisplay pos f).line = p.line := rfl
@[simp] theorem Part.modDisplay_chain (pos : Nat) (f : Display → Display) : (p.modDisplay pos f).chain =
    p.chain := rfl
@[simp] theorem Part.modDisplay_outbox (pos : Nat) (f : Display → Display) : (p.modDisplay pos f).outbox =
    p.outbox := rfl

/-! ### setCircuit -/

@[simp] theorem Part.setCircuit_now (c : Nat) (r : Option Circuit) : (p.setCircuit c r).now = p.now := rfl
@[simp] theorem Part.setCircuit_backup (c : Nat) (r : Option Circuit) : (p.setCircuit c r).backup = p.backup := rfl
@[simp] theorem Part.setCircuit_time (c : Nat) (r : Option Circuit) : (p.setCircuit c r).time = p.time := rfl
@[simp] theorem Part.setCircuit_cal (c : Nat) (r : Option Circuit) : (p.setCircuit c r).cal = p.cal := rfl
@[simp] theorem Part.setCircuit_bell (c : Nat) (r : Option Circuit) : (p.setCircuit c r).bell = p.bell := rfl
@[simp] theorem Part.setCircuit_arb (c : Nat) (r : Option Circuit) : (p.setCircuit c r).arb = p.arb := rfl
@[simp] theorem Part.setCircuit_ann (c : Nat) (r : Option Circuit) : (p.setCircuit c r).ann = p.ann := rfl
@[simp] theorem Part.setCircuit_drill (c : Nat) (r : Option Circuit) : (p.setCircuit c r).drill = p.drill := rfl
@[simp] theorem Part.setCircuit_clk (c : Nat) (r : Option Circuit) : (p.setCircuit c r).clk =
    { p.clk with circuits := Tab.set p.clk.circuits c r } := rfl
@[simp] theorem Part.setCircuit_line (c : Nat) (r : Option Circuit) : (p.setCircuit c r).line = p.line := rfl
@[simp] theorem Part.setCircuit_chain (c : Nat) (r : Option Circuit) : (p.setCircuit c r).chain = p.chain := rfl
@[simp] theorem Part.setCircuit_outbox (c : Nat) (r : Option Circuit) : (p.setCircuit c r).outbox = p.outbox := rfl

/-! ### modRun -/

@[simp] theorem Part.modRun_now (f : DrillRun → DrillRun) : (p.modRun f).now = p.now := rfl
@[simp] theorem Part.modRun_backup (f : DrillRun → DrillRun) : (p.modRun f).backup = p.backup := rfl
@[simp] theorem Part.modRun_time (f : DrillRun → DrillRun) : (p.modRun f).time = p.time := rfl
@[simp] theorem Part.modRun_cal (f : DrillRun → DrillRun) : (p.modRun f).cal = p.cal := rfl
@[simp] theorem Part.modRun_bell (f : DrillRun → DrillRun) : (p.modRun f).bell = p.bell := rfl
@[simp] theorem Part.modRun_arb (f : DrillRun → DrillRun) : (p.modRun f).arb = p.arb := rfl
@[simp] theorem Part.modRun_ann (f : DrillRun → DrillRun) : (p.modRun f).ann = p.ann := rfl
@[simp] theorem Part.modRun_drill (f : DrillRun → DrillRun) : (p.modRun f).drill =
    { p.drill with run := p.drill.run.map f } := rfl
@[simp] theorem Part.modRun_clk (f : DrillRun → DrillRun) : (p.modRun f).clk = p.clk := rfl
@[simp] theorem Part.modRun_line (f : DrillRun → DrillRun) : (p.modRun f).line = p.line := rfl
@[simp] theorem Part.modRun_chain (f : DrillRun → DrillRun) : (p.modRun f).chain = p.chain := rfl
@[simp] theorem Part.modRun_outbox (f : DrillRun → DrillRun) : (p.modRun f).outbox = p.outbox := rfl

/-! ### setSchedule -/

@[simp] theorem Part.setSchedule_now (l : List ScheduleEntry) : (p.setSchedule l).now = p.now := rfl
@[simp] theorem Part.setSchedule_backup (l : List ScheduleEntry) : (p.setSchedule l).backup = p.backup := rfl
@[simp] theorem Part.setSchedule_time (l : List ScheduleEntry) : (p.setSchedule l).time = p.time := rfl
@[simp] theorem Part.setSchedule_cal (l : List ScheduleEntry) : (p.setSchedule l).cal = p.cal := rfl
@[simp] theorem Part.setSchedule_bell (l : List ScheduleEntry) : (p.setSchedule l).bell = p.bell := rfl
@[simp] theorem Part.setSchedule_arb (l : List ScheduleEntry) : (p.setSchedule l).arb = p.arb := rfl
@[simp] theorem Part.setSchedule_ann (l : List ScheduleEntry) : (p.setSchedule l).ann = p.ann := rfl
@[simp] theorem Part.setSchedule_drill (l : List ScheduleEntry) : (p.setSchedule l).drill =
    { p.drill with schedule := l } := rfl
@[simp] theorem Part.setSchedule_clk (l : List ScheduleEntry) : (p.setSchedule l).clk = p.clk := rfl
@[simp] theorem Part.setSchedule_line (l : List ScheduleEntry) : (p.setSchedule l).line = p.line := rfl
@[simp] theorem Part.setSchedule_chain (l : List ScheduleEntry) : (p.setSchedule l).chain = p.chain := rfl
@[simp] theorem Part.setSchedule_outbox (l : List ScheduleEntry) : (p.setSchedule l).outbox = p.outbox := rfl

/-! ### moveTime -/

@[simp] theorem Part.moveTime_now (t : CampusTime) : (p.moveTime t).now = p.now := rfl
@[simp] theorem Part.moveTime_backup (t : CampusTime) : (p.moveTime t).backup =
    { p.backup with day := t.day, tod := t.tod } := rfl
@[simp] theorem Part.moveTime_time (t : CampusTime) : (p.moveTime t).time = { p.time with held := false } := rfl
@[simp] theorem Part.moveTime_cal (t : CampusTime) : (p.moveTime t).cal = p.cal := rfl
@[simp] theorem Part.moveTime_bell (t : CampusTime) : (p.moveTime t).bell = p.bell := rfl
@[simp] theorem Part.moveTime_arb (t : CampusTime) : (p.moveTime t).arb = p.arb := rfl
@[simp] theorem Part.moveTime_ann (t : CampusTime) : (p.moveTime t).ann = p.ann := rfl
@[simp] theorem Part.moveTime_drill (t : CampusTime) : (p.moveTime t).drill = p.drill := rfl
@[simp] theorem Part.moveTime_clk (t : CampusTime) : (p.moveTime t).clk = p.clk := rfl
@[simp] theorem Part.moveTime_line (t : CampusTime) : (p.moveTime t).line = p.line := rfl
@[simp] theorem Part.moveTime_chain (t : CampusTime) : (p.moveTime t).chain = p.chain := rfl
@[simp] theorem Part.moveTime_outbox (t : CampusTime) : (p.moveTime t).outbox = p.outbox := rfl

/-! ### cancelTrim -/

@[simp] theorem Part.cancelTrim_now : (p.cancelTrim).now = p.now := rfl
@[simp] theorem Part.cancelTrim_backup : (p.cancelTrim).backup = p.backup := rfl
@[simp] theorem Part.cancelTrim_time : (p.cancelTrim).time = { p.time with trim := 0, held := false } := rfl
@[simp] theorem Part.cancelTrim_cal : (p.cancelTrim).cal = p.cal := rfl
@[simp] theorem Part.cancelTrim_bell : (p.cancelTrim).bell = p.bell := rfl
@[simp] theorem Part.cancelTrim_arb : (p.cancelTrim).arb = p.arb := rfl
@[simp] theorem Part.cancelTrim_ann : (p.cancelTrim).ann = p.ann := rfl
@[simp] theorem Part.cancelTrim_drill : (p.cancelTrim).drill = p.drill := rfl
@[simp] theorem Part.cancelTrim_clk : (p.cancelTrim).clk = p.clk := rfl
@[simp] theorem Part.cancelTrim_line : (p.cancelTrim).line = p.line := rfl
@[simp] theorem Part.cancelTrim_chain : (p.cancelTrim).chain = p.chain := rfl
@[simp] theorem Part.cancelTrim_outbox : (p.cancelTrim).outbox = p.outbox := rfl

/-! ### setWork -/

@[simp] theorem Part.setWork_now (l : List Task) : (p.setWork l).now = p.now := rfl
@[simp] theorem Part.setWork_backup (l : List Task) : (p.setWork l).backup = p.backup := rfl
@[simp] theorem Part.setWork_time (l : List Task) : (p.setWork l).time = p.time := rfl
@[simp] theorem Part.setWork_cal (l : List Task) : (p.setWork l).cal = p.cal := rfl
@[simp] theorem Part.setWork_bell (l : List Task) : (p.setWork l).bell = p.bell := rfl
@[simp] theorem Part.setWork_arb (l : List Task) : (p.setWork l).arb = p.arb := rfl
@[simp] theorem Part.setWork_ann (l : List Task) : (p.setWork l).ann = p.ann := rfl
@[simp] theorem Part.setWork_drill (l : List Task) : (p.setWork l).drill = p.drill := rfl
@[simp] theorem Part.setWork_clk (l : List Task) : (p.setWork l).clk = p.clk := rfl
@[simp] theorem Part.setWork_line (l : List Task) : (p.setWork l).line = p.line := rfl
@[simp] theorem Part.setWork_chain (l : List Task) : (p.setWork l).chain = { p.chain with work := l } := rfl
@[simp] theorem Part.setWork_outbox (l : List Task) : (p.setWork l).outbox = p.outbox := rfl

/-! ### startRetry -/

@[simp] theorem Part.startRetry_now : (p.startRetry).now = p.now := rfl
@[simp] theorem Part.startRetry_backup : (p.startRetry).backup = p.backup := rfl
@[simp] theorem Part.startRetry_time : (p.startRetry).time = p.time := rfl
@[simp] theorem Part.startRetry_cal : (p.startRetry).cal = p.cal := rfl
@[simp] theorem Part.startRetry_bell : (p.startRetry).bell = p.bell := rfl
@[simp] theorem Part.startRetry_arb : (p.startRetry).arb = p.arb := rfl
@[simp] theorem Part.startRetry_ann : (p.startRetry).ann = p.ann := rfl
@[simp] theorem Part.startRetry_drill : (p.startRetry).drill = p.drill := rfl
@[simp] theorem Part.startRetry_clk : (p.startRetry).clk = p.clk := rfl
@[simp] theorem Part.startRetry_line : (p.startRetry).line = p.line := rfl
@[simp] theorem Part.startRetry_chain : (p.startRetry).chain =
    { p.chain with retryAt := some (p.inSeconds p.chain.interval) } := rfl
@[simp] theorem Part.startRetry_outbox : (p.startRetry).outbox = p.outbox := rfl

/-! ### waitStep -/

@[simp] theorem Part.waitStep_now (st : Step) : (p.waitStep st).now = p.now := rfl
@[simp] theorem Part.waitStep_backup (st : Step) : (p.waitStep st).backup = p.backup := rfl
@[simp] theorem Part.waitStep_time (st : Step) : (p.waitStep st).time = p.time := rfl
@[simp] theorem Part.waitStep_cal (st : Step) : (p.waitStep st).cal = p.cal := rfl
@[simp] theorem Part.waitStep_bell (st : Step) : (p.waitStep st).bell = p.bell := rfl
@[simp] theorem Part.waitStep_arb (st : Step) : (p.waitStep st).arb = p.arb := rfl
@[simp] theorem Part.waitStep_ann (st : Step) : (p.waitStep st).ann = p.ann := rfl
@[simp] theorem Part.waitStep_drill (st : Step) : (p.waitStep st).drill = p.drill := rfl
@[simp] theorem Part.waitStep_clk (st : Step) : (p.waitStep st).clk = p.clk := rfl
@[simp] theorem Part.waitStep_line (st : Step) : (p.waitStep st).line = p.line := rfl
@[simp] theorem Part.waitStep_chain (st : Step) : (p.waitStep st).chain =
    { p.chain with step := some st, stepNo := p.chain.stepNo + 1 } := rfl
@[simp] theorem Part.waitStep_outbox (st : Step) : (p.waitStep st).outbox = p.outbox := rfl

/-! ### cutPort -/

@[simp] theorem Part.cutPort_now : (p.cutPort).now = p.now := rfl
@[simp] theorem Part.cutPort_backup : (p.cutPort).backup = p.backup := rfl
@[simp] theorem Part.cutPort_time : (p.cutPort).time = p.time := rfl
@[simp] theorem Part.cutPort_cal : (p.cutPort).cal = p.cal := rfl
@[simp] theorem Part.cutPort_bell : (p.cutPort).bell = p.bell := rfl
@[simp] theorem Part.cutPort_arb : (p.cutPort).arb = p.arb := rfl
@[simp] theorem Part.cutPort_ann : (p.cutPort).ann = p.ann := rfl
@[simp] theorem Part.cutPort_drill : (p.cutPort).drill = p.drill := rfl
@[simp] theorem Part.cutPort_clk : (p.cutPort).clk = p.clk := rfl
@[simp] theorem Part.cutPort_line : (p.cutPort).line = p.line := rfl
@[simp] theorem Part.cutPort_chain : (p.cutPort).chain = { p.chain with headCut := some (p.inSeconds 1) } := rfl
@[simp] theorem Part.cutPort_outbox : (p.cutPort).outbox = p.outbox := rfl

end Sys2Proof.Machine
end

