-- ==== Sys2Proof/Laws/Keeps.lean ====
section
/-! SUPPORT. No operation on node power, claims, announcements or displays touches the core of the part. -/

namespace Sys2Proof.Machine

/-- A queue is no part of the fixed line engine. -/
@[simp] theorem LineEngine.fixed_withQueue (l : LineEngine) (k : SlotClass) (q : List Handed) :
    (l.withQueue k q).fixed = l.fixed := by cases k <;> rfl

/-- A walk over a list leaves the core when each of its steps does. -/
theorem Part.core_each {α : Type} (f : Part → α → Part) (h : ∀ q a, (f q a).core = q.core) (l : List α) :
    ∀ p : Part, (p.each l f).core = p.core := by
  induction l with
  | nil => intro p; rfl
  | cons a l ih => intro p; exact (ih (f p a)).trans (h p a)

set_option linter.unusedSimpArgs false

section
variable (p : Part)

@[simp] theorem Part.core_with_ann (x : Announcer) : ({ p with ann := x } : Part).core = p.core := rfl
@[simp] theorem Part.core_with_outbox (x : List Message) : ({ p with outbox := x } : Part).core = p.core := rfl

@[simp] theorem Part.core_send (m : Message) : (p.send m).core = p.core := rfl
@[simp] theorem Part.core_note (n : Notice) : (p.note n).core = p.core := rfl
@[simp] theorem Part.core_endOp (st : Status) (f : OpFields) : (p.endOp st f).core = p.core := rfl
@[simp] theorem Part.core_hand (c : LineCommand) (t : Option Nat) (w : Sender) : (p.hand c t w).core = p.core := by
  simp [Part.core]
@[simp] theorem Part.core_withdraw (k : SlotClass) (f : Handed → Bool) : (p.withdraw k f).core = p.core := by
  simp [Part.core]
@[simp] theorem Part.core_modRuntime (pos : Nat) (f : Runtime → Runtime) : (p.modRuntime pos f).core = p.core := rfl
@[simp] theorem Part.core_modZone (z : Nat) (f : Zone → Zone) : (p.modZone z f).core = p.core := rfl
@[simp] theorem Part.core_changeZone (z : Nat) (f : Zone → Zone) : (p.changeZone z f).core = p.core := rfl
@[simp] theorem Part.core_modAnn (id : Nat) (f : Announcement → Announcement) : (p.modAnn id f).core = p.core := rfl
@[simp] theorem Part.core_modDisplay (pos : Nat) (f : Display → Display) : (p.modDisplay pos f).core = p.core := rfl

@[simp] theorem Part.core_wake (pos : Nat) : (p.wake pos).core = p.core := by
  unfold Part.wake; (repeat' split) <;> simp [Part.core_each, apply_ite Part.core]
@[simp] theorem Part.core_sendQuiet (pos : Nat) : (p.sendQuiet pos).core = p.core := by
  unfold Part.sendQuiet; (repeat' split) <;> simp [Part.core_each, apply_ite Part.core]
@[simp] theorem Part.core_quietIfInside (pos : Nat) : (p.quietIfInside pos).core = p.core := by
  unfold Part.quietIfInside; (repeat' split) <;> simp [Part.core_each, apply_ite Part.core]
@[simp] theorem Part.core_quietBegins : (p.quietBegins).core = p.core := by
  unfold Part.quietBegins; (repeat' split) <;> simp [Part.core_each, apply_ite Part.core]
@[simp] theorem Part.core_quietEnds : (p.quietEnds).core = p.core := by
  unfold Part.quietEnds; (repeat' split) <;> simp [Part.core_each, apply_ite Part.core]
@[simp] theorem Part.core_quietAfterWaking (pos : Nat) : (p.quietAfterWaking pos).core = p.core := by
  unfold Part.quietAfterWaking; (repeat' split) <;> simp [Part.core_each, apply_ite Part.core]
@[simp] theorem Part.core_bringToPower (pos : Nat) : (p.bringToPower pos).core = p.core := by
  unfold Part.bringToPower; (repeat' split) <;> simp [Part.core_each, apply_ite Part.core]
@[simp] theorem Part.core_quietAfterDrill (l : List Nat) : (p.quietAfterDrill l).core = p.core := by
  unfold Part.quietAfterDrill; (repeat' split) <;> simp [Part.core_each, apply_ite Part.core]
/-- *Claims clear* keeps the core. -/
@[simp] theorem Part.core_claimsClear (before : Part) (z : Nat) : (Part.claimsClear before p z).core = p.core := by
  unfold Part.claimsClear; (repeat' split) <;> simp
@[simp] theorem Part.core_wakeFor (z : Nat) : (p.wakeFor z).core = p.core := by
  unfold Part.wakeFor; (repeat' split) <;> simp [Part.core_each, apply_ite Part.core]
@[simp] theorem Part.core_endBell (z : Nat) : (p.endBell z).core = p.core := by
  unfold Part.endBell; (repeat' split) <;> simp [Part.core_each, apply_ite Part.core]
@[simp] theorem Part.core_zoneOfNode (a b : Bool) (z : Nat) : (p.zoneOfNode a b z).core = p.core := by
  unfold Part.zoneOfNode; (repeat' split) <;> simp [Part.core_each, apply_ite Part.core]
@[simp] theorem Part.core_noteAnn (id : Nat) (e : AnnounceEvent) : (p.noteAnn id e).core = p.core := by
  unfold Part.noteAnn; (repeat' split) <;> simp [Part.core_each, apply_ite Part.core]
@[simp] theorem Part.core_removeAnn (id : Nat) (c : EndCause) : (p.removeAnn id c).core = p.core := by
  unfold Part.removeAnn; (repeat' split) <;> simp [Part.core_each, apply_ite Part.core]
@[simp] theorem Part.core_enlist (id z : Nat) : (p.enlist id z).core = p.core := by
  unfold Part.enlist; (repeat' split) <;> simp [Part.core_each, apply_ite Part.core]
@[simp] theorem Part.core_grant (id z : Nat) : (p.grant id z).core = p.core := by
  unfold Part.grant; (repeat' split) <;> simp [Part.core_each, apply_ite Part.core]
@[simp] theorem Part.core_offerZone (z : Nat) : (p.offerZone z).core = p.core := by
  unfold Part.offerZone; (repeat' split) <;> simp [Part.core_each, apply_ite Part.core]
@[simp] theorem Part.core_offerNode (pos : Nat) : (p.offerNode pos).core = p.core := by
  unfold Part.offerNode; (repeat' split) <;> simp [Part.core_each, apply_ite Part.core]
@[simp] theorem Part.core_changeJoin (id z : Nat) (st : JoinState) : (p.changeJoin id z st).core = p.core := by
  unfold Part.changeJoin; (repeat' split) <;> simp [Part.core_each, apply_ite Part.core]
@[simp] theorem Part.core_settleEntries (id : Nat) : (p.settleEntries id).core = p.core := by
  unfold Part.settleEntries; (repeat' split) <;> simp [Part.core_each, apply_ite Part.core]
@[simp] theorem Part.core_removeIfSettled (id : Nat) : (p.removeIfSettled id).core = p.core := by
  unfold Part.removeIfSettled; (repeat' split) <;> simp [Part.core_each, apply_ite Part.core]
@[simp] theorem Part.core_releaseSlot (z : Nat) : (p.releaseSlot z).core = p.core := by
  unfold Part.releaseSlot; (repeat' split) <;> simp [Part.core_each, apply_ite Part.core]
@[simp] theorem Part.core_giveBack (id z : Nat) : (p.giveBack id z).core = p.core := by
  unfold Part.giveBack; (repeat' split) <;> simp [Part.core_each, apply_ite Part.core]
@[simp] theorem Part.core_withdrawEntry (id z : Nat) : (p.withdrawEntry id z).core = p.core := by
  unfold Part.withdrawEntry; (repeat' split) <;> simp [Part.core_each, apply_ite Part.core]
@[simp] theorem Part.core_enterEnding (id : Nat) (c : EndCause) : (p.enterEnding id c).core = p.core := by
  unfold Part.enterEnding; (repeat' split) <;> simp [Part.core_each, apply_ite Part.core]
@[simp] theorem Part.core_testDisplaced (id : Nat) : (p.testDisplaced id).core = p.core := by
  unfold Part.testDisplaced; (repeat' split) <;> simp [Part.core_each, apply_ite Part.core]
@[simp] theorem Part.core_loseJoin (id z : Nat) (st : JoinState) : (p.loseJoin id z st).core = p.core := by
  unfold Part.loseJoin; (repeat' split) <;> simp [Part.core_each, apply_ite Part.core]
@[simp] theorem Part.core_settleZones (zs : List Nat) : (p.settleZones zs).core = p.core := by
  unfold Part.settleZones; (repeat' split) <;> simp [Part.core_each, apply_ite Part.core]
@[simp] theorem Part.core_reviseZone (z : Nat) (f : Zone → Zone) : (p.reviseZone z f).core = p.core := by
  unfold Part.reviseZone; dsimp only; split <;> simp
@[simp] theorem Part.core_reviewZone (z : Nat) : (p.reviewZone z).core = p.core := by
  unfold Part.reviewZone; (repeat' split) <;> simp [Part.core_each, apply_ite Part.core]
@[simp] theorem Part.core_loseOffers (z : Nat) (os : List Offer) (st : JoinState) : (p.loseOffers z os st).core = p.core := by
  unfold Part.loseOffers; (repeat' split) <;> simp [Part.core_each, apply_ite Part.core]
@[simp] theorem Part.core_loseHeld (z : Nat) (a : Option AnnounceClaim) : (p.loseHeld z a).core = p.core := by
  unfold Part.loseHeld; (repeat' split) <;> simp [Part.core_each, apply_ite Part.core]
@[simp] theorem Part.core_emptyOffers (z : Nat) : (p.emptyOffers z).core = p.core := by
  unfold Part.emptyOffers; (repeat' split) <;> simp [Part.core_each, apply_ite Part.core]
@[simp] theorem Part.core_changeDrill (z pattern : Nat) : (p.changeDrill z pattern).core = p.core := by
  unfold Part.changeDrill; (repeat' split) <;> simp [Part.core_each, apply_ite Part.core]
@[simp] theorem Part.core_releaseDrill (z : Nat) : (p.releaseDrill z).core = p.core := by
  unfold Part.releaseDrill; (repeat' split) <;> simp [Part.core_each, apply_ite Part.core]
@[simp] theorem Part.core_endClaims (z : Nat) : (p.endClaims z).core = p.core := by
  unfold Part.endClaims; (repeat' split) <;> simp [Part.core_each, apply_ite Part.core]
@[simp] theorem Part.core_requestSlot (id z : Nat) : (p.requestSlot id z).core = p.core := by
  unfold Part.requestSlot; dsimp only; (repeat' split) <;> simp
@[simp] theorem Part.core_startAnn (id : Nat) : (p.startAnn id).core = p.core := by
  unfold Part.startAnn; (repeat' split) <;> simp [Part.core_each, apply_ite Part.core]
@[simp] theorem Part.core_releaseLane (pos : Nat) (i : PagingInput) : (p.releaseLane pos i).core = p.core := by
  refine Part.core_each _ (fun q z => ?_) _ p
  split <;> simp
@[simp] theorem Part.core_enforceOnce (pos : Nat) : (p.enforceOnce pos).core = p.core := by
  unfold Part.enforceOnce; (repeat' split) <;> simp
@[simp] theorem Part.core_enforceCapacity (pos : Nat) : (p.enforceCapacity pos).core = p.core := by
  unfold Part.enforceCapacity; (repeat' split) <;> simp [Part.core_each, apply_ite Part.core]
@[simp] theorem Part.core_capacityChanged (pos old : Nat) : (p.capacityChanged pos old).core = p.core := by
  unfold Part.capacityChanged; (repeat' split) <;> simp [Part.core_each, apply_ite Part.core]
@[simp] theorem Part.core_clearClaims : (p.clearClaims).core = p.core := by
  exact (Part.core_each _ (fun q z => by simp) _ _).trans (Part.core_each _ (fun q id => by simp) _ p)
@[simp] theorem Part.core_keepDisplay (pos : Nat) : (p.keepDisplay pos).core = p.core := by
  unfold Part.keepDisplay; (repeat' split) <;> simp [Part.core_each, apply_ite Part.core]
@[simp] theorem Part.core_changeDisplay (pos : Nat) (f : Display → Display) : (p.changeDisplay pos f).core = p.core := by
  unfold Part.changeDisplay; (repeat' split) <;> simp [Part.core_each, apply_ite Part.core]
@[simp] theorem Part.core_displayList (on : Bool) (l : List Nat) : (p.displayList on l).core = p.core := by
  unfold Part.displayList; (repeat' split) <;> simp [Part.core_each, apply_ite Part.core]
@[simp] theorem Part.core_displayConfirmed (pos : Nat) (m : DisplayMode) : (p.displayConfirmed pos m).core = p.core := by
  unfold Part.displayConfirmed; (repeat' split) <;> simp [Part.core_each, apply_ite Part.core]
@[simp] theorem Part.core_displayGivenUp (pos : Nat) : (p.displayGivenUp pos).core = p.core := by
  unfold Part.displayGivenUp; (repeat' split) <;> simp [Part.core_each, apply_ite Part.core]
@[simp] theorem Part.core_displayReady (pos : Nat) (b : Bool) : (p.displayReady pos b).core = p.core := by
  unfold Part.displayReady; (repeat' split) <;> simp [Part.core_each, apply_ite Part.core]
@[simp] theorem Part.core_displayLeft (pos : Nat) : (p.displayLeft pos).core = p.core := by
  unfold Part.displayLeft; (repeat' split) <;> simp [Part.core_each, apply_ite Part.core]

/-- A start of waiting announcements keeps the core. -/
@[simp] theorem Part.core_startQueued (n : Nat) : (p.startQueued n).core = p.core := by
  induction n generalizing p with
  | zero => rfl
  | succ n ih =>
    unfold Part.startQueued; dsimp only
    split <;> simp [ih]

/-- A start of what waits keeps the core. -/
@[simp] theorem Part.core_startFree : p.startFree.core = p.core := by simp [Part.startFree]

/-- The end of a step keeps the core. -/
@[simp] theorem Part.core_settle : p.settle.core = p.core := by simp [Part.settle]

/-- A bell posting keeps the core. -/
@[simp] theorem Part.core_postBell (z : Nat) (c : BellClaim) : (p.postBell z c).1.core = p.core := by
  unfold Part.postBell; split <;> simp

/-- The drop of a posting keeps the core. -/
@[simp] theorem Part.core_dropPosting (n : Nat) : (p.dropPosting n).1.core = p.core := by
  simp [Part.dropPosting, Part.core_each]

/-- A drill posting keeps the core. -/
@[simp] theorem Part.core_postDrill (z a b : Nat) : (p.postDrill z a b).1.core = p.core := by
  unfold Part.postDrill; split <;> simp

end

end Sys2Proof.Machine
end

