-- ==== Sys2Proof/Laws/Layout.lean ====
section
/-! SUPPORT. What every operation of the blocks leaves: the tables that only their requests write, and the clock. -/

namespace Sys2Proof.Machine

set_option linter.unusedSimpArgs false

/-! ### Tables of records -/

/-- A record changed in a way that `g` does not see. -/
theorem Tab.map_modify {α β : Type} {n : Nat} (v : Vector α n) (i : Nat) (f : α → α) (g : α → β)
    (h : ∀ a, v[i]? = some a → g (f a) = g a) : (Tab.modify v i f).map g = v.map g := by
  unfold Tab.modify
  split
  next a ha =>
    ext j hj
    simp only [Vector.getElem_map, Vector.getElem_setIfInBounds]
    split
    next e =>
      subst e
      rw [h a ha]
      rw [Vector.getElem?_eq_getElem hj] at ha
      simpa using (congrArg g (Option.some.inj ha)).symm
    · rfl
  · rfl

/-- A walk over a list leaves the layout when each of its steps does. -/
theorem Part.layout_each {α : Type} (f : Part → α → Part) (h : ∀ q a, (f q a).layout = q.layout) (l : List α) :
    ∀ p : Part, (p.each l f).layout = p.layout := by
  induction l with
  | nil => intro p; rfl
  | cons a l ih => intro p; exact (ih (f p a)).trans (h p a)

/-- A walk over a list leaves the clock when each of its steps does. -/
theorem Part.clock_each {α : Type} (f : Part → α → Part) (h : ∀ q a, (f q a).clock = q.clock) (l : List α) :
    ∀ p : Part, (p.each l f).clock = p.clock := by
  induction l with
  | nil => intro p; rfl
  | cons a l ih => intro p; exact (ih (f p a)).trans (h p a)

section
variable (p : Part)

@[simp] theorem Part.layout_with_backup (x : Backup) : ({ p with backup := x } : Part).layout = p.layout := rfl
@[simp] theorem Part.layout_with_time (x : TimeKeeper) : ({ p with time := x } : Part).layout = p.layout := rfl
@[simp] theorem Part.layout_with_time_backup (y : Backup) (x : TimeKeeper) :
    ({ p with time := x, backup := y } : Part).layout = p.layout := rfl
@[simp] theorem Part.layout_with_ann (x : Announcer) : ({ p with ann := x } : Part).layout = p.layout := rfl
@[simp] theorem Part.layout_with_line (x : LineEngine) : ({ p with line := x } : Part).layout = p.layout := rfl
@[simp] theorem Part.layout_with_outbox (x : List Message) : ({ p with outbox := x } : Part).layout = p.layout := rfl
@[simp] theorem Part.layout_with_cal (x : Calendar) (h : x.week = p.cal.week ∧ x.exceptions = p.cal.exceptions ∧ x.quietStart = p.cal.quietStart ∧ x.quietEnd = p.cal.quietEnd ∧
      x.changes.map (fun c => (c.day, c.minute, c.shift)) = p.cal.changes.map fun c => (c.day, c.minute, c.shift)) :
    ({ p with cal := x } : Part).layout = p.layout := by simp [Part.layout, h]
@[simp] theorem Part.layout_with_bell (x : Bells) (h : x.groups = p.bell.groups ∧ x.plans = p.bell.plans ∧ x.grace = p.bell.grace ∧ x.catchUp = p.bell.catchUp) :
    ({ p with bell := x } : Part).layout = p.layout := by simp [Part.layout, h]
@[simp] theorem Part.layout_with_arb (x : Arbiter) (h : x = p.arb) :
    ({ p with arb := x } : Part).layout = p.layout := by simp [Part.layout, h]
@[simp] theorem Part.layout_with_drill (x : DrillTimer) (h : x.programs = p.drill.programs ∧
      x.schedule.map (fun e => (e.day, e.minute, e.program)) = p.drill.schedule.map fun e => (e.day, e.minute, e.program)) :
    ({ p with drill := x } : Part).layout = p.layout := by simp [Part.layout, h]
@[simp] theorem Part.layout_with_clk (x : ClockDriver) (h : x.circuits = p.clk.circuits) :
    ({ p with clk := x } : Part).layout = p.layout := by simp [Part.layout, h]
@[simp] theorem Part.layout_with_chain (x : Chain) (h : x.roster = p.chain.roster ∧ x.length = p.chain.length ∧ x.autoStart = p.chain.autoStart ∧ x.autoSetup = p.chain.autoSetup ∧ x.interval = p.chain.interval) :
    ({ p with chain := x } : Part).layout = p.layout := by simp [Part.layout, h]
@[simp] theorem Part.layout_with_chain_line (x : Chain) (y : LineEngine) (h : x.roster = p.chain.roster ∧ x.length = p.chain.length ∧ x.autoStart = p.chain.autoStart ∧ x.autoSetup = p.chain.autoSetup ∧ x.interval = p.chain.interval) :
    ({ p with chain := x, line := y } : Part).layout = p.layout := by simp [Part.layout, h]

@[simp] theorem Part.clock_with_arb (x : Arbiter) : ({ p with arb := x } : Part).clock = p.clock := rfl
@[simp] theorem Part.clock_with_ann (x : Announcer) : ({ p with ann := x } : Part).clock = p.clock := rfl
@[simp] theorem Part.clock_with_drill (x : DrillTimer) : ({ p with drill := x } : Part).clock = p.clock := rfl
@[simp] theorem Part.clock_with_clk (x : ClockDriver) : ({ p with clk := x } : Part).clock = p.clock := rfl
@[simp] theorem Part.clock_with_line (x : LineEngine) : ({ p with line := x } : Part).clock = p.clock := rfl
@[simp] theorem Part.clock_with_chain (x : Chain) : ({ p with chain := x } : Part).clock = p.clock := rfl
@[simp] theorem Part.clock_with_chain_line (x : Chain) (y : LineEngine) :
    ({ p with chain := x, line := y } : Part).clock = p.clock := rfl
@[simp] theorem Part.clock_with_outbox (x : List Message) : ({ p with outbox := x } : Part).clock = p.clock := rfl

/-- What keeps the core keeps the clock. -/
theorem Part.clock_of_core {p q : Part} (h : q.core = p.core) : q.clock = p.clock := by
  simp only [Part.core, Prod.mk.injEq] at h
  obtain ⟨h1, h2, h3, h4, h5, _⟩ := h
  simp [Part.clock, h1, h2, h3, h4, h5]

@[simp] theorem Zone.kind_evaluate (a b : Bool) (n : Nat) (z : Zone) : (z.evaluate a b n).kind = z.kind := by
  unfold Zone.evaluate Zone.command; dsimp only; (repeat' split) <;> rfl
@[simp] theorem Zone.bellOn_evaluate (a b : Bool) (n : Nat) (z : Zone) : (z.evaluate a b n).bellOn = z.bellOn := by
  unfold Zone.evaluate Zone.command; dsimp only; (repeat' split) <;> rfl
@[simp] theorem Zone.annOn_evaluate (a b : Bool) (n : Nat) (z : Zone) : (z.evaluate a b n).annOn = z.annOn := by
  unfold Zone.evaluate Zone.command; dsimp only; (repeat' split) <;> rfl
@[simp] theorem Zone.bellMask_evaluate (a b : Bool) (n : Nat) (z : Zone) : (z.evaluate a b n).bellMask = z.bellMask := by
  unfold Zone.evaluate Zone.command; dsimp only; (repeat' split) <;> rfl
@[simp] theorem Zone.annMask_evaluate (a b : Bool) (n : Nat) (z : Zone) : (z.evaluate a b n).annMask = z.annMask := by
  unfold Zone.evaluate Zone.command; dsimp only; (repeat' split) <;> rfl

@[simp] theorem Part.layout_modZone (z : Nat) (f : Zone → Zone) (h : ∀ x, (f x).kind = x.kind ∧ (f x).bellOn = x.bellOn ∧ (f x).annOn = x.annOn ∧ (f x).bellMask = x.bellMask ∧
      (f x).annMask = x.annMask) :
    (p.modZone z f).layout = p.layout := by
  have h' : ∀ x, (f x).flags = x.flags := fun x => by simp [h x]
  simp only [Part.modZone, Part.layout, Arbiter.layout, Tab.map_modify _ _ _ _ fun a _ => h' a]
@[simp] theorem Part.layout_changeZone (z : Nat) (f : Zone → Zone) (h : ∀ x, (f x).kind = x.kind ∧ (f x).bellOn = x.bellOn ∧ (f x).annOn = x.annOn ∧ (f x).bellMask = x.bellMask ∧
      (f x).annMask = x.annMask) :
    (p.changeZone z f).layout = p.layout := by
  refine Part.layout_modZone p z _ fun x => ?_
  simpa using h x
@[simp] theorem Part.layout_modBuilding (b : Nat) (f : Building → Building) (h : ∀ x, (f x).zones = x.zones) :
    (p.modBuilding b f).layout = p.layout := by
  simp only [Part.modBuilding, Part.layout, Arbiter.layout, Tab.map_modify _ _ _ _ fun a _ => h a]
@[simp] theorem Part.clock_modBuilding (b : Nat) (f : Building → Building) : (p.modBuilding b f).clock = p.clock := rfl

/-- A request leaves the layout when what it does does. -/
theorem Part.layout_checked (cs : List (Bool × Status)) (act : Part → Part × Answer) (h : (act p).1.layout = p.layout) :
    (checked cs p act).1.layout = p.layout := by
  unfold checked; split
  · rfl
  · exact h
/-- A request leaves the clock when what it does does. -/
theorem Part.clock_checked (cs : List (Bool × Status)) (act : Part → Part × Answer) (h : (act p).1.clock = p.clock) :
    (checked cs p act).1.clock = p.clock := by
  unfold checked; split
  · rfl
  · exact h


/-! ### Ops -/

@[simp] theorem Part.layout_send (m : Message) : (Part.send p m).layout = p.layout := by
  unfold Part.send; (try dsimp only); (repeat' split) <;> (first | (simp [Part.layout_each, apply_ite Part.layout]; done) | (refine (Part.layout_each _ (fun q a => ?_) _ _).trans ?_ <;> (try dsimp only) <;> (repeat' split) <;> (simp; done)) | with_reducible rfl)

@[simp] theorem Part.clock_send (m : Message) : (Part.send p m).clock = p.clock := by
  exact Part.clock_of_core (by simp)

@[simp] theorem Part.layout_note (n : Notice) : (Part.note p n).layout = p.layout := by
  unfold Part.note; (try dsimp only); (repeat' split) <;> (first | (simp [Part.layout_each, apply_ite Part.layout]; done) | (refine (Part.layout_each _ (fun q a => ?_) _ _).trans ?_ <;> (try dsimp only) <;> (repeat' split) <;> (simp; done)) | with_reducible rfl)

@[simp] theorem Part.clock_note (n : Notice) : (Part.note p n).clock = p.clock := by
  exact Part.clock_of_core (by simp)

@[simp] theorem Part.layout_endOp (s : Status) (f : OpFields) : (Part.endOp p s f).layout = p.layout := by
  unfold Part.endOp; (try dsimp only); (repeat' split) <;> (first | (simp [Part.layout_each, apply_ite Part.layout]; done) | (refine (Part.layout_each _ (fun q a => ?_) _ _).trans ?_ <;> (try dsimp only) <;> (repeat' split) <;> (simp; done)) | with_reducible rfl)

@[simp] theorem Part.clock_endOp (s : Status) (f : OpFields) : (Part.endOp p s f).clock = p.clock := by
  exact Part.clock_of_core (by simp)


/-! ### LineQueue -/

@[simp] theorem Part.layout_hand (c : LineCommand) (target : Option Nat) (sender : Sender) : (Part.hand p c target sender).layout = p.layout := by
  unfold Part.hand; (try dsimp only); (repeat' split) <;> (first | (simp [Part.layout_each, apply_ite Part.layout]; done) | (refine (Part.layout_each _ (fun q a => ?_) _ _).trans ?_ <;> (try dsimp only) <;> (repeat' split) <;> (simp; done)) | with_reducible rfl)

@[simp] theorem Part.clock_hand (c : LineCommand) (target : Option Nat) (sender : Sender) : (Part.hand p c target sender).clock = p.clock := by
  exact Part.clock_of_core (by simp)

@[simp] theorem Part.layout_withdraw (k : SlotClass) (which : Handed → Bool) : (Part.withdraw p k which).layout = p.layout := by
  unfold Part.withdraw; (try dsimp only); (repeat' split) <;> (first | (simp [Part.layout_each, apply_ite Part.layout]; done) | (refine (Part.layout_each _ (fun q a => ?_) _ _).trans ?_ <;> (try dsimp only) <;> (repeat' split) <;> (simp; done)) | with_reducible rfl)

@[simp] theorem Part.clock_withdraw (k : SlotClass) (which : Handed → Bool) : (Part.withdraw p k which).clock = p.clock := by
  exact Part.clock_of_core (by simp)

@[simp] theorem Part.layout_modRuntime (pos : Nat) (f : Runtime → Runtime) : (Part.modRuntime p pos f).layout = p.layout := by
  unfold Part.modRuntime; (try dsimp only); (repeat' split) <;> (first | (simp [Part.layout_each, apply_ite Part.layout]; done) | (refine (Part.layout_each _ (fun q a => ?_) _ _).trans ?_ <;> (try dsimp only) <;> (repeat' split) <;> (simp; done)) | with_reducible rfl)

@[simp] theorem Part.clock_modRuntime (pos : Nat) (f : Runtime → Runtime) : (Part.modRuntime p pos f).clock = p.clock := by
  exact Part.clock_of_core (by simp)

@[simp] theorem Part.layout_modLink (pos : Nat) (f : Link → Link) : (Part.modLink p pos f).layout = p.layout := by
  unfold Part.modLink; (try dsimp only); (repeat' split) <;> (first | (simp [Part.layout_each, apply_ite Part.layout]; done) | (refine (Part.layout_each _ (fun q a => ?_) _ _).trans ?_ <;> (try dsimp only) <;> (repeat' split) <;> (simp; done)) | with_reducible rfl)

@[simp] theorem Part.clock_modLink (pos : Nat) (f : Link → Link) : (Part.modLink p pos f).clock = p.clock := by
  unfold Part.modLink; (try dsimp only); (repeat' split) <;> (first | (simp [Part.clock_each, apply_ite Part.clock]; done) | (refine (Part.clock_each _ (fun q a => ?_) _ _).trans ?_ <;> (try dsimp only) <;> (repeat' split) <;> (simp; done)) | with_reducible rfl)


/-! ### Power -/

@[simp] theorem Part.layout_wake (pos : Nat) : (Part.wake p pos).layout = p.layout := by
  unfold Part.wake; (try dsimp only); (repeat' split) <;> (first | (simp [Part.layout_each, apply_ite Part.layout]; done) | (refine (Part.layout_each _ (fun q a => ?_) _ _).trans ?_ <;> (try dsimp only) <;> (repeat' split) <;> (simp; done)) | with_reducible rfl)

@[simp] theorem Part.clock_wake (pos : Nat) : (Part.wake p pos).clock = p.clock := by
  exact Part.clock_of_core (by simp)

@[simp] theorem Part.layout_sendQuiet (pos : Nat) : (Part.sendQuiet p pos).layout = p.layout := by
  unfold Part.sendQuiet; (try dsimp only); (repeat' split) <;> (first | (simp [Part.layout_each, apply_ite Part.layout]; done) | (refine (Part.layout_each _ (fun q a => ?_) _ _).trans ?_ <;> (try dsimp only) <;> (repeat' split) <;> (simp; done)) | with_reducible rfl)

@[simp] theorem Part.clock_sendQuiet (pos : Nat) : (Part.sendQuiet p pos).clock = p.clock := by
  exact Part.clock_of_core (by simp)

@[simp] theorem Part.layout_quietIfInside (pos : Nat) : (Part.quietIfInside p pos).layout = p.layout := by
  unfold Part.quietIfInside; (try dsimp only); (repeat' split) <;> (first | (simp [Part.layout_each, apply_ite Part.layout]; done) | (refine (Part.layout_each _ (fun q a => ?_) _ _).trans ?_ <;> (try dsimp only) <;> (repeat' split) <;> (simp; done)) | with_reducible rfl)

@[simp] theorem Part.clock_quietIfInside (pos : Nat) : (Part.quietIfInside p pos).clock = p.clock := by
  exact Part.clock_of_core (by simp)

@[simp] theorem Part.layout_quietBegins  : (Part.quietBegins p).layout = p.layout := by
  unfold Part.quietBegins; (try dsimp only); (repeat' split) <;> (first | (simp [Part.layout_each, apply_ite Part.layout]; done) | (refine (Part.layout_each _ (fun q a => ?_) _ _).trans ?_ <;> (try dsimp only) <;> (repeat' split) <;> (simp; done)) | with_reducible rfl)

@[simp] theorem Part.clock_quietBegins  : (Part.quietBegins p).clock = p.clock := by
  exact Part.clock_of_core (by simp)

@[simp] theorem Part.layout_quietEnds  : (Part.quietEnds p).layout = p.layout := by
  unfold Part.quietEnds; (try dsimp only); (repeat' split) <;> (first | (simp [Part.layout_each, apply_ite Part.layout]; done) | (refine (Part.layout_each _ (fun q a => ?_) _ _).trans ?_ <;> (try dsimp only) <;> (repeat' split) <;> (simp; done)) | with_reducible rfl)

@[simp] theorem Part.clock_quietEnds  : (Part.quietEnds p).clock = p.clock := by
  exact Part.clock_of_core (by simp)

@[simp] theorem Part.layout_quietAfterWaking (pos : Nat) : (Part.quietAfterWaking p pos).layout = p.layout := by
  unfold Part.quietAfterWaking; (try dsimp only); (repeat' split) <;> (first | (simp [Part.layout_each, apply_ite Part.layout]; done) | (refine (Part.layout_each _ (fun q a => ?_) _ _).trans ?_ <;> (try dsimp only) <;> (repeat' split) <;> (simp; done)) | with_reducible rfl)

@[simp] theorem Part.clock_quietAfterWaking (pos : Nat) : (Part.quietAfterWaking p pos).clock = p.clock := by
  exact Part.clock_of_core (by simp)

@[simp] theorem Part.layout_bringToPower (pos : Nat) : (Part.bringToPower p pos).layout = p.layout := by
  unfold Part.bringToPower; (try dsimp only); (repeat' split) <;> (first | (simp [Part.layout_each, apply_ite Part.layout]; done) | (refine (Part.layout_each _ (fun q a => ?_) _ _).trans ?_ <;> (try dsimp only) <;> (repeat' split) <;> (simp; done)) | with_reducible rfl)

@[simp] theorem Part.clock_bringToPower (pos : Nat) : (Part.bringToPower p pos).clock = p.clock := by
  exact Part.clock_of_core (by simp)

@[simp] theorem Part.layout_quietAfterDrill (scope : List Nat) : (Part.quietAfterDrill p scope).layout = p.layout := by
  unfold Part.quietAfterDrill; (try dsimp only); (repeat' split) <;> (first | (simp [Part.layout_each, apply_ite Part.layout]; done) | (refine (Part.layout_each _ (fun q a => ?_) _ _).trans ?_ <;> (try dsimp only) <;> (repeat' split) <;> (simp; done)) | with_reducible rfl)

@[simp] theorem Part.clock_quietAfterDrill (scope : List Nat) : (Part.quietAfterDrill p scope).clock = p.clock := by
  exact Part.clock_of_core (by simp)

@[simp] theorem Part.layout_claimsClear (before : Part) (z : Nat) : (Part.claimsClear before p z).layout = p.layout := by
  unfold Part.claimsClear; (try dsimp only); (repeat' split) <;> (first | (simp [Part.layout_each, apply_ite Part.layout]; done) | (refine (Part.layout_each _ (fun q a => ?_) _ _).trans ?_ <;> (try dsimp only) <;> (repeat' split) <;> (simp; done)) | with_reducible rfl)

@[simp] theorem Part.clock_claimsClear (before : Part) (z : Nat) : (Part.claimsClear before p z).clock = p.clock := by
  exact Part.clock_of_core (by simp)


/-! ### Arbiter -/

@[simp] theorem Part.layout_wakeFor (z : Nat) : (Part.wakeFor p z).layout = p.layout := by
  unfold Part.wakeFor; (try dsimp only); (repeat' split) <;> (first | (simp [Part.layout_each, apply_ite Part.layout]; done) | (refine (Part.layout_each _ (fun q a => ?_) _ _).trans ?_ <;> (try dsimp only) <;> (repeat' split) <;> (simp; done)) | with_reducible rfl)

@[simp] theorem Part.clock_wakeFor (z : Nat) : (Part.wakeFor p z).clock = p.clock := by
  exact Part.clock_of_core (by simp)

@[simp] theorem Part.layout_postBell (z : Nat) (c : BellClaim) : (Part.postBell p z c).1.layout = p.layout := by
  unfold Part.postBell; (try dsimp only); (repeat' split) <;> (first | (simp [Part.layout_each, apply_ite Part.layout]; done) | (refine (Part.layout_each _ (fun q a => ?_) _ _).trans ?_ <;> (try dsimp only) <;> (repeat' split) <;> (simp; done)) | with_reducible rfl)

@[simp] theorem Part.clock_postBell (z : Nat) (c : BellClaim) : (Part.postBell p z c).1.clock = p.clock := by
  exact Part.clock_of_core (by simp)

@[simp] theorem Part.layout_endBell (z : Nat) : (Part.endBell p z).layout = p.layout := by
  unfold Part.endBell; (try dsimp only); (repeat' split) <;> (first | (simp [Part.layout_each, apply_ite Part.layout]; done) | (refine (Part.layout_each _ (fun q a => ?_) _ _).trans ?_ <;> (try dsimp only) <;> (repeat' split) <;> (simp; done)) | with_reducible rfl)

@[simp] theorem Part.clock_endBell (z : Nat) : (Part.endBell p z).clock = p.clock := by
  exact Part.clock_of_core (by simp)

@[simp] theorem Part.layout_dropPosting (posting : Nat) : (Part.dropPosting p posting).1.layout = p.layout := by
  unfold Part.dropPosting; (try dsimp only); (repeat' split) <;> (first | (simp [Part.layout_each, apply_ite Part.layout]; done) | (refine (Part.layout_each _ (fun q a => ?_) _ _).trans ?_ <;> (try dsimp only) <;> (repeat' split) <;> (simp; done)) | with_reducible rfl)

@[simp] theorem Part.clock_dropPosting (posting : Nat) : (Part.dropPosting p posting).1.clock = p.clock := by
  exact Part.clock_of_core (by simp)

@[simp] theorem Part.layout_zoneOfNode (a b : Bool) (z : Nat) : (p.zoneOfNode a b z).layout = p.layout := by
  unfold Part.zoneOfNode
  refine Part.layout_modZone p z _ fun x => ?_
  dsimp only [Zone.makeDirty]; (repeat' split) <;> exact ⟨rfl, rfl, rfl, rfl, rfl⟩
@[simp] theorem Part.clock_zoneOfNode (a b : Bool) (z : Nat) : (p.zoneOfNode a b z).clock = p.clock := rfl


/-! ### Announce -/

@[simp] theorem Part.layout_modAnn (id : Nat) (f : Announcement → Announcement) : (Part.modAnn p id f).layout = p.layout := by
  unfold Part.modAnn; (try dsimp only); (repeat' split) <;> (first | (simp [Part.layout_each, apply_ite Part.layout]; done) | (refine (Part.layout_each _ (fun q a => ?_) _ _).trans ?_ <;> (try dsimp only) <;> (repeat' split) <;> (simp; done)) | with_reducible rfl)

@[simp] theorem Part.clock_modAnn (id : Nat) (f : Announcement → Announcement) : (Part.modAnn p id f).clock = p.clock := by
  exact Part.clock_of_core (by simp)

@[simp] theorem Part.layout_noteAnn (id : Nat) (e : AnnounceEvent) : (Part.noteAnn p id e).layout = p.layout := by
  unfold Part.noteAnn; (try dsimp only); (repeat' split) <;> (first | (simp [Part.layout_each, apply_ite Part.layout]; done) | (refine (Part.layout_each _ (fun q a => ?_) _ _).trans ?_ <;> (try dsimp only) <;> (repeat' split) <;> (simp; done)) | with_reducible rfl)

@[simp] theorem Part.clock_noteAnn (id : Nat) (e : AnnounceEvent) : (Part.noteAnn p id e).clock = p.clock := by
  exact Part.clock_of_core (by simp)

@[simp] theorem Part.layout_removeAnn (id : Nat) (cause : EndCause) : (Part.removeAnn p id cause).layout = p.layout := by
  unfold Part.removeAnn; (try dsimp only); (repeat' split) <;> (first | (simp [Part.layout_each, apply_ite Part.layout]; done) | (refine (Part.layout_each _ (fun q a => ?_) _ _).trans ?_ <;> (try dsimp only) <;> (repeat' split) <;> (simp; done)) | with_reducible rfl)

@[simp] theorem Part.clock_removeAnn (id : Nat) (cause : EndCause) : (Part.removeAnn p id cause).clock = p.clock := by
  exact Part.clock_of_core (by simp)

@[simp] theorem Part.layout_enlist (id : Nat) (z : Nat) : (Part.enlist p id z).layout = p.layout := by
  unfold Part.enlist; (try dsimp only); (repeat' split) <;> (first | (simp [Part.layout_each, apply_ite Part.layout]; done) | (refine (Part.layout_each _ (fun q a => ?_) _ _).trans ?_ <;> (try dsimp only) <;> (repeat' split) <;> (simp; done)) | with_reducible rfl)

@[simp] theorem Part.clock_enlist (id : Nat) (z : Nat) : (Part.enlist p id z).clock = p.clock := by
  exact Part.clock_of_core (by simp)

@[simp] theorem Part.layout_grant (id : Nat) (z : Nat) : (Part.grant p id z).layout = p.layout := by
  unfold Part.grant; (try dsimp only); (repeat' split) <;> (first | (simp [Part.layout_each, apply_ite Part.layout]; done) | (refine (Part.layout_each _ (fun q a => ?_) _ _).trans ?_ <;> (try dsimp only) <;> (repeat' split) <;> (simp; done)) | with_reducible rfl)

@[simp] theorem Part.clock_grant (id : Nat) (z : Nat) : (Part.grant p id z).clock = p.clock := by
  exact Part.clock_of_core (by simp)

@[simp] theorem Part.layout_offerZone (z : Nat) : (Part.offerZone p z).layout = p.layout := by
  unfold Part.offerZone; (try dsimp only); (repeat' split) <;> (first | (simp [Part.layout_each, apply_ite Part.layout]; done) | (refine (Part.layout_each _ (fun q a => ?_) _ _).trans ?_ <;> (try dsimp only) <;> (repeat' split) <;> (simp; done)) | with_reducible rfl)

@[simp] theorem Part.clock_offerZone (z : Nat) : (Part.offerZone p z).clock = p.clock := by
  exact Part.clock_of_core (by simp)

@[simp] theorem Part.layout_offerNode (pos : Nat) : (Part.offerNode p pos).layout = p.layout := by
  unfold Part.offerNode; (try dsimp only); (repeat' split) <;> (first | (simp [Part.layout_each, apply_ite Part.layout]; done) | (refine (Part.layout_each _ (fun q a => ?_) _ _).trans ?_ <;> (try dsimp only) <;> (repeat' split) <;> (simp; done)) | with_reducible rfl)

@[simp] theorem Part.clock_offerNode (pos : Nat) : (Part.offerNode p pos).clock = p.clock := by
  exact Part.clock_of_core (by simp)

@[simp] theorem Part.layout_changeJoin (id : Nat) (z : Nat) (st : JoinState) : (Part.changeJoin p id z st).layout = p.layout := by
  unfold Part.changeJoin; (try dsimp only); (repeat' split) <;> (first | (simp [Part.layout_each, apply_ite Part.layout]; done) | (refine (Part.layout_each _ (fun q a => ?_) _ _).trans ?_ <;> (try dsimp only) <;> (repeat' split) <;> (simp; done)) | with_reducible rfl)

@[simp] theorem Part.clock_changeJoin (id : Nat) (z : Nat) (st : JoinState) : (Part.changeJoin p id z st).clock = p.clock := by
  exact Part.clock_of_core (by simp)

@[simp] theorem Part.layout_settleEntries (id : Nat) : (Part.settleEntries p id).layout = p.layout := by
  unfold Part.settleEntries; (try dsimp only); (repeat' split) <;> (first | (simp [Part.layout_each, apply_ite Part.layout]; done) | (refine (Part.layout_each _ (fun q a => ?_) _ _).trans ?_ <;> (try dsimp only) <;> (repeat' split) <;> (simp; done)) | with_reducible rfl)

@[simp] theorem Part.clock_settleEntries (id : Nat) : (Part.settleEntries p id).clock = p.clock := by
  exact Part.clock_of_core (by simp)

@[simp] theorem Part.layout_removeIfSettled (id : Nat) : (Part.removeIfSettled p id).layout = p.layout := by
  unfold Part.removeIfSettled; (try dsimp only); (repeat' split) <;> (first | (simp [Part.layout_each, apply_ite Part.layout]; done) | (refine (Part.layout_each _ (fun q a => ?_) _ _).trans ?_ <;> (try dsimp only) <;> (repeat' split) <;> (simp; done)) | with_reducible rfl)

@[simp] theorem Part.clock_removeIfSettled (id : Nat) : (Part.removeIfSettled p id).clock = p.clock := by
  exact Part.clock_of_core (by simp)

@[simp] theorem Part.layout_releaseSlot (z : Nat) : (Part.releaseSlot p z).layout = p.layout := by
  unfold Part.releaseSlot; (try dsimp only); (repeat' split) <;> (first | (simp [Part.layout_each, apply_ite Part.layout]; done) | (refine (Part.layout_each _ (fun q a => ?_) _ _).trans ?_ <;> (try dsimp only) <;> (repeat' split) <;> (simp; done)) | with_reducible rfl)

@[simp] theorem Part.clock_releaseSlot (z : Nat) : (Part.releaseSlot p z).clock = p.clock := by
  exact Part.clock_of_core (by simp)

@[simp] theorem Part.layout_giveBack (id : Nat) (z : Nat) : (Part.giveBack p id z).layout = p.layout := by
  unfold Part.giveBack; (try dsimp only); (repeat' split) <;> (first | (simp [Part.layout_each, apply_ite Part.layout]; done) | (refine (Part.layout_each _ (fun q a => ?_) _ _).trans ?_ <;> (try dsimp only) <;> (repeat' split) <;> (simp; done)) | with_reducible rfl)

@[simp] theorem Part.clock_giveBack (id : Nat) (z : Nat) : (Part.giveBack p id z).clock = p.clock := by
  exact Part.clock_of_core (by simp)

@[simp] theorem Part.layout_withdrawEntry (id : Nat) (z : Nat) : (Part.withdrawEntry p id z).layout = p.layout := by
  unfold Part.withdrawEntry; (try dsimp only); (repeat' split) <;> (first | (simp [Part.layout_each, apply_ite Part.layout]; done) | (refine (Part.layout_each _ (fun q a => ?_) _ _).trans ?_ <;> (try dsimp only) <;> (repeat' split) <;> (simp; done)) | with_reducible rfl)

@[simp] theorem Part.clock_withdrawEntry (id : Nat) (z : Nat) : (Part.withdrawEntry p id z).clock = p.clock := by
  exact Part.clock_of_core (by simp)

@[simp] theorem Part.layout_enterEnding (id : Nat) (cause : EndCause) : (Part.enterEnding p id cause).layout = p.layout := by
  unfold Part.enterEnding; (try dsimp only); (repeat' split) <;> (first | (simp [Part.layout_each, apply_ite Part.layout]; done) | (refine (Part.layout_each _ (fun q a => ?_) _ _).trans ?_ <;> (try dsimp only) <;> (repeat' split) <;> (simp; done)) | with_reducible rfl)

@[simp] theorem Part.clock_enterEnding (id : Nat) (cause : EndCause) : (Part.enterEnding p id cause).clock = p.clock := by
  exact Part.clock_of_core (by simp)

@[simp] theorem Part.layout_testDisplaced (id : Nat) : (Part.testDisplaced p id).layout = p.layout := by
  unfold Part.testDisplaced; (try dsimp only); (repeat' split) <;> (first | (simp [Part.layout_each, apply_ite Part.layout]; done) | (refine (Part.layout_each _ (fun q a => ?_) _ _).trans ?_ <;> (try dsimp only) <;> (repeat' split) <;> (simp; done)) | with_reducible rfl)

@[simp] theorem Part.clock_testDisplaced (id : Nat) : (Part.testDisplaced p id).clock = p.clock := by
  exact Part.clock_of_core (by simp)

@[simp] theorem Part.layout_loseJoin (id : Nat) (z : Nat) (st : JoinState) : (Part.loseJoin p id z st).layout = p.layout := by
  unfold Part.loseJoin; (try dsimp only); (repeat' split) <;> (first | (simp [Part.layout_each, apply_ite Part.layout]; done) | (refine (Part.layout_each _ (fun q a => ?_) _ _).trans ?_ <;> (try dsimp only) <;> (repeat' split) <;> (simp; done)) | with_reducible rfl)

@[simp] theorem Part.clock_loseJoin (id : Nat) (z : Nat) (st : JoinState) : (Part.loseJoin p id z st).clock = p.clock := by
  exact Part.clock_of_core (by simp)

@[simp] theorem Part.layout_settleZones (zs : List Nat) : (Part.settleZones p zs).layout = p.layout := by
  unfold Part.settleZones; (try dsimp only); (repeat' split) <;> (first | (simp [Part.layout_each, apply_ite Part.layout]; done) | (refine (Part.layout_each _ (fun q a => ?_) _ _).trans ?_ <;> (try dsimp only) <;> (repeat' split) <;> (simp; done)) | with_reducible rfl)

@[simp] theorem Part.clock_settleZones (zs : List Nat) : (Part.settleZones p zs).clock = p.clock := by
  exact Part.clock_of_core (by simp)

@[simp] theorem Part.layout_reviseZone (z : Nat) (f : Zone → Zone) (h : ∀ x, (f x).kind = x.kind ∧ (f x).bellOn = x.bellOn ∧ (f x).annOn = x.annOn ∧ (f x).bellMask = x.bellMask ∧
      (f x).annMask = x.annMask) :
    (p.reviseZone z f).layout = p.layout := by
  unfold Part.reviseZone; dsimp only; split <;> simp [h]
@[simp] theorem Part.clock_reviseZone (z : Nat) (f : Zone → Zone) : (p.reviseZone z f).clock = p.clock :=
  Part.clock_of_core (by simp)

@[simp] theorem Part.layout_reviewZone (z : Nat) : (Part.reviewZone p z).layout = p.layout := by
  unfold Part.reviewZone; (try dsimp only); (repeat' split) <;> (first | (simp [Part.layout_each, apply_ite Part.layout]; done) | (refine (Part.layout_each _ (fun q a => ?_) _ _).trans ?_ <;> (try dsimp only) <;> (repeat' split) <;> (simp; done)) | with_reducible rfl)

@[simp] theorem Part.clock_reviewZone (z : Nat) : (Part.reviewZone p z).clock = p.clock := by
  exact Part.clock_of_core (by simp)

@[simp] theorem Part.layout_loseOffers (z : Nat) (os : List Offer) (st : JoinState) : (Part.loseOffers p z os st).layout = p.layout := by
  unfold Part.loseOffers; (try dsimp only); (repeat' split) <;> (first | (simp [Part.layout_each, apply_ite Part.layout]; done) | (refine (Part.layout_each _ (fun q a => ?_) _ _).trans ?_ <;> (try dsimp only) <;> (repeat' split) <;> (simp; done)) | with_reducible rfl)

@[simp] theorem Part.clock_loseOffers (z : Nat) (os : List Offer) (st : JoinState) : (Part.loseOffers p z os st).clock = p.clock := by
  exact Part.clock_of_core (by simp)

@[simp] theorem Part.layout_loseHeld (z : Nat) (held : Option AnnounceClaim) : (Part.loseHeld p z held).layout = p.layout := by
  unfold Part.loseHeld; (try dsimp only); (repeat' split) <;> (first | (simp [Part.layout_each, apply_ite Part.layout]; done) | (refine (Part.layout_each _ (fun q a => ?_) _ _).trans ?_ <;> (try dsimp only) <;> (repeat' split) <;> (simp; done)) | with_reducible rfl)

@[simp] theorem Part.clock_loseHeld (z : Nat) (held : Option AnnounceClaim) : (Part.loseHeld p z held).clock = p.clock := by
  exact Part.clock_of_core (by simp)

@[simp] theorem Part.layout_emptyOffers (z : Nat) : (Part.emptyOffers p z).layout = p.layout := by
  unfold Part.emptyOffers; (try dsimp only); (repeat' split) <;> (first | (simp [Part.layout_each, apply_ite Part.layout]; done) | (refine (Part.layout_each _ (fun q a => ?_) _ _).trans ?_ <;> (try dsimp only) <;> (repeat' split) <;> (simp; done)) | with_reducible rfl)

@[simp] theorem Part.clock_emptyOffers (z : Nat) : (Part.emptyOffers p z).clock = p.clock := by
  exact Part.clock_of_core (by simp)

@[simp] theorem Part.layout_postDrill (z : Nat) (pattern : Nat) (program : Nat) : (Part.postDrill p z pattern program).1.layout = p.layout := by
  unfold Part.postDrill; (try dsimp only); (repeat' split) <;> (first | (simp [Part.layout_each, apply_ite Part.layout]; done) | (refine (Part.layout_each _ (fun q a => ?_) _ _).trans ?_ <;> (try dsimp only) <;> (repeat' split) <;> (simp; done)) | with_reducible rfl)

@[simp] theorem Part.clock_postDrill (z : Nat) (pattern : Nat) (program : Nat) : (Part.postDrill p z pattern program).1.clock = p.clock := by
  exact Part.clock_of_core (by simp)

@[simp] theorem Part.layout_changeDrill (z : Nat) (pattern : Nat) : (Part.changeDrill p z pattern).layout = p.layout := by
  unfold Part.changeDrill; (try dsimp only); (repeat' split) <;> (first | (simp [Part.layout_each, apply_ite Part.layout]; done) | (refine (Part.layout_each _ (fun q a => ?_) _ _).trans ?_ <;> (try dsimp only) <;> (repeat' split) <;> (simp; done)) | with_reducible rfl)

@[simp] theorem Part.clock_changeDrill (z : Nat) (pattern : Nat) : (Part.changeDrill p z pattern).clock = p.clock := by
  exact Part.clock_of_core (by simp)

@[simp] theorem Part.layout_releaseDrill (z : Nat) : (Part.releaseDrill p z).layout = p.layout := by
  unfold Part.releaseDrill; (try dsimp only); (repeat' split) <;> (first | (simp [Part.layout_each, apply_ite Part.layout]; done) | (refine (Part.layout_each _ (fun q a => ?_) _ _).trans ?_ <;> (try dsimp only) <;> (repeat' split) <;> (simp; done)) | with_reducible rfl)

@[simp] theorem Part.clock_releaseDrill (z : Nat) : (Part.releaseDrill p z).clock = p.clock := by
  exact Part.clock_of_core (by simp)

@[simp] theorem Part.layout_endClaims (z : Nat) : (Part.endClaims p z).layout = p.layout := by
  unfold Part.endClaims; (try dsimp only); (repeat' split) <;> (first | (simp [Part.layout_each, apply_ite Part.layout]; done) | (refine (Part.layout_each _ (fun q a => ?_) _ _).trans ?_ <;> (try dsimp only) <;> (repeat' split) <;> (simp; done)) | with_reducible rfl)

@[simp] theorem Part.clock_endClaims (z : Nat) : (Part.endClaims p z).clock = p.clock := by
  exact Part.clock_of_core (by simp)

@[simp] theorem Part.layout_requestSlot (id : Nat) (z : Nat) : (Part.requestSlot p id z).layout = p.layout := by
  unfold Part.requestSlot; (try dsimp only); (repeat' split) <;> (first | (simp [Part.layout_each, apply_ite Part.layout]; done) | (refine (Part.layout_each _ (fun q a => ?_) _ _).trans ?_ <;> (try dsimp only) <;> (repeat' split) <;> (simp; done)) | with_reducible rfl)

@[simp] theorem Part.clock_requestSlot (id : Nat) (z : Nat) : (Part.requestSlot p id z).clock = p.clock := by
  exact Part.clock_of_core (by simp)

@[simp] theorem Part.layout_startAnn (id : Nat) : (Part.startAnn p id).layout = p.layout := by
  unfold Part.startAnn; (try dsimp only); (repeat' split) <;> (first | (simp [Part.layout_each, apply_ite Part.layout]; done) | (refine (Part.layout_each _ (fun q a => ?_) _ _).trans ?_ <;> (try dsimp only) <;> (repeat' split) <;> (simp; done)) | with_reducible rfl)

@[simp] theorem Part.clock_startAnn (id : Nat) : (Part.startAnn p id).clock = p.clock := by
  exact Part.clock_of_core (by simp)

@[simp] theorem Part.layout_startQueued (n : Nat) : (p.startQueued n).layout = p.layout := by
  induction n generalizing p with
  | zero => rfl
  | succ n ih => unfold Part.startQueued; dsimp only; split <;> simp [ih]

@[simp] theorem Part.layout_startFree  : (Part.startFree p).layout = p.layout := by
  unfold Part.startFree; (try dsimp only); (repeat' split) <;> (first | (simp [Part.layout_each, apply_ite Part.layout]; done) | (refine (Part.layout_each _ (fun q a => ?_) _ _).trans ?_ <;> (try dsimp only) <;> (repeat' split) <;> (simp; done)) | with_reducible rfl)

@[simp] theorem Part.clock_startFree  : (Part.startFree p).clock = p.clock := by
  exact Part.clock_of_core (by simp)

@[simp] theorem Part.layout_settle : (Part.settle p).layout = p.layout := by
  unfold Part.settle; (try dsimp only); (repeat' split) <;> (first | (simp [Part.layout_each, apply_ite Part.layout]; done) | (refine (Part.layout_each _ (fun q a => ?_) _ _).trans ?_ <;> (try dsimp only) <;> (repeat' split) <;> (simp; done)) | with_reducible rfl)

@[simp] theorem Part.clock_settle : (Part.settle p).clock = p.clock := by
  exact Part.clock_of_core (by simp)

@[simp] theorem Part.layout_releaseLane (pos : Nat) (i : PagingInput) : (Part.releaseLane p pos i).layout = p.layout := by
  unfold Part.releaseLane; (try dsimp only); (repeat' split) <;> (first | (simp [Part.layout_each, apply_ite Part.layout]; done) | (refine (Part.layout_each _ (fun q a => ?_) _ _).trans ?_ <;> (try dsimp only) <;> (repeat' split) <;> (simp; done)) | with_reducible rfl)

@[simp] theorem Part.clock_releaseLane (pos : Nat) (i : PagingInput) : (Part.releaseLane p pos i).clock = p.clock := by
  exact Part.clock_of_core (by simp)

@[simp] theorem Part.layout_enforceOnce (pos : Nat) : (Part.enforceOnce p pos).layout = p.layout := by
  unfold Part.enforceOnce; (try dsimp only); (repeat' split) <;> (first | (simp [Part.layout_each, apply_ite Part.layout]; done) | (refine (Part.layout_each _ (fun q a => ?_) _ _).trans ?_ <;> (try dsimp only) <;> (repeat' split) <;> (simp; done)) | with_reducible rfl)

@[simp] theorem Part.clock_enforceOnce (pos : Nat) : (Part.enforceOnce p pos).clock = p.clock := by
  exact Part.clock_of_core (by simp)

@[simp] theorem Part.layout_enforceCapacity (pos : Nat) : (Part.enforceCapacity p pos).layout = p.layout := by
  unfold Part.enforceCapacity; (try dsimp only); (repeat' split) <;> (first | (simp [Part.layout_each, apply_ite Part.layout]; done) | (refine (Part.layout_each _ (fun q a => ?_) _ _).trans ?_ <;> (try dsimp only) <;> (repeat' split) <;> (simp; done)) | with_reducible rfl)

@[simp] theorem Part.clock_enforceCapacity (pos : Nat) : (Part.enforceCapacity p pos).clock = p.clock := by
  exact Part.clock_of_core (by simp)

@[simp] theorem Part.layout_capacityChanged (pos : Nat) (old : Nat) : (Part.capacityChanged p pos old).layout = p.layout := by
  unfold Part.capacityChanged; (try dsimp only); (repeat' split) <;> (first | (simp [Part.layout_each, apply_ite Part.layout]; done) | (refine (Part.layout_each _ (fun q a => ?_) _ _).trans ?_ <;> (try dsimp only) <;> (repeat' split) <;> (simp; done)) | with_reducible rfl)

@[simp] theorem Part.clock_capacityChanged (pos : Nat) (old : Nat) : (Part.capacityChanged p pos old).clock = p.clock := by
  exact Part.clock_of_core (by simp)

@[simp] theorem Part.layout_clearClaims  : (Part.clearClaims p).layout = p.layout := by
  unfold Part.clearClaims; (try dsimp only); (repeat' split) <;> (first | (simp [Part.layout_each, apply_ite Part.layout]; done) | (refine (Part.layout_each _ (fun q a => ?_) _ _).trans ?_ <;> (try dsimp only) <;> (repeat' split) <;> (simp; done)) | with_reducible rfl)

@[simp] theorem Part.clock_clearClaims  : (Part.clearClaims p).clock = p.clock := by
  exact Part.clock_of_core (by simp)

@[simp] theorem Part.layout_announceStart (input : Option PagingInput) (rank : Nat) (spec : List Range) (chime : Option Nat) (limit : Nat)
    (saving : Bool) : (Part.announceStart input rank spec chime limit saving p).1.layout = p.layout := by
  unfold Part.announceStart; refine Part.layout_checked p _ _ ?_
  (try dsimp only); (repeat' split) <;> simp [Part.layout_each, apply_ite Part.layout]
@[simp] theorem Part.clock_announceStart (input : Option PagingInput) (rank : Nat) (spec : List Range) (chime : Option Nat) (limit : Nat)
    (saving : Bool) : (Part.announceStart input rank spec chime limit saving p).1.clock = p.clock := by
  unfold Part.announceStart; refine Part.clock_checked p _ _ ?_
  (try dsimp only); (repeat' split) <;> simp [Part.clock_each, apply_ite Part.clock]

@[simp] theorem Part.layout_announceEnd (id : Nat) (saving : Bool) : (Part.announceEnd id saving p).1.layout = p.layout := by
  unfold Part.announceEnd; refine Part.layout_checked p _ _ ?_
  (try dsimp only); (repeat' split) <;> simp [Part.layout_each, apply_ite Part.layout]
@[simp] theorem Part.clock_announceEnd (id : Nat) (saving : Bool) : (Part.announceEnd id saving p).1.clock = p.clock := by
  unfold Part.announceEnd; refine Part.clock_checked p _ _ ?_
  (try dsimp only); (repeat' split) <;> simp [Part.clock_each, apply_ite Part.clock]

@[simp] theorem Part.layout_announceCancel (id : Nat) (saving : Bool) : (Part.announceCancel id saving p).1.layout = p.layout := by
  unfold Part.announceCancel; (try dsimp only); (repeat' split) <;> (first | (simp [Part.layout_each, apply_ite Part.layout]; done) | (refine (Part.layout_each _ (fun q a => ?_) _ _).trans ?_ <;> (try dsimp only) <;> (repeat' split) <;> (simp; done)) | with_reducible rfl)

@[simp] theorem Part.clock_announceCancel (id : Nat) (saving : Bool) : (Part.announceCancel id saving p).1.clock = p.clock := by
  unfold Part.announceCancel; (try dsimp only); (repeat' split) <;> (first | (simp [Part.clock_each, apply_ite Part.clock]; done) | (refine (Part.clock_each _ (fun q a => ?_) _ _).trans ?_ <;> (try dsimp only) <;> (repeat' split) <;> (simp; done)) | with_reducible rfl)

@[simp] theorem Part.layout_chimeEnd (id : Nat) : (Part.chimeEnd id p).layout = p.layout := by
  unfold Part.chimeEnd; (try dsimp only); (repeat' split) <;> (first | (simp [Part.layout_each, apply_ite Part.layout]; done) | (refine (Part.layout_each _ (fun q a => ?_) _ _).trans ?_ <;> (try dsimp only) <;> (repeat' split) <;> (simp; done)) | with_reducible rfl)

@[simp] theorem Part.clock_chimeEnd (id : Nat) : (Part.chimeEnd id p).clock = p.clock := by
  unfold Part.chimeEnd; (try dsimp only); (repeat' split) <;> (first | (simp [Part.clock_each, apply_ite Part.clock]; done) | (refine (Part.clock_each _ (fun q a => ?_) _ _).trans ?_ <;> (try dsimp only) <;> (repeat' split) <;> (simp; done)) | with_reducible rfl)

@[simp] theorem Part.layout_limitTime (id : Nat) : (Part.limitTime id p).layout = p.layout := by
  unfold Part.limitTime; (try dsimp only); (repeat' split) <;> (first | (simp [Part.layout_each, apply_ite Part.layout]; done) | (refine (Part.layout_each _ (fun q a => ?_) _ _).trans ?_ <;> (try dsimp only) <;> (repeat' split) <;> (simp; done)) | with_reducible rfl)

@[simp] theorem Part.clock_limitTime (id : Nat) : (Part.limitTime id p).clock = p.clock := by
  unfold Part.limitTime; (try dsimp only); (repeat' split) <;> (first | (simp [Part.clock_each, apply_ite Part.clock]; done) | (refine (Part.clock_each _ (fun q a => ?_) _ _).trans ?_ <;> (try dsimp only) <;> (repeat' split) <;> (simp; done)) | with_reducible rfl)


/-! ### Clocks -/

@[simp] theorem Part.layout_modDisplay (pos : Nat) (f : Display → Display) : (Part.modDisplay p pos f).layout = p.layout := by
  unfold Part.modDisplay; (try dsimp only); (repeat' split) <;> (first | (simp [Part.layout_each, apply_ite Part.layout]; done) | (refine (Part.layout_each _ (fun q a => ?_) _ _).trans ?_ <;> (try dsimp only) <;> (repeat' split) <;> (simp; done)) | with_reducible rfl)

@[simp] theorem Part.clock_modDisplay (pos : Nat) (f : Display → Display) : (Part.modDisplay p pos f).clock = p.clock := by
  exact Part.clock_of_core (by simp)

@[simp] theorem Part.layout_keepDisplay (pos : Nat) : (Part.keepDisplay p pos).layout = p.layout := by
  unfold Part.keepDisplay; (try dsimp only); (repeat' split) <;> (first | (simp [Part.layout_each, apply_ite Part.layout]; done) | (refine (Part.layout_each _ (fun q a => ?_) _ _).trans ?_ <;> (try dsimp only) <;> (repeat' split) <;> (simp; done)) | with_reducible rfl)

@[simp] theorem Part.clock_keepDisplay (pos : Nat) : (Part.keepDisplay p pos).clock = p.clock := by
  exact Part.clock_of_core (by simp)

@[simp] theorem Part.layout_changeDisplay (pos : Nat) (f : Display → Display) : (Part.changeDisplay p pos f).layout = p.layout := by
  unfold Part.changeDisplay; (try dsimp only); (repeat' split) <;> (first | (simp [Part.layout_each, apply_ite Part.layout]; done) | (refine (Part.layout_each _ (fun q a => ?_) _ _).trans ?_ <;> (try dsimp only) <;> (repeat' split) <;> (simp; done)) | with_reducible rfl)

@[simp] theorem Part.clock_changeDisplay (pos : Nat) (f : Display → Display) : (Part.changeDisplay p pos f).clock = p.clock := by
  exact Part.clock_of_core (by simp)

@[simp] theorem Part.layout_displayList (on : Bool) (l : List Nat) : (Part.displayList p on l).layout = p.layout := by
  unfold Part.displayList; (try dsimp only); (repeat' split) <;> (first | (simp [Part.layout_each, apply_ite Part.layout]; done) | (refine (Part.layout_each _ (fun q a => ?_) _ _).trans ?_ <;> (try dsimp only) <;> (repeat' split) <;> (simp; done)) | with_reducible rfl)

@[simp] theorem Part.clock_displayList (on : Bool) (l : List Nat) : (Part.displayList p on l).clock = p.clock := by
  exact Part.clock_of_core (by simp)

@[simp] theorem Part.layout_displayConfirmed (pos : Nat) (m : DisplayMode) : (Part.displayConfirmed p pos m).layout = p.layout := by
  unfold Part.displayConfirmed; (try dsimp only); (repeat' split) <;> (first | (simp [Part.layout_each, apply_ite Part.layout]; done) | (refine (Part.layout_each _ (fun q a => ?_) _ _).trans ?_ <;> (try dsimp only) <;> (repeat' split) <;> (simp; done)) | with_reducible rfl)

@[simp] theorem Part.clock_displayConfirmed (pos : Nat) (m : DisplayMode) : (Part.displayConfirmed p pos m).clock = p.clock := by
  exact Part.clock_of_core (by simp)

@[simp] theorem Part.layout_displayGivenUp (pos : Nat) : (Part.displayGivenUp p pos).layout = p.layout := by
  unfold Part.displayGivenUp; (try dsimp only); (repeat' split) <;> (first | (simp [Part.layout_each, apply_ite Part.layout]; done) | (refine (Part.layout_each _ (fun q a => ?_) _ _).trans ?_ <;> (try dsimp only) <;> (repeat' split) <;> (simp; done)) | with_reducible rfl)

@[simp] theorem Part.clock_displayGivenUp (pos : Nat) : (Part.displayGivenUp p pos).clock = p.clock := by
  exact Part.clock_of_core (by simp)

@[simp] theorem Part.layout_displayReady (pos : Nat) (setup : Bool) : (Part.displayReady p pos setup).layout = p.layout := by
  unfold Part.displayReady; (try dsimp only); (repeat' split) <;> (first | (simp [Part.layout_each, apply_ite Part.layout]; done) | (refine (Part.layout_each _ (fun q a => ?_) _ _).trans ?_ <;> (try dsimp only) <;> (repeat' split) <;> (simp; done)) | with_reducible rfl)

@[simp] theorem Part.clock_displayReady (pos : Nat) (setup : Bool) : (Part.displayReady p pos setup).clock = p.clock := by
  exact Part.clock_of_core (by simp)

@[simp] theorem Part.layout_displayLeft (pos : Nat) : (Part.displayLeft p pos).layout = p.layout := by
  unfold Part.displayLeft; (try dsimp only); (repeat' split) <;> (first | (simp [Part.layout_each, apply_ite Part.layout]; done) | (refine (Part.layout_each _ (fun q a => ?_) _ _).trans ?_ <;> (try dsimp only) <;> (repeat' split) <;> (simp; done)) | with_reducible rfl)

@[simp] theorem Part.clock_displayLeft (pos : Nat) : (Part.displayLeft p pos).clock = p.clock := by
  exact Part.clock_of_core (by simp)

/-- A circuit changed with its definition kept. -/
theorem Part.layout_modCircuit_at (c : Nat) (f : Circuit → Circuit)
    (h : ∀ r, p.circuit c = some r → (f r).definition = r.definition) : (p.modCircuit c f).layout = p.layout := by
  unfold Part.modCircuit
  split
  next r hr =>
    have : (p.clk.circuits.setIfInBounds c (some (f r))).map (fun r => r.map (·.definition)) =
        p.clk.circuits.map fun r => r.map (·.definition) := by
      ext j hj
      simp only [Vector.getElem_map, Vector.getElem_setIfInBounds]
      split
      next e =>
        subst e
        have : p.clk.circuits[c] = some r := by
          simpa [Part.circuit, Tab.get, Vector.getElem?_eq_getElem hj] using hr
        simp [this, h r hr]
      · rfl
    simp only [Part.setCircuit, Tab.set, Part.layout, ClockDriver.layout, this]
  · rfl
@[simp] theorem Part.layout_modCircuit (c : Nat) (f : Circuit → Circuit) (h : ∀ r, (f r).definition = r.definition) :
    (p.modCircuit c f).layout = p.layout := Part.layout_modCircuit_at p c f fun r _ => h r
@[simp] theorem Part.clock_modCircuit (c : Nat) (f : Circuit → Circuit) : (p.modCircuit c f).clock = p.clock := by
  unfold Part.modCircuit; split <;> rfl

@[simp] theorem Part.layout_writeDial (c : Nat) : (Part.writeDial p c).layout = p.layout := by
  unfold Part.writeDial; (try dsimp only); (repeat' split) <;> (first | (simp [Part.layout_each, apply_ite Part.layout]; done) | (refine (Part.layout_each _ (fun q a => ?_) _ _).trans ?_ <;> (try dsimp only) <;> (repeat' split) <;> (simp; done)) | with_reducible rfl)

@[simp] theorem Part.clock_writeDial (c : Nat) : (Part.writeDial p c).clock = p.clock := by
  rfl

@[simp] theorem Part.layout_noteClock (c : Nat) (e : ClockEvent) : (Part.noteClock p c e).layout = p.layout := by
  unfold Part.noteClock; (try dsimp only); (repeat' split) <;> (first | (simp [Part.layout_each, apply_ite Part.layout]; done) | (refine (Part.layout_each _ (fun q a => ?_) _ _).trans ?_ <;> (try dsimp only) <;> (repeat' split) <;> (simp; done)) | with_reducible rfl)

@[simp] theorem Part.clock_noteClock (c : Nat) (e : ClockEvent) : (Part.noteClock p c e).clock = p.clock := by
  unfold Part.noteClock; (try dsimp only); (repeat' split) <;> (first | (simp [Part.clock_each, apply_ite Part.clock]; done) | (refine (Part.clock_each _ (fun q a => ?_) _ _).trans ?_ <;> (try dsimp only) <;> (repeat' split) <;> (simp; done)) | with_reducible rfl)

@[simp] theorem Part.layout_handImpulse (c : Nat) : (Part.handImpulse p c).layout = p.layout := by
  unfold Part.handImpulse; (try dsimp only); (repeat' split) <;> (first | (simp [Part.layout_each, apply_ite Part.layout]; done) | (refine (Part.layout_each _ (fun q a => ?_) _ _).trans ?_ <;> (try dsimp only) <;> (repeat' split) <;> (simp; done)) | with_reducible rfl)

@[simp] theorem Part.clock_handImpulse (c : Nat) : (Part.handImpulse p c).clock = p.clock := by
  unfold Part.handImpulse; (try dsimp only); (repeat' split) <;> (first | (simp [Part.clock_each, apply_ite Part.clock]; done) | (refine (Part.clock_each _ (fun q a => ?_) _ _).trans ?_ <;> (try dsimp only) <;> (repeat' split) <;> (simp; done)) | with_reducible rfl)

@[simp] theorem Part.layout_callImpulse (c : Nat) : (Part.callImpulse p c).layout = p.layout := by
  unfold Part.callImpulse; (try dsimp only); (repeat' split) <;> (first | (simp [Part.layout_each, apply_ite Part.layout]; done) | (refine (Part.layout_each _ (fun q a => ?_) _ _).trans ?_ <;> (try dsimp only) <;> (repeat' split) <;> (simp; done)) | with_reducible rfl)

@[simp] theorem Part.clock_callImpulse (c : Nat) : (Part.callImpulse p c).clock = p.clock := by
  unfold Part.callImpulse; (try dsimp only); (repeat' split) <;> (first | (simp [Part.clock_each, apply_ite Part.clock]; done) | (refine (Part.clock_each _ (fun q a => ?_) _ _).trans ?_ <;> (try dsimp only) <;> (repeat' split) <;> (simp; done)) | with_reducible rfl)

@[simp] theorem Part.layout_setCourse (c : Nat) (m : CircuitMode) (k : Course) (behind : Nat) (ahead : Nat) : (Part.setCourse p c m k behind ahead).layout = p.layout := by
  unfold Part.setCourse; (try dsimp only); (repeat' split) <;> (first | (simp [Part.layout_each, apply_ite Part.layout]; done) | (refine (Part.layout_each _ (fun q a => ?_) _ _).trans ?_ <;> (try dsimp only) <;> (repeat' split) <;> (simp; done)) | with_reducible rfl)

@[simp] theorem Part.clock_setCourse (c : Nat) (m : CircuitMode) (k : Course) (behind : Nat) (ahead : Nat) : (Part.setCourse p c m k behind ahead).clock = p.clock := by
  unfold Part.setCourse; (try dsimp only); (repeat' split) <;> (first | (simp [Part.clock_each, apply_ite Part.clock]; done) | (refine (Part.clock_each _ (fun q a => ?_) _ _).trans ?_ <;> (try dsimp only) <;> (repeat' split) <;> (simp; done)) | with_reducible rfl)

@[simp] theorem Part.layout_evaluateCircuit (c : Nat) : (Part.evaluateCircuit p c).layout = p.layout := by
  unfold Part.evaluateCircuit; (try dsimp only); (repeat' split) <;> (first | (simp [Part.layout_each, apply_ite Part.layout]; done) | (refine (Part.layout_each _ (fun q a => ?_) _ _).trans ?_ <;> (try dsimp only) <;> (repeat' split) <;> (simp; done)) | with_reducible rfl)

@[simp] theorem Part.clock_evaluateCircuit (c : Nat) : (Part.evaluateCircuit p c).clock = p.clock := by
  unfold Part.evaluateCircuit; (try dsimp only); (repeat' split) <;> (first | (simp [Part.clock_each, apply_ite Part.clock]; done) | (refine (Part.clock_each _ (fun q a => ?_) _ _).trans ?_ <;> (try dsimp only) <;> (repeat' split) <;> (simp; done)) | with_reducible rfl)

@[simp] theorem Part.layout_evaluateCircuits  : (Part.evaluateCircuits p).layout = p.layout := by
  unfold Part.evaluateCircuits; (try dsimp only); (repeat' split) <;> (first | (simp [Part.layout_each, apply_ite Part.layout]; done) | (refine (Part.layout_each _ (fun q a => ?_) _ _).trans ?_ <;> (try dsimp only) <;> (repeat' split) <;> (simp; done)) | with_reducible rfl)

@[simp] theorem Part.clock_evaluateCircuits  : (Part.evaluateCircuits p).clock = p.clock := by
  unfold Part.evaluateCircuits; (try dsimp only); (repeat' split) <;> (first | (simp [Part.clock_each, apply_ite Part.clock]; done) | (refine (Part.clock_each _ (fun q a => ?_) _ _).trans ?_ <;> (try dsimp only) <;> (repeat' split) <;> (simp; done)) | with_reducible rfl)

@[simp] theorem Part.layout_runCircuit (c : Nat) : (Part.runCircuit p c).layout = p.layout := by
  unfold Part.runCircuit; (try dsimp only); (repeat' split) <;> (first | (simp [Part.layout_each, apply_ite Part.layout]; done) | (refine (Part.layout_each _ (fun q a => ?_) _ _).trans ?_ <;> (try dsimp only) <;> (repeat' split) <;> (simp; done)) | with_reducible rfl)

@[simp] theorem Part.clock_runCircuit (c : Nat) : (Part.runCircuit p c).clock = p.clock := by
  unfold Part.runCircuit; (try dsimp only); (repeat' split) <;> (first | (simp [Part.clock_each, apply_ite Part.clock]; done) | (refine (Part.clock_each _ (fun q a => ?_) _ _).trans ?_ <;> (try dsimp only) <;> (repeat' split) <;> (simp; done)) | with_reducible rfl)

@[simp] theorem Part.layout_impulseDelivered (c : Nat) : (p.impulseDelivered c).layout = p.layout := by
  unfold Part.impulseDelivered; rw [Part.layout_writeDial]
  refine Part.layout_modCircuit p c _ fun r => ?_
  split <;> rfl
@[simp] theorem Part.clock_impulseDelivered (c : Nat) : (p.impulseDelivered c).clock = p.clock := by
  unfold Part.impulseDelivered; simp

@[simp] theorem Part.layout_afterImpulse (c : Nat) : (Part.afterImpulse p c).layout = p.layout := by
  unfold Part.afterImpulse; (try dsimp only); (repeat' split) <;> (first | (simp [Part.layout_each, apply_ite Part.layout]; done) | (refine (Part.layout_each _ (fun q a => ?_) _ _).trans ?_ <;> (try dsimp only) <;> (repeat' split) <;> (simp; done)) | with_reducible rfl)

@[simp] theorem Part.clock_afterImpulse (c : Nat) : (Part.afterImpulse p c).clock = p.clock := by
  unfold Part.afterImpulse; (try dsimp only); (repeat' split) <;> (first | (simp [Part.clock_each, apply_ite Part.clock]; done) | (refine (Part.clock_each _ (fun q a => ?_) _ _).trans ?_ <;> (try dsimp only) <;> (repeat' split) <;> (simp; done)) | with_reducible rfl)

@[simp] theorem Part.layout_examineImpulses (pos : Nat) (lines : List (Nat × LinePolarity)) : (Part.examineImpulses p pos lines).layout = p.layout := by
  unfold Part.examineImpulses; (try dsimp only); (repeat' split) <;> (first | (simp [Part.layout_each, apply_ite Part.layout]; done) | (refine (Part.layout_each _ (fun q a => ?_) _ _).trans ?_ <;> (try dsimp only) <;> (repeat' split) <;> (simp; done)) | with_reducible rfl)

@[simp] theorem Part.clock_examineImpulses (pos : Nat) (lines : List (Nat × LinePolarity)) : (Part.examineImpulses p pos lines).clock = p.clock := by
  unfold Part.examineImpulses; (try dsimp only); (repeat' split) <;> (first | (simp [Part.clock_each, apply_ite Part.clock]; done) | (refine (Part.clock_each _ (fun q a => ?_) _ _).trans ?_ <;> (try dsimp only) <;> (repeat' split) <;> (simp; done)) | with_reducible rfl)

@[simp] theorem Part.layout_impulseCarried (c : Nat) : (Part.impulseCarried p c).layout = p.layout := by
  unfold Part.impulseCarried; (try dsimp only); (repeat' split) <;> (first | (simp [Part.layout_each, apply_ite Part.layout]; done) | (refine (Part.layout_each _ (fun q a => ?_) _ _).trans ?_ <;> (try dsimp only) <;> (repeat' split) <;> (simp; done)) | with_reducible rfl)

@[simp] theorem Part.clock_impulseCarried (c : Nat) : (Part.impulseCarried p c).clock = p.clock := by
  unfold Part.impulseCarried; (try dsimp only); (repeat' split) <;> (first | (simp [Part.clock_each, apply_ite Part.clock]; done) | (refine (Part.clock_each _ (fun q a => ?_) _ _).trans ?_ <;> (try dsimp only) <;> (repeat' split) <;> (simp; done)) | with_reducible rfl)

@[simp] theorem Part.layout_spacingEnd (c : Nat) : (Part.spacingEnd p c).layout = p.layout := by
  unfold Part.spacingEnd; (try dsimp only); (repeat' split) <;> (first | (simp [Part.layout_each, apply_ite Part.layout]; done) | (refine (Part.layout_each _ (fun q a => ?_) _ _).trans ?_ <;> (try dsimp only) <;> (repeat' split) <;> (simp; done)) | with_reducible rfl)

@[simp] theorem Part.clock_spacingEnd (c : Nat) : (Part.spacingEnd p c).clock = p.clock := by
  unfold Part.spacingEnd; (try dsimp only); (repeat' split) <;> (first | (simp [Part.clock_each, apply_ite Part.clock]; done) | (refine (Part.clock_each _ (fun q a => ?_) _ _).trans ?_ <;> (try dsimp only) <;> (repeat' split) <;> (simp; done)) | with_reducible rfl)

@[simp] theorem Part.layout_resendImpulse (c : Nat) : (Part.resendImpulse p c).layout = p.layout := by
  unfold Part.resendImpulse; (try dsimp only); (repeat' split) <;> (first | (simp [Part.layout_each, apply_ite Part.layout]; done) | (refine (Part.layout_each _ (fun q a => ?_) _ _).trans ?_ <;> (try dsimp only) <;> (repeat' split) <;> (simp; done)) | with_reducible rfl)

@[simp] theorem Part.clock_resendImpulse (c : Nat) : (Part.resendImpulse p c).clock = p.clock := by
  unfold Part.resendImpulse; (try dsimp only); (repeat' split) <;> (first | (simp [Part.clock_each, apply_ite Part.clock]; done) | (refine (Part.clock_each _ (fun q a => ?_) _ _).trans ?_ <;> (try dsimp only) <;> (repeat' split) <;> (simp; done)) | with_reducible rfl)

@[simp] theorem Part.layout_confirmationWaitEnd (c : Nat) : (Part.confirmationWaitEnd p c).layout = p.layout := by
  unfold Part.confirmationWaitEnd; (try dsimp only); (repeat' split) <;> (first | (simp [Part.layout_each, apply_ite Part.layout]; done) | (refine (Part.layout_each _ (fun q a => ?_) _ _).trans ?_ <;> (try dsimp only) <;> (repeat' split) <;> (simp; done)) | with_reducible rfl)

@[simp] theorem Part.clock_confirmationWaitEnd (c : Nat) : (Part.confirmationWaitEnd p c).clock = p.clock := by
  unfold Part.confirmationWaitEnd; (try dsimp only); (repeat' split) <;> (first | (simp [Part.clock_each, apply_ite Part.clock]; done) | (refine (Part.clock_each _ (fun q a => ?_) _ _).trans ?_ <;> (try dsimp only) <;> (repeat' split) <;> (simp; done)) | with_reducible rfl)

@[simp] theorem Part.layout_circuitsLeft (pos : Nat) : (Part.circuitsLeft p pos).layout = p.layout := by
  unfold Part.circuitsLeft; (try dsimp only); (repeat' split) <;> (first | (simp [Part.layout_each, apply_ite Part.layout]; done) | (refine (Part.layout_each _ (fun q a => ?_) _ _).trans ?_ <;> (try dsimp only) <;> (repeat' split) <;> (simp; done)) | with_reducible rfl)

@[simp] theorem Part.clock_circuitsLeft (pos : Nat) : (Part.circuitsLeft p pos).clock = p.clock := by
  unfold Part.circuitsLeft; (try dsimp only); (repeat' split) <;> (first | (simp [Part.clock_each, apply_ite Part.clock]; done) | (refine (Part.clock_each _ (fun q a => ?_) _ _).trans ?_ <;> (try dsimp only) <;> (repeat' split) <;> (simp; done)) | with_reducible rfl)

@[simp] theorem Part.layout_circuitsReady (pos : Nat) : (Part.circuitsReady p pos).layout = p.layout := by
  unfold Part.circuitsReady; (try dsimp only); (repeat' split) <;> (first | (simp [Part.layout_each, apply_ite Part.layout]; done) | (refine (Part.layout_each _ (fun q a => ?_) _ _).trans ?_ <;> (try dsimp only) <;> (repeat' split) <;> (simp; done)) | with_reducible rfl)

@[simp] theorem Part.clock_circuitsReady (pos : Nat) : (Part.circuitsReady p pos).clock = p.clock := by
  unfold Part.circuitsReady; (try dsimp only); (repeat' split) <;> (first | (simp [Part.clock_each, apply_ite Part.clock]; done) | (refine (Part.clock_each _ (fun q a => ?_) _ _).trans ?_ <;> (try dsimp only) <;> (repeat' split) <;> (simp; done)) | with_reducible rfl)

@[simp] theorem Part.layout_reconcileCircuits (pos : Nat) (lines : List (Nat × LinePolarity)) : (Part.reconcileCircuits p pos lines).layout = p.layout := by
  unfold Part.reconcileCircuits; (try dsimp only); (repeat' split) <;> (first | (simp [Part.layout_each, apply_ite Part.layout]; done) | (refine (Part.layout_each _ (fun q a => ?_) _ _).trans ?_ <;> (try dsimp only) <;> (repeat' split) <;> (simp; done)) | with_reducible rfl)

@[simp] theorem Part.clock_reconcileCircuits (pos : Nat) (lines : List (Nat × LinePolarity)) : (Part.reconcileCircuits p pos lines).clock = p.clock := by
  unfold Part.reconcileCircuits; (try dsimp only); (repeat' split) <;> (first | (simp [Part.clock_each, apply_ite Part.clock]; done) | (refine (Part.clock_each _ (fun q a => ?_) _ _).trans ?_ <;> (try dsimp only) <;> (repeat' split) <;> (simp; done)) | with_reducible rfl)

@[simp] theorem Part.layout_circuitsUnset : p.circuitsUnset.layout = p.layout := by
  unfold Part.circuitsUnset
  refine Part.layout_each _ (fun q c => ?_) _ _
  split
  next r hr =>
    refine (Part.layout_modCircuit_at _ c _ fun x hx => ?_).trans (Part.layout_withdraw q _ _)
    have : some x = some r := hx.symm.trans hr
    rw [Option.some.inj this]
  · rfl
@[simp] theorem Part.clock_circuitsUnset : p.circuitsUnset.clock = p.clock := by
  unfold Part.circuitsUnset
  refine Part.clock_each _ (fun q c => ?_) _ _
  split <;> simp

@[simp] theorem Part.layout_circuitsSet  : (Part.circuitsSet p).layout = p.layout := by
  unfold Part.circuitsSet; (try dsimp only); (repeat' split) <;> (first | (simp [Part.layout_each, apply_ite Part.layout]; done) | (refine (Part.layout_each _ (fun q a => ?_) _ _).trans ?_ <;> (try dsimp only) <;> (repeat' split) <;> (simp; done)) | with_reducible rfl)

@[simp] theorem Part.clock_circuitsSet  : (Part.circuitsSet p).clock = p.clock := by
  unfold Part.circuitsSet; (try dsimp only); (repeat' split) <;> (first | (simp [Part.clock_each, apply_ite Part.clock]; done) | (refine (Part.clock_each _ (fun q a => ?_) _ _).trans ?_ <;> (try dsimp only) <;> (repeat' split) <;> (simp; done)) | with_reducible rfl)

@[simp] theorem Part.layout_displaySet (pos : Nat) (b : Option Bool) (saving : Bool) : (Part.displaySet pos b saving p).1.layout = p.layout := by
  unfold Part.displaySet; refine Part.layout_checked p _ _ ?_
  (try dsimp only); (repeat' split) <;> simp [Part.layout_each, apply_ite Part.layout]
@[simp] theorem Part.clock_displaySet (pos : Nat) (b : Option Bool) (saving : Bool) : (Part.displaySet pos b saving p).1.clock = p.clock := by
  unfold Part.displaySet; refine Part.clock_checked p _ _ ?_
  (try dsimp only); (repeat' split) <;> simp [Part.clock_each, apply_ite Part.clock]

@[simp] theorem Part.layout_circuitSetDial (c reading : Nat) (g : PolarityGiven) (saving : Bool) : (Part.circuitSetDial c reading g saving p).1.layout = p.layout := by
  unfold Part.circuitSetDial; refine Part.layout_checked p _ _ ?_
  (try dsimp only); (repeat' split) <;> simp [Part.layout_each, apply_ite Part.layout]
@[simp] theorem Part.clock_circuitSetDial (c reading : Nat) (g : PolarityGiven) (saving : Bool) : (Part.circuitSetDial c reading g saving p).1.clock = p.clock := by
  unfold Part.circuitSetDial; refine Part.clock_checked p _ _ ?_
  (try dsimp only); (repeat' split) <;> simp [Part.clock_each, apply_ite Part.clock]

@[simp] theorem Part.layout_stopReply (c : Nat) : (p.stopReply c).1.layout = p.layout := by
  rfl
@[simp] theorem Part.clock_stopReply (c : Nat) : (p.stopReply c).1.clock = p.clock := by
  rfl

@[simp] theorem Part.layout_circuitStop (c : Nat) (saving : Bool) :
    (Part.circuitStop c saving p).1.layout = p.layout := by
  unfold Part.circuitStop; refine Part.layout_checked p _ _ ?_
  rw [Part.layout_stopReply]
  exact Part.layout_modCircuit p c _ fun r => by (try dsimp only); (repeat' split) <;> rfl
@[simp] theorem Part.clock_circuitStop (c : Nat) (saving : Bool) : (Part.circuitStop c saving p).1.clock = p.clock := by
  unfold Part.circuitStop; refine Part.clock_checked p _ _ ?_
  rw [Part.clock_stopReply]; exact Part.clock_modCircuit p c _

@[simp] theorem Part.layout_circuitRun (c : Nat) (saving : Bool) : (Part.circuitRun c saving p).1.layout = p.layout := by
  unfold Part.circuitRun; refine Part.layout_checked p _ _ ?_
  (try dsimp only); (repeat' split) <;> simp [Part.layout_each, apply_ite Part.layout]
@[simp] theorem Part.clock_circuitRun (c : Nat) (saving : Bool) : (Part.circuitRun c saving p).1.clock = p.clock := by
  unfold Part.circuitRun; refine Part.clock_checked p _ _ ?_
  (try dsimp only); (repeat' split) <;> simp [Part.clock_each, apply_ite Part.clock]


/-! ### Bells -/

@[simp] theorem Part.layout_modEntries (f : List TimelineEntry → List TimelineEntry) : (Part.modEntries p f).layout = p.layout := by
  unfold Part.modEntries; (try dsimp only); (repeat' split) <;> (first | (simp [Part.layout_each, apply_ite Part.layout]; done) | (refine (Part.layout_each _ (fun q a => ?_) _ _).trans ?_ <;> (try dsimp only) <;> (repeat' split) <;> (simp; done)) | with_reducible rfl)

@[simp] theorem Part.layout_setEntry (i : Nat) (st : EntryState) (posted : Option Nat) : (Part.setEntry p i st posted).layout = p.layout := by
  unfold Part.setEntry; (try dsimp only); (repeat' split) <;> (first | (simp [Part.layout_each, apply_ite Part.layout]; done) | (refine (Part.layout_each _ (fun q a => ?_) _ _).trans ?_ <;> (try dsimp only) <;> (repeat' split) <;> (simp; done)) | with_reducible rfl)

@[simp] theorem Part.layout_buildTimeline (day : Nat) (plan : Option Nat) (t : Nat) : (Part.buildTimeline p day plan t).layout = p.layout := by
  unfold Part.buildTimeline; (try dsimp only); (repeat' split) <;> (first | (simp [Part.layout_each, apply_ite Part.layout]; done) | (refine (Part.layout_each _ (fun q a => ?_) _ _).trans ?_ <;> (try dsimp only) <;> (repeat' split) <;> (simp; done)) | with_reducible rfl)

@[simp] theorem Part.layout_postBells (zs : List Nat) (c : BellClaim) : (p.postBells zs c).1.layout = p.layout := by
  have key : ∀ (f : (Part × Posted) → Nat → (Part × Posted)) (_ : ∀ x a, (f x a).1.layout = x.1.layout) (l : List Nat) (x : (Part × Posted)),
      (l.foldl f x).1.layout = x.1.layout := by
    intro f hf l
    induction l with
    | nil => intro x; rfl
    | cons a l ih => intro x; exact (ih _).trans (hf x a)
  unfold Part.postBells
  refine key _ (fun x a => ?_) _ _
  dsimp only
  (repeat' split) <;> simp

@[simp] theorem Part.layout_takeDrop (origin : BellOrigin) (d : Dropped) : (Part.takeDrop p origin d).layout = p.layout := by
  unfold Part.takeDrop; (try dsimp only); (repeat' split) <;> (first | (simp [Part.layout_each, apply_ite Part.layout]; done) | (refine (Part.layout_each _ (fun q a => ?_) _ _).trans ?_ <;> (try dsimp only) <;> (repeat' split) <;> (simp; done)) | with_reducible rfl)

@[simp] theorem Part.layout_reachLatest (posting : Nat) (origin : BellOrigin) : (Part.reachLatest p posting origin).layout = p.layout := by
  unfold Part.reachLatest; (try dsimp only); (repeat' split) <;> (first | (simp [Part.layout_each, apply_ite Part.layout]; done) | (refine (Part.layout_each _ (fun q a => ?_) _ _).trans ?_ <;> (try dsimp only) <;> (repeat' split) <;> (simp; done)) | with_reducible rfl)

theorem Part.layout_ring (zs : List Nat) (pattern duration : Nat) (origin : BellOrigin) (report : Part → Posted → Part)
    (h : ∀ q c, (report q c).layout = q.layout) : (p.ring zs pattern duration origin report).1.layout = p.layout := by
  unfold Part.ring; dsimp only; split <;> simp [h]

@[simp] theorem Part.layout_fireEntry (i : Nat) (late : Bool) : (p.fireEntry i late).1.layout = p.layout := by
  unfold Part.fireEntry; dsimp only; split
  · rfl
  · split
    · simp
    · dsimp only; rw [Part.layout_ring _ _ _ _ _ _ (fun q c => by simp)]; simp

@[simp] theorem Part.layout_reachEntries  : (Part.reachEntries p).layout = p.layout := by
  unfold Part.reachEntries; (try dsimp only); (repeat' split) <;> (first | (simp [Part.layout_each, apply_ite Part.layout]; done) | (refine (Part.layout_each _ (fun q a => ?_) _ _).trans ?_ <;> (try dsimp only) <;> (repeat' split) <;> (simp; done)) | with_reducible rfl)

@[simp] theorem Part.layout_skipEntries (l : List Nat) (t : Nat) : (p.skipEntries l t).1.layout = p.layout := by
  have key : ∀ (f : (Part × Nat × Nat) → Nat → (Part × Nat × Nat)) (_ : ∀ x a, (f x a).1.layout = x.1.layout) (l : List Nat) (x : (Part × Nat × Nat)),
      (l.foldl f x).1.layout = x.1.layout := by
    intro f hf l
    induction l with
    | nil => intro x; rfl
    | cons a l ih => intro x; exact (ih _).trans (hf x a)
  unfold Part.skipEntries
  refine key _ (fun x a => ?_) _ _
  dsimp only
  (repeat' split) <;> simp

@[simp] theorem Part.layout_bellJump (old : CampusTime) (new : CampusTime) (plan : Option Nat) : (Part.bellJump p old new plan).layout = p.layout := by
  unfold Part.bellJump; (try dsimp only); (repeat' split) <;> (first | (simp [Part.layout_each, apply_ite Part.layout]; done) | (refine (Part.layout_each _ (fun q a => ?_) _ _).trans ?_ <;> (try dsimp only) <;> (repeat' split) <;> (simp; done)) | with_reducible rfl)

@[simp] theorem Part.layout_buildNow (plan : Option Nat) : (Part.buildNow p plan).layout = p.layout := by
  unfold Part.buildNow; (try dsimp only); (repeat' split) <;> (first | (simp [Part.layout_each, apply_ite Part.layout]; done) | (refine (Part.layout_each _ (fun q a => ?_) _ _).trans ?_ <;> (try dsimp only) <;> (repeat' split) <;> (simp; done)) | with_reducible rfl)

@[simp] theorem Part.layout_bellTimeSet (plan : Option Nat) : (Part.bellTimeSet p plan).layout = p.layout := by
  unfold Part.bellTimeSet; (try dsimp only); (repeat' split) <;> (first | (simp [Part.layout_each, apply_ite Part.layout]; done) | (refine (Part.layout_each _ (fun q a => ?_) _ _).trans ?_ <;> (try dsimp only) <;> (repeat' split) <;> (simp; done)) | with_reducible rfl)

@[simp] theorem Part.layout_bellRing (sel : Selector) (pattern duration : Nat) (saving : Bool) :
    (Part.bellRing sel pattern duration saving p).1.layout = p.layout := by
  unfold Part.bellRing; refine Part.layout_checked p _ _ ?_
  exact Part.layout_ring p _ _ _ _ _ fun _ _ => rfl

@[simp] theorem Part.layout_bellSilence (r : Range) (saving : Bool) : (Part.bellSilence r saving p).1.layout = p.layout := by
  unfold Part.bellSilence; refine Part.layout_checked p _ _ ?_
  (try dsimp only); (repeat' split) <;> simp [Part.layout_each, apply_ite Part.layout]
@[simp] theorem Part.clock_bellSilence (r : Range) (saving : Bool) : (Part.bellSilence r saving p).1.clock = p.clock := by
  unfold Part.bellSilence; refine Part.clock_checked p _ _ ?_
  (try dsimp only); (repeat' split) <;> simp [Part.clock_each, apply_ite Part.clock]


/-! ### Drill -/

@[simp] theorem Part.layout_modRun (f : DrillRun → DrillRun) : (Part.modRun p f).layout = p.layout := by
  unfold Part.modRun; (try dsimp only); (repeat' split) <;> (first | (simp [Part.layout_each, apply_ite Part.layout]; done) | (refine (Part.layout_each _ (fun q a => ?_) _ _).trans ?_ <;> (try dsimp only) <;> (repeat' split) <;> (simp; done)) | with_reducible rfl)

@[simp] theorem Part.clock_modRun (f : DrillRun → DrillRun) : (Part.modRun p f).clock = p.clock := by
  unfold Part.modRun; (try dsimp only); (repeat' split) <;> (first | (simp [Part.clock_each, apply_ite Part.clock]; done) | (refine (Part.clock_each _ (fun q a => ?_) _ _).trans ?_ <;> (try dsimp only) <;> (repeat' split) <;> (simp; done)) | with_reducible rfl)

@[simp] theorem Part.layout_setSchedule (l : List ScheduleEntry)
    (h : l.map (fun e => (e.day, e.minute, e.program)) = p.drill.schedule.map fun e => (e.day, e.minute, e.program)) :
    (p.setSchedule l).layout = p.layout := by simp [Part.setSchedule, h]
@[simp] theorem Part.clock_setSchedule (l : List ScheduleEntry) : (p.setSchedule l).clock = p.clock := rfl

@[simp] theorem Part.layout_noteDrill (r : DrillRun) (e : DrillEvent) (ph : Option DrillPhase) : (Part.noteDrill p r e ph).layout = p.layout := by
  unfold Part.noteDrill; (try dsimp only); (repeat' split) <;> (first | (simp [Part.layout_each, apply_ite Part.layout]; done) | (refine (Part.layout_each _ (fun q a => ?_) _ _).trans ?_ <;> (try dsimp only) <;> (repeat' split) <;> (simp; done)) | with_reducible rfl)

@[simp] theorem Part.clock_noteDrill (r : DrillRun) (e : DrillEvent) (ph : Option DrillPhase) : (Part.noteDrill p r e ph).clock = p.clock := by
  unfold Part.noteDrill; (try dsimp only); (repeat' split) <;> (first | (simp [Part.clock_each, apply_ite Part.clock]; done) | (refine (Part.clock_each _ (fun q a => ?_) _ _).trans ?_ <;> (try dsimp only) <;> (repeat' split) <;> (simp; done)) | with_reducible rfl)

@[simp] theorem Part.layout_enterPhase (ph : DrillPhase) : (Part.enterPhase p ph).layout = p.layout := by
  unfold Part.enterPhase; (try dsimp only); (repeat' split) <;> (first | (simp [Part.layout_each, apply_ite Part.layout]; done) | (refine (Part.layout_each _ (fun q a => ?_) _ _).trans ?_ <;> (try dsimp only) <;> (repeat' split) <;> (simp; done)) | with_reducible rfl)

@[simp] theorem Part.clock_enterPhase (ph : DrillPhase) : (Part.enterPhase p ph).clock = p.clock := by
  unfold Part.enterPhase; (try dsimp only); (repeat' split) <;> (first | (simp [Part.clock_each, apply_ite Part.clock]; done) | (refine (Part.clock_each _ (fun q a => ?_) _ _).trans ?_ <;> (try dsimp only) <;> (repeat' split) <;> (simp; done)) | with_reducible rfl)

@[simp] theorem Part.layout_postDrills (r : DrillRun) (n : Nat) : (p.postDrills r n).1.layout = p.layout := by
  have key : ∀ (f : (Part × Nat × Nat) → Nat → (Part × Nat × Nat)) (_ : ∀ x a, (f x a).1.layout = x.1.layout) (l : List Nat) (x : (Part × Nat × Nat)),
      (l.foldl f x).1.layout = x.1.layout := by
    intro f hf l
    induction l with
    | nil => intro x; rfl
    | cons a l ih => intro x; exact (ih _).trans (hf x a)
  unfold Part.postDrills
  refine key _ (fun x a => ?_) _ _
  dsimp only
  (repeat' split) <;> simp
@[simp] theorem Part.clock_postDrills (r : DrillRun) (n : Nat) : (p.postDrills r n).1.clock = p.clock := by
  have key : ∀ (f : (Part × Nat × Nat) → Nat → (Part × Nat × Nat)) (_ : ∀ x a, (f x a).1.clock = x.1.clock) (l : List Nat) (x : (Part × Nat × Nat)),
      (l.foldl f x).1.clock = x.1.clock := by
    intro f hf l
    induction l with
    | nil => intro x; rfl
    | cons a l ih => intro x; exact (ih _).trans (hf x a)
  unfold Part.postDrills
  refine key _ (fun x a => ?_) _ _
  dsimp only
  (repeat' split) <;> simp

@[simp] theorem Part.layout_releaseDrills  : (Part.releaseDrills p).layout = p.layout := by
  unfold Part.releaseDrills; (try dsimp only); (repeat' split) <;> (first | (simp [Part.layout_each, apply_ite Part.layout]; done) | (refine (Part.layout_each _ (fun q a => ?_) _ _).trans ?_ <;> (try dsimp only) <;> (repeat' split) <;> (simp; done)) | with_reducible rfl)

@[simp] theorem Part.clock_releaseDrills  : (Part.releaseDrills p).clock = p.clock := by
  unfold Part.releaseDrills; (try dsimp only); (repeat' split) <;> (first | (simp [Part.clock_each, apply_ite Part.clock]; done) | (refine (Part.clock_each _ (fun q a => ?_) _ _).trans ?_ <;> (try dsimp only) <;> (repeat' split) <;> (simp; done)) | with_reducible rfl)

@[simp] theorem Part.layout_endRun (r : DrillRun) : (Part.endRun p r).layout = p.layout := by
  unfold Part.endRun; (try dsimp only); (repeat' split) <;> (first | (simp [Part.layout_each, apply_ite Part.layout]; done) | (refine (Part.layout_each _ (fun q a => ?_) _ _).trans ?_ <;> (try dsimp only) <;> (repeat' split) <;> (simp; done)) | with_reducible rfl)

@[simp] theorem Part.clock_endRun (r : DrillRun) : (Part.endRun p r).clock = p.clock := by
  unfold Part.endRun; (try dsimp only); (repeat' split) <;> (first | (simp [Part.clock_each, apply_ite Part.clock]; done) | (refine (Part.clock_each _ (fun q a => ?_) _ _).trans ?_ <;> (try dsimp only) <;> (repeat' split) <;> (simp; done)) | with_reducible rfl)

@[simp] theorem Part.layout_closeDrill (cause : DrillEnd) : (Part.closeDrill p cause).layout = p.layout := by
  unfold Part.closeDrill; (try dsimp only); (repeat' split) <;> (first | (simp [Part.layout_each, apply_ite Part.layout]; done) | (refine (Part.layout_each _ (fun q a => ?_) _ _).trans ?_ <;> (try dsimp only) <;> (repeat' split) <;> (simp; done)) | with_reducible rfl)

@[simp] theorem Part.clock_closeDrill (cause : DrillEnd) : (Part.closeDrill p cause).clock = p.clock := by
  unfold Part.closeDrill; (try dsimp only); (repeat' split) <;> (first | (simp [Part.clock_each, apply_ite Part.clock]; done) | (refine (Part.clock_each _ (fun q a => ?_) _ _).trans ?_ <;> (try dsimp only) <;> (repeat' split) <;> (simp; done)) | with_reducible rfl)

@[simp] theorem Part.layout_depart (b : Nat) (st : TimerState) (elapsed : Nat) : (Part.depart p b st elapsed).layout = p.layout := by
  unfold Part.depart; (try dsimp only); (repeat' split) <;> (first | (simp [Part.layout_each, apply_ite Part.layout]; done) | (refine (Part.layout_each _ (fun q a => ?_) _ _).trans ?_ <;> (try dsimp only) <;> (repeat' split) <;> (simp; done)) | with_reducible rfl)

@[simp] theorem Part.clock_depart (b : Nat) (st : TimerState) (elapsed : Nat) : (Part.depart p b st elapsed).clock = p.clock := by
  unfold Part.depart; (try dsimp only); (repeat' split) <;> (first | (simp [Part.clock_each, apply_ite Part.clock]; done) | (refine (Part.clock_each _ (fun q a => ?_) _ _).trans ?_ <;> (try dsimp only) <;> (repeat' split) <;> (simp; done)) | with_reducible rfl)

@[simp] theorem Part.layout_unfinish (elapsed : Nat) : (Part.unfinish p elapsed).layout = p.layout := by
  unfold Part.unfinish; (try dsimp only); (repeat' split) <;> (first | (simp [Part.layout_each, apply_ite Part.layout]; done) | (refine (Part.layout_each _ (fun q a => ?_) _ _).trans ?_ <;> (try dsimp only) <;> (repeat' split) <;> (simp; done)) | with_reducible rfl)

@[simp] theorem Part.clock_unfinish (elapsed : Nat) : (Part.unfinish p elapsed).clock = p.clock := by
  unfold Part.unfinish; (try dsimp only); (repeat' split) <;> (first | (simp [Part.clock_each, apply_ite Part.clock]; done) | (refine (Part.clock_each _ (fun q a => ?_) _ _).trans ?_ <;> (try dsimp only) <;> (repeat' split) <;> (simp; done)) | with_reducible rfl)

@[simp] theorem Part.layout_enterAllclear  : (Part.enterAllclear p).layout = p.layout := by
  unfold Part.enterAllclear; (try dsimp only); (repeat' split) <;> (first | (simp [Part.layout_each, apply_ite Part.layout]; done) | (refine (Part.layout_each _ (fun q a => ?_) _ _).trans ?_ <;> (try dsimp only) <;> (repeat' split) <;> (simp; done)) | with_reducible rfl)

@[simp] theorem Part.clock_enterAllclear  : (Part.enterAllclear p).clock = p.clock := by
  unfold Part.enterAllclear; (try dsimp only); (repeat' split) <;> (first | (simp [Part.clock_each, apply_ite Part.clock]; done) | (refine (Part.clock_each _ (fun q a => ?_) _ _).trans ?_ <;> (try dsimp only) <;> (repeat' split) <;> (simp; done)) | with_reducible rfl)

@[simp] theorem Part.layout_musterEnd  : (Part.musterEnd p).layout = p.layout := by
  unfold Part.musterEnd; (try dsimp only); (repeat' split) <;> (first | (simp [Part.layout_each, apply_ite Part.layout]; done) | (refine (Part.layout_each _ (fun q a => ?_) _ _).trans ?_ <;> (try dsimp only) <;> (repeat' split) <;> (simp; done)) | with_reducible rfl)

@[simp] theorem Part.clock_musterEnd  : (Part.musterEnd p).clock = p.clock := by
  unfold Part.musterEnd; (try dsimp only); (repeat' split) <;> (first | (simp [Part.clock_each, apply_ite Part.clock]; done) | (refine (Part.clock_each _ (fun q a => ?_) _ _).trans ?_ <;> (try dsimp only) <;> (repeat' split) <;> (simp; done)) | with_reducible rfl)

@[simp] theorem Part.layout_testMuster  : (Part.testMuster p).layout = p.layout := by
  unfold Part.testMuster; (try dsimp only); (repeat' split) <;> (first | (simp [Part.layout_each, apply_ite Part.layout]; done) | (refine (Part.layout_each _ (fun q a => ?_) _ _).trans ?_ <;> (try dsimp only) <;> (repeat' split) <;> (simp; done)) | with_reducible rfl)

@[simp] theorem Part.clock_testMuster  : (Part.testMuster p).clock = p.clock := by
  unfold Part.testMuster; (try dsimp only); (repeat' split) <;> (first | (simp [Part.clock_each, apply_ite Part.clock]; done) | (refine (Part.clock_each _ (fun q a => ?_) _ _).trans ?_ <;> (try dsimp only) <;> (repeat' split) <;> (simp; done)) | with_reducible rfl)

@[simp] theorem Part.layout_enterMuster (early : Bool) : (Part.enterMuster p early).layout = p.layout := by
  unfold Part.enterMuster; (try dsimp only); (repeat' split) <;> (first | (simp [Part.layout_each, apply_ite Part.layout]; done) | (refine (Part.layout_each _ (fun q a => ?_) _ _).trans ?_ <;> (try dsimp only) <;> (repeat' split) <;> (simp; done)) | with_reducible rfl)

@[simp] theorem Part.clock_enterMuster (early : Bool) : (Part.enterMuster p early).clock = p.clock := by
  unfold Part.enterMuster; (try dsimp only); (repeat' split) <;> (first | (simp [Part.clock_each, apply_ite Part.clock]; done) | (refine (Part.clock_each _ (fun q a => ?_) _ _).trans ?_ <;> (try dsimp only) <;> (repeat' split) <;> (simp; done)) | with_reducible rfl)

@[simp] theorem Part.layout_testTimers  : (Part.testTimers p).layout = p.layout := by
  unfold Part.testTimers; (try dsimp only); (repeat' split) <;> (first | (simp [Part.layout_each, apply_ite Part.layout]; done) | (refine (Part.layout_each _ (fun q a => ?_) _ _).trans ?_ <;> (try dsimp only) <;> (repeat' split) <;> (simp; done)) | with_reducible rfl)

@[simp] theorem Part.clock_testTimers  : (Part.testTimers p).clock = p.clock := by
  unfold Part.testTimers; (try dsimp only); (repeat' split) <;> (first | (simp [Part.clock_each, apply_ite Part.clock]; done) | (refine (Part.clock_each _ (fun q a => ?_) _ _).trans ?_ <;> (try dsimp only) <;> (repeat' split) <;> (simp; done)) | with_reducible rfl)

@[simp] theorem Part.layout_enterEvacuate (fromPrealert : Bool) : (Part.enterEvacuate p fromPrealert).layout = p.layout := by
  unfold Part.enterEvacuate; (try dsimp only); (repeat' split) <;> (first | (simp [Part.layout_each, apply_ite Part.layout]; done) | (refine (Part.layout_each _ (fun q a => ?_) _ _).trans ?_ <;> (try dsimp only) <;> (repeat' split) <;> (simp; done)) | with_reducible rfl)

@[simp] theorem Part.clock_enterEvacuate (fromPrealert : Bool) : (Part.enterEvacuate p fromPrealert).clock = p.clock := by
  unfold Part.enterEvacuate; (try dsimp only); (repeat' split) <;> (first | (simp [Part.clock_each, apply_ite Part.clock]; done) | (refine (Part.clock_each _ (fun q a => ?_) _ _).trans ?_ <;> (try dsimp only) <;> (repeat' split) <;> (simp; done)) | with_reducible rfl)

@[simp] theorem Part.layout_enterSounding  : (Part.enterSounding p).layout = p.layout := by
  unfold Part.enterSounding; (try dsimp only); (repeat' split) <;> (first | (simp [Part.layout_each, apply_ite Part.layout]; done) | (refine (Part.layout_each _ (fun q a => ?_) _ _).trans ?_ <;> (try dsimp only) <;> (repeat' split) <;> (simp; done)) | with_reducible rfl)

@[simp] theorem Part.clock_enterSounding  : (Part.enterSounding p).clock = p.clock := by
  unfold Part.enterSounding; (try dsimp only); (repeat' split) <;> (first | (simp [Part.clock_each, apply_ite Part.clock]; done) | (refine (Part.clock_each _ (fun q a => ?_) _ _).trans ?_ <;> (try dsimp only) <;> (repeat' split) <;> (simp; done)) | with_reducible rfl)

@[simp] theorem Part.layout_markEntry (m : CampusTime) (old st : ScheduleState) : (p.markEntry m old st).layout = p.layout := by
  unfold Part.markEntry
  refine Part.layout_setSchedule p _ ?_
  rw [List.map_map]; refine List.map_congr_left fun e _ => ?_
  simp only [Function.comp]; split <;> rfl
@[simp] theorem Part.clock_markEntry (m : CampusTime) (old st : ScheduleState) : (p.markEntry m old st).clock = p.clock := rfl

@[simp] theorem Part.layout_checkResult  : (Part.checkResult p).layout = p.layout := by
  unfold Part.checkResult; (try dsimp only); (repeat' split) <;> (first | (simp [Part.layout_each, apply_ite Part.layout]; done) | (refine (Part.layout_each _ (fun q a => ?_) _ _).trans ?_ <;> (try dsimp only) <;> (repeat' split) <;> (simp; done)) | with_reducible rfl)

@[simp] theorem Part.clock_checkResult  : (Part.checkResult p).clock = p.clock := by
  unfold Part.checkResult; (try dsimp only); (repeat' split) <;> (first | (simp [Part.clock_each, apply_ite Part.clock]; done) | (refine (Part.clock_each _ (fun q a => ?_) _ _).trans ?_ <;> (try dsimp only) <;> (repeat' split) <;> (simp; done)) | with_reducible rfl)

@[simp] theorem Part.layout_testProbes  : (Part.testProbes p).layout = p.layout := by
  unfold Part.testProbes; (try dsimp only); (repeat' split) <;> (first | (simp [Part.layout_each, apply_ite Part.layout]; done) | (refine (Part.layout_each _ (fun q a => ?_) _ _).trans ?_ <;> (try dsimp only) <;> (repeat' split) <;> (simp; done)) | with_reducible rfl)

@[simp] theorem Part.clock_testProbes  : (Part.testProbes p).clock = p.clock := by
  unfold Part.testProbes; (try dsimp only); (repeat' split) <;> (first | (simp [Part.clock_each, apply_ite Part.clock]; done) | (refine (Part.clock_each _ (fun q a => ?_) _ _).trans ?_ <;> (try dsimp only) <;> (repeat' split) <;> (simp; done)) | with_reducible rfl)

@[simp] theorem Part.layout_handProbe  : (Part.handProbe p).layout = p.layout := by
  unfold Part.handProbe; (try dsimp only); (repeat' split) <;> (first | (simp [Part.layout_each, apply_ite Part.layout]; done) | (refine (Part.layout_each _ (fun q a => ?_) _ _).trans ?_ <;> (try dsimp only) <;> (repeat' split) <;> (simp; done)) | with_reducible rfl)

@[simp] theorem Part.clock_handProbe  : (Part.handProbe p).clock = p.clock := by
  unfold Part.handProbe; (try dsimp only); (repeat' split) <;> (first | (simp [Part.clock_each, apply_ite Part.clock]; done) | (refine (Part.clock_each _ (fun q a => ?_) _ _).trans ?_ <;> (try dsimp only) <;> (repeat' split) <;> (simp; done)) | with_reducible rfl)

@[simp] theorem Part.layout_beginProbing  : (Part.beginProbing p).layout = p.layout := by
  unfold Part.beginProbing; (try dsimp only); (repeat' split) <;> (first | (simp [Part.layout_each, apply_ite Part.layout]; done) | (refine (Part.layout_each _ (fun q a => ?_) _ _).trans ?_ <;> (try dsimp only) <;> (repeat' split) <;> (simp; done)) | with_reducible rfl)

@[simp] theorem Part.clock_beginProbing  : (Part.beginProbing p).clock = p.clock := by
  unfold Part.beginProbing; (try dsimp only); (repeat' split) <;> (first | (simp [Part.clock_each, apply_ite Part.clock]; done) | (refine (Part.clock_each _ (fun q a => ?_) _ _).trans ?_ <;> (try dsimp only) <;> (repeat' split) <;> (simp; done)) | with_reducible rfl)

@[simp] theorem Part.layout_testWoken  : (Part.testWoken p).layout = p.layout := by
  unfold Part.testWoken; (try dsimp only); (repeat' split) <;> (first | (simp [Part.layout_each, apply_ite Part.layout]; done) | (refine (Part.layout_each _ (fun q a => ?_) _ _).trans ?_ <;> (try dsimp only) <;> (repeat' split) <;> (simp; done)) | with_reducible rfl)

@[simp] theorem Part.clock_testWoken  : (Part.testWoken p).clock = p.clock := by
  unfold Part.testWoken; (try dsimp only); (repeat' split) <;> (first | (simp [Part.clock_each, apply_ite Part.clock]; done) | (refine (Part.clock_each _ (fun q a => ?_) _ _).trans ?_ <;> (try dsimp only) <;> (repeat' split) <;> (simp; done)) | with_reducible rfl)

@[simp] theorem Part.layout_probeCarried (pos : Nat) : (Part.probeCarried p pos).layout = p.layout := by
  unfold Part.probeCarried; (try dsimp only); (repeat' split) <;> (first | (simp [Part.layout_each, apply_ite Part.layout]; done) | (refine (Part.layout_each _ (fun q a => ?_) _ _).trans ?_ <;> (try dsimp only) <;> (repeat' split) <;> (simp; done)) | with_reducible rfl)

@[simp] theorem Part.clock_probeCarried (pos : Nat) : (Part.probeCarried p pos).clock = p.clock := by
  unfold Part.probeCarried; (try dsimp only); (repeat' split) <;> (first | (simp [Part.clock_each, apply_ite Part.clock]; done) | (refine (Part.clock_each _ (fun q a => ?_) _ _).trans ?_ <;> (try dsimp only) <;> (repeat' split) <;> (simp; done)) | with_reducible rfl)

@[simp] theorem Part.layout_takeEcho (pos : Nat) (echo : Nat) : (Part.takeEcho p pos echo).layout = p.layout := by
  unfold Part.takeEcho; (try dsimp only); (repeat' split) <;> (first | (simp [Part.layout_each, apply_ite Part.layout]; done) | (refine (Part.layout_each _ (fun q a => ?_) _ _).trans ?_ <;> (try dsimp only) <;> (repeat' split) <;> (simp; done)) | with_reducible rfl)

@[simp] theorem Part.clock_takeEcho (pos : Nat) (echo : Nat) : (Part.takeEcho p pos echo).clock = p.clock := by
  unfold Part.takeEcho; (try dsimp only); (repeat' split) <;> (first | (simp [Part.clock_each, apply_ite Part.clock]; done) | (refine (Part.clock_each _ (fun q a => ?_) _ _).trans ?_ <;> (try dsimp only) <;> (repeat' split) <;> (simp; done)) | with_reducible rfl)

@[simp] theorem Part.layout_countEchoWaits  : (Part.countEchoWaits p).layout = p.layout := by
  unfold Part.countEchoWaits; (try dsimp only); (repeat' split) <;> (first | (simp [Part.layout_each, apply_ite Part.layout]; done) | (refine (Part.layout_each _ (fun q a => ?_) _ _).trans ?_ <;> (try dsimp only) <;> (repeat' split) <;> (simp; done)) | with_reducible rfl)

@[simp] theorem Part.clock_countEchoWaits  : (Part.countEchoWaits p).clock = p.clock := by
  unfold Part.countEchoWaits; (try dsimp only); (repeat' split) <;> (first | (simp [Part.clock_each, apply_ite Part.clock]; done) | (refine (Part.clock_each _ (fun q a => ?_) _ _).trans ?_ <;> (try dsimp only) <;> (repeat' split) <;> (simp; done)) | with_reducible rfl)

@[simp] theorem Part.layout_probesLost  : (Part.probesLost p).layout = p.layout := by
  unfold Part.probesLost; (try dsimp only); (repeat' split) <;> (first | (simp [Part.layout_each, apply_ite Part.layout]; done) | (refine (Part.layout_each _ (fun q a => ?_) _ _).trans ?_ <;> (try dsimp only) <;> (repeat' split) <;> (simp; done)) | with_reducible rfl)

@[simp] theorem Part.clock_probesLost  : (Part.probesLost p).clock = p.clock := by
  unfold Part.probesLost; (try dsimp only); (repeat' split) <;> (first | (simp [Part.clock_each, apply_ite Part.clock]; done) | (refine (Part.clock_each _ (fun q a => ?_) _ _).trans ?_ <;> (try dsimp only) <;> (repeat' split) <;> (simp; done)) | with_reducible rfl)

@[simp] theorem Part.layout_startDrill (program : Nat) (f : Program) (origin : DrillOrigin) (forced : Bool) : (Part.startDrill p program f origin forced).layout = p.layout := by
  unfold Part.startDrill; (try dsimp only); (repeat' split) <;> (first | (simp [Part.layout_each, apply_ite Part.layout]; done) | (refine (Part.layout_each _ (fun q a => ?_) _ _).trans ?_ <;> (try dsimp only) <;> (repeat' split) <;> (simp; done)) | with_reducible rfl)

@[simp] theorem Part.clock_startDrill (program : Nat) (f : Program) (origin : DrillOrigin) (forced : Bool) : (Part.startDrill p program f origin forced).clock = p.clock := by
  unfold Part.startDrill; (try dsimp only); (repeat' split) <;> (first | (simp [Part.clock_each, apply_ite Part.clock]; done) | (refine (Part.clock_each _ (fun q a => ?_) _ _).trans ?_ <;> (try dsimp only) <;> (repeat' split) <;> (simp; done)) | with_reducible rfl)

@[simp] theorem Part.layout_clearEdge (b : Nat) : (Part.clearEdge p b).layout = p.layout := by
  unfold Part.clearEdge; (try dsimp only); (repeat' split) <;> (first | (simp [Part.layout_each, apply_ite Part.layout]; done) | (refine (Part.layout_each _ (fun q a => ?_) _ _).trans ?_ <;> (try dsimp only) <;> (repeat' split) <;> (simp; done)) | with_reducible rfl)

@[simp] theorem Part.clock_clearEdge (b : Nat) : (Part.clearEdge p b).clock = p.clock := by
  unfold Part.clearEdge; (try dsimp only); (repeat' split) <;> (first | (simp [Part.clock_each, apply_ite Part.clock]; done) | (refine (Part.clock_each _ (fun q a => ?_) _ _).trans ?_ <;> (try dsimp only) <;> (repeat' split) <;> (simp; done)) | with_reducible rfl)

@[simp] theorem Part.layout_countEdges (b : Nat) (n : Nat) : (Part.countEdges p b n).layout = p.layout := by
  unfold Part.countEdges; (try dsimp only); (repeat' split) <;> (first | (simp [Part.layout_each, apply_ite Part.layout]; done) | (refine (Part.layout_each _ (fun q a => ?_) _ _).trans ?_ <;> (try dsimp only) <;> (repeat' split) <;> (simp; done)) | with_reducible rfl)

@[simp] theorem Part.clock_countEdges (b : Nat) (n : Nat) : (Part.countEdges p b n).clock = p.clock := by
  unfold Part.countEdges; (try dsimp only); (repeat' split) <;> (first | (simp [Part.clock_each, apply_ite Part.clock]; done) | (refine (Part.clock_each _ (fun q a => ?_) _ _).trans ?_ <;> (try dsimp only) <;> (repeat' split) <;> (simp; done)) | with_reducible rfl)

@[simp] theorem Part.layout_drillYield (b : Nat) : (Part.drillYield p b).layout = p.layout := by
  unfold Part.drillYield; (try dsimp only); (repeat' split) <;> (first | (simp [Part.layout_each, apply_ite Part.layout]; done) | (refine (Part.layout_each _ (fun q a => ?_) _ _).trans ?_ <;> (try dsimp only) <;> (repeat' split) <;> (simp; done)) | with_reducible rfl)

@[simp] theorem Part.clock_drillYield (b : Nat) : (Part.drillYield p b).clock = p.clock := by
  unfold Part.drillYield; (try dsimp only); (repeat' split) <;> (first | (simp [Part.clock_each, apply_ite Part.clock]; done) | (refine (Part.clock_each _ (fun q a => ?_) _ _).trans ?_ <;> (try dsimp only) <;> (repeat' split) <;> (simp; done)) | with_reducible rfl)

@[simp] theorem Part.layout_setPartial (b : Nat) : (Part.setPartial p b).layout = p.layout := by
  unfold Part.setPartial; (try dsimp only); (repeat' split) <;> (first | (simp [Part.layout_each, apply_ite Part.layout]; done) | (refine (Part.layout_each _ (fun q a => ?_) _ _).trans ?_ <;> (try dsimp only) <;> (repeat' split) <;> (simp; done)) | with_reducible rfl)

@[simp] theorem Part.clock_setPartial (b : Nat) : (Part.setPartial p b).clock = p.clock := by
  unfold Part.setPartial; (try dsimp only); (repeat' split) <;> (first | (simp [Part.clock_each, apply_ite Part.clock]; done) | (refine (Part.clock_each _ (fun q a => ?_) _ _).trans ?_ <;> (try dsimp only) <;> (repeat' split) <;> (simp; done)) | with_reducible rfl)

@[simp] theorem Part.layout_dropOut (pos : Nat) : (Part.dropOut p pos).layout = p.layout := by
  unfold Part.dropOut; (try dsimp only); (repeat' split) <;> (first | (simp [Part.layout_each, apply_ite Part.layout]; done) | (refine (Part.layout_each _ (fun q a => ?_) _ _).trans ?_ <;> (try dsimp only) <;> (repeat' split) <;> (simp; done)) | with_reducible rfl)

@[simp] theorem Part.clock_dropOut (pos : Nat) : (Part.dropOut p pos).clock = p.clock := by
  unfold Part.dropOut; (try dsimp only); (repeat' split) <;> (first | (simp [Part.clock_each, apply_ite Part.clock]; done) | (refine (Part.clock_each _ (fun q a => ?_) _ _).trans ?_ <;> (try dsimp only) <;> (repeat' split) <;> (simp; done)) | with_reducible rfl)

@[simp] theorem Part.layout_drillUnowned (b : Option Nat) : (p.drillUnowned b).layout = p.layout := by
  cases b <;> simp [Part.drillUnowned]
@[simp] theorem Part.clock_drillUnowned (b : Option Nat) : (p.drillUnowned b).clock = p.clock := by
  cases b <;> simp [Part.drillUnowned]

@[simp] theorem Part.layout_drillWakeWaitEnd  : (Part.drillWakeWaitEnd p).layout = p.layout := by
  unfold Part.drillWakeWaitEnd; (try dsimp only); (repeat' split) <;> (first | (simp [Part.layout_each, apply_ite Part.layout]; done) | (refine (Part.layout_each _ (fun q a => ?_) _ _).trans ?_ <;> (try dsimp only) <;> (repeat' split) <;> (simp; done)) | with_reducible rfl)

@[simp] theorem Part.clock_drillWakeWaitEnd  : (Part.drillWakeWaitEnd p).clock = p.clock := by
  unfold Part.drillWakeWaitEnd; (try dsimp only); (repeat' split) <;> (first | (simp [Part.clock_each, apply_ite Part.clock]; done) | (refine (Part.clock_each _ (fun q a => ?_) _ _).trans ?_ <;> (try dsimp only) <;> (repeat' split) <;> (simp; done)) | with_reducible rfl)

@[simp] theorem Part.layout_prealertEnd  : (Part.prealertEnd p).layout = p.layout := by
  unfold Part.prealertEnd; (try dsimp only); (repeat' split) <;> (first | (simp [Part.layout_each, apply_ite Part.layout]; done) | (refine (Part.layout_each _ (fun q a => ?_) _ _).trans ?_ <;> (try dsimp only) <;> (repeat' split) <;> (simp; done)) | with_reducible rfl)

@[simp] theorem Part.clock_prealertEnd  : (Part.prealertEnd p).clock = p.clock := by
  unfold Part.prealertEnd; (try dsimp only); (repeat' split) <;> (first | (simp [Part.clock_each, apply_ite Part.clock]; done) | (refine (Part.clock_each _ (fun q a => ?_) _ _).trans ?_ <;> (try dsimp only) <;> (repeat' split) <;> (simp; done)) | with_reducible rfl)

@[simp] theorem Part.layout_targetReached (b : Nat) : (Part.targetReached p b).layout = p.layout := by
  unfold Part.targetReached; (try dsimp only); (repeat' split) <;> (first | (simp [Part.layout_each, apply_ite Part.layout]; done) | (refine (Part.layout_each _ (fun q a => ?_) _ _).trans ?_ <;> (try dsimp only) <;> (repeat' split) <;> (simp; done)) | with_reducible rfl)

@[simp] theorem Part.clock_targetReached (b : Nat) : (Part.targetReached p b).clock = p.clock := by
  unfold Part.targetReached; (try dsimp only); (repeat' split) <;> (first | (simp [Part.clock_each, apply_ite Part.clock]; done) | (refine (Part.clock_each _ (fun q a => ?_) _ _).trans ?_ <;> (try dsimp only) <;> (repeat' split) <;> (simp; done)) | with_reducible rfl)

@[simp] theorem Part.layout_toneEnd  : (Part.toneEnd p).layout = p.layout := by
  unfold Part.toneEnd; (try dsimp only); (repeat' split) <;> (first | (simp [Part.layout_each, apply_ite Part.layout]; done) | (refine (Part.layout_each _ (fun q a => ?_) _ _).trans ?_ <;> (try dsimp only) <;> (repeat' split) <;> (simp; done)) | with_reducible rfl)

@[simp] theorem Part.clock_toneEnd  : (Part.toneEnd p).clock = p.clock := by
  unfold Part.toneEnd; (try dsimp only); (repeat' split) <;> (first | (simp [Part.clock_each, apply_ite Part.clock]; done) | (refine (Part.clock_each _ (fun q a => ?_) _ _).trans ?_ <;> (try dsimp only) <;> (repeat' split) <;> (simp; done)) | with_reducible rfl)

@[simp] theorem Part.layout_musterLimit  : (Part.musterLimit p).layout = p.layout := by
  unfold Part.musterLimit; (try dsimp only); (repeat' split) <;> (first | (simp [Part.layout_each, apply_ite Part.layout]; done) | (refine (Part.layout_each _ (fun q a => ?_) _ _).trans ?_ <;> (try dsimp only) <;> (repeat' split) <;> (simp; done)) | with_reducible rfl)

@[simp] theorem Part.clock_musterLimit  : (Part.musterLimit p).clock = p.clock := by
  unfold Part.musterLimit; (try dsimp only); (repeat' split) <;> (first | (simp [Part.clock_each, apply_ite Part.clock]; done) | (refine (Part.clock_each _ (fun q a => ?_) _ _).trans ?_ <;> (try dsimp only) <;> (repeat' split) <;> (simp; done)) | with_reducible rfl)

@[simp] theorem Part.layout_allclearEnd  : (Part.allclearEnd p).layout = p.layout := by
  unfold Part.allclearEnd; (try dsimp only); (repeat' split) <;> (first | (simp [Part.layout_each, apply_ite Part.layout]; done) | (refine (Part.layout_each _ (fun q a => ?_) _ _).trans ?_ <;> (try dsimp only) <;> (repeat' split) <;> (simp; done)) | with_reducible rfl)

@[simp] theorem Part.clock_allclearEnd  : (Part.allclearEnd p).clock = p.clock := by
  unfold Part.allclearEnd; (try dsimp only); (repeat' split) <;> (first | (simp [Part.clock_each, apply_ite Part.clock]; done) | (refine (Part.clock_each _ (fun q a => ?_) _ _).trans ?_ <;> (try dsimp only) <;> (repeat' split) <;> (simp; done)) | with_reducible rfl)

@[simp] theorem Part.layout_missEntries (f : Nat → Bool) : (p.missEntries f).layout = p.layout := by
  unfold Part.missEntries; dsimp only; split
  · rfl
  · rw [Part.layout_note]
    refine Part.layout_setSchedule p _ ?_
    rw [List.map_map]; refine List.map_congr_left fun e _ => ?_
    simp only [Function.comp]; split <;> rfl
@[simp] theorem Part.clock_missEntries (f : Nat → Bool) : (p.missEntries f).clock = p.clock := by
  unfold Part.missEntries; dsimp only; split <;> rfl

@[simp] theorem Part.layout_reachScheduled  : (Part.reachScheduled p).layout = p.layout := by
  unfold Part.reachScheduled; (try dsimp only); (repeat' split) <;> (first | (simp [Part.layout_each, apply_ite Part.layout]; done) | (refine (Part.layout_each _ (fun q a => ?_) _ _).trans ?_ <;> (try dsimp only) <;> (repeat' split) <;> (simp; done)) | with_reducible rfl)

@[simp] theorem Part.clock_reachScheduled  : (Part.reachScheduled p).clock = p.clock := by
  unfold Part.reachScheduled; (try dsimp only); (repeat' split) <;> (first | (simp [Part.clock_each, apply_ite Part.clock]; done) | (refine (Part.clock_each _ (fun q a => ?_) _ _).trans ?_ <;> (try dsimp only) <;> (repeat' split) <;> (simp; done)) | with_reducible rfl)

@[simp] theorem Part.layout_scheduleJump (old : CampusTime) (new : CampusTime) : (Part.scheduleJump p old new).layout = p.layout := by
  unfold Part.scheduleJump; (try dsimp only); (repeat' split) <;> (first | (simp [Part.layout_each, apply_ite Part.layout]; done) | (refine (Part.layout_each _ (fun q a => ?_) _ _).trans ?_ <;> (try dsimp only) <;> (repeat' split) <;> (simp; done)) | with_reducible rfl)

@[simp] theorem Part.clock_scheduleJump (old : CampusTime) (new : CampusTime) : (Part.scheduleJump p old new).clock = p.clock := by
  unfold Part.scheduleJump; (try dsimp only); (repeat' split) <;> (first | (simp [Part.clock_each, apply_ite Part.clock]; done) | (refine (Part.clock_each _ (fun q a => ?_) _ _).trans ?_ <;> (try dsimp only) <;> (repeat' split) <;> (simp; done)) | with_reducible rfl)

@[simp] theorem Part.layout_scheduleSet  : (Part.scheduleSet p).layout = p.layout := by
  unfold Part.scheduleSet; (try dsimp only); (repeat' split) <;> (first | (simp [Part.layout_each, apply_ite Part.layout]; done) | (refine (Part.layout_each _ (fun q a => ?_) _ _).trans ?_ <;> (try dsimp only) <;> (repeat' split) <;> (simp; done)) | with_reducible rfl)

@[simp] theorem Part.clock_scheduleSet  : (Part.scheduleSet p).clock = p.clock := by
  unfold Part.scheduleSet; (try dsimp only); (repeat' split) <;> (first | (simp [Part.clock_each, apply_ite Part.clock]; done) | (refine (Part.clock_each _ (fun q a => ?_) _ _).trans ?_ <;> (try dsimp only) <;> (repeat' split) <;> (simp; done)) | with_reducible rfl)

@[simp] theorem Part.layout_drillStart (n : Nat) (force : Option Bool) (saving : Bool) : (Part.drillStart n force saving p).1.layout = p.layout := by
  unfold Part.drillStart; refine Part.layout_checked p _ _ ?_
  (try dsimp only); (repeat' split) <;> simp [Part.layout_each, apply_ite Part.layout]
@[simp] theorem Part.clock_drillStart (n : Nat) (force : Option Bool) (saving : Bool) : (Part.drillStart n force saving p).1.clock = p.clock := by
  unfold Part.drillStart; refine Part.clock_checked p _ _ ?_
  (try dsimp only); (repeat' split) <;> simp [Part.clock_each, apply_ite Part.clock]

@[simp] theorem Part.layout_drillAbort (saving : Bool) : (Part.drillAbort saving p).1.layout = p.layout := by
  unfold Part.drillAbort; refine Part.layout_checked p _ _ ?_
  (try dsimp only); (repeat' split) <;> simp [Part.layout_each, apply_ite Part.layout]
@[simp] theorem Part.clock_drillAbort (saving : Bool) : (Part.drillAbort saving p).1.clock = p.clock := by
  unfold Part.drillAbort; refine Part.clock_checked p _ _ ?_
  (try dsimp only); (repeat' split) <;> simp [Part.clock_each, apply_ite Part.clock]


/-! ### Zones -/

@[simp] theorem Part.layout_yieldRelease (b : Nat) (saving : Bool) : (Part.yieldRelease b saving p).1.layout = p.layout := by
  unfold Part.yieldRelease; refine Part.layout_checked p _ _ ?_
  (try dsimp only); (repeat' split) <;> simp [Part.layout_each, apply_ite Part.layout]
@[simp] theorem Part.clock_yieldRelease (b : Nat) (saving : Bool) : (Part.yieldRelease b saving p).1.clock = p.clock := by
  unfold Part.yieldRelease; refine Part.clock_checked p _ _ ?_
  (try dsimp only); (repeat' split) <;> simp [Part.clock_each, apply_ite Part.clock]

@[simp] theorem Part.layout_latestStart (posting : Nat) : (Part.latestStart posting p).layout = p.layout := by
  unfold Part.latestStart; (try dsimp only); (repeat' split) <;> (first | (simp [Part.layout_each, apply_ite Part.layout]; done) | (refine (Part.layout_each _ (fun q a => ?_) _ _).trans ?_ <;> (try dsimp only) <;> (repeat' split) <;> (simp; done)) | with_reducible rfl)

@[simp] theorem Part.layout_claimEndTime (z : Nat) : (Part.claimEndTime z p).layout = p.layout := by
  unfold Part.claimEndTime; (try dsimp only); (repeat' split) <;> (first | (simp [Part.layout_each, apply_ite Part.layout]; done) | (refine (Part.layout_each _ (fun q a => ?_) _ _).trans ?_ <;> (try dsimp only) <;> (repeat' split) <;> (simp; done)) | with_reducible rfl)

@[simp] theorem Part.clock_claimEndTime (z : Nat) : (Part.claimEndTime z p).clock = p.clock := by
  unfold Part.claimEndTime; (try dsimp only); (repeat' split) <;> (first | (simp [Part.clock_each, apply_ite Part.clock]; done) | (refine (Part.clock_each _ (fun q a => ?_) _ _).trans ?_ <;> (try dsimp only) <;> (repeat' split) <;> (simp; done)) | with_reducible rfl)


/-! ### Campus -/

@[simp] theorem Part.layout_noteTime (c : TimeCause) : (Part.noteTime p c).layout = p.layout := by
  unfold Part.noteTime; (try dsimp only); (repeat' split) <;> (first | (simp [Part.layout_each, apply_ite Part.layout]; done) | (refine (Part.layout_each _ (fun q a => ?_) _ _).trans ?_ <;> (try dsimp only) <;> (repeat' split) <;> (simp; done)) | with_reducible rfl)

@[simp] theorem Part.clock_noteTime (c : TimeCause) : (Part.noteTime p c).clock = p.clock := by
  unfold Part.noteTime; (try dsimp only); (repeat' split) <;> (first | (simp [Part.clock_each, apply_ite Part.clock]; done) | (refine (Part.clock_each _ (fun q a => ?_) _ _).trans ?_ <;> (try dsimp only) <;> (repeat' split) <;> (simp; done)) | with_reducible rfl)

@[simp] theorem Part.layout_setSelection (sel : DaySelection) (marked : Nat) : (Part.setSelection p sel marked).layout = p.layout := by
  unfold Part.setSelection; (try dsimp only); (repeat' split) <;> (first | (simp [Part.layout_each, apply_ite Part.layout]; done) | (refine (Part.layout_each _ (fun q a => ?_) _ _).trans ?_ <;> (try dsimp only) <;> (repeat' split) <;> (simp; done)) | with_reducible rfl)

@[simp] theorem Part.layout_selectDay (marked : Nat) : (Part.selectDay p marked).layout = p.layout := by
  unfold Part.selectDay; (try dsimp only); (repeat' split) <;> (first | (simp [Part.layout_each, apply_ite Part.layout]; done) | (refine (Part.layout_each _ (fun q a => ?_) _ _).trans ?_ <;> (try dsimp only) <;> (repeat' split) <;> (simp; done)) | with_reducible rfl)

@[simp] theorem Part.layout_evaluateQuiet  : (Part.evaluateQuiet p).layout = p.layout := by
  unfold Part.evaluateQuiet; (try dsimp only); (repeat' split) <;> (first | (simp [Part.layout_each, apply_ite Part.layout]; done) | (refine (Part.layout_each _ (fun q a => ?_) _ _).trans ?_ <;> (try dsimp only) <;> (repeat' split) <;> (simp; done)) | with_reducible rfl)

@[simp] theorem Part.layout_markDone (f : Nat → Bool) : (p.markDone f).1.layout = p.layout := by
  unfold Part.markDone
  refine Part.layout_with_cal p _ ⟨rfl, rfl, rfl, rfl, ?_⟩
  rw [List.map_map]; refine List.map_congr_left fun e _ => ?_
  simp only [Function.comp]; split <;> rfl

@[simp] theorem Part.layout_moveTime (t : CampusTime) : (Part.moveTime p t).layout = p.layout := by
  unfold Part.moveTime; (try dsimp only); (repeat' split) <;> (first | (simp [Part.layout_each, apply_ite Part.layout]; done) | (refine (Part.layout_each _ (fun q a => ?_) _ _).trans ?_ <;> (try dsimp only) <;> (repeat' split) <;> (simp; done)) | with_reducible rfl)

@[simp] theorem Part.layout_cancelTrim  : (Part.cancelTrim p).layout = p.layout := by
  unfold Part.cancelTrim; (try dsimp only); (repeat' split) <;> (first | (simp [Part.layout_each, apply_ite Part.layout]; done) | (refine (Part.layout_each _ (fun q a => ?_) _ _).trans ?_ <;> (try dsimp only) <;> (repeat' split) <;> (simp; done)) | with_reducible rfl)

@[simp] theorem Part.layout_arrive  : (Part.arrive p).layout = p.layout := by
  simp [Part.arrive]

@[simp] theorem Part.layout_jumpTo (new : CampusTime) (cause : CampusTime → Int → Nat → TimeCause) : (Part.jumpTo p new cause).layout = p.layout := by
  unfold Part.jumpTo; (try dsimp only); (repeat' split) <;> (first | (simp [Part.layout_each, apply_ite Part.layout]; done) | (refine (Part.layout_each _ (fun q a => ?_) _ _).trans ?_ <;> (try dsimp only) <;> (repeat' split) <;> (simp; done)) | with_reducible rfl)

@[simp] theorem Part.layout_setFromUnset (new : CampusTime) : (Part.setFromUnset p new).layout = p.layout := by
  unfold Part.setFromUnset; (try dsimp only); (repeat' split) <;> (first | (simp [Part.layout_each, apply_ite Part.layout]; done) | (refine (Part.layout_each _ (fun q a => ?_) _ _).trans ?_ <;> (try dsimp only) <;> (repeat' split) <;> (simp; done)) | with_reducible rfl)

@[simp] theorem Part.layout_becomeUnset  : (Part.becomeUnset p).layout = p.layout := by
  unfold Part.becomeUnset; (try dsimp only); (repeat' split) <;> (first | (simp [Part.layout_each, apply_ite Part.layout]; done) | (refine (Part.layout_each _ (fun q a => ?_) _ _).trans ?_ <;> (try dsimp only) <;> (repeat' split) <;> (simp; done)) | with_reducible rfl)

@[simp] theorem Part.layout_newDate  : (Part.newDate p).layout = p.layout := by
  unfold Part.newDate; (try dsimp only); (repeat' split) <;> (first | (simp [Part.layout_each, apply_ite Part.layout]; done) | (refine (Part.layout_each _ (fun q a => ?_) _ _).trans ?_ <;> (try dsimp only) <;> (repeat' split) <;> (simp; done)) | with_reducible rfl)

@[simp] theorem Part.layout_trimMoved  : (Part.trimMoved p).layout = p.layout := by
  unfold Part.trimMoved; (try dsimp only); (repeat' split) <;> (first | (simp [Part.layout_each, apply_ite Part.layout]; done) | (refine (Part.layout_each _ (fun q a => ?_) _ _).trans ?_ <;> (try dsimp only) <;> (repeat' split) <;> (simp; done)) | with_reducible rfl)

@[simp] theorem Part.clock_trimMoved  : (Part.trimMoved p).clock = p.clock := by
  unfold Part.trimMoved; (try dsimp only); (repeat' split) <;> (first | (simp [Part.clock_each, apply_ite Part.clock]; done) | (refine (Part.clock_each _ (fun q a => ?_) _ _).trans ?_ <;> (try dsimp only) <;> (repeat' split) <;> (simp; done)) | with_reducible rfl)

@[simp] theorem Part.layout_trimSecond  : (Part.trimSecond p).layout = p.layout := by
  unfold Part.trimSecond; (try dsimp only); (repeat' split) <;> (first | (simp [Part.layout_each, apply_ite Part.layout]; done) | (refine (Part.layout_each _ (fun q a => ?_) _ _).trans ?_ <;> (try dsimp only) <;> (repeat' split) <;> (simp; done)) | with_reducible rfl)

@[simp] theorem Part.layout_dayStart  : (Part.dayStart p).layout = p.layout := by
  unfold Part.dayStart; (try dsimp only); (repeat' split) <;> (first | (simp [Part.layout_each, apply_ite Part.layout]; done) | (refine (Part.layout_each _ (fun q a => ?_) _ _).trans ?_ <;> (try dsimp only) <;> (repeat' split) <;> (simp; done)) | with_reducible rfl)

@[simp] theorem Part.layout_minuteBoundary  : (Part.minuteBoundary p).layout = p.layout := by
  unfold Part.minuteBoundary; (try dsimp only); (repeat' split) <;> (first | (simp [Part.layout_each, apply_ite Part.layout]; done) | (refine (Part.layout_each _ (fun q a => ?_) _ _).trans ?_ <;> (try dsimp only) <;> (repeat' split) <;> (simp; done)) | with_reducible rfl)

@[simp] theorem Part.layout_applyChange (c : TimeChange) : (p.applyChange c).layout = p.layout := by
  unfold Part.applyChange; dsimp only
  rw [Part.layout_jumpTo]
  refine Part.layout_with_cal p _ ⟨rfl, rfl, rfl, rfl, ?_⟩
  rw [List.map_map]; refine List.map_congr_left fun e _ => ?_
  simp only [Function.comp]; split <;> rfl

@[simp] theorem Part.layout_timeSet (date : CalDate) (tod : Nat) (saving : Bool) :
    (Part.timeSet date tod saving p).1.layout = p.layout := by
  unfold Part.timeSet; refine Part.layout_checked p _ _ ?_
  dsimp only; (repeat' split) <;> simp

@[simp] theorem Part.layout_timeTrim (amount : Int) (saving : Bool) :
    (Part.timeTrim amount saving p).1.layout = p.layout := by
  unfold Part.timeTrim; refine Part.layout_checked p _ _ ?_
  simp


/-! ### NodeStates -/

@[simp] theorem Part.layout_setWork (l : List Task) : (Part.setWork p l).layout = p.layout := by
  unfold Part.setWork; (try dsimp only); (repeat' split) <;> (first | (simp [Part.layout_each, apply_ite Part.layout]; done) | (refine (Part.layout_each _ (fun q a => ?_) _ _).trans ?_ <;> (try dsimp only) <;> (repeat' split) <;> (simp; done)) | with_reducible rfl)

@[simp] theorem Part.clock_setWork (l : List Task) : (Part.setWork p l).clock = p.clock := by
  unfold Part.setWork; (try dsimp only); (repeat' split) <;> (first | (simp [Part.clock_each, apply_ite Part.clock]; done) | (refine (Part.clock_each _ (fun q a => ?_) _ _).trans ?_ <;> (try dsimp only) <;> (repeat' split) <;> (simp; done)) | with_reducible rfl)

@[simp] theorem Part.layout_addTask (t : Task) : (Part.addTask p t).layout = p.layout := by
  unfold Part.addTask; (try dsimp only); (repeat' split) <;> (first | (simp [Part.layout_each, apply_ite Part.layout]; done) | (refine (Part.layout_each _ (fun q a => ?_) _ _).trans ?_ <;> (try dsimp only) <;> (repeat' split) <;> (simp; done)) | with_reducible rfl)

@[simp] theorem Part.clock_addTask (t : Task) : (Part.addTask p t).clock = p.clock := by
  unfold Part.addTask; (try dsimp only); (repeat' split) <;> (first | (simp [Part.clock_each, apply_ite Part.clock]; done) | (refine (Part.clock_each _ (fun q a => ?_) _ _).trans ?_ <;> (try dsimp only) <;> (repeat' split) <;> (simp; done)) | with_reducible rfl)

@[simp] theorem Part.layout_addBuildFirst  : (Part.addBuildFirst p).layout = p.layout := by
  unfold Part.addBuildFirst; (try dsimp only); (repeat' split) <;> (first | (simp [Part.layout_each, apply_ite Part.layout]; done) | (refine (Part.layout_each _ (fun q a => ?_) _ _).trans ?_ <;> (try dsimp only) <;> (repeat' split) <;> (simp; done)) | with_reducible rfl)

@[simp] theorem Part.clock_addBuildFirst  : (Part.addBuildFirst p).clock = p.clock := by
  unfold Part.addBuildFirst; (try dsimp only); (repeat' split) <;> (first | (simp [Part.clock_each, apply_ite Part.clock]; done) | (refine (Part.clock_each _ (fun q a => ?_) _ _).trans ?_ <;> (try dsimp only) <;> (repeat' split) <;> (simp; done)) | with_reducible rfl)

@[simp] theorem Part.layout_dropStep  : (Part.dropStep p).layout = p.layout := by
  unfold Part.dropStep; (try dsimp only); (repeat' split) <;> (first | (simp [Part.layout_each, apply_ite Part.layout]; done) | (refine (Part.layout_each _ (fun q a => ?_) _ _).trans ?_ <;> (try dsimp only) <;> (repeat' split) <;> (simp; done)) | with_reducible rfl)

@[simp] theorem Part.clock_dropStep  : (Part.dropStep p).clock = p.clock := by
  unfold Part.dropStep; (try dsimp only); (repeat' split) <;> (first | (simp [Part.clock_each, apply_ite Part.clock]; done) | (refine (Part.clock_each _ (fun q a => ?_) _ _).trans ?_ <;> (try dsimp only) <;> (repeat' split) <;> (simp; done)) | with_reducible rfl)

@[simp] theorem Part.layout_endTask  : (Part.endTask p).layout = p.layout := by
  unfold Part.endTask; (try dsimp only); (repeat' split) <;> (first | (simp [Part.layout_each, apply_ite Part.layout]; done) | (refine (Part.layout_each _ (fun q a => ?_) _ _).trans ?_ <;> (try dsimp only) <;> (repeat' split) <;> (simp; done)) | with_reducible rfl)

@[simp] theorem Part.clock_endTask  : (Part.endTask p).clock = p.clock := by
  unfold Part.endTask; (try dsimp only); (repeat' split) <;> (first | (simp [Part.clock_each, apply_ite Part.clock]; done) | (refine (Part.clock_each _ (fun q a => ?_) _ _).trans ?_ <;> (try dsimp only) <;> (repeat' split) <;> (simp; done)) | with_reducible rfl)

@[simp] theorem Part.layout_removeTasks (f : Task → Bool) : (Part.removeTasks p f).layout = p.layout := by
  unfold Part.removeTasks; (try dsimp only); (repeat' split) <;> (first | (simp [Part.layout_each, apply_ite Part.layout]; done) | (refine (Part.layout_each _ (fun q a => ?_) _ _).trans ?_ <;> (try dsimp only) <;> (repeat' split) <;> (simp; done)) | with_reducible rfl)

@[simp] theorem Part.clock_removeTasks (f : Task → Bool) : (Part.removeTasks p f).clock = p.clock := by
  unfold Part.removeTasks; (try dsimp only); (repeat' split) <;> (first | (simp [Part.clock_each, apply_ite Part.clock]; done) | (refine (Part.clock_each _ (fun q a => ?_) _ _).trans ?_ <;> (try dsimp only) <;> (repeat' split) <;> (simp; done)) | with_reducible rfl)

@[simp] theorem Part.layout_endBuildOp (st : Status) : (Part.endBuildOp p st).layout = p.layout := by
  unfold Part.endBuildOp; (try dsimp only); (repeat' split) <;> (first | (simp [Part.layout_each, apply_ite Part.layout]; done) | (refine (Part.layout_each _ (fun q a => ?_) _ _).trans ?_ <;> (try dsimp only) <;> (repeat' split) <;> (simp; done)) | with_reducible rfl)

@[simp] theorem Part.clock_endBuildOp (st : Status) : (Part.endBuildOp p st).clock = p.clock := by
  unfold Part.endBuildOp; (try dsimp only); (repeat' split) <;> (first | (simp [Part.clock_each, apply_ite Part.clock]; done) | (refine (Part.clock_each _ (fun q a => ?_) _ _).trans ?_ <;> (try dsimp only) <;> (repeat' split) <;> (simp; done)) | with_reducible rfl)

@[simp] theorem Part.layout_startRetry  : (Part.startRetry p).layout = p.layout := by
  unfold Part.startRetry; (try dsimp only); (repeat' split) <;> (first | (simp [Part.layout_each, apply_ite Part.layout]; done) | (refine (Part.layout_each _ (fun q a => ?_) _ _).trans ?_ <;> (try dsimp only) <;> (repeat' split) <;> (simp; done)) | with_reducible rfl)

@[simp] theorem Part.clock_startRetry  : (Part.startRetry p).clock = p.clock := by
  unfold Part.startRetry; (try dsimp only); (repeat' split) <;> (first | (simp [Part.clock_each, apply_ite Part.clock]; done) | (refine (Part.clock_each _ (fun q a => ?_) _ _).trans ?_ <;> (try dsimp only) <;> (repeat' split) <;> (simp; done)) | with_reducible rfl)

@[simp] theorem Part.layout_becomePartial (reason : StopReason) (pos : Nat) : (Part.becomePartial p reason pos).layout = p.layout := by
  unfold Part.becomePartial; (try dsimp only); (repeat' split) <;> (first | (simp [Part.layout_each, apply_ite Part.layout]; done) | (refine (Part.layout_each _ (fun q a => ?_) _ _).trans ?_ <;> (try dsimp only) <;> (repeat' split) <;> (simp; done)) | with_reducible rfl)

@[simp] theorem Part.clock_becomePartial (reason : StopReason) (pos : Nat) : (Part.becomePartial p reason pos).clock = p.clock := by
  unfold Part.becomePartial; (try dsimp only); (repeat' split) <;> (first | (simp [Part.clock_each, apply_ite Part.clock]; done) | (refine (Part.clock_each _ (fun q a => ?_) _ _).trans ?_ <;> (try dsimp only) <;> (repeat' split) <;> (simp; done)) | with_reducible rfl)

@[simp] theorem Part.layout_endBuild (reason : StopReason) (pos : Nat) : (Part.endBuild p reason pos).layout = p.layout := by
  unfold Part.endBuild; (try dsimp only); (repeat' split) <;> (first | (simp [Part.layout_each, apply_ite Part.layout]; done) | (refine (Part.layout_each _ (fun q a => ?_) _ _).trans ?_ <;> (try dsimp only) <;> (repeat' split) <;> (simp; done)) | with_reducible rfl)

@[simp] theorem Part.clock_endBuild (reason : StopReason) (pos : Nat) : (Part.endBuild p reason pos).clock = p.clock := by
  unfold Part.endBuild; (try dsimp only); (repeat' split) <;> (first | (simp [Part.clock_each, apply_ite Part.clock]; done) | (refine (Part.clock_each _ (fun q a => ?_) _ _).trans ?_ <;> (try dsimp only) <;> (repeat' split) <;> (simp; done)) | with_reducible rfl)

@[simp] theorem Part.layout_testRunning  : (Part.testRunning p).layout = p.layout := by
  unfold Part.testRunning; (try dsimp only); (repeat' split) <;> (first | (simp [Part.layout_each, apply_ite Part.layout]; done) | (refine (Part.layout_each _ (fun q a => ?_) _ _).trans ?_ <;> (try dsimp only) <;> (repeat' split) <;> (simp; done)) | with_reducible rfl)

@[simp] theorem Part.clock_testRunning  : (Part.testRunning p).clock = p.clock := by
  unfold Part.testRunning; (try dsimp only); (repeat' split) <;> (first | (simp [Part.clock_each, apply_ite Part.clock]; done) | (refine (Part.clock_each _ (fun q a => ?_) _ _).trans ?_ <;> (try dsimp only) <;> (repeat' split) <;> (simp; done)) | with_reducible rfl)

@[simp] theorem Part.layout_testHeld (b : Nat) : (Part.testHeld p b).layout = p.layout := by
  unfold Part.testHeld; (try dsimp only); (repeat' split) <;> (first | (simp [Part.layout_each, apply_ite Part.layout]; done) | (refine (Part.layout_each _ (fun q a => ?_) _ _).trans ?_ <;> (try dsimp only) <;> (repeat' split) <;> (simp; done)) | with_reducible rfl)

@[simp] theorem Part.clock_testHeld (b : Nat) : (Part.testHeld p b).clock = p.clock := by
  unfold Part.testHeld; (try dsimp only); (repeat' split) <;> (first | (simp [Part.clock_each, apply_ite Part.clock]; done) | (refine (Part.clock_each _ (fun q a => ?_) _ _).trans ?_ <;> (try dsimp only) <;> (repeat' split) <;> (simp; done)) | with_reducible rfl)

@[simp] theorem Part.layout_yieldTrigger (b : Nat) (pos : Nat) (input : Nat) : (Part.yieldTrigger p b pos input).layout = p.layout := by
  unfold Part.yieldTrigger; (try dsimp only); (repeat' split) <;> (first | (simp [Part.layout_each, apply_ite Part.layout]; done) | (refine (Part.layout_each _ (fun q a => ?_) _ _).trans ?_ <;> (try dsimp only) <;> (repeat' split) <;> (simp; done)) | with_reducible rfl)

@[simp] theorem Part.clock_yieldTrigger (b : Nat) (pos : Nat) (input : Nat) : (Part.yieldTrigger p b pos input).clock = p.clock := by
  unfold Part.yieldTrigger; (try dsimp only); (repeat' split) <;> (first | (simp [Part.clock_each, apply_ite Part.clock]; done) | (refine (Part.clock_each _ (fun q a => ?_) _ _).trans ?_ <;> (try dsimp only) <;> (repeat' split) <;> (simp; done)) | with_reducible rfl)

@[simp] theorem Part.layout_yieldLevels (pos : Nat) (inputs : List (Nat × Bool)) : (Part.yieldLevels p pos inputs).layout = p.layout := by
  unfold Part.yieldLevels; (try dsimp only); (repeat' split) <;> (first | (simp [Part.layout_each, apply_ite Part.layout]; done) | (refine (Part.layout_each _ (fun q a => ?_) _ _).trans ?_ <;> (try dsimp only) <;> (repeat' split) <;> (simp; done)) | with_reducible rfl)

@[simp] theorem Part.clock_yieldLevels (pos : Nat) (inputs : List (Nat × Bool)) : (Part.yieldLevels p pos inputs).clock = p.clock := by
  unfold Part.yieldLevels; (try dsimp only); (repeat' split) <;> (first | (simp [Part.clock_each, apply_ite Part.clock]; done) | (refine (Part.clock_each _ (fun q a => ?_) _ _).trans ?_ <;> (try dsimp only) <;> (repeat' split) <;> (simp; done)) | with_reducible rfl)

@[simp] theorem Part.layout_chainTakes (pos : Nat) (old : NodeState) (new : NodeState) : (Part.chainTakes p pos old new).layout = p.layout := by
  unfold Part.chainTakes; (try dsimp only); (repeat' split) <;> (first | (simp [Part.layout_each, apply_ite Part.layout]; done) | (refine (Part.layout_each _ (fun q a => ?_) _ _).trans ?_ <;> (try dsimp only) <;> (repeat' split) <;> (simp; done)) | with_reducible rfl)

@[simp] theorem Part.clock_chainTakes (pos : Nat) (old : NodeState) (new : NodeState) : (Part.chainTakes p pos old new).clock = p.clock := by
  unfold Part.chainTakes; (try dsimp only); (repeat' split) <;> (first | (simp [Part.clock_each, apply_ite Part.clock]; done) | (refine (Part.clock_each _ (fun q a => ?_) _ _).trans ?_ <;> (try dsimp only) <;> (repeat' split) <;> (simp; done)) | with_reducible rfl)

@[simp] theorem Part.layout_setNode (pos : Nat) (new : NodeState) (stopped : Bool) (why : Option (StopReason × Nat)) : (p.setNode pos new stopped why).layout = p.layout := by
  unfold Part.setNode; extract_lets
  split
  · simp +zetaDelta
  · simp +zetaDelta [apply_ite Part.layout, Part.layout_each]
    intro _; rfl
@[simp] theorem Part.clock_setNode (pos : Nat) (new : NodeState) (stopped : Bool) (why : Option (StopReason × Nat)) : (p.setNode pos new stopped why).clock = p.clock := by
  unfold Part.setNode; extract_lets
  split
  · simp +zetaDelta
  · simp +zetaDelta [apply_ite Part.clock, Part.clock_each]
    intro _; rfl

@[simp] theorem Part.layout_setPower (pos : Nat) (s : PowerState) : (Part.setPower p pos s).layout = p.layout := by
  unfold Part.setPower; (try dsimp only); (repeat' split) <;> (first | (simp [Part.layout_each, apply_ite Part.layout]; done) | (refine (Part.layout_each _ (fun q a => ?_) _ _).trans ?_ <;> (try dsimp only) <;> (repeat' split) <;> (simp; done)) | with_reducible rfl)

@[simp] theorem Part.clock_setPower (pos : Nat) (s : PowerState) : (Part.setPower p pos s).clock = p.clock := by
  unfold Part.setPower; (try dsimp only); (repeat' split) <;> (first | (simp [Part.clock_each, apply_ite Part.clock]; done) | (refine (Part.clock_each _ (fun q a => ?_) _ _).trans ?_ <;> (try dsimp only) <;> (repeat' split) <;> (simp; done)) | with_reducible rfl)

@[simp] theorem Part.layout_wokenUp (pos : Nat) : (Part.wokenUp p pos).layout = p.layout := by
  unfold Part.wokenUp; (try dsimp only); (repeat' split) <;> (first | (simp [Part.layout_each, apply_ite Part.layout]; done) | (refine (Part.layout_each _ (fun q a => ?_) _ _).trans ?_ <;> (try dsimp only) <;> (repeat' split) <;> (simp; done)) | with_reducible rfl)

@[simp] theorem Part.clock_wokenUp (pos : Nat) : (Part.wokenUp p pos).clock = p.clock := by
  unfold Part.wokenUp; (try dsimp only); (repeat' split) <;> (first | (simp [Part.clock_each, apply_ite Part.clock]; done) | (refine (Part.clock_each _ (fun q a => ?_) _ _).trans ?_ <;> (try dsimp only) <;> (repeat' split) <;> (simp; done)) | with_reducible rfl)

@[simp] theorem Part.layout_becomeReady (pos : Nat) (power : ReportedPower) : (Part.becomeReady p pos power).layout = p.layout := by
  unfold Part.becomeReady; (try dsimp only); (repeat' split) <;> (first | (simp [Part.layout_each, apply_ite Part.layout]; done) | (refine (Part.layout_each _ (fun q a => ?_) _ _).trans ?_ <;> (try dsimp only) <;> (repeat' split) <;> (simp; done)) | with_reducible rfl)

@[simp] theorem Part.clock_becomeReady (pos : Nat) (power : ReportedPower) : (Part.becomeReady p pos power).clock = p.clock := by
  unfold Part.becomeReady; (try dsimp only); (repeat' split) <;> (first | (simp [Part.clock_each, apply_ite Part.clock]; done) | (refine (Part.clock_each _ (fun q a => ?_) _ _).trans ?_ <;> (try dsimp only) <;> (repeat' split) <;> (simp; done)) | with_reducible rfl)

@[simp] theorem Part.layout_resumeUnfinished (pos : Nat) : (Part.resumeUnfinished p pos).layout = p.layout := by
  unfold Part.resumeUnfinished; (try dsimp only); (repeat' split) <;> (first | (simp [Part.layout_each, apply_ite Part.layout]; done) | (refine (Part.layout_each _ (fun q a => ?_) _ _).trans ?_ <;> (try dsimp only) <;> (repeat' split) <;> (simp; done)) | with_reducible rfl)

@[simp] theorem Part.clock_resumeUnfinished (pos : Nat) : (Part.resumeUnfinished p pos).clock = p.clock := by
  unfold Part.resumeUnfinished; (try dsimp only); (repeat' split) <;> (first | (simp [Part.clock_each, apply_ite Part.clock]; done) | (refine (Part.clock_each _ (fun q a => ?_) _ _).trans ?_ <;> (try dsimp only) <;> (repeat' split) <;> (simp; done)) | with_reducible rfl)

@[simp] theorem Part.layout_restartReport (q : Nat) : (Part.restartReport p q).layout = p.layout := by
  unfold Part.restartReport; (try dsimp only); (repeat' split) <;> (first | (simp [Part.layout_each, apply_ite Part.layout]; done) | (refine (Part.layout_each _ (fun q a => ?_) _ _).trans ?_ <;> (try dsimp only) <;> (repeat' split) <;> (simp; done)) | with_reducible rfl)

@[simp] theorem Part.clock_restartReport (q : Nat) : (Part.restartReport p q).clock = p.clock := by
  unfold Part.restartReport; (try dsimp only); (repeat' split) <;> (first | (simp [Part.clock_each, apply_ite Part.clock]; done) | (refine (Part.clock_each _ (fun q a => ?_) _ _).trans ?_ <;> (try dsimp only) <;> (repeat' split) <;> (simp; done)) | with_reducible rfl)

@[simp] theorem Part.layout_emptyQueues  : (Part.emptyQueues p).layout = p.layout := by
  unfold Part.emptyQueues; (try dsimp only); (repeat' split) <;> (first | (simp [Part.layout_each, apply_ite Part.layout]; done) | (refine (Part.layout_each _ (fun q a => ?_) _ _).trans ?_ <;> (try dsimp only) <;> (repeat' split) <;> (simp; done)) | with_reducible rfl)

@[simp] theorem Part.clock_emptyQueues  : (Part.emptyQueues p).clock = p.clock := by
  unfold Part.emptyQueues; (try dsimp only); (repeat' split) <;> (first | (simp [Part.clock_each, apply_ite Part.clock]; done) | (refine (Part.clock_each _ (fun q a => ?_) _ _).trans ?_ <;> (try dsimp only) <;> (repeat' split) <;> (simp; done)) | with_reducible rfl)

@[simp] theorem Part.layout_endLineOps (st : Status) : (Part.endLineOps p st).layout = p.layout := by
  unfold Part.endLineOps; (try dsimp only); (repeat' split) <;> (first | (simp [Part.layout_each, apply_ite Part.layout]; done) | (refine (Part.layout_each _ (fun q a => ?_) _ _).trans ?_ <;> (try dsimp only) <;> (repeat' split) <;> (simp; done)) | with_reducible rfl)

@[simp] theorem Part.clock_endLineOps (st : Status) : (Part.endLineOps p st).clock = p.clock := by
  unfold Part.endLineOps; (try dsimp only); (repeat' split) <;> (first | (simp [Part.clock_each, apply_ite Part.clock]; done) | (refine (Part.clock_each _ (fun q a => ?_) _ _).trans ?_ <;> (try dsimp only) <;> (repeat' split) <;> (simp; done)) | with_reducible rfl)

@[simp] theorem Part.layout_becomeFaulted (kind : PortFault) : (Part.becomeFaulted p kind).layout = p.layout := by
  unfold Part.becomeFaulted; (try dsimp only); (repeat' split) <;> (first | (simp [Part.layout_each, apply_ite Part.layout]; done) | (refine (Part.layout_each _ (fun q a => ?_) _ _).trans ?_ <;> (try dsimp only) <;> (repeat' split) <;> (simp; done)) | with_reducible rfl)

@[simp] theorem Part.clock_becomeFaulted (kind : PortFault) : (Part.becomeFaulted p kind).clock = p.clock := by
  unfold Part.becomeFaulted; (try dsimp only); (repeat' split) <;> (first | (simp [Part.clock_each, apply_ite Part.clock]; done) | (refine (Part.clock_each _ (fun q a => ?_) _ _).trans ?_ <;> (try dsimp only) <;> (repeat' split) <;> (simp; done)) | with_reducible rfl)

@[simp] theorem Part.layout_extendTaken (pos : Nat) : (Part.extendTaken p pos).layout = p.layout := by
  unfold Part.extendTaken; (try dsimp only); (repeat' split) <;> (first | (simp [Part.layout_each, apply_ite Part.layout]; done) | (refine (Part.layout_each _ (fun q a => ?_) _ _).trans ?_ <;> (try dsimp only) <;> (repeat' split) <;> (simp; done)) | with_reducible rfl)

@[simp] theorem Part.clock_extendTaken (pos : Nat) : (Part.extendTaken p pos).clock = p.clock := by
  unfold Part.extendTaken; (try dsimp only); (repeat' split) <;> (first | (simp [Part.clock_each, apply_ite Part.clock]; done) | (refine (Part.clock_each _ (fun q a => ?_) _ _).trans ?_ <;> (try dsimp only) <;> (repeat' split) <;> (simp; done)) | with_reducible rfl)

@[simp] theorem Part.layout_onwardChange (pos : Nat) (old : PortFault) (new : PortFault) : (Part.onwardChange p pos old new).layout = p.layout := by
  unfold Part.onwardChange; (try dsimp only); (repeat' split) <;> (first | (simp [Part.layout_each, apply_ite Part.layout]; done) | (refine (Part.layout_each _ (fun q a => ?_) _ _).trans ?_ <;> (try dsimp only) <;> (repeat' split) <;> (simp; done)) | with_reducible rfl)

@[simp] theorem Part.clock_onwardChange (pos : Nat) (old : PortFault) (new : PortFault) : (Part.onwardChange p pos old new).clock = p.clock := by
  unfold Part.onwardChange; (try dsimp only); (repeat' split) <;> (first | (simp [Part.clock_each, apply_ite Part.clock]; done) | (refine (Part.clock_each _ (fun q a => ?_) _ _).trans ?_ <;> (try dsimp only) <;> (repeat' split) <;> (simp; done)) | with_reducible rfl)


/-! ### Chain -/

@[simp] theorem Part.layout_newStep (st : Step) (c : LineCommand) (target : Option Nat) : (Part.newStep p st c target).layout = p.layout := by
  unfold Part.newStep; (try dsimp only); (repeat' split) <;> (first | (simp [Part.layout_each, apply_ite Part.layout]; done) | (refine (Part.layout_each _ (fun q a => ?_) _ _).trans ?_ <;> (try dsimp only) <;> (repeat' split) <;> (simp; done)) | with_reducible rfl)

@[simp] theorem Part.clock_newStep (st : Step) (c : LineCommand) (target : Option Nat) : (Part.newStep p st c target).clock = p.clock := by
  unfold Part.newStep; (try dsimp only); (repeat' split) <;> (first | (simp [Part.clock_each, apply_ite Part.clock]; done) | (refine (Part.clock_each _ (fun q a => ?_) _ _).trans ?_ <;> (try dsimp only) <;> (repeat' split) <;> (simp; done)) | with_reducible rfl)

@[simp] theorem Part.layout_waitStep (st : Step) : (Part.waitStep p st).layout = p.layout := by
  unfold Part.waitStep; (try dsimp only); (repeat' split) <;> (first | (simp [Part.layout_each, apply_ite Part.layout]; done) | (refine (Part.layout_each _ (fun q a => ?_) _ _).trans ?_ <;> (try dsimp only) <;> (repeat' split) <;> (simp; done)) | with_reducible rfl)

@[simp] theorem Part.clock_waitStep (st : Step) : (Part.waitStep p st).clock = p.clock := by
  unfold Part.waitStep; (try dsimp only); (repeat' split) <;> (first | (simp [Part.clock_each, apply_ite Part.clock]; done) | (refine (Part.clock_each _ (fun q a => ?_) _ _).trans ?_ <;> (try dsimp only) <;> (repeat' split) <;> (simp; done)) | with_reducible rfl)

@[simp] theorem Part.layout_readRecord (pos : Nat) (got : List Byte) (explicitRead : Bool) (tries : Nat) : (Part.readRecord p pos got explicitRead tries).layout = p.layout := by
  unfold Part.readRecord; (try dsimp only); (repeat' split) <;> (first | (simp [Part.layout_each, apply_ite Part.layout]; done) | (refine (Part.layout_each _ (fun q a => ?_) _ _).trans ?_ <;> (try dsimp only) <;> (repeat' split) <;> (simp; done)) | with_reducible rfl)

@[simp] theorem Part.clock_readRecord (pos : Nat) (got : List Byte) (explicitRead : Bool) (tries : Nat) : (Part.readRecord p pos got explicitRead tries).clock = p.clock := by
  unfold Part.readRecord; (try dsimp only); (repeat' split) <;> (first | (simp [Part.clock_each, apply_ite Part.clock]; done) | (refine (Part.clock_each _ (fun q a => ?_) _ _).trans ?_ <;> (try dsimp only) <;> (repeat' split) <;> (simp; done)) | with_reducible rfl)

@[simp] theorem Part.layout_sendNodeConfig (pos : Nat) (tries : Nat) : (Part.sendNodeConfig p pos tries).layout = p.layout := by
  unfold Part.sendNodeConfig; (try dsimp only); (repeat' split) <;> (first | (simp [Part.layout_each, apply_ite Part.layout]; done) | (refine (Part.layout_each _ (fun q a => ?_) _ _).trans ?_ <;> (try dsimp only) <;> (repeat' split) <;> (simp; done)) | with_reducible rfl)

@[simp] theorem Part.clock_sendNodeConfig (pos : Nat) (tries : Nat) : (Part.sendNodeConfig p pos tries).clock = p.clock := by
  unfold Part.sendNodeConfig; (try dsimp only); (repeat' split) <;> (first | (simp [Part.clock_each, apply_ite Part.clock]; done) | (refine (Part.clock_each _ (fun q a => ?_) _ _).trans ?_ <;> (try dsimp only) <;> (repeat' split) <;> (simp; done)) | with_reducible rfl)

@[simp] theorem Part.layout_sendInputConfig (pos : Nat) (tries : Nat) : (Part.sendInputConfig p pos tries).layout = p.layout := by
  unfold Part.sendInputConfig; (try dsimp only); (repeat' split) <;> (first | (simp [Part.layout_each, apply_ite Part.layout]; done) | (refine (Part.layout_each _ (fun q a => ?_) _ _).trans ?_ <;> (try dsimp only) <;> (repeat' split) <;> (simp; done)) | with_reducible rfl)

@[simp] theorem Part.clock_sendInputConfig (pos : Nat) (tries : Nat) : (Part.sendInputConfig p pos tries).clock = p.clock := by
  unfold Part.sendInputConfig; (try dsimp only); (repeat' split) <;> (first | (simp [Part.clock_each, apply_ite Part.clock]; done) | (refine (Part.clock_each _ (fun q a => ?_) _ _).trans ?_ <;> (try dsimp only) <;> (repeat' split) <;> (simp; done)) | with_reducible rfl)

@[simp] theorem Part.layout_sendPut (pos : Nat) (target : Nat) (rest : List Byte) (size : Nat) (tries : Nat) : (Part.sendPut p pos target rest size tries).layout = p.layout := by
  unfold Part.sendPut; (try dsimp only); (repeat' split) <;> (first | (simp [Part.layout_each, apply_ite Part.layout]; done) | (refine (Part.layout_each _ (fun q a => ?_) _ _).trans ?_ <;> (try dsimp only) <;> (repeat' split) <;> (simp; done)) | with_reducible rfl)

@[simp] theorem Part.clock_sendPut (pos : Nat) (target : Nat) (rest : List Byte) (size : Nat) (tries : Nat) : (Part.sendPut p pos target rest size tries).clock = p.clock := by
  unfold Part.sendPut; (try dsimp only); (repeat' split) <;> (first | (simp [Part.clock_each, apply_ite Part.clock]; done) | (refine (Part.clock_each _ (fun q a => ?_) _ _).trans ?_ <;> (try dsimp only) <;> (repeat' split) <;> (simp; done)) | with_reducible rfl)

@[simp] theorem Part.layout_beginRecord (pos : Nat) (explicitRead : Bool) : (Part.beginRecord p pos explicitRead).layout = p.layout := by
  unfold Part.beginRecord; (try dsimp only); (repeat' split) <;> (first | (simp [Part.layout_each, apply_ite Part.layout]; done) | (refine (Part.layout_each _ (fun q a => ?_) _ _).trans ?_ <;> (try dsimp only) <;> (repeat' split) <;> (simp; done)) | with_reducible rfl)

@[simp] theorem Part.clock_beginRecord (pos : Nat) (explicitRead : Bool) : (Part.beginRecord p pos explicitRead).clock = p.clock := by
  unfold Part.beginRecord; (try dsimp only); (repeat' split) <;> (first | (simp [Part.clock_each, apply_ite Part.clock]; done) | (refine (Part.clock_each _ (fun q a => ?_) _ _).trans ?_ <;> (try dsimp only) <;> (repeat' split) <;> (simp; done)) | with_reducible rfl)

@[simp] theorem Part.layout_nextRecord (pos : Nat) (size : Nat) : (Part.nextRecord p pos size).layout = p.layout := by
  unfold Part.nextRecord; (try dsimp only); (repeat' split) <;> (first | (simp [Part.layout_each, apply_ite Part.layout]; done) | (refine (Part.layout_each _ (fun q a => ?_) _ _).trans ?_ <;> (try dsimp only) <;> (repeat' split) <;> (simp; done)) | with_reducible rfl)

@[simp] theorem Part.clock_nextRecord (pos : Nat) (size : Nat) : (Part.nextRecord p pos size).clock = p.clock := by
  unfold Part.nextRecord; (try dsimp only); (repeat' split) <;> (first | (simp [Part.clock_each, apply_ite Part.clock]; done) | (refine (Part.clock_each _ (fun q a => ?_) _ _).trans ?_ <;> (try dsimp only) <;> (repeat' split) <;> (simp; done)) | with_reducible rfl)

@[simp] theorem Part.layout_faultRecord (pos : Nat) (cause : SetupFaultCause) : (Part.faultRecord p pos cause).layout = p.layout := by
  unfold Part.faultRecord; (try dsimp only); (repeat' split) <;> (first | (simp [Part.layout_each, apply_ite Part.layout]; done) | (refine (Part.layout_each _ (fun q a => ?_) _ _).trans ?_ <;> (try dsimp only) <;> (repeat' split) <;> (simp; done)) | with_reducible rfl)

@[simp] theorem Part.clock_faultRecord (pos : Nat) (cause : SetupFaultCause) : (Part.faultRecord p pos cause).clock = p.clock := by
  unfold Part.faultRecord; (try dsimp only); (repeat' split) <;> (first | (simp [Part.clock_each, apply_ite Part.clock]; done) | (refine (Part.clock_each _ (fun q a => ?_) _ _).trans ?_ <;> (try dsimp only) <;> (repeat' split) <;> (simp; done)) | with_reducible rfl)

@[simp] theorem Part.layout_actOnRecord (pos : Nat) (got : List Byte) (checkedRecord : Bool) : (Part.actOnRecord p pos got checkedRecord).layout = p.layout := by
  unfold Part.actOnRecord; (try dsimp only); (repeat' split) <;> (first | (simp [Part.layout_each, apply_ite Part.layout]; done) | (refine (Part.layout_each _ (fun q a => ?_) _ _).trans ?_ <;> (try dsimp only) <;> (repeat' split) <;> (simp; done)) | with_reducible rfl)

@[simp] theorem Part.clock_actOnRecord (pos : Nat) (got : List Byte) (checkedRecord : Bool) : (Part.actOnRecord p pos got checkedRecord).clock = p.clock := by
  unfold Part.actOnRecord; (try dsimp only); (repeat' split) <;> (first | (simp [Part.clock_each, apply_ite Part.clock]; done) | (refine (Part.clock_each _ (fun q a => ?_) _ _).trans ?_ <;> (try dsimp only) <;> (repeat' split) <;> (simp; done)) | with_reducible rfl)

@[simp] theorem Part.layout_recordRead (pos : Nat) (got : List Byte) : (Part.recordRead p pos got).layout = p.layout := by
  unfold Part.recordRead; (try dsimp only); (repeat' split) <;> (first | (simp [Part.layout_each, apply_ite Part.layout]; done) | (refine (Part.layout_each _ (fun q a => ?_) _ _).trans ?_ <;> (try dsimp only) <;> (repeat' split) <;> (simp; done)) | with_reducible rfl)

@[simp] theorem Part.clock_recordRead (pos : Nat) (got : List Byte) : (Part.recordRead p pos got).clock = p.clock := by
  unfold Part.recordRead; (try dsimp only); (repeat' split) <;> (first | (simp [Part.clock_each, apply_ite Part.clock]; done) | (refine (Part.clock_each _ (fun q a => ?_) _ _).trans ?_ <;> (try dsimp only) <;> (repeat' split) <;> (simp; done)) | with_reducible rfl)

@[simp] theorem Part.layout_beginSetup (pos : Nat) : (Part.beginSetup p pos).layout = p.layout := by
  unfold Part.beginSetup; (try dsimp only); (repeat' split) <;> (first | (simp [Part.layout_each, apply_ite Part.layout]; done) | (refine (Part.layout_each _ (fun q a => ?_) _ _).trans ?_ <;> (try dsimp only) <;> (repeat' split) <;> (simp; done)) | with_reducible rfl)

@[simp] theorem Part.clock_beginSetup (pos : Nat) : (Part.beginSetup p pos).clock = p.clock := by
  unfold Part.beginSetup; (try dsimp only); (repeat' split) <;> (first | (simp [Part.clock_each, apply_ite Part.clock]; done) | (refine (Part.clock_each _ (fun q a => ?_) _ _).trans ?_ <;> (try dsimp only) <;> (repeat' split) <;> (simp; done)) | with_reducible rfl)

@[simp] theorem Part.layout_sendHail (pos : Nat) (forSetup : Bool) (bad : Nat) : (Part.sendHail p pos forSetup bad).layout = p.layout := by
  unfold Part.sendHail; (try dsimp only); (repeat' split) <;> (first | (simp [Part.layout_each, apply_ite Part.layout]; done) | (refine (Part.layout_each _ (fun q a => ?_) _ _).trans ?_ <;> (try dsimp only) <;> (repeat' split) <;> (simp; done)) | with_reducible rfl)

@[simp] theorem Part.clock_sendHail (pos : Nat) (forSetup : Bool) (bad : Nat) : (Part.sendHail p pos forSetup bad).clock = p.clock := by
  unfold Part.sendHail; (try dsimp only); (repeat' split) <;> (first | (simp [Part.clock_each, apply_ite Part.clock]; done) | (refine (Part.clock_each _ (fun q a => ?_) _ _).trans ?_ <;> (try dsimp only) <;> (repeat' split) <;> (simp; done)) | with_reducible rfl)

@[simp] theorem Part.layout_holdShort (reason : StopReason) (pos : Nat) : (Part.holdShort p reason pos).layout = p.layout := by
  unfold Part.holdShort; (try dsimp only); (repeat' split) <;> (first | (simp [Part.layout_each, apply_ite Part.layout]; done) | (refine (Part.layout_each _ (fun q a => ?_) _ _).trans ?_ <;> (try dsimp only) <;> (repeat' split) <;> (simp; done)) | with_reducible rfl)

@[simp] theorem Part.clock_holdShort (reason : StopReason) (pos : Nat) : (Part.holdShort p reason pos).clock = p.clock := by
  unfold Part.holdShort; (try dsimp only); (repeat' split) <;> (first | (simp [Part.clock_each, apply_ite Part.clock]; done) | (refine (Part.clock_each _ (fun q a => ?_) _ _).trans ?_ <;> (try dsimp only) <;> (repeat' split) <;> (simp; done)) | with_reducible rfl)

@[simp] theorem Part.layout_hailFailed (pos : Nat) (forSetup : Bool) (badHail : Bool) : (Part.hailFailed p pos forSetup badHail).layout = p.layout := by
  unfold Part.hailFailed; (try dsimp only); (repeat' split) <;> (first | (simp [Part.layout_each, apply_ite Part.layout]; done) | (refine (Part.layout_each _ (fun q a => ?_) _ _).trans ?_ <;> (try dsimp only) <;> (repeat' split) <;> (simp; done)) | with_reducible rfl)

@[simp] theorem Part.clock_hailFailed (pos : Nat) (forSetup : Bool) (badHail : Bool) : (Part.hailFailed p pos forSetup badHail).clock = p.clock := by
  unfold Part.hailFailed; (try dsimp only); (repeat' split) <;> (first | (simp [Part.clock_each, apply_ite Part.clock]; done) | (refine (Part.clock_each _ (fun q a => ?_) _ _).trans ?_ <;> (try dsimp only) <;> (repeat' split) <;> (simp; done)) | with_reducible rfl)

@[simp] theorem Part.layout_takeAnswer (pos : Nat) (forSetup : Bool) (a : HailAnswer) : (Part.takeAnswer p pos forSetup a).layout = p.layout := by
  unfold Part.takeAnswer; (try dsimp only); (repeat' split) <;> (first | (simp [Part.layout_each, apply_ite Part.layout]; done) | (refine (Part.layout_each _ (fun q a => ?_) _ _).trans ?_ <;> (try dsimp only) <;> (repeat' split) <;> (simp; done)) | with_reducible rfl)

@[simp] theorem Part.clock_takeAnswer (pos : Nat) (forSetup : Bool) (a : HailAnswer) : (Part.takeAnswer p pos forSetup a).clock = p.clock := by
  unfold Part.takeAnswer; (try dsimp only); (repeat' split) <;> (first | (simp [Part.clock_each, apply_ite Part.clock]; done) | (refine (Part.clock_each _ (fun q a => ?_) _ _).trans ?_ <;> (try dsimp only) <;> (repeat' split) <;> (simp; done)) | with_reducible rfl)

@[simp] theorem Part.layout_currentSetup (q : Nat) : (Part.currentSetup p q).layout = p.layout := by
  unfold Part.currentSetup; (try dsimp only); (repeat' split) <;> (first | (simp [Part.layout_each, apply_ite Part.layout]; done) | (refine (Part.layout_each _ (fun q a => ?_) _ _).trans ?_ <;> (try dsimp only) <;> (repeat' split) <;> (simp; done)) | with_reducible rfl)

@[simp] theorem Part.clock_currentSetup (q : Nat) : (Part.currentSetup p q).clock = p.clock := by
  unfold Part.currentSetup; (try dsimp only); (repeat' split) <;> (first | (simp [Part.clock_each, apply_ite Part.clock]; done) | (refine (Part.clock_each _ (fun q a => ?_) _ _).trans ?_ <;> (try dsimp only) <;> (repeat' split) <;> (simp; done)) | with_reducible rfl)

@[simp] theorem Part.layout_hailAnswered (a : HailAnswer) : (Part.hailAnswered p a).layout = p.layout := by
  unfold Part.hailAnswered; (try dsimp only); (repeat' split) <;> (first | (simp [Part.layout_each, apply_ite Part.layout]; done) | (refine (Part.layout_each _ (fun q a => ?_) _ _).trans ?_ <;> (try dsimp only) <;> (repeat' split) <;> (simp; done)) | with_reducible rfl)

@[simp] theorem Part.clock_hailAnswered (a : HailAnswer) : (Part.hailAnswered p a).clock = p.clock := by
  unfold Part.hailAnswered; (try dsimp only); (repeat' split) <;> (first | (simp [Part.clock_each, apply_ite Part.clock]; done) | (refine (Part.clock_each _ (fun q a => ?_) _ _).trans ?_ <;> (try dsimp only) <;> (repeat' split) <;> (simp; done)) | with_reducible rfl)

@[simp] theorem Part.layout_hailBad  : (Part.hailBad p).layout = p.layout := by
  unfold Part.hailBad; (try dsimp only); (repeat' split) <;> (first | (simp [Part.layout_each, apply_ite Part.layout]; done) | (refine (Part.layout_each _ (fun q a => ?_) _ _).trans ?_ <;> (try dsimp only) <;> (repeat' split) <;> (simp; done)) | with_reducible rfl)

@[simp] theorem Part.clock_hailBad  : (Part.hailBad p).clock = p.clock := by
  unfold Part.hailBad; (try dsimp only); (repeat' split) <;> (first | (simp [Part.clock_each, apply_ite Part.clock]; done) | (refine (Part.clock_each _ (fun q a => ?_) _ _).trans ?_ <;> (try dsimp only) <;> (repeat' split) <;> (simp; done)) | with_reducible rfl)

@[simp] theorem Part.layout_hailEmpty  : (Part.hailEmpty p).layout = p.layout := by
  unfold Part.hailEmpty; (try dsimp only); (repeat' split) <;> (first | (simp [Part.layout_each, apply_ite Part.layout]; done) | (refine (Part.layout_each _ (fun q a => ?_) _ _).trans ?_ <;> (try dsimp only) <;> (repeat' split) <;> (simp; done)) | with_reducible rfl)

@[simp] theorem Part.clock_hailEmpty  : (Part.hailEmpty p).clock = p.clock := by
  unfold Part.hailEmpty; (try dsimp only); (repeat' split) <;> (first | (simp [Part.clock_each, apply_ite Part.clock]; done) | (refine (Part.clock_each _ (fun q a => ?_) _ _).trans ?_ <;> (try dsimp only) <;> (repeat' split) <;> (simp; done)) | with_reducible rfl)

@[simp] theorem Part.layout_accessStep (a : Access) : (Part.accessStep p a).layout = p.layout := by
  unfold Part.accessStep; (try dsimp only); (repeat' split) <;> (first | (simp [Part.layout_each, apply_ite Part.layout]; done) | (refine (Part.layout_each _ (fun q a => ?_) _ _).trans ?_ <;> (try dsimp only) <;> (repeat' split) <;> (simp; done)) | with_reducible rfl)

@[simp] theorem Part.clock_accessStep (a : Access) : (Part.accessStep p a).clock = p.clock := by
  unfold Part.accessStep; (try dsimp only); (repeat' split) <;> (first | (simp [Part.clock_each, apply_ite Part.clock]; done) | (refine (Part.clock_each _ (fun q a => ?_) _ _).trans ?_ <;> (try dsimp only) <;> (repeat' split) <;> (simp; done)) | with_reducible rfl)

@[simp] theorem Part.layout_extendFrom (pos : Nat) : (Part.extendFrom p pos).layout = p.layout := by
  unfold Part.extendFrom; (try dsimp only); (repeat' split) <;> (first | (simp [Part.layout_each, apply_ite Part.layout]; done) | (refine (Part.layout_each _ (fun q a => ?_) _ _).trans ?_ <;> (try dsimp only) <;> (repeat' split) <;> (simp; done)) | with_reducible rfl)

@[simp] theorem Part.clock_extendFrom (pos : Nat) : (Part.extendFrom p pos).clock = p.clock := by
  unfold Part.extendFrom; (try dsimp only); (repeat' split) <;> (first | (simp [Part.clock_each, apply_ite Part.clock]; done) | (refine (Part.clock_each _ (fun q a => ?_) _ _).trans ?_ <;> (try dsimp only) <;> (repeat' split) <;> (simp; done)) | with_reducible rfl)

@[simp] theorem Part.layout_buildWhole  : (Part.buildWhole p).layout = p.layout := by
  unfold Part.buildWhole; (try dsimp only); (repeat' split) <;> (first | (simp [Part.layout_each, apply_ite Part.layout]; done) | (refine (Part.layout_each _ (fun q a => ?_) _ _).trans ?_ <;> (try dsimp only) <;> (repeat' split) <;> (simp; done)) | with_reducible rfl)

@[simp] theorem Part.clock_buildWhole  : (Part.buildWhole p).clock = p.clock := by
  unfold Part.buildWhole; (try dsimp only); (repeat' split) <;> (first | (simp [Part.clock_each, apply_ite Part.clock]; done) | (refine (Part.clock_each _ (fun q a => ?_) _ _).trans ?_ <;> (try dsimp only) <;> (repeat' split) <;> (simp; done)) | with_reducible rfl)

@[simp] theorem Part.layout_continueBuild  : (Part.continueBuild p).layout = p.layout := by
  unfold Part.continueBuild; (try dsimp only); (repeat' split) <;> (first | (simp [Part.layout_each, apply_ite Part.layout]; done) | (refine (Part.layout_each _ (fun q a => ?_) _ _).trans ?_ <;> (try dsimp only) <;> (repeat' split) <;> (simp; done)) | with_reducible rfl)

@[simp] theorem Part.clock_continueBuild  : (Part.continueBuild p).clock = p.clock := by
  unfold Part.continueBuild; (try dsimp only); (repeat' split) <;> (first | (simp [Part.clock_each, apply_ite Part.clock]; done) | (refine (Part.clock_each _ (fun q a => ?_) _ _).trans ?_ <;> (try dsimp only) <;> (repeat' split) <;> (simp; done)) | with_reducible rfl)

@[simp] theorem Part.layout_retryAttempt  : (Part.retryAttempt p).layout = p.layout := by
  unfold Part.retryAttempt; (try dsimp only); (repeat' split) <;> (first | (simp [Part.layout_each, apply_ite Part.layout]; done) | (refine (Part.layout_each _ (fun q a => ?_) _ _).trans ?_ <;> (try dsimp only) <;> (repeat' split) <;> (simp; done)) | with_reducible rfl)

@[simp] theorem Part.clock_retryAttempt  : (Part.retryAttempt p).clock = p.clock := by
  unfold Part.retryAttempt; (try dsimp only); (repeat' split) <;> (first | (simp [Part.clock_each, apply_ite Part.clock]; done) | (refine (Part.clock_each _ (fun q a => ?_) _ _).trans ?_ <;> (try dsimp only) <;> (repeat' split) <;> (simp; done)) | with_reducible rfl)

@[simp] theorem Part.layout_beginSetupTask (q : Nat) : (Part.beginSetupTask p q).layout = p.layout := by
  unfold Part.beginSetupTask; (try dsimp only); (repeat' split) <;> (first | (simp [Part.layout_each, apply_ite Part.layout]; done) | (refine (Part.layout_each _ (fun q a => ?_) _ _).trans ?_ <;> (try dsimp only) <;> (repeat' split) <;> (simp; done)) | with_reducible rfl)

@[simp] theorem Part.clock_beginSetupTask (q : Nat) : (Part.beginSetupTask p q).clock = p.clock := by
  unfold Part.beginSetupTask; (try dsimp only); (repeat' split) <;> (first | (simp [Part.clock_each, apply_ite Part.clock]; done) | (refine (Part.clock_each _ (fun q a => ?_) _ _).trans ?_ <;> (try dsimp only) <;> (repeat' split) <;> (simp; done)) | with_reducible rfl)

@[simp] theorem Part.layout_makeAbsent (pos : Nat) : (Part.makeAbsent p pos).layout = p.layout := by
  unfold Part.makeAbsent; (try dsimp only); (repeat' split) <;> (first | (simp [Part.layout_each, apply_ite Part.layout]; done) | (refine (Part.layout_each _ (fun q a => ?_) _ _).trans ?_ <;> (try dsimp only) <;> (repeat' split) <;> (simp; done)) | with_reducible rfl)

@[simp] theorem Part.clock_makeAbsent (pos : Nat) : (Part.makeAbsent p pos).clock = p.clock := by
  unfold Part.makeAbsent; (try dsimp only); (repeat' split) <;> (first | (simp [Part.clock_each, apply_ite Part.clock]; done) | (refine (Part.clock_each _ (fun q a => ?_) _ _).trans ?_ <;> (try dsimp only) <;> (repeat' split) <;> (simp; done)) | with_reducible rfl)

@[simp] theorem Part.layout_cutMade (pos : Nat) (st : Step) : (Part.cutMade p pos st).layout = p.layout := by
  unfold Part.cutMade; (try dsimp only); (repeat' split) <;> (first | (simp [Part.layout_each, apply_ite Part.layout]; done) | (refine (Part.layout_each _ (fun q a => ?_) _ _).trans ?_ <;> (try dsimp only) <;> (repeat' split) <;> (simp; done)) | with_reducible rfl)

@[simp] theorem Part.clock_cutMade (pos : Nat) (st : Step) : (Part.cutMade p pos st).clock = p.clock := by
  unfold Part.cutMade; (try dsimp only); (repeat' split) <;> (first | (simp [Part.clock_each, apply_ite Part.clock]; done) | (refine (Part.clock_each _ (fun q a => ?_) _ _).trans ?_ <;> (try dsimp only) <;> (repeat' split) <;> (simp; done)) | with_reducible rfl)

@[simp] theorem Part.layout_cutPort  : (Part.cutPort p).layout = p.layout := by
  unfold Part.cutPort; (try dsimp only); (repeat' split) <;> (first | (simp [Part.layout_each, apply_ite Part.layout]; done) | (refine (Part.layout_each _ (fun q a => ?_) _ _).trans ?_ <;> (try dsimp only) <;> (repeat' split) <;> (simp; done)) | with_reducible rfl)

@[simp] theorem Part.clock_cutPort  : (Part.cutPort p).clock = p.clock := by
  unfold Part.cutPort; (try dsimp only); (repeat' split) <;> (first | (simp [Part.clock_each, apply_ite Part.clock]; done) | (refine (Part.clock_each _ (fun q a => ?_) _ _).trans ?_ <;> (try dsimp only) <;> (repeat' split) <;> (simp; done)) | with_reducible rfl)

@[simp] theorem Part.layout_beginCut (pos : Nat) : (Part.beginCut p pos).layout = p.layout := by
  unfold Part.beginCut; (try dsimp only); (repeat' split) <;> (first | (simp [Part.layout_each, apply_ite Part.layout]; done) | (refine (Part.layout_each _ (fun q a => ?_) _ _).trans ?_ <;> (try dsimp only) <;> (repeat' split) <;> (simp; done)) | with_reducible rfl)

@[simp] theorem Part.clock_beginCut (pos : Nat) : (Part.beginCut p pos).clock = p.clock := by
  unfold Part.beginCut; (try dsimp only); (repeat' split) <;> (first | (simp [Part.clock_each, apply_ite Part.clock]; done) | (refine (Part.clock_each _ (fun q a => ?_) _ _).trans ?_ <;> (try dsimp only) <;> (repeat' split) <;> (simp; done)) | with_reducible rfl)

@[simp] theorem Part.layout_runTasks (n : Nat) : (Part.runTasks n p).layout = p.layout := by
  induction n generalizing p with
  | zero => rfl
  | succ n ih => unfold Part.runTasks; (repeat' split) <;> simp [ih]
@[simp] theorem Part.clock_runTasks (n : Nat) : (Part.runTasks n p).clock = p.clock := by
  induction n generalizing p with
  | zero => rfl
  | succ n ih => unfold Part.runTasks; (repeat' split) <;> simp [ih]

@[simp] theorem Part.layout_work  : (Part.work p).layout = p.layout := by
  simp [Part.work]

@[simp] theorem Part.clock_work  : (Part.work p).clock = p.clock := by
  simp [Part.work]

@[simp] theorem Part.layout_noApply (pos : Nat) : (Part.noApply p pos).layout = p.layout := by
  unfold Part.noApply; (try dsimp only); (repeat' split) <;> (first | (simp [Part.layout_each, apply_ite Part.layout]; done) | (refine (Part.layout_each _ (fun q a => ?_) _ _).trans ?_ <;> (try dsimp only) <;> (repeat' split) <;> (simp; done)) | with_reducible rfl)

@[simp] theorem Part.clock_noApply (pos : Nat) : (Part.noApply p pos).clock = p.clock := by
  unfold Part.noApply; (try dsimp only); (repeat' split) <;> (first | (simp [Part.clock_each, apply_ite Part.clock]; done) | (refine (Part.clock_each _ (fun q a => ?_) _ _).trans ?_ <;> (try dsimp only) <;> (repeat' split) <;> (simp; done)) | with_reducible rfl)

@[simp] theorem Part.layout_setupComplete (pos : Nat) : (Part.setupComplete p pos).layout = p.layout := by
  unfold Part.setupComplete; (try dsimp only); (repeat' split) <;> (first | (simp [Part.layout_each, apply_ite Part.layout]; done) | (refine (Part.layout_each _ (fun q a => ?_) _ _).trans ?_ <;> (try dsimp only) <;> (repeat' split) <;> (simp; done)) | with_reducible rfl)

@[simp] theorem Part.clock_setupComplete (pos : Nat) : (Part.setupComplete p pos).clock = p.clock := by
  unfold Part.setupComplete; (try dsimp only); (repeat' split) <;> (first | (simp [Part.clock_each, apply_ite Part.clock]; done) | (refine (Part.clock_each _ (fun q a => ?_) _ _).trans ?_ <;> (try dsimp only) <;> (repeat' split) <;> (simp; done)) | with_reducible rfl)

@[simp] theorem Part.layout_setupConfirmed (pos : Nat) (st : SetupStep) (read : List Byte) : (Part.setupConfirmed p pos st read).layout = p.layout := by
  unfold Part.setupConfirmed; (try dsimp only); (repeat' split) <;> (first | (simp [Part.layout_each, apply_ite Part.layout]; done) | (refine (Part.layout_each _ (fun q a => ?_) _ _).trans ?_ <;> (try dsimp only) <;> (repeat' split) <;> (simp; done)) | with_reducible rfl)

@[simp] theorem Part.clock_setupConfirmed (pos : Nat) (st : SetupStep) (read : List Byte) : (Part.setupConfirmed p pos st read).clock = p.clock := by
  unfold Part.setupConfirmed; (try dsimp only); (repeat' split) <;> (first | (simp [Part.clock_each, apply_ite Part.clock]; done) | (refine (Part.clock_each _ (fun q a => ?_) _ _).trans ?_ <;> (try dsimp only) <;> (repeat' split) <;> (simp; done)) | with_reducible rfl)

@[simp] theorem Part.layout_setupGivenUp (pos : Nat) (st : SetupStep) (tries : Nat) : (Part.setupGivenUp p pos st tries).layout = p.layout := by
  unfold Part.setupGivenUp; (try dsimp only); (repeat' split) <;> (first | (simp [Part.layout_each, apply_ite Part.layout]; done) | (refine (Part.layout_each _ (fun q a => ?_) _ _).trans ?_ <;> (try dsimp only) <;> (repeat' split) <;> (simp; done)) | with_reducible rfl)

@[simp] theorem Part.clock_setupGivenUp (pos : Nat) (st : SetupStep) (tries : Nat) : (Part.setupGivenUp p pos st tries).clock = p.clock := by
  unfold Part.setupGivenUp; (try dsimp only); (repeat' split) <;> (first | (simp [Part.clock_each, apply_ite Part.clock]; done) | (refine (Part.clock_each _ (fun q a => ?_) _ _).trans ?_ <;> (try dsimp only) <;> (repeat' split) <;> (simp; done)) | with_reducible rfl)

@[simp] theorem Part.layout_accessConfirmed (a : Access) (read : List Byte) : (Part.accessConfirmed p a read).layout = p.layout := by
  unfold Part.accessConfirmed; (try dsimp only); (repeat' split) <;> (first | (simp [Part.layout_each, apply_ite Part.layout]; done) | (refine (Part.layout_each _ (fun q a => ?_) _ _).trans ?_ <;> (try dsimp only) <;> (repeat' split) <;> (simp; done)) | with_reducible rfl)

@[simp] theorem Part.clock_accessConfirmed (a : Access) (read : List Byte) : (Part.accessConfirmed p a read).clock = p.clock := by
  unfold Part.accessConfirmed; (try dsimp only); (repeat' split) <;> (first | (simp [Part.clock_each, apply_ite Part.clock]; done) | (refine (Part.clock_each _ (fun q a => ?_) _ _).trans ?_ <;> (try dsimp only) <;> (repeat' split) <;> (simp; done)) | with_reducible rfl)

@[simp] theorem Part.layout_stepSettled (n : Nat) (confirmed : Bool) (read : List Byte) : (Part.stepSettled p n confirmed read).layout = p.layout := by
  unfold Part.stepSettled; (try dsimp only); (repeat' split) <;> (first | (simp [Part.layout_each, apply_ite Part.layout]; done) | (refine (Part.layout_each _ (fun q a => ?_) _ _).trans ?_ <;> (try dsimp only) <;> (repeat' split) <;> (simp; done)) | with_reducible rfl)

@[simp] theorem Part.clock_stepSettled (n : Nat) (confirmed : Bool) (read : List Byte) : (Part.stepSettled p n confirmed read).clock = p.clock := by
  unfold Part.stepSettled; (try dsimp only); (repeat' split) <;> (first | (simp [Part.clock_each, apply_ite Part.clock]; done) | (refine (Part.clock_each _ (fun q a => ?_) _ _).trans ?_ <;> (try dsimp only) <;> (repeat' split) <;> (simp; done)) | with_reducible rfl)

@[simp] theorem Part.layout_stepCarried (n : Nat) : (Part.stepCarried p n).layout = p.layout := by
  unfold Part.stepCarried; (try dsimp only); (repeat' split) <;> (first | (simp [Part.layout_each, apply_ite Part.layout]; done) | (refine (Part.layout_each _ (fun q a => ?_) _ _).trans ?_ <;> (try dsimp only) <;> (repeat' split) <;> (simp; done)) | with_reducible rfl)

@[simp] theorem Part.clock_stepCarried (n : Nat) : (Part.stepCarried p n).clock = p.clock := by
  unfold Part.stepCarried; (try dsimp only); (repeat' split) <;> (first | (simp [Part.clock_each, apply_ite Part.clock]; done) | (refine (Part.clock_each _ (fun q a => ?_) _ _).trans ?_ <;> (try dsimp only) <;> (repeat' split) <;> (simp; done)) | with_reducible rfl)

@[simp] theorem Part.layout_impulsesLost (pos : Nat) : (Part.impulsesLost p pos).layout = p.layout := by
  refine Part.layout_each _ (fun q c => Part.layout_modCircuit q c _ fun r => ?_) _ _
  split <;> rfl

@[simp] theorem Part.clock_impulsesLost (pos : Nat) : (Part.impulsesLost p pos).clock = p.clock := by
  unfold Part.impulsesLost; (try dsimp only); (repeat' split) <;> (first | (simp [Part.clock_each, apply_ite Part.clock]; done) | (refine (Part.clock_each _ (fun q a => ?_) _ _).trans ?_ <;> (try dsimp only) <;> (repeat' split) <;> (simp; done)) | with_reducible rfl)

@[simp] theorem Part.layout_assigned (pos : Nat) : (Part.assigned p pos).layout = p.layout := by
  unfold Part.assigned; (try dsimp only); (repeat' split) <;> (first | (simp [Part.layout_each, apply_ite Part.layout]; done) | (refine (Part.layout_each _ (fun q a => ?_) _ _).trans ?_ <;> (try dsimp only) <;> (repeat' split) <;> (simp; done)) | with_reducible rfl)

@[simp] theorem Part.clock_assigned (pos : Nat) : (Part.assigned p pos).clock = p.clock := by
  unfold Part.assigned; (try dsimp only); (repeat' split) <;> (first | (simp [Part.clock_each, apply_ite Part.clock]; done) | (refine (Part.clock_each _ (fun q a => ?_) _ _).trans ?_ <;> (try dsimp only) <;> (repeat' split) <;> (simp; done)) | with_reducible rfl)

@[simp] theorem Part.layout_firstRecord (pos : Nat) : (Part.firstRecord p pos).layout = p.layout := by
  unfold Part.firstRecord; (try dsimp only); (repeat' split) <;> (first | (simp [Part.layout_each, apply_ite Part.layout]; done) | (refine (Part.layout_each _ (fun q a => ?_) _ _).trans ?_ <;> (try dsimp only) <;> (repeat' split) <;> (simp; done)) | with_reducible rfl)

@[simp] theorem Part.clock_firstRecord (pos : Nat) : (Part.firstRecord p pos).clock = p.clock := by
  unfold Part.firstRecord; (try dsimp only); (repeat' split) <;> (first | (simp [Part.clock_each, apply_ite Part.clock]; done) | (refine (Part.clock_each _ (fun q a => ?_) _ _).trans ?_ <;> (try dsimp only) <;> (repeat' split) <;> (simp; done)) | with_reducible rfl)

@[simp] theorem Part.layout_hailWindowEnd  : (Part.hailWindowEnd p).layout = p.layout := by
  unfold Part.hailWindowEnd; (try dsimp only); (repeat' split) <;> (first | (simp [Part.layout_each, apply_ite Part.layout]; done) | (refine (Part.layout_each _ (fun q a => ?_) _ _).trans ?_ <;> (try dsimp only) <;> (repeat' split) <;> (simp; done)) | with_reducible rfl)

@[simp] theorem Part.clock_hailWindowEnd  : (Part.hailWindowEnd p).clock = p.clock := by
  unfold Part.hailWindowEnd; (try dsimp only); (repeat' split) <;> (first | (simp [Part.clock_each, apply_ite Part.clock]; done) | (refine (Part.clock_each _ (fun q a => ?_) _ _).trans ?_ <;> (try dsimp only) <;> (repeat' split) <;> (simp; done)) | with_reducible rfl)

@[simp] theorem Part.layout_setupWaitEnd  : (Part.setupWaitEnd p).layout = p.layout := by
  unfold Part.setupWaitEnd; (try dsimp only); (repeat' split) <;> (first | (simp [Part.layout_each, apply_ite Part.layout]; done) | (refine (Part.layout_each _ (fun q a => ?_) _ _).trans ?_ <;> (try dsimp only) <;> (repeat' split) <;> (simp; done)) | with_reducible rfl)

@[simp] theorem Part.clock_setupWaitEnd  : (Part.setupWaitEnd p).clock = p.clock := by
  unfold Part.setupWaitEnd; (try dsimp only); (repeat' split) <;> (first | (simp [Part.clock_each, apply_ite Part.clock]; done) | (refine (Part.clock_each _ (fun q a => ?_) _ _).trans ?_ <;> (try dsimp only) <;> (repeat' split) <;> (simp; done)) | with_reducible rfl)

@[simp] theorem Part.layout_cutSettleEnd  : (Part.cutSettleEnd p).layout = p.layout := by
  unfold Part.cutSettleEnd; (try dsimp only); (repeat' split) <;> (first | (simp [Part.layout_each, apply_ite Part.layout]; done) | (refine (Part.layout_each _ (fun q a => ?_) _ _).trans ?_ <;> (try dsimp only) <;> (repeat' split) <;> (simp; done)) | with_reducible rfl)

@[simp] theorem Part.clock_cutSettleEnd  : (Part.cutSettleEnd p).clock = p.clock := by
  unfold Part.cutSettleEnd; (try dsimp only); (repeat' split) <;> (first | (simp [Part.clock_each, apply_ite Part.clock]; done) | (refine (Part.clock_each _ (fun q a => ?_) _ _).trans ?_ <;> (try dsimp only) <;> (repeat' split) <;> (simp; done)) | with_reducible rfl)

@[simp] theorem Part.layout_startLine (buildOp : Bool) : (Part.startLine p buildOp).layout = p.layout := by
  unfold Part.startLine; (try dsimp only); (repeat' split) <;> (first | (simp [Part.layout_each, apply_ite Part.layout]; done) | (refine (Part.layout_each _ (fun q a => ?_) _ _).trans ?_ <;> (try dsimp only) <;> (repeat' split) <;> (simp; done)) | with_reducible rfl)

@[simp] theorem Part.clock_startLine (buildOp : Bool) : (Part.startLine p buildOp).clock = p.clock := by
  unfold Part.startLine; (try dsimp only); (repeat' split) <;> (first | (simp [Part.clock_each, apply_ite Part.clock]; done) | (refine (Part.clock_each _ (fun q a => ?_) _ _).trans ?_ <;> (try dsimp only) <;> (repeat' split) <;> (simp; done)) | with_reducible rfl)

@[simp] theorem Part.layout_headPortClose (test : PortFault) : (Part.headPortClose p test).layout = p.layout := by
  unfold Part.headPortClose; (try dsimp only); (repeat' split) <;> (first | (simp [Part.layout_each, apply_ite Part.layout]; done) | (refine (Part.layout_each _ (fun q a => ?_) _ _).trans ?_ <;> (try dsimp only) <;> (repeat' split) <;> (simp; done)) | with_reducible rfl)

@[simp] theorem Part.clock_headPortClose (test : PortFault) : (Part.headPortClose p test).clock = p.clock := by
  unfold Part.headPortClose; (try dsimp only); (repeat' split) <;> (first | (simp [Part.clock_each, apply_ite Part.clock]; done) | (refine (Part.clock_each _ (fun q a => ?_) _ _).trans ?_ <;> (try dsimp only) <;> (repeat' split) <;> (simp; done)) | with_reducible rfl)

@[simp] theorem Part.layout_headPortFault (k : FaultKind) : (Part.headPortFault p k).layout = p.layout := by
  unfold Part.headPortFault; (try dsimp only); (repeat' split) <;> (first | (simp [Part.layout_each, apply_ite Part.layout]; done) | (refine (Part.layout_each _ (fun q a => ?_) _ _).trans ?_ <;> (try dsimp only) <;> (repeat' split) <;> (simp; done)) | with_reducible rfl)

@[simp] theorem Part.clock_headPortFault (k : FaultKind) : (Part.headPortFault p k).clock = p.clock := by
  unfold Part.headPortFault; (try dsimp only); (repeat' split) <;> (first | (simp [Part.clock_each, apply_ite Part.clock]; done) | (refine (Part.clock_each _ (fun q a => ?_) _ _).trans ?_ <;> (try dsimp only) <;> (repeat' split) <;> (simp; done)) | with_reducible rfl)

@[simp] theorem Part.layout_faultedRetry (test : PortFault) : (p.faultedRetry test).layout = p.layout := by
  unfold Part.faultedRetry; dsimp only
  split
  · split
    · simp
    · rw [Part.layout_testRunning, Part.layout_startRetry]; exact Part.layout_note p (.lineFault none .none)
  · rfl
@[simp] theorem Part.clock_faultedRetry (test : PortFault) : (p.faultedRetry test).clock = p.clock := by
  unfold Part.faultedRetry; dsimp only
  split
  · split
    · simp
    · rw [Part.clock_testRunning, Part.clock_startRetry]; exact Part.clock_note p (.lineFault none .none)
  · rfl

@[simp] theorem Part.layout_retryExpiry  : (Part.retryExpiry p).layout = p.layout := by
  unfold Part.retryExpiry; (try dsimp only); (repeat' split) <;> (first | (simp [Part.layout_each, apply_ite Part.layout]; done) | (refine (Part.layout_each _ (fun q a => ?_) _ _).trans ?_ <;> (try dsimp only) <;> (repeat' split) <;> (simp; done)) | with_reducible rfl)

@[simp] theorem Part.clock_retryExpiry  : (Part.retryExpiry p).clock = p.clock := by
  unfold Part.retryExpiry; (try dsimp only); (repeat' split) <;> (first | (simp [Part.clock_each, apply_ite Part.clock]; done) | (refine (Part.clock_each _ (fun q a => ?_) _ _).trans ?_ <;> (try dsimp only) <;> (repeat' split) <;> (simp; done)) | with_reducible rfl)

@[simp] theorem Part.layout_lineStart  : p.lineStart.1.layout = p.layout := by
  unfold Part.lineStart; refine Part.layout_checked p _ _ ?_
  (try dsimp only); (repeat' split) <;> simp [Part.layout_each, apply_ite Part.layout]
@[simp] theorem Part.clock_lineStart  : p.lineStart.1.clock = p.clock := by
  unfold Part.lineStart; refine Part.clock_checked p _ _ ?_
  (try dsimp only); (repeat' split) <;> simp [Part.clock_each, apply_ite Part.clock]

@[simp] theorem Part.layout_lineRestart (pos : Nat) : (Part.lineRestart pos p).1.layout = p.layout := by
  unfold Part.lineRestart; refine Part.layout_checked p _ _ ?_
  (try dsimp only); (repeat' split) <;> simp [Part.layout_each, apply_ite Part.layout]
@[simp] theorem Part.clock_lineRestart (pos : Nat) : (Part.lineRestart pos p).1.clock = p.clock := by
  unfold Part.lineRestart; refine Part.clock_checked p _ _ ?_
  (try dsimp only); (repeat' split) <;> simp [Part.clock_each, apply_ite Part.clock]

@[simp] theorem Part.layout_lineStop (saving : Bool) : (Part.lineStop saving p).1.layout = p.layout := by
  unfold Part.lineStop; (try dsimp only); (repeat' split) <;> (first | (simp [Part.layout_each, apply_ite Part.layout]; done) | (refine (Part.layout_each _ (fun q a => ?_) _ _).trans ?_ <;> (try dsimp only) <;> (repeat' split) <;> (simp; done)) | with_reducible rfl)

@[simp] theorem Part.clock_lineStop (saving : Bool) : (Part.lineStop saving p).1.clock = p.clock := by
  unfold Part.lineStop; (try dsimp only); (repeat' split) <;> (first | (simp [Part.clock_each, apply_ite Part.clock]; done) | (refine (Part.clock_each _ (fun q a => ?_) _ _).trans ?_ <;> (try dsimp only) <;> (repeat' split) <;> (simp; done)) | with_reducible rfl)

@[simp] theorem Part.layout_nodePower (pos : Nat) (power : Option PowerRequest) (saving : Bool) : (Part.nodePower pos power saving p).1.layout = p.layout := by
  unfold Part.nodePower; refine Part.layout_checked p _ _ ?_
  (try dsimp only); (repeat' split) <;> simp [Part.layout_each, apply_ite Part.layout]
@[simp] theorem Part.clock_nodePower (pos : Nat) (power : Option PowerRequest) (saving : Bool) : (Part.nodePower pos power saving p).1.clock = p.clock := by
  unfold Part.nodePower; refine Part.clock_checked p _ _ ?_
  (try dsimp only); (repeat' split) <;> simp [Part.clock_each, apply_ite Part.clock]

@[simp] theorem Part.layout_nodeRead (pos address count : Nat) : (Part.nodeRead pos address count p).1.layout = p.layout := by
  unfold Part.nodeRead; refine Part.layout_checked p _ _ ?_
  (try dsimp only); (repeat' split) <;> simp [Part.layout_each, apply_ite Part.layout]
@[simp] theorem Part.clock_nodeRead (pos address count : Nat) : (Part.nodeRead pos address count p).1.clock = p.clock := by
  unfold Part.nodeRead; refine Part.clock_checked p _ _ ?_
  (try dsimp only); (repeat' split) <;> simp [Part.clock_each, apply_ite Part.clock]

@[simp] theorem Part.layout_nodeWrite (pos address : Nat) (bytes : List Byte) : (Part.nodeWrite pos address bytes p).1.layout = p.layout := by
  unfold Part.nodeWrite; refine Part.layout_checked p _ _ ?_
  (try dsimp only); (repeat' split) <;> simp [Part.layout_each, apply_ite Part.layout]
@[simp] theorem Part.clock_nodeWrite (pos address : Nat) (bytes : List Byte) : (Part.nodeWrite pos address bytes p).1.clock = p.clock := by
  unfold Part.nodeWrite; refine Part.clock_checked p _ _ ?_
  (try dsimp only); (repeat' split) <;> simp [Part.clock_each, apply_ite Part.clock]


/-! ### Cycle -/

@[simp] theorem Part.layout_countPassed (k : Option SlotClass) : (Part.countPassed p k).layout = p.layout := by
  unfold Part.countPassed; (try dsimp only); (repeat' split) <;> (first | (simp [Part.layout_each, apply_ite Part.layout]; done) | (refine (Part.layout_each _ (fun q a => ?_) _ _).trans ?_ <;> (try dsimp only) <;> (repeat' split) <;> (simp; done)) | with_reducible rfl)

@[simp] theorem Part.clock_countPassed (k : Option SlotClass) : (Part.countPassed p k).clock = p.clock := by
  unfold Part.countPassed; (try dsimp only); (repeat' split) <;> (first | (simp [Part.clock_each, apply_ite Part.clock]; done) | (refine (Part.clock_each _ (fun q a => ?_) _ _).trans ?_ <;> (try dsimp only) <;> (repeat' split) <;> (simp; done)) | with_reducible rfl)

@[simp] theorem Part.layout_oldestWork (k : SlotClass) : (Part.oldestWork p k).1.layout = p.layout := by
  unfold Part.oldestWork; (try dsimp only); (repeat' split) <;> (first | (simp [Part.layout_each, apply_ite Part.layout]; done) | (refine (Part.layout_each _ (fun q a => ?_) _ _).trans ?_ <;> (try dsimp only) <;> (repeat' split) <;> (simp; done)) | with_reducible rfl)

@[simp] theorem Part.clock_oldestWork (k : SlotClass) : (Part.oldestWork p k).1.clock = p.clock := by
  unfold Part.oldestWork; (try dsimp only); (repeat' split) <;> (first | (simp [Part.clock_each, apply_ite Part.clock]; done) | (refine (Part.clock_each _ (fun q a => ?_) _ _).trans ?_ <;> (try dsimp only) <;> (repeat' split) <;> (simp; done)) | with_reducible rfl)

@[simp] theorem Part.layout_carried (h : Handed) : (Part.carried p h).layout = p.layout := by
  unfold Part.carried; (try dsimp only); (repeat' split) <;> (first | (simp [Part.layout_each, apply_ite Part.layout]; done) | (refine (Part.layout_each _ (fun q a => ?_) _ _).trans ?_ <;> (try dsimp only) <;> (repeat' split) <;> (simp; done)) | with_reducible rfl)

@[simp] theorem Part.clock_carried (h : Handed) : (Part.carried p h).clock = p.clock := by
  unfold Part.carried; (try dsimp only); (repeat' split) <;> (first | (simp [Part.clock_each, apply_ite Part.clock]; done) | (refine (Part.clock_each _ (fun q a => ?_) _ _).trans ?_ <;> (try dsimp only) <;> (repeat' split) <;> (simp; done)) | with_reducible rfl)

@[simp] theorem Part.layout_firstSend (h : Handed) : (Part.firstSend p h).1.layout = p.layout := by
  unfold Part.firstSend; (try dsimp only); (repeat' split) <;> (first | (simp [Part.layout_each, apply_ite Part.layout]; done) | (refine (Part.layout_each _ (fun q a => ?_) _ _).trans ?_ <;> (try dsimp only) <;> (repeat' split) <;> (simp; done)) | with_reducible rfl)

@[simp] theorem Part.clock_firstSend (h : Handed) : (Part.firstSend p h).1.clock = p.clock := by
  unfold Part.firstSend; (try dsimp only); (repeat' split) <;> (first | (simp [Part.clock_each, apply_ite Part.clock]; done) | (refine (Part.clock_each _ (fun q a => ?_) _ _).trans ?_ <;> (try dsimp only) <;> (repeat' split) <;> (simp; done)) | with_reducible rfl)

@[simp] theorem Part.layout_choose  : (Part.choose p).1.layout = p.layout := by
  unfold Part.choose; (try dsimp only); (repeat' split) <;> (first | (simp [Part.layout_each, apply_ite Part.layout]; done) | (refine (Part.layout_each _ (fun q a => ?_) _ _).trans ?_ <;> (try dsimp only) <;> (repeat' split) <;> (simp; done)) | with_reducible rfl)

@[simp] theorem Part.clock_choose  : (Part.choose p).1.clock = p.clock := by
  unfold Part.choose; (try dsimp only); (repeat' split) <;> (first | (simp [Part.clock_each, apply_ite Part.clock]; done) | (refine (Part.clock_each _ (fun q a => ?_) _ _).trans ?_ <;> (try dsimp only) <;> (repeat' split) <;> (simp; done)) | with_reducible rfl)

@[simp] theorem Part.layout_nextSlot  : (Part.nextSlot p).1.layout = p.layout := by
  unfold Part.nextSlot; (try dsimp only); (repeat' split) <;> (first | (simp [Part.layout_each, apply_ite Part.layout]; done) | (refine (Part.layout_each _ (fun q a => ?_) _ _).trans ?_ <;> (try dsimp only) <;> (repeat' split) <;> (simp; done)) | with_reducible rfl)

@[simp] theorem Part.clock_nextSlot  : (Part.nextSlot p).1.clock = p.clock := by
  unfold Part.nextSlot; (try dsimp only); (repeat' split) <;> (first | (simp [Part.clock_each, apply_ite Part.clock]; done) | (refine (Part.clock_each _ (fun q a => ?_) _ _).trans ?_ <;> (try dsimp only) <;> (repeat' split) <;> (simp; done)) | with_reducible rfl)

@[simp] theorem Part.layout_countError (pos : Nat) (c : CounterName) : (Part.countError p pos c).layout = p.layout := by
  unfold Part.countError; (try dsimp only); (repeat' split) <;> (first | (simp [Part.layout_each, apply_ite Part.layout]; done) | (refine (Part.layout_each _ (fun q a => ?_) _ _).trans ?_ <;> (try dsimp only) <;> (repeat' split) <;> (simp; done)) | with_reducible rfl)

@[simp] theorem Part.clock_countError (pos : Nat) (c : CounterName) : (Part.countError p pos c).clock = p.clock := by
  unfold Part.countError; (try dsimp only); (repeat' split) <;> (first | (simp [Part.clock_each, apply_ite Part.clock]; done) | (refine (Part.clock_each _ (fun q a => ?_) _ _).trans ?_ <;> (try dsimp only) <;> (repeat' split) <;> (simp; done)) | with_reducible rfl)

@[simp] theorem Part.layout_countGiveUp  : (Part.countGiveUp p).layout = p.layout := by
  unfold Part.countGiveUp; (try dsimp only); (repeat' split) <;> (first | (simp [Part.layout_each, apply_ite Part.layout]; done) | (refine (Part.layout_each _ (fun q a => ?_) _ _).trans ?_ <;> (try dsimp only) <;> (repeat' split) <;> (simp; done)) | with_reducible rfl)

@[simp] theorem Part.clock_countGiveUp  : (Part.countGiveUp p).clock = p.clock := by
  unfold Part.countGiveUp; (try dsimp only); (repeat' split) <;> (first | (simp [Part.clock_each, apply_ite Part.clock]; done) | (refine (Part.clock_each _ (fun q a => ?_) _ _).trans ?_ <;> (try dsimp only) <;> (repeat' split) <;> (simp; done)) | with_reducible rfl)

@[simp] theorem Part.layout_missWindow (pos : Nat) (c : CounterName) : (Part.missWindow p pos c).layout = p.layout := by
  unfold Part.missWindow; (try dsimp only); (repeat' split) <;> (first | (simp [Part.layout_each, apply_ite Part.layout]; done) | (refine (Part.layout_each _ (fun q a => ?_) _ _).trans ?_ <;> (try dsimp only) <;> (repeat' split) <;> (simp; done)) | with_reducible rfl)

@[simp] theorem Part.clock_missWindow (pos : Nat) (c : CounterName) : (Part.missWindow p pos c).clock = p.clock := by
  unfold Part.missWindow; (try dsimp only); (repeat' split) <;> (first | (simp [Part.clock_each, apply_ite Part.clock]; done) | (refine (Part.clock_each _ (fun q a => ?_) _ _).trans ?_ <;> (try dsimp only) <;> (repeat' split) <;> (simp; done)) | with_reducible rfl)

@[simp] theorem Part.layout_keepRecord (pos : Nat) (r : StatusRecord) : (Part.keepRecord p pos r).layout = p.layout := by
  unfold Part.keepRecord; (try dsimp only); (repeat' split) <;> (first | (simp [Part.layout_each, apply_ite Part.layout]; done) | (refine (Part.layout_each _ (fun q a => ?_) _ _).trans ?_ <;> (try dsimp only) <;> (repeat' split) <;> (simp; done)) | with_reducible rfl)

@[simp] theorem Part.clock_keepRecord (pos : Nat) (r : StatusRecord) : (Part.keepRecord p pos r).clock = p.clock := by
  unfold Part.keepRecord; (try dsimp only); (repeat' split) <;> (first | (simp [Part.clock_each, apply_ite Part.clock]; done) | (refine (Part.clock_each _ (fun q a => ?_) _ _).trans ?_ <;> (try dsimp only) <;> (repeat' split) <;> (simp; done)) | with_reducible rfl)

@[simp] theorem Part.layout_deliverEdges (pos : Nat) (edges : List Nat) : (p.deliverEdges pos edges).layout = p.layout := by
  unfold Part.deliverEdges; split
  · rfl
  · dsimp only
    refine (Part.layout_each _ (fun q a => ?_) _ _).trans ((Part.layout_each _ (fun q a => ?_) _ _).trans
      (Part.layout_each _ (fun q a => ?_) _ _)) <;> (repeat' split) <;> simp
@[simp] theorem Part.clock_deliverEdges (pos : Nat) (edges : List Nat) : (p.deliverEdges pos edges).clock = p.clock := by
  unfold Part.deliverEdges; split
  · rfl
  · dsimp only
    refine (Part.clock_each _ (fun q a => ?_) _ _).trans ((Part.clock_each _ (fun q a => ?_) _ _).trans
      (Part.clock_each _ (fun q a => ?_) _ _)) <;> (repeat' split) <;> simp

@[simp] theorem Part.layout_firstDuties (pos : Nat) (r : StatusRecord) : (Part.firstDuties p pos r).layout = p.layout := by
  unfold Part.firstDuties; (try dsimp only); (repeat' split) <;> (first | (simp [Part.layout_each, apply_ite Part.layout]; done) | (refine (Part.layout_each _ (fun q a => ?_) _ _).trans ?_ <;> (try dsimp only) <;> (repeat' split) <;> (simp; done)) | with_reducible rfl)

@[simp] theorem Part.clock_firstDuties (pos : Nat) (r : StatusRecord) : (Part.firstDuties p pos r).clock = p.clock := by
  unfold Part.firstDuties; (try dsimp only); (repeat' split) <;> (first | (simp [Part.clock_each, apply_ite Part.clock]; done) | (refine (Part.clock_each _ (fun q a => ?_) _ _).trans ?_ <;> (try dsimp only) <;> (repeat' split) <;> (simp; done)) | with_reducible rfl)

@[simp] theorem Part.layout_nodeReturns (pos : Nat) (r : StatusRecord) : (Part.nodeReturns p pos r).layout = p.layout := by
  unfold Part.nodeReturns; (try dsimp only); (repeat' split) <;> (first | (simp [Part.layout_each, apply_ite Part.layout]; done) | (refine (Part.layout_each _ (fun q a => ?_) _ _).trans ?_ <;> (try dsimp only) <;> (repeat' split) <;> (simp; done)) | with_reducible rfl)

@[simp] theorem Part.clock_nodeReturns (pos : Nat) (r : StatusRecord) : (Part.nodeReturns p pos r).clock = p.clock := by
  unfold Part.nodeReturns; (try dsimp only); (repeat' split) <;> (first | (simp [Part.clock_each, apply_ite Part.clock]; done) | (refine (Part.clock_each _ (fun q a => ?_) _ _).trans ?_ <;> (try dsimp only) <;> (repeat' split) <;> (simp; done)) | with_reducible rfl)

@[simp] theorem Part.layout_takeConfirmation (pos : Nat) (r : StatusRecord) : (Part.takeConfirmation p pos r).layout = p.layout := by
  unfold Part.takeConfirmation; (try dsimp only); (repeat' split) <;> (first | (simp [Part.layout_each, apply_ite Part.layout]; done) | (refine (Part.layout_each _ (fun q a => ?_) _ _).trans ?_ <;> (try dsimp only) <;> (repeat' split) <;> (simp; done)) | with_reducible rfl)

@[simp] theorem Part.clock_takeConfirmation (pos : Nat) (r : StatusRecord) : (Part.takeConfirmation p pos r).clock = p.clock := by
  unfold Part.takeConfirmation; (try dsimp only); (repeat' split) <;> (first | (simp [Part.clock_each, apply_ite Part.clock]; done) | (refine (Part.clock_each _ (fun q a => ?_) _ _).trans ?_ <;> (try dsimp only) <;> (repeat' split) <;> (simp; done)) | with_reducible rfl)

@[simp] theorem Part.layout_takePower (pos : Nat) (r : StatusRecord) : (Part.takePower p pos r).layout = p.layout := by
  unfold Part.takePower; (try dsimp only); (repeat' split) <;> (first | (simp [Part.layout_each, apply_ite Part.layout]; done) | (refine (Part.layout_each _ (fun q a => ?_) _ _).trans ?_ <;> (try dsimp only) <;> (repeat' split) <;> (simp; done)) | with_reducible rfl)

@[simp] theorem Part.clock_takePower (pos : Nat) (r : StatusRecord) : (Part.takePower p pos r).clock = p.clock := by
  unfold Part.takePower; (try dsimp only); (repeat' split) <;> (first | (simp [Part.clock_each, apply_ite Part.clock]; done) | (refine (Part.clock_each _ (fun q a => ?_) _ _).trans ?_ <;> (try dsimp only) <;> (repeat' split) <;> (simp; done)) | with_reducible rfl)

@[simp] theorem Part.layout_useRecord (pos : Nat) (r : StatusRecord) : (Part.useRecord p pos r).layout = p.layout := by
  unfold Part.useRecord; (try dsimp only); (repeat' split) <;> (first | (simp [Part.layout_each, apply_ite Part.layout]; done) | (refine (Part.layout_each _ (fun q a => ?_) _ _).trans ?_ <;> (try dsimp only) <;> (repeat' split) <;> (simp; done)) | with_reducible rfl)

@[simp] theorem Part.clock_useRecord (pos : Nat) (r : StatusRecord) : (Part.useRecord p pos r).clock = p.clock := by
  unfold Part.useRecord; (try dsimp only); (repeat' split) <;> (first | (simp [Part.clock_each, apply_ite Part.clock]; done) | (refine (Part.clock_each _ (fun q a => ?_) _ _).trans ?_ <;> (try dsimp only) <;> (repeat' split) <;> (simp; done)) | with_reducible rfl)

@[simp] theorem Part.layout_takeRecord (pos : Nat) (r : StatusRecord) : (Part.takeRecord p pos r).layout = p.layout := by
  unfold Part.takeRecord; (try dsimp only); (repeat' split) <;> (first | (simp [Part.layout_each, apply_ite Part.layout]; done) | (refine (Part.layout_each _ (fun q a => ?_) _ _).trans ?_ <;> (try dsimp only) <;> (repeat' split) <;> (simp; done)) | with_reducible rfl)

@[simp] theorem Part.clock_takeRecord (pos : Nat) (r : StatusRecord) : (Part.takeRecord p pos r).clock = p.clock := by
  unfold Part.takeRecord; (try dsimp only); (repeat' split) <;> (first | (simp [Part.clock_each, apply_ite Part.clock]; done) | (refine (Part.clock_each _ (fun q a => ?_) _ _).trans ?_ <;> (try dsimp only) <;> (repeat' split) <;> (simp; done)) | with_reducible rfl)

@[simp] theorem Part.layout_takeWindow (pos : Nat) (w : Window) : (Part.takeWindow p pos w).layout = p.layout := by
  unfold Part.takeWindow; (try dsimp only); (repeat' split) <;> (first | (simp [Part.layout_each, apply_ite Part.layout]; done) | (refine (Part.layout_each _ (fun q a => ?_) _ _).trans ?_ <;> (try dsimp only) <;> (repeat' split) <;> (simp; done)) | with_reducible rfl)

@[simp] theorem Part.clock_takeWindow (pos : Nat) (w : Window) : (Part.takeWindow p pos w).clock = p.clock := by
  unfold Part.takeWindow; (try dsimp only); (repeat' split) <;> (first | (simp [Part.clock_each, apply_ite Part.clock]; done) | (refine (Part.clock_each _ (fun q a => ?_) _ _).trans ?_ <;> (try dsimp only) <;> (repeat' split) <;> (simp; done)) | with_reducible rfl)

@[simp] theorem Part.layout_takeHail (w : HailWindow) : (p.takeHail w).layout = p.layout := by
  cases w <;> simp [Part.takeHail]
@[simp] theorem Part.clock_takeHail (w : HailWindow) : (p.takeHail w).clock = p.clock := by
  cases w <;> simp [Part.takeHail]

@[simp] theorem Part.layout_zonesSettled (lo hi : Nat) (o : Output) (confirmed : List Nat) : (p.zonesSettled lo hi o confirmed).layout = p.layout := by
  unfold Part.zonesSettled; dsimp only
  rw [Part.layout_settleZones]
  refine Part.layout_each _ (fun q a => ?_) _ _
  (repeat' split) <;> (first | rfl | simp [Zone.makeDirty])
@[simp] theorem Part.clock_zonesSettled (lo hi : Nat) (o : Output) (confirmed : List Nat) : (p.zonesSettled lo hi o confirmed).clock = p.clock := by
  unfold Part.zonesSettled; dsimp only
  rw [Part.clock_settleZones]
  refine Part.clock_each _ (fun q a => ?_) _ _
  (repeat' split) <;> (first | rfl | simp [Zone.makeDirty])

@[simp] theorem Part.layout_powerSettled (pos : Nat) (quiet : Bool) (confirmed : Bool) : (Part.powerSettled p pos quiet confirmed).layout = p.layout := by
  unfold Part.powerSettled; (try dsimp only); (repeat' split) <;> (first | (simp [Part.layout_each, apply_ite Part.layout]; done) | (refine (Part.layout_each _ (fun q a => ?_) _ _).trans ?_ <;> (try dsimp only) <;> (repeat' split) <;> (simp; done)) | with_reducible rfl)

@[simp] theorem Part.clock_powerSettled (pos : Nat) (quiet : Bool) (confirmed : Bool) : (Part.powerSettled p pos quiet confirmed).clock = p.clock := by
  unfold Part.powerSettled; (try dsimp only); (repeat' split) <;> (first | (simp [Part.clock_each, apply_ite Part.clock]; done) | (refine (Part.clock_each _ (fun q a => ?_) _ _).trans ?_ <;> (try dsimp only) <;> (repeat' split) <;> (simp; done)) | with_reducible rfl)

@[simp] theorem Part.layout_reportOutcome (f : Flight) (confirmed : Bool) : (Part.reportOutcome p f confirmed).layout = p.layout := by
  unfold Part.reportOutcome; (try dsimp only); (repeat' split) <;> (first | (simp [Part.layout_each, apply_ite Part.layout]; done) | (refine (Part.layout_each _ (fun q a => ?_) _ _).trans ?_ <;> (try dsimp only) <;> (repeat' split) <;> (simp; done)) | with_reducible rfl)

@[simp] theorem Part.clock_reportOutcome (f : Flight) (confirmed : Bool) : (Part.reportOutcome p f confirmed).clock = p.clock := by
  unfold Part.reportOutcome; (try dsimp only); (repeat' split) <;> (first | (simp [Part.clock_each, apply_ite Part.clock]; done) | (refine (Part.clock_each _ (fun q a => ?_) _ _).trans ?_ <;> (try dsimp only) <;> (repeat' split) <;> (simp; done)) | with_reducible rfl)

@[simp] theorem Part.layout_settleFlight  : (Part.settleFlight p).layout = p.layout := by
  unfold Part.settleFlight; (try dsimp only); (repeat' split) <;> (first | (simp [Part.layout_each, apply_ite Part.layout]; done) | (refine (Part.layout_each _ (fun q a => ?_) _ _).trans ?_ <;> (try dsimp only) <;> (repeat' split) <;> (simp; done)) | with_reducible rfl)

@[simp] theorem Part.clock_settleFlight  : (Part.settleFlight p).clock = p.clock := by
  unfold Part.settleFlight; (try dsimp only); (repeat' split) <;> (first | (simp [Part.clock_each, apply_ite Part.clock]; done) | (refine (Part.clock_each _ (fun q a => ?_) _ _).trans ?_ <;> (try dsimp only) <;> (repeat' split) <;> (simp; done)) | with_reducible rfl)

@[simp] theorem Part.layout_livenessTimeout (pos : Nat) : (Part.livenessTimeout pos p).layout = p.layout := by
  unfold Part.livenessTimeout; (try dsimp only); (repeat' split) <;> (first | (simp [Part.layout_each, apply_ite Part.layout]; done) | (refine (Part.layout_each _ (fun q a => ?_) _ _).trans ?_ <;> (try dsimp only) <;> (repeat' split) <;> (simp; done)) | with_reducible rfl)

@[simp] theorem Part.clock_livenessTimeout (pos : Nat) : (Part.livenessTimeout pos p).clock = p.clock := by
  unfold Part.livenessTimeout; (try dsimp only); (repeat' split) <;> (first | (simp [Part.clock_each, apply_ite Part.clock]; done) | (refine (Part.clock_each _ (fun q a => ?_) _ _).trans ?_ <;> (try dsimp only) <;> (repeat' split) <;> (simp; done)) | with_reducible rfl)

@[simp] theorem Part.layout_countCycle  : (Part.countCycle p).layout = p.layout := by
  unfold Part.countCycle; (try dsimp only); (repeat' split) <;> (first | (simp [Part.layout_each, apply_ite Part.layout]; done) | (refine (Part.layout_each _ (fun q a => ?_) _ _).trans ?_ <;> (try dsimp only) <;> (repeat' split) <;> (simp; done)) | with_reducible rfl)

@[simp] theorem Part.clock_countCycle  : (Part.countCycle p).clock = p.clock := by
  unfold Part.countCycle; (try dsimp only); (repeat' split) <;> (first | (simp [Part.clock_each, apply_ite Part.clock]; done) | (refine (Part.clock_each _ (fun q a => ?_) _ _).trans ?_ <;> (try dsimp only) <;> (repeat' split) <;> (simp; done)) | with_reducible rfl)

@[simp] theorem Part.layout_assignApplied (slot : Option Slot) (b : Bool) : (p.assignApplied slot b).layout = p.layout := by
  unfold Part.assignApplied; repeat' split
  all_goals simp

@[simp] theorem Part.clock_assignApplied (slot : Option Slot) (b : Bool) : (p.assignApplied slot b).clock = p.clock := by
  unfold Part.assignApplied; repeat' split
  all_goals simp

@[simp] theorem Part.layout_endAssign (slot : Option Slot) : (Part.endAssign p slot).layout = p.layout := by
  unfold Part.endAssign; (try dsimp only); (repeat' split) <;> (first | (simp [Part.layout_each, apply_ite Part.layout]; done) | (refine (Part.layout_each _ (fun q a => ?_) _ _).trans ?_ <;> (try dsimp only) <;> (repeat' split) <;> (simp; done)) | with_reducible rfl)

@[simp] theorem Part.clock_endAssign (slot : Option Slot) : (Part.endAssign p slot).clock = p.clock := by
  unfold Part.endAssign; (try dsimp only); (repeat' split) <;> (first | (simp [Part.clock_each, apply_ite Part.clock]; done) | (refine (Part.clock_each _ (fun q a => ?_) _ _).trans ?_ <;> (try dsimp only) <;> (repeat' split) <;> (simp; done)) | with_reducible rfl)

@[simp] theorem Part.layout_takeUpHalf (held : Bool) (slot : Option Slot) (windows : Nat → Window) (hail : HailWindow) : (p.takeUpHalf held slot windows hail).layout = p.layout := by
  unfold Part.takeUpHalf; dsimp only; split <;> simp [Part.layout_each]
@[simp] theorem Part.clock_takeUpHalf (held : Bool) (slot : Option Slot) (windows : Nat → Window) (hail : HailWindow) : (p.takeUpHalf held slot windows hail).clock = p.clock := by
  unfold Part.takeUpHalf; dsimp only; split <;> simp [Part.clock_each]

@[simp] theorem Part.layout_countersRead (clear : Option Bool) (saving : Bool) : (Part.countersRead clear saving p).1.layout = p.layout := by
  unfold Part.countersRead; refine Part.layout_checked p _ _ ?_
  first
  | rfl
  | (dsimp only; split
     · exact Part.layout_with_line p _
     · rfl)
@[simp] theorem Part.clock_countersRead (clear : Option Bool) (saving : Bool) : (Part.countersRead clear saving p).1.clock = p.clock := by
  unfold Part.countersRead; refine Part.clock_checked p _ _ ?_
  first
  | rfl
  | (dsimp only; split
     · exact Part.clock_with_line p _
     · rfl)

@[simp] theorem Part.layout_countersFreeze (freeze : Option Bool) (saving : Bool) : (Part.countersFreeze freeze saving p).1.layout = p.layout := by
  unfold Part.countersFreeze; refine Part.layout_checked p _ _ ?_
  first
  | rfl
  | (dsimp only; split
     · exact Part.layout_with_line p _
     · rfl)
@[simp] theorem Part.clock_countersFreeze (freeze : Option Bool) (saving : Bool) : (Part.countersFreeze freeze saving p).1.clock = p.clock := by
  unfold Part.countersFreeze; refine Part.clock_checked p _ _ ?_
  first
  | rfl
  | (dsimp only; split
     · exact Part.clock_with_line p _
     · rfl)


end

end Sys2Proof.Machine
end

