-- ==== Sys2Proof/Laws/Frames.lean ====
section
/-! SUPPORT. What a request, an event and a line cycle leave of the part, once for every view of it that the end of a step
leaves: the tables, the clock, the core. -/

namespace Sys2Proof.Machine

section
variable {β : Type} (g : Part → β) (hout : ∀ p : Part, g { p with outbox := [] } = g p)
  (hset : ∀ b : Part, g (Part.settle b) = g b)
include hout

/-- The end of a step leaves what its messages do not touch. -/
theorem frame_finish (s : State) : g (finish s).part = g s.part := hout s.part

/-- A request leaves what its meaning leaves. -/
theorem frame_request (i : Instr) (tag kind : Nat) (f : State → State × Answer) (h : ∀ s, g (f s).1.part = g s.part)
    (s : State) : g (request i tag kind f s).part = g s.part := by
  have hc : ∀ s, g (carryOut tag kind f s).part = g s.part := by
    intro s; unfold carryOut; dsimp only; split
    · exact hout _
    · exact (hout _).trans (h s)
  unfold request
  (repeat' split) <;> first | rfl | exact hc _ | exact hout _

include hset

/-- An event leaves what its effect on the part leaves. -/
theorem frame_event (f : Part → Part) (h : ∀ p, g (f p) = g p) (s : State) : g (event f s).part = g s.part := by
  unfold event; split
  · exact (hout _).trans ((hset _).trans (h _))
  · rfl

omit hout

/-- A block's request leaves what its effect on the part leaves. -/
theorem frame_ofPart (f : Bool → Part → Part × Answer) (h : ∀ b p, g (f b p).1 = g p) (s : State) :
    g (ofPart f s).1.part = g s.part := by
  unfold ofPart; dsimp only; split
  · exact (hset _).trans (h _ _)
  · rfl

omit hset

/-- A long operation leaves what its meaning leaves. -/
theorem frame_longOp (tag kind : Nat) (f : State → State × Answer) (h : ∀ s, g (f s).1.part = g s.part) (s : State) :
    g (longOp tag kind f s).1.part = g s.part := by
  unfold longOp; dsimp only; (repeat' split) <;> first | rfl | exact h _

end

/-! ### The requests that write tables leave the clock -/

@[simp] theorem Part.clock_enableBell (p : Part) (z : Nat) (on : Bool) : (p.enableBell z on).clock = p.clock := by
  unfold Part.enableBell; rw [Part.clock_claimsClear]; rfl

@[simp] theorem Part.clock_disableAnnounce (p : Part) (zs : List Nat) : (p.disableAnnounce zs).clock = p.clock := by
  unfold Part.disableAnnounce; dsimp only
  refine (Part.clock_each _ (fun q z => by simp) _ _).trans ?_
  refine (Part.clock_each _ (fun q z => ?_) _ _).trans (Part.clock_each _ (fun q z => by rfl) _ _)
  rw [Part.clock_loseOffers, Part.clock_loseHeld]

@[simp] theorem Part.clock_enableAnnounce (p : Part) (zs : List Nat) (on : Bool) : (p.enableAnnounce zs on).clock = p.clock := by
  unfold Part.enableAnnounce; split
  · exact Part.clock_each _ (fun q z => by rfl) _ _
  · exact Part.clock_disableAnnounce _ _

@[simp] theorem Part.clock_defineCircuit (p : Part) (c : Nat) (d : Option CircuitDef) :
    (p.defineCircuit c d).clock = p.clock := by
  unfold Part.defineCircuit; (repeat' split) <;> rfl

@[simp] theorem Part.clock_rosterChanged (old p : Part) : (Part.rosterChanged old p).clock = p.clock := by
  unfold Part.rosterChanged; dsimp only
  refine (Part.clock_each _ (fun q pos => by simp) _ _).trans ?_
  rw [Part.clock_settleZones]
  refine Part.clock_each _ (fun q z => ?_) _ _
  unfold Part.drillUnowned; cases (if (q.zone z).drill.isSome = true then q.buildingOf z else none) with
  | none => exact (show _ = (q.endClaims z).clock from rfl).trans (by simp)
  | some b => exact (show _ = (q.endClaims z).clock from rfl).trans (by simp)

@[simp] theorem Part.clock_buildingWrite (p : Part) (b : Nat) (r : Range) (w : Bool) : (Part.buildingWrite b r w p).1.clock = p.clock := by
  unfold Part.buildingWrite; refine Part.clock_checked _ _ _ ?_; rfl

@[simp] theorem Part.clock_zoneDefine (p : Part) (z : Nat) (k : Option ZoneKind) (w : Bool) : (Part.zoneDefine z k w p).1.clock = p.clock := by
  unfold Part.zoneDefine; refine Part.clock_checked _ _ _ ?_; rfl

@[simp] theorem Part.clock_zoneEnable (p : Part) (r : Range) (src : Option Source) (on : Option Bool) (w : Bool) : (Part.zoneEnable r src on w p).1.clock = p.clock := by
  unfold Part.zoneEnable; refine Part.clock_checked _ _ _ ?_; dsimp only; split
  · exact Part.clock_each _ (fun q z => by simp) _ _
  · simp

@[simp] theorem Part.clock_zoneMask (p : Part) (r : Range) (src : Option Source) (on : Option Bool) (w : Bool) : (Part.zoneMask r src on w p).1.clock = p.clock := by
  unfold Part.zoneMask; refine Part.clock_checked _ _ _ ?_; dsimp only; exact Part.clock_each _ (fun q z => by simp) _ _

@[simp] theorem Part.clock_programWrite (p : Part) (n : Nat) (f : Program) (w : Bool) : (Part.programWrite n f w p).1.clock = p.clock := by
  unfold Part.programWrite; refine Part.clock_checked _ _ _ ?_; rfl

@[simp] theorem Part.clock_scheduleAdd (p : Part) (d : CalDate) (m n : Nat) (w : Bool) : (Part.scheduleAdd d m n w p).1.clock = p.clock := by
  unfold Part.scheduleAdd; refine Part.clock_checked _ _ _ ?_; rfl

@[simp] theorem Part.clock_scheduleRemove (p : Part) (d : CalDate) (m : Nat) (w : Bool) : (Part.scheduleRemove d m w p).1.clock = p.clock := by
  unfold Part.scheduleRemove; refine Part.clock_checked _ _ _ ?_; rfl

@[simp] theorem Part.clock_circuitWrite (p : Part) (c : Nat) (d : Option CircuitDef) (w : Bool) : (Part.circuitWrite c d w p).1.clock = p.clock := by
  unfold Part.circuitWrite; refine Part.clock_checked _ _ _ ?_; simp

@[simp] theorem Part.clock_rosterWrite (p : Part) (n : Nat) (r : RosterOperand) (w : Bool) : (Part.rosterWrite n r w p).1.clock = p.clock := by
  unfold Part.rosterWrite; refine Part.clock_checked _ _ _ ?_; dsimp only; rw [Part.clock_rosterChanged]; rfl

@[simp] theorem Part.clock_rosterLength (p : Part) (n : Nat) (w : Bool) : (Part.rosterLength n w p).1.clock = p.clock := by
  unfold Part.rosterLength; refine Part.clock_checked _ _ _ ?_; dsimp only; rw [Part.clock_rosterChanged]; rfl

@[simp] theorem Part.clock_lineSettings (p : Part) (a b : Option Bool) (n : Nat) (w : Bool) : (Part.lineSettings a b n w p).1.clock = p.clock := by
  unfold Part.lineSettings; refine Part.clock_checked _ _ _ ?_; rfl

/-! ### The two views -/

theorem layout_outbox (p : Part) : ({ p with outbox := [] } : Part).layout = p.layout := rfl
theorem clock_outbox (p : Part) : ({ p with outbox := [] } : Part).clock = p.clock := rfl
theorem layout_settle (b : Part) : b.settle.layout = b.layout := by simp
theorem clock_settle (b : Part) : b.settle.clock = b.clock := by simp

/-- A line cycle leaves the tables. -/
theorem layout_lineCycle (noise : Noise) (s : State) : (lineCycle noise s).part.layout = s.part.layout := by
  unfold lineCycle; split
  · exact (layout_settle _).trans (by simp)
  · rfl

/-- A line cycle leaves the clock and the bells. -/
theorem clock_lineCycle (noise : Noise) (s : State) : (lineCycle noise s).part.clock = s.part.clock := by
  unfold lineCycle; split
  · exact (clock_settle _).trans (by simp)
  · rfl

end Sys2Proof.Machine
end

