-- ==== Sys2Proof/Laws/Memory.lean ====
section
/-! SUPPORT. The setup store of a node stays in canonical form, and a write is seen by reads of its address alone. -/

namespace Sys2Proof.Machine

/-- A list of cells that is canonical from one address on is canonical from any lower one. -/
theorem Memory.wfFrom_mono {m : List Host.Cell} {a b : Nat} (hab : a ≤ b) (h : Memory.wfFrom b m = true) :
    Memory.wfFrom a m = true := by
  cases m with
  | nil => rfl
  | cons c l =>
    simp only [Memory.wfFrom, Bool.and_eq_true, decide_eq_true_eq] at h ⊢
    exact ⟨⟨⟨by omega, h.1.1.2⟩, h.1.2⟩, h.2⟩

/-- A write at or above the lowest address keeps the form. -/
theorem Memory.wfFrom_write {m : List Host.Cell} {low a : Nat} (b : Byte) (h : Memory.wfFrom low m = true)
    (hl : low ≤ a) (ha : a < 65536) : Memory.wfFrom low (Memory.write m a b) = true := by
  induction m generalizing low with
  | nil =>
    unfold Memory.write; split
    · rfl
    next hb => simp [Memory.wfFrom, hl, ha, hb]
  | cons c l ih =>
    simp only [Memory.wfFrom, Bool.and_eq_true, decide_eq_true_eq] at h
    obtain ⟨⟨⟨h1, h2⟩, h3⟩, h4⟩ := h
    unfold Memory.write
    split
    next hlt =>
      split
      · simp only [Memory.wfFrom, Bool.and_eq_true, decide_eq_true_eq]; exact ⟨⟨⟨h1, h2⟩, h3⟩, h4⟩
      next hb =>
        simp only [Memory.wfFrom, Bool.and_eq_true, decide_eq_true_eq]
        exact ⟨⟨⟨hl, ha⟩, by simpa using hb⟩, ⟨⟨by omega, h2⟩, h3⟩, h4⟩
    next hge =>
      split
      next heq =>
        subst heq
        split
        · exact Memory.wfFrom_mono (by omega) h4
        next hb =>
          simp only [Memory.wfFrom, Bool.and_eq_true, decide_eq_true_eq]
          exact ⟨⟨⟨hl, ha⟩, by simpa using hb⟩, h4⟩
      next hne =>
        simp only [Memory.wfFrom, Bool.and_eq_true, decide_eq_true_eq]
        exact ⟨⟨⟨h1, h2⟩, h3⟩, ih h4 (by omega)⟩

/-- A write within the store keeps the canonical form. -/
theorem Memory.wf_write {m : List Host.Cell} (h : Memory.wf m = true) (a : Nat) (b : Byte) :
    Memory.wf (Memory.write m (Memory.wrap a) b) = true :=
  Memory.wfFrom_write b h (Nat.zero_le _) (Nat.mod_lt _ (by decide))

/-- A run of writes keeps the canonical form. -/
theorem Memory.wf_writeRun (bs : List Byte) : ∀ (m : List Host.Cell) (a : Nat), Memory.wf m = true →
    Memory.wf (Memory.writeRun m a bs) = true := by
  induction bs with
  | nil => intro m a h; exact h
  | cons b l ih => intro m a h; exact ih _ _ (Memory.wf_write h a b)

/-- The store that a list of bytes fills is canonical. -/
theorem wf_storeOf (l : List StoreByte) : Memory.wf (storeOf l) = true := by
  have : ∀ (l : List StoreByte) (m : List Host.Cell), Memory.wf m = true →
      Memory.wf (l.foldl (fun m b => Memory.write m (Memory.wrap b.address) b.value) m) = true := by
    intro l
    induction l with
    | nil => intro m h; exact h
    | cons b l ih => intro m h; exact ih _ (Memory.wf_write h _ _)
  exact this l [] rfl

/-- No address below the lowest is listed. -/
theorem Memory.read_below {m : List Host.Cell} {low a : Nat} (h : Memory.wfFrom low m = true) (ha : a < low) :
    Memory.read m a = Memory.unlisted := by
  induction m generalizing low with
  | nil => rfl
  | cons c l ih =>
    simp only [Memory.wfFrom, Bool.and_eq_true, decide_eq_true_eq] at h
    obtain ⟨⟨⟨h1, _⟩, _⟩, h4⟩ := h
    unfold Memory.read
    rw [if_neg (by omega)]
    exact ih h4 (by omega)

/-- A byte written is read back, and every other byte reads as before. -/
theorem Memory.read_write {m : List Host.Cell} {low : Nat} (h : Memory.wfFrom low m = true) (a x : Nat) (b : Byte) :
    Memory.read (Memory.write m a b) x = if x = a then b else Memory.read m x := by
  induction m generalizing low with
  | nil =>
    unfold Memory.write; split
    next hb => split <;> simp [Memory.read, hb]
    · simp only [Memory.read, eq_comm]
  | cons c l ih =>
    simp only [Memory.wfFrom, Bool.and_eq_true, decide_eq_true_eq] at h
    obtain ⟨⟨⟨h1, _⟩, _⟩, h4⟩ := h
    unfold Memory.write
    split
    next hlt =>
      split
      next hb =>
        split
        next hx =>
          subst hx
          rw [hb]; unfold Memory.read; rw [if_neg (by omega)]
          exact Memory.read_below h4 (by omega)
        · rfl
      · rw [Memory.read]; simp only [eq_comm]
    next hge =>
      split
      next heq =>
        subst heq
        split
        next hb =>
          split
          next hx => subst hx; rw [hb]; exact Memory.read_below h4 (by omega)
          next hx => rw [Memory.read]; rw [if_neg (by omega)]
        · rw [Memory.read]; split
          · simp_all
          next hx => rw [if_neg (by omega)]; rw [Memory.read, if_neg (by omega)]
      next hne =>
        rw [Memory.read, ih h4]
        by_cases hx : x = a
        · subst hx; simp; omega
        · simp [hx, Memory.read]

end Sys2Proof.Machine
end

