-- ==== Sys2Proof/Laws/Image.lean ====
section
/-! SUPPORT. The image of the table store: what is written is read back, field by field, and within its size. -/

namespace Sys2Proof.Machine

/-- A field that reads back the values of a set, whatever follows, and writes each in at most `k` bytes. -/
structure Field.Good {α : Type} (f : Field α) (P : α → Prop) (k : Nat) : Prop where
  back : ∀ a, P a → ∀ l, f.read (f.write a ++ l) = some (a, l)
  short : ∀ a, P a → (f.write a).length ≤ k

theorem toNat_byteOf (n : Nat) : (byteOf n).toNat = n % 256 := by simp [byteOf]

theorem Field.good_byte : Field.byte.Good (· ≤ 255) 1 where
  back a h l := by simp [Field.byte, toNat_byteOf]; omega
  short a h := by simp [Field.byte]

theorem beValue_two (a b : Byte) : beValue [a, b] = a.toNat * 256 + b.toNat := by simp [beValue]
theorem beValue_three (a b c : Byte) : beValue [a, b, c] = (a.toNat * 256 + b.toNat) * 256 + c.toNat := by simp [beValue]

theorem Field.good_word : Field.word.Good (· ≤ 65535) 2 where
  back a h l := by simp [Field.word, be2, beValue_two, toNat_byteOf]; omega
  short a h := by simp [Field.word, be2]

theorem Field.good_triple : Field.triple.Good (· < 16777216) 3 where
  back a h l := by simp [Field.triple, be3, beValue_three, toNat_byteOf]; omega
  short a h := by simp [Field.triple, be3]

theorem Field.good_code {α : Type} (f : α → Nat) (g : Nat → Option α) :
    (Field.code f g).Good (fun a => f a ≤ 255 ∧ g (f a) = some a) 1 where
  back a h l := by
    have : f a % 256 = f a := by omega
    simp [Field.code, toNat_byteOf, this, h.2]
  short a h := by simp [Field.code]

theorem Field.Good.both {α β : Type} {f : Field α} {g : Field β} {P : α → Prop} {Q : β → Prop} {m n : Nat}
    (hf : f.Good P m) (hg : g.Good Q n) : (f.both g).Good (fun x => P x.1 ∧ Q x.2) (m + n) where
  back a h l := by simp [Field.both, hf.back _ h.1, hg.back _ h.2]
  short a h := by
    have h1 := hf.short _ h.1
    have h2 := hg.short _ h.2
    simp only [Field.both, List.length_append]; omega

theorem Field.Good.as {α β : Type} {f : Field α} {P : α → Prop} {m : Nat} (hf : f.Good P m) (u : α → β) (v : β → α)
    (Q : β → Prop) (hb : ∀ b, Q b → P (v b) ∧ u (v b) = b) : (f.as u v).Good Q m where
  back a h l := by simp [Field.as, hf.back _ (hb a h).1, (hb a h).2]
  short a h := hf.short _ (hb a h).1

theorem Field.good_flag : Field.flag.Good (fun _ => True) 1 where
  back a h l := by cases a <;> simp [Field.flag, Field.code, toNat_byteOf]
  short a h := by simp [Field.flag, Field.code]

theorem Field.Good.option {α : Type} {f : Field α} {P : α → Prop} {m : Nat} (hf : f.Good P m) :
    f.option.Good (fun o => ∀ a, o = some a → P a) (m + 1) where
  back a h l := by cases a with
    | none => simp [Field.option]
    | some x => simp [Field.option, hf.back _ (h x rfl)]
  short a h := by cases a with
    | none => simp [Field.option]
    | some x => simp [Field.option, hf.short _ (h x rfl)]

theorem Field.Good.readMany {α : Type} {f : Field α} {P : α → Prop} {m : Nat} (hf : f.Good P m) (v : List α)
    (h : ∀ a ∈ v, P a) (l : List Byte) : f.readMany v.length (v.flatMap f.write ++ l) = some (v, l) := by
  induction v with
  | nil => simp [Field.readMany]
  | cons a v ih =>
    have ha := hf.back a (h a (by simp))
    simp [Field.readMany, List.append_assoc, ha, ih fun b hb => h b (by simp [hb])]

theorem Field.Good.flatMap_length {α : Type} {f : Field α} {P : α → Prop} {m : Nat} (hf : f.Good P m) (v : List α)
    (h : ∀ a ∈ v, P a) : (v.flatMap f.write).length ≤ v.length * m := by
  induction v with
  | nil => simp
  | cons a v ih =>
    have h1 := hf.short a (h a (by simp))
    have h2 := ih fun b hb => h b (by simp [hb])
    simp only [List.flatMap_cons, List.length_append, List.length_cons, Nat.succ_mul]
    omega

theorem Field.Good.list {α : Type} {f : Field α} {P : α → Prop} {m : Nat} (hf : f.Good P m) (n : Nat) (hn : n ≤ 65535) :
    f.list.Good (fun v => v.length ≤ n ∧ ∀ a ∈ v, P a) (2 + n * m) where
  back a h l := by
    have := Field.good_word.back a.length (by omega) (a.flatMap f.write ++ l)
    simp only [Field.list, List.append_assoc]
    rw [show be2 a.length ++ (a.flatMap f.write ++ l) = Field.word.write a.length ++ (a.flatMap f.write ++ l) from rfl, this]
    simp [hf.readMany a h.2]
  short a h := by
    have h1 := hf.flatMap_length a h.2
    have h2 : a.length * m ≤ n * m := Nat.mul_le_mul_right m h.1
    simp only [Field.list, be2, List.length_append, List.length_cons, List.length_nil]; omega

theorem Field.Good.table {α : Type} {f : Field α} {P : α → Prop} {m : Nat} (hf : f.Good P m) (n : Nat) :
    (f.table n).Good (fun v => ∀ a ∈ v.toList, P a) (n * m) where
  back a h l := by
    have := hf.readMany a.toList h l
    simp only [Vector.length_toList] at this
    simp only [Field.table, this, Option.bind_some, Vector.length_toList, dite_true]
    rfl
  short a h := by
    have := hf.flatMap_length a.toList h
    simpa [Field.table] using this

theorem Field.Good.imp {α : Type} {f : Field α} {P Q : α → Prop} {m n : Nat} (hf : f.Good P m) (h : ∀ a, Q a → P a)
    (hmn : m ≤ n) : f.Good Q n :=
  ⟨fun a ha => hf.back a (h a ha), fun a ha => (hf.short a (h a ha)).trans hmn⟩

/-! ### The records of the tables -/

theorem Field.good_range : Field.range.Good (fun r => r.first ≤ 255 ∧ r.last ≤ 255) 2 :=
  (Field.good_byte.both Field.good_byte).as _ _ _ fun _ h => ⟨h, rfl⟩

theorem Field.good_signed : Field.signed.Good (fun i => -128 ≤ i ∧ i ≤ 127) 1 :=
  Field.good_byte.as _ _ _ fun i h => by
    refine ⟨by have := (BitVec.ofInt 8 i).isLt; omega, ?_⟩
    rw [BitVec.ofNat_toNat, BitVec.setWidth_eq, BitVec.toInt_ofInt]
    simp [Int.bmod]; omega

theorem Field.good_exception : Field.exception.Good
    (fun e => e.first ≤ 65535 ∧ e.last ≤ 65535 ∧ ∀ a, e.plan = some a → a ≤ 255) 7 :=
  ((Field.good_word.both (Field.good_word.both (Field.good_byte.option.both Field.good_flag))).as _ _ _
    fun _ h => ⟨⟨h.1, h.2.1, h.2.2, trivial⟩, rfl⟩)

theorem Field.good_change : Field.change.Good
    (fun c => c.day ≤ 65535 ∧ c.minute ≤ 65535 ∧ -128 ≤ c.shift ∧ c.shift ≤ 127) 6 :=
  (Field.good_word.both (Field.good_word.both (Field.good_signed.both Field.good_flag))).as _ _ _
    fun _ h => ⟨⟨h.1, h.2.1, h.2.2, trivial⟩, rfl⟩

theorem Field.good_bellEntry : Field.bellEntry.Good
    (fun e => e.time < 16777216 ∧ e.group ≤ 255 ∧ e.pattern ≤ 255 ∧ e.duration ≤ 65535) 7 :=
  (Field.good_triple.both (Field.good_byte.both (Field.good_byte.both Field.good_word))).as _ _ _ fun _ h => ⟨h, rfl⟩

theorem Field.good_zone : Field.zone.Good (fun _ => True) 3 :=
  ((Field.good_code _ _).both (Field.good_flag.both Field.good_flag)).as _ _ _ fun z _ => by
    refine ⟨⟨?_, trivial, trivial⟩, rfl⟩
    cases z.kind <;> simp

theorem Field.good_input : Field.input.Good (fun i => ∀ a, i.building = some a → a ≤ 255) 4 :=
  ((Field.good_code _ _).both (Field.good_byte.option.both (Field.good_code _ _))).as _ _ _ fun i h => by
    refine ⟨⟨?_, h, ?_⟩, rfl⟩
    · cases i.function <;> simp [InputFunction.code, inputFunctionOf]
    · cases i.edge <;> simp [Edge.code, edgeOf]

theorem Field.good_rosterRecord : Field.rosterRecord.Good
    (fun r => (∀ a, r.maker = some a → a ≤ 255) ∧ (∀ a, r.model = some a → a ≤ 255) ∧
      (r.window.first ≤ 255 ∧ r.window.last ≤ 255) ∧ (∀ a, r.building = some a → a ≤ 255) ∧ r.tapAssigned ≤ 255 ∧
      r.holdOver ≤ 255 ∧ ∀ i ∈ r.inputs.toList, ∀ a, i.building = some a → a ≤ 255) 26 :=
  (Field.good_byte.option.both (Field.good_byte.option.both (Field.good_range.both (Field.good_byte.option.both
    (Field.good_byte.both (Field.good_byte.both (Field.good_input.table 4))))))).as _ _ _ fun _ h => ⟨h, rfl⟩

theorem Field.good_circuit : Field.circuit.Good
    (fun d => d.position ≤ 255 ∧ d.line ≤ 255 ∧ d.width ≤ 255 ∧ d.spacing ≤ 255 ∧ d.holdLimit ≤ 255) 5 :=
  (Field.good_byte.both (Field.good_byte.both (Field.good_byte.both (Field.good_byte.both Field.good_byte)))).as _ _ _
    fun _ h => ⟨h, rfl⟩

theorem Field.good_program : Field.program.Good
    (fun f => (f.scope.length ≤ 8 ∧ ∀ a ∈ f.scope, a ≤ 255) ∧ (∀ a, f.chime = some a → a ≤ 255) ∧ f.prealert ≤ 255 ∧
      f.evacuation ≤ 255 ∧ f.tone ≤ 65535 ∧ (f.targets.length ≤ 8 ∧ ∀ a ∈ f.targets, a ≤ 65535) ∧ f.muster ≤ 65535 ∧
      f.allclearPattern ≤ 255 ∧ f.allclear ≤ 255) 38 :=
  ((Field.good_byte.list 8 (by omega)).both (Field.good_byte.option.both (Field.good_byte.both (Field.good_byte.both
    (Field.good_word.both ((Field.good_word.list 8 (by omega)).both (Field.good_word.both
      (Field.good_byte.both Field.good_byte)))))))).as _ _ _ fun _ h => ⟨h, rfl⟩

theorem Field.good_scheduleEntry : Field.scheduleEntry.Good
    (fun e => e.day ≤ 65535 ∧ e.minute ≤ 65535 ∧ e.program ≤ 255) 6 :=
  (Field.good_word.both (Field.good_word.both (Field.good_byte.both (Field.good_code _ _)))).as _ _ _ fun e h => by
    refine ⟨⟨h.1, h.2.1, h.2.2, ?_⟩, rfl⟩
    cases e.state <;> simp [ScheduleState.number, scheduleStateOf]

/-! ### The sections -/

/-- A bell entry within the bytes of its field. -/
def bellEntryFits (e : BellEntry) : Prop := e.time < 16777216 ∧ e.group ≤ 255 ∧ e.pattern ≤ 255 ∧ e.duration ≤ 65535

theorem plans_length (l : List (List BellEntry)) (h : ∀ v ∈ l, ∀ e ∈ v, bellEntryFits e) :
    (l.flatMap Field.bellEntry.list.write).length ≤ l.length * 2 + (l.map List.length).sum * 7 := by
  induction l with
  | nil => simp
  | cons v l ih =>
    have h1 := Field.good_bellEntry.flatMap_length v (h v (by simp))
    have h2 := ih fun w hw => h w (by simp [hw])
    have h3 : (Field.bellEntry.list.write v).length = 2 + (v.flatMap Field.bellEntry.write).length := by
      simp only [Field.list, be2, List.length_append, List.length_cons, List.length_nil]
    simp only [List.flatMap_cons, List.length_append, List.map_cons, List.sum_cons, List.length_cons, Nat.add_mul]
    omega

theorem Field.good_plans : (Field.bellEntry.list.table 16).Good
    (fun v => (∀ l ∈ v.toList, l.length ≤ 480 ∧ ∀ e ∈ l, bellEntryFits e) ∧ (v.toList.map List.length).sum ≤ 480) 3392 where
  back a h l := ((Field.good_bellEntry.list 480 (by omega)).table 16).back a h.1 l
  short a h := by
    have := plans_length a.toList fun v hv => (h.1 v hv).2
    simp only [Vector.length_toList] at this
    simp only [Field.table]
    omega

/-- The tables within the bytes of their fields. -/
structure Tables.fits (t : Tables) : Prop where
  week : ∀ o ∈ t.week.toList, ∀ a, o = some a → a ≤ 255
  exceptions : t.exceptions.length ≤ 48 ∧
    ∀ e ∈ t.exceptions, e.first ≤ 65535 ∧ e.last ≤ 65535 ∧ ∀ a, e.plan = some a → a ≤ 255
  changes : t.changes.length ≤ 8 ∧ ∀ c ∈ t.changes, c.day ≤ 65535 ∧ c.minute ≤ 65535 ∧ -128 ≤ c.shift ∧ c.shift ≤ 127
  quiet : t.quietStart ≤ 65535 ∧ t.quietEnd ≤ 65535
  groups : ∀ g ∈ t.groups.toList, g.length ≤ 4 ∧ ∀ r ∈ g, r.first ≤ 255 ∧ r.last ≤ 255
  plans : (∀ l ∈ t.plans.toList, l.length ≤ 480 ∧ ∀ e ∈ l, bellEntryFits e) ∧ (t.plans.toList.map List.length).sum ≤ 480
  bell : t.grace ≤ 255 ∧ t.catchUp ≤ 65535
  ranges : ∀ r ∈ t.ranges.toList, r.first ≤ 255 ∧ r.last ≤ 255
  roster : ∀ r ∈ t.roster.toList, (∀ a, r.maker = some a → a ≤ 255) ∧ (∀ a, r.model = some a → a ≤ 255) ∧
      (r.window.first ≤ 255 ∧ r.window.last ≤ 255) ∧ (∀ a, r.building = some a → a ≤ 255) ∧ r.tapAssigned ≤ 255 ∧
      r.holdOver ≤ 255 ∧ ∀ i ∈ r.inputs.toList, ∀ a, i.building = some a → a ≤ 255
  line : t.length ≤ 255 ∧ t.interval ≤ 255
  circuits : ∀ o ∈ t.circuits.toList, ∀ d, o = some d →
    d.position ≤ 255 ∧ d.line ≤ 255 ∧ d.width ≤ 255 ∧ d.spacing ≤ 255 ∧ d.holdLimit ≤ 255
  programs : ∀ o ∈ t.programs.toList, ∀ f, o = some f →
    (f.scope.length ≤ 8 ∧ ∀ a ∈ f.scope, a ≤ 255) ∧ (∀ a, f.chime = some a → a ≤ 255) ∧ f.prealert ≤ 255 ∧
      f.evacuation ≤ 255 ∧ f.tone ≤ 65535 ∧ (f.targets.length ≤ 8 ∧ ∀ a ∈ f.targets, a ≤ 65535) ∧ f.muster ≤ 65535 ∧
      f.allclearPattern ≤ 255 ∧ f.allclear ≤ 255
  schedule : t.schedule.length ≤ 8 ∧ ∀ e ∈ t.schedule, e.day ≤ 65535 ∧ e.minute ≤ 65535 ∧ e.program ≤ 255

/-- Tables that fit their fields are read back, and fit the serial memory. -/
theorem Field.good_tables : Field.tables.Good Tables.fits 32761 := by
  have calendar := (Field.good_byte.option.table 7).both ((Field.good_exception.list 48 (by omega)).both
    ((Field.good_change.list 8 (by omega)).both (Field.good_word.both Field.good_word)))
  have bells := ((Field.good_range.list 4 (by omega)).table 32).both (Field.good_plans.both
    (Field.good_byte.both Field.good_word))
  have arbiter := (Field.good_range.table 8).both (Field.good_zone.table 64)
  have roster := (Field.good_rosterRecord.table 24).both (Field.good_byte.both
    (Field.good_flag.both (Field.good_flag.both Field.good_byte)))
  have drills := (Field.good_program.option.table 4).both (Field.good_scheduleEntry.list 8 (by omega))
  have all := calendar.both (bells.both (arbiter.both (roster.both
    ((Field.good_circuit.option.table 32).both (drills.both (Field.good_flag.table 14))))))
  refine (all.as _ _ Tables.fits fun t h => ⟨?_, rfl⟩).imp (fun _ h => h) (by omega)
  exact ⟨⟨h.week, h.exceptions, h.changes, h.quiet⟩, ⟨h.groups, h.plans, h.bell⟩, ⟨h.ranges, fun _ _ => trivial⟩,
    ⟨h.roster, h.line.1, trivial, trivial, h.line.2⟩, h.circuits, ⟨h.programs, h.schedule⟩, fun _ _ => trivial⟩

theorem some_le {o : Option Nat} {f : Nat → Bool} {n : Nat} (h : o.all f = true) (hf : ∀ a, f a = true → a ≤ n) :
    ∀ a, o = some a → a ≤ n := by
  intro a ha; subst ha; exact hf a h

theorem RosterRecord.fits_of_allowed {r : RosterRecord} (h : r.allowed = true) :
    (∀ a, r.maker = some a → a ≤ 255) ∧ (∀ a, r.model = some a → a ≤ 255) ∧
      (r.window.first ≤ 255 ∧ r.window.last ≤ 255) ∧ (∀ a, r.building = some a → a ≤ 255) ∧ r.tapAssigned ≤ 255 ∧
      r.holdOver ≤ 255 ∧ ∀ i ∈ r.inputs.toList, ∀ a, i.building = some a → a ≤ 255 := by
  simp only [RosterRecord.allowed, Bool.and_eq_true, List.all_eq_true, withinZones, decide_eq_true_eq] at h
  obtain ⟨⟨⟨⟨⟨⟨a1, a2⟩, a3⟩, a4⟩, a5⟩, a6⟩, a7⟩ := h
  refine ⟨some_le a1 fun a ha => ?_, some_le a2 fun a ha => ?_, by omega, some_le a4 fun a ha => ?_, by omega, by omega,
    fun i hi => some_le (a7 i hi).1 fun a ha => ?_⟩
  all_goals simp at ha; omega

/-- A list that loses nothing with its repetitions has none. -/
theorem nodup_of_eraseDups {α : Type} [BEq α] [LawfulBEq α] {l : List α} (h : l.eraseDups.length = l.length) : l.Nodup := by
  have key : ∀ (n : Nat) (l : List α), l.length ≤ n →
      l.eraseDups.length ≤ l.length ∧ (l.eraseDups.length = l.length → l.Nodup) := by
    intro n
    induction n with
    | zero => intro l h; simp at h; subst h; simp
    | succ n ih =>
      intro l h
      cases l with
      | nil => simp
      | cons a l =>
        rw [List.eraseDups_cons]
        have hle : (l.filter fun b => !b == a).length ≤ l.length := List.length_filter_le _ _
        simp only [List.length_cons] at h ⊢
        obtain ⟨h1, h2⟩ := ih (l.filter fun b => !b == a) (by omega)
        refine ⟨by omega, fun he => ?_⟩
        have e2 := List.length_filter_eq_length_iff.mp (show (l.filter fun b => !b == a).length = l.length by omega)
        have e3 : l.filter (fun b => !b == a) = l := List.filter_eq_self.mpr e2
        rw [e3] at h2
        refine List.nodup_cons.mpr ⟨fun ha => by simpa using e2 a ha, h2 (by rw [e3] at he; omega)⟩
  exact (key l.length l (Nat.le_refl _)).2 h

theorem program_fits {f : Program} (h : programAllowed f = true) :
    (f.scope.length ≤ 8 ∧ ∀ a ∈ f.scope, a ≤ 255) ∧ (∀ a, f.chime = some a → a ≤ 255) ∧ f.prealert ≤ 255 ∧
      f.evacuation ≤ 255 ∧ f.tone ≤ 65535 ∧ (f.targets.length ≤ 8 ∧ ∀ a ∈ f.targets, a ≤ 65535) ∧ f.muster ≤ 65535 ∧
      f.allclearPattern ≤ 255 ∧ f.allclear ≤ 255 := by
  simp only [programAllowed, Bool.and_eq_true, List.all_eq_true, decide_eq_true_eq, beq_iff_eq, isEvacuation,
    Bool.or_eq_true] at h
  obtain ⟨⟨⟨⟨⟨⟨⟨⟨⟨⟨⟨⟨⟨⟨⟨a1, a2⟩, a3⟩, a4⟩, a5⟩, a6⟩, a7⟩, a8⟩, a9⟩, a10⟩, a11⟩, a12⟩, a13⟩, a14⟩, a15⟩, a16⟩ := h
  have hd : f.scope.length ≤ 8 := by
    have hn : f.scope.Nodup := nodup_of_eraseDups a3
    have := (hn.subperm (l₂ := List.range 8) fun a ha => by simpa using a2 a ha).length_le
    simpa using this
  refine ⟨⟨hd, fun a ha => by have := a2 a ha; omega⟩, some_le a4 fun a ha => ?_, by omega, by omega, by omega,
    ⟨by omega, fun a ha => by have := a11 a ha; omega⟩, by omega, by omega, by omega⟩
  simp at ha; omega

/-- Valid tables fit their fields (R185). -/
theorem Tables.fits_of_valid {t : Tables} (h : t.valid = true) : t.fits := by
  simp only [Tables.valid, Bool.and_eq_true, List.all_eq_true, decide_eq_true_eq, planAllowed, shiftAllowed, withinZones,
    BellEntry.allowed, circuitsAllowed, circuitAllowed] at h
  obtain ⟨⟨⟨⟨⟨⟨⟨⟨⟨⟨⟨⟨h1, h2⟩, h3⟩, h4⟩, h5⟩, h6⟩, h7⟩, h8⟩, h9⟩, h10⟩, h11⟩, h12⟩, h13⟩ := h
  have ld : lastDay = 36524 := rfl
  refine ⟨?_, ?_, ?_, ?_, ?_, ?_, ?_, ?_, ?_, ?_, ?_, ?_, ?_⟩
  · intro o ho; exact some_le (h1 o ho) fun a ha => by simp at ha; omega
  · refine ⟨h2.1.1, fun e he => ?_⟩
    have := h2.1.2 e he
    exact ⟨by omega, by omega, some_le this.2 fun a ha => by simp at ha; omega⟩
  · refine ⟨h3.1.1, fun e he => ?_⟩
    have := h3.1.2 e he
    exact ⟨by omega, by omega, by omega, by omega⟩
  · omega
  · intro g hg
    have := h5 g hg
    exact ⟨this.1, fun r hr => by have := this.2 r hr; omega⟩
  · refine ⟨fun l hl => ⟨?_, fun e he => ?_⟩, h6.2⟩
    · exact (List.single_le_sum (by simp) _ (List.mem_map_of_mem hl)).trans h6.2
    · have := (h6.1 l hl).1 e he
      exact ⟨by omega, by omega, by omega, by omega⟩
  · omega
  · intro r hr; have := h8.1 r hr; omega
  · intro r hr
    exact RosterRecord.fits_of_allowed (h9.1.1 r hr)
  · omega
  · intro o ho d hd
    subst hd
    have := h11.1 d (by simpa using ho)
    omega
  · intro o ho f hf
    subst hf
    exact program_fits (h12 _ ho)
  · refine ⟨h13.1.1, fun e he => ?_⟩
    have := h13.1.2 e he
    omega

/-! ### The serial memory -/

/-- What lies outside a run of writes reads as before; the bytes written are read back. -/
theorem Memory.read_writeRun (l : List Byte) : ∀ (m : List Host.Cell) (a x : Nat), Memory.wf m = true →
    a + l.length ≤ 65536 →
    Memory.read (Memory.writeRun m a l) x = if h : a ≤ x ∧ x < a + l.length then l[x - a]'(by omega) else Memory.read m x := by
  induction l with
  | nil => intro m a x hm _; rw [dif_neg (by simp)]; rfl
  | cons b l ih =>
    intro m a x hm h
    simp only [List.length_cons] at h
    have hw : Memory.wrap a = a := Nat.mod_eq_of_lt (by omega)
    unfold Memory.writeRun
    rw [ih _ _ _ (Memory.wf_write hm a b) (by omega), hw, Memory.read_write hm]
    by_cases h1 : a + 1 ≤ x ∧ x < a + 1 + l.length
    · rw [dif_pos h1, dif_pos ⟨by omega, by simp; omega⟩]
      have : x - a = (x - (a + 1)) + 1 := by omega
      simp [this]
    · rw [dif_neg h1]
      by_cases h2 : x = a
      · subst h2; simp
      · rw [if_neg h2, dif_neg (by simp; omega)]

/-- The bytes of a write from address 0 are read back. -/
theorem SerialMemory.run_written {m : SerialMemory} (hm : m.wf) {l : List Byte} (hl : l.length ≤ memorySize) {a n : Nat}
    (h : a + n ≤ l.length) : (m.written l).run a n = (l.drop a).take n := by
  have hs : memorySize = 32768 := rfl
  refine List.ext_getElem (by simp [SerialMemory.run, Memory.readRun]; omega) fun k h1 h2 => ?_
  simp only [SerialMemory.run, Memory.readRun, List.length_map, List.length_range] at h1
  simp only [SerialMemory.run, Memory.readRun, List.getElem_map, List.getElem_range, SerialMemory.written,
    List.take_of_length_le hl, List.getElem_take, List.getElem_drop]
  have hw : Memory.wrap (a + k) = a + k := Nat.mod_eq_of_lt (by omega)
  rw [hw, Memory.read_writeRun _ _ _ _ hm (by omega), dif_pos (by omega)]
  simp

/-- A write keeps the canonical form. -/
theorem SerialMemory.wf_written {m : SerialMemory} (hm : m.wf) (l : List Byte) : (m.written l).wf :=
  Memory.wf_writeRun _ _ _ hm

theorem imageHead_length (n : Nat) : (imageHead n).length = 5 := by simp [imageHead, be2]
theorem imageCheck_length (l : List Byte) : (imageCheck l).length = 2 := by simp [imageCheck, be2]

/-- The sections of an image that has been written are read back, its head and its check being good (R185). -/
theorem SerialMemory.sections_written {m : SerialMemory} (hm : m.wf) {sec : List Byte} (h : sec.length ≤ 32761) :
    (m.written (imageWith sec)).sections = some sec := by
  have hs : memorySize = 32768 := rfl
  have hlen : (imageWith sec).length = sec.length + 7 := by
    simp only [imageWith, List.length_append, imageHead_length, imageCheck_length]; omega
  have run : ∀ a n, a + n ≤ sec.length + 7 → (m.written (imageWith sec)).run a n = ((imageWith sec).drop a).take n :=
    fun a n h' => SerialMemory.run_written hm (by omega) (by omega)
  have hn : beValue ((m.written (imageWith sec)).run 3 2) = sec.length := by
    rw [run 3 2 (by omega)]
    have : ((imageWith sec).drop 3).take 2 = be2 sec.length := by
      simp only [imageWith, imageHead, List.cons_append, List.nil_append, List.append_assoc, List.drop_succ_cons, List.drop_zero]
      exact List.take_left' (by simp [be2])
    rw [this]
    simp only [be2, beValue_two, toNat_byteOf]; omega
  unfold SerialMemory.sections
  simp only [hn]
  have e1 : (m.written (imageWith sec)).run 0 5 = imageHead sec.length := by
    rw [run 0 5 (by omega)]; simp only [List.drop_zero, imageWith, List.append_assoc]
    exact List.take_left' (imageHead_length _)
  have e2 : (m.written (imageWith sec)).run 0 (sec.length + 5) = imageHead sec.length ++ sec := by
    rw [run 0 _ (by omega)]; simp only [List.drop_zero, imageWith]
    exact List.take_left' (by simp [imageHead_length]; omega)
  have e3 : (m.written (imageWith sec)).run (sec.length + 5) 2 = imageCheck (imageHead sec.length ++ sec) := by
    rw [run _ 2 (by omega)]; simp only [imageWith]
    rw [List.drop_left' (by simp [imageHead_length]; omega)]
    exact List.take_of_length_le (by simp [imageCheck_length])
  have e4 : (m.written (imageWith sec)).run 5 sec.length = sec := by
    rw [run 5 _ (by omega)]; simp only [imageWith, List.append_assoc]
    rw [List.drop_left' (imageHead_length _)]
    exact List.take_left' rfl
  rw [e1, e2, e3, e4, if_pos]
  simp; omega

/-- Valid tables that have been written are those that are read (R168, R169, R170, R185). -/
theorem SerialMemory.tables_written {m : SerialMemory} (hm : m.wf) {t : Tables} (h : t.valid = true) :
    (m.written (imageOf t)).tables true = some t := by
  have hf := Tables.fits_of_valid h
  have h1 := Field.good_tables.back t hf []
  rw [List.append_nil] at h1
  simp [SerialMemory.tables, imageOf, SerialMemory.sections_written hm (Field.good_tables.short t hf), sectionsRead, h1, h]

/-- A memory that does not answer gives no tables. -/
@[simp] theorem SerialMemory.tables_silent (m : SerialMemory) : m.tables false = none := rfl

/-- The tables of an image are valid. -/
theorem SerialMemory.tables_valid {m : SerialMemory} {b : Bool} {t : Tables} (h : m.tables b = some t) : t.valid = true := by
  unfold SerialMemory.tables at h; split at h
  · exact (Option.filter_eq_some_iff.mp h).2
  · simp at h

/-- The tables that a start-up loads are valid (R171, R185). -/
theorem SerialMemory.stored_valid {m : SerialMemory} {b : Bool} {t : Tables} (h : m.stored b = some t) : t.valid = true := by
  unfold SerialMemory.stored at h; split at h
  · simp at h
  · exact SerialMemory.tables_valid h

/-- What the image holds does not depend on how its last save ended. -/
theorem SerialMemory.tables_torn (m : SerialMemory) (b answers : Bool) :
    ({ m with torn := b } : SerialMemory).tables answers = m.tables answers := rfl

/-- A memory that a save left unfinished loads nothing at a start-up (R169, R179). -/
theorem SerialMemory.stored_torn {m : SerialMemory} (h : m.torn = true) (b : Bool) : m.stored b = none := by
  simp [SerialMemory.stored, h]

theorem SerialMemory.wf_cut {m : SerialMemory} (hm : m.wf) (image : List Byte) (draw : Nat) : (m.cut image draw).wf :=
  SerialMemory.wf_written hm (image.take (1 + Config.writtenAtCut draw % (image.length - 1)))

/-! ### A save that is cut (R169) -/

@[simp] theorem State.cutSave_part (s : State) : s.cutSave.part = s.part := by unfold State.cutSave; split <;> rfl
@[simp] theorem State.cutSave_port (s : State) : s.cutSave.port = s.port := by unfold State.cutSave; split <;> rfl
@[simp] theorem State.cutSave_nodes (s : State) : s.cutSave.nodes = s.nodes := by unfold State.cutSave; split <;> rfl
@[simp] theorem State.cutSave_powered (s : State) : s.cutSave.powered = s.powered := by unfold State.cutSave; split <;> rfl
@[simp] theorem State.cutSave_world (s : State) : s.cutSave.world = s.world := by unfold State.cutSave; split <;> rfl
@[simp] theorem State.cutSave_marks (s : State) : s.cutSave.marks = s.marks := by unfold State.cutSave; split <;> rfl
@[simp] theorem State.cutSave_pending (s : State) : s.cutSave.pending = s.pending := by unfold State.cutSave; split <;> rfl
theorem State.cutSave_none {s : State} (h : s.port.saving = none) : s.cutSave = s := by simp [State.cutSave, h]
theorem State.cutSave_some {s : State} {t : Tables} (h : s.port.saving = some t) :
    s.cutSave = { s with memory := s.memory.cut (imageOf t) s.draws, draws := s.draws + 1 } := by simp [State.cutSave, h]

theorem State.wf_cutSave {s : State} (h : s.memory.wf) : s.cutSave.memory.wf := by
  unfold State.cutSave; split
  · exact SerialMemory.wf_cut h _ _
  · exact h

end Sys2Proof.Machine
end

