-- ==== Sys2Proof/Laws/Port.lean ====
section
/-! SUPPORT. The control port: what a message, a reply, the transmitter and a request can do to it. -/

namespace Sys2Proof.Machine

/-! ### Replies made -/

/-- A freed place in the notice queue leaves the replies and the frame being sent. -/
theorem Port.placeFreed_replies (o : Port) : o.placeFreed.replies = o.replies ∧ o.placeFreed.sending = o.sending := by
  unfold Port.placeFreed; split <;> exact ⟨rfl, rfl⟩

/-- The replies made depend on the reply list and the frame being sent alone. -/
theorem Port.made_congr {o q : Port} (h : q.replies = o.replies ∧ q.sending = o.sending) : q.made = o.made := by
  simp [Port.made, h.1, h.2]

/-- The transmitter moves replies, and loses and makes none. -/
@[simp] theorem Port.made_transmit (o : Port) : o.transmit.made = o.made := by
  unfold Port.transmit
  split
  · rfl
  next h =>
    split
    next r rs h' => simp [Port.made, h, h']
    next h' =>
      split
      · rfl
      next n ns h'' =>
        split
        · rfl
        · rw [Port.made_congr (Port.placeFreed_replies _)]; simp [Port.made, h, h']

/-- A message of a block leaves the replies and the frame being sent. -/
theorem Port.take_replies (o : Port) (m : Message) :
    (o.take m).replies = o.replies ∧ (o.take m).sending = o.sending := by
  cases m <;> simp only [Port.take, Port.offer, Port.opDone] <;> (repeat' split) <;> simp

/-- Messages of the blocks leave the replies and the frame being sent. -/
theorem Port.takes_replies (l : List Message) : ∀ o : Port,
    (l.foldl Port.take o).replies = o.replies ∧ (l.foldl Port.take o).sending = o.sending := by
  induction l with
  | nil => intro o; exact ⟨rfl, rfl⟩
  | cons m l ih =>
    intro o
    obtain ⟨h1, h2⟩ := ih (o.take m)
    obtain ⟨h3, h4⟩ := o.take_replies m
    exact ⟨h1.trans h3, h2.trans h4⟩

/-- Messages of the blocks make no reply. -/
@[simp] theorem Port.made_drain (o : Port) (l : List Message) : (o.drain l).made = o.made := by
  exact (Port.made_transmit _).trans (Port.made_congr (Port.takes_replies l o))

/-- The end of a step makes no reply. -/
@[simp] theorem made_finish (s : State) : (finish s).port.made = s.port.made := by simp [finish]

/-- A reply put behind the others is made. -/
theorem Port.made_push (o : Port) (r : Reply) : Port.made { o with replies := o.replies ++ [r] } = o.made ++ [r] := by
  simp [Port.made]

/-! ### What a step leaves in the port -/

/-- The fields of the port that messages and the transmitter leave as they are. -/
def Port.frame (o : Port) :=
  (o.rx, o.buffer, o.taking, o.enables, o.badFrames, o.overruns, o.imageState, o.saving, o.loading, o.restarting)

/-- The transmitter leaves the frame of the port. -/
@[simp] theorem Port.frame_transmit (o : Port) : o.transmit.frame = o.frame := by
  unfold Port.transmit Port.placeFreed Port.frame
  (repeat' split) <;> rfl

/-- A message leaves the frame of the port. -/
@[simp] theorem Port.frame_take (o : Port) (m : Message) : (o.take m).frame = o.frame := by
  cases m <;> simp only [Port.take, Port.offer, Port.opDone] <;> (repeat' split) <;> rfl

/-- Messages leave the frame of the port. -/
@[simp] theorem Port.frame_takes (l : List Message) : ∀ o : Port, (l.foldl Port.take o).frame = o.frame := by
  induction l with
  | nil => intro o; rfl
  | cons m l ih => intro o; exact (ih (o.take m)).trans (o.frame_take m)

/-- The end of a step leaves the frame of the port. -/
@[simp] theorem Port.frame_drain (o : Port) (l : List Message) : (o.drain l).frame = o.frame := by
  simp [Port.drain]

/-- The end of a step: the messages reach the port, and nothing else of the machine changes. -/
theorem finish_part (s : State) : (finish s).part = { s.part with outbox := [] } := rfl

/-- The end of a step touches nothing outside the part and its port. -/
theorem finish_outside (s : State) :
    (finish s).memory = s.memory ∧ (finish s).nodes = s.nodes ∧ (finish s).powered = s.powered ∧
    (finish s).world = s.world ∧ (finish s).marks = s.marks ∧ (finish s).pending = s.pending :=
  ⟨rfl, rfl, rfl, rfl, rfl, rfl⟩

/-! ### Requests -/

/-- A request that is ready is carried out at once. -/
theorem request_ready {s : State} {tag : Nat} (h : s.ready tag) (i : Instr) (kind : Nat) (f : State → State × Answer) :
    request i tag kind f s = carryOut tag kind f s := by
  obtain ⟨h1, _, h3, h4, _⟩ := h
  simp [request, h1, h3, h4]

/-- A request that only reads makes its reply and changes nothing else. -/
theorem request_reader {s : State} {tag : Nat} (h : s.ready tag) (i : Instr) (kind : Nat) (f : Part → Answer) :
    request i tag kind (ofReader f) s = s.replied tag kind (f s.part) := by
  rw [request_ready h]
  obtain ⟨_, h2, _, _, h5⟩ := h
  simp only [carryOut, h2, if_false, ofReader, finish, State.replied, h5, Port.drain, List.foldl_nil]
  congr 1
  obtain ⟨part⟩ := s
  cases part
  simp_all

/-- What a request that is ready leads to: its function's outcome with the reply made. -/
theorem request_carried {s : State} {tag : Nat} (h : s.ready tag) (i : Instr) (kind : Nat) (f : State → State × Answer) :
    request i tag kind f s =
      finish { (f s).1 with port := { (f s).1.port with replies := (f s).1.port.replies ++ [replyOf tag kind (f s).2] } } := by
  rw [request_ready h]
  obtain ⟨_, h2, _⟩ := h
  simp [carryOut, h2]

/-- A request of another block with status OK or ACCEPTED: the block's new state, settled. -/
theorem request_part {s : State} {tag : Nat} (h : s.ready tag) (i : Instr) (kind : Nat) (f : Bool → Part → Part × Answer)
    {p : Part} {a : Answer} (hf : f s.port.saving.isSome s.part = (p, a)) (ha : a.status = .ok ∨ a.status = .accepted) :
    (request i tag kind (ofPart f) s).part = { Part.settle p with outbox := [] } ∧
    State.answers s (request i tag kind (ofPart f) s) tag kind a := by
  rw [request_carried h]
  simp [ofPart, hf, ha, finish_part, State.answers, Port.made_push]

end Sys2Proof.Machine
end

