-- ==== Sys2Proof/Laws/Settle.lean ====
section
/-! SUPPORT. The end of a step: after it no free input leaves a record waiting, and a step that changes neither claims
nor announcements is left as it is. -/

namespace Sys2Proof.Machine

/-- The number of records that wait in the queues. -/
def Part.queued (p : Part) : Nat := (p.ann.records.filter fun a => a.stage == .queued).length

/-- Whether records wait depends on the announcement manager alone. -/
theorem Part.settled_of_ann {p q : Part} (h : q.ann = p.ann) (hp : p.settled) : q.settled := by
  intro i hi
  have := hp i (by simpa [Part.served?, h] using hi)
  simpa [Part.queue, h] using this

theorem Part.queued_of_ann {p q : Part} (h : q.ann = p.ann) : q.queued = p.queued := by simp [Part.queued, h]

/-! ### A step that changes nothing of theirs -/

/-- A part in which nothing can start starts nothing. -/
theorem Part.startQueued_settled {p : Part} (h : p.settled) (n : Nat) : p.startQueued n = p := by
  cases n with
  | zero => rfl
  | succ n =>
    have key : ∀ i : PagingInput, (if (p.served? i).isNone = true then (p.queue i).head? else none) = none := by
      intro i
      split
      next hi => simp [h i (by simpa using hi)]
      · rfl
    have h1 := key .p1
    have h2 := key .p2
    unfold Part.startQueued; dsimp only
    rw [h1, h2]

/-- A step that leaves the announcements as they are is settled as it stands. -/
theorem Part.settle_same {p q : Part} (h : p.settled) (ha : q.ann = p.ann) : Part.settle q = q :=
  Part.startQueued_settled (Part.settled_of_ann ha h) _

/-! ### What waits grows fewer -/

/-- A walk over a list leaves no more records waiting when none of its steps does. -/
theorem Part.queued_each {α : Type} (f : Part → α → Part) (h : ∀ q a, (f q a).queued ≤ q.queued) (l : List α) :
    ∀ p : Part, (p.each l f).queued ≤ p.queued := by
  induction l with
  | nil => intro p; exact Nat.le_refl _
  | cons a l ih => intro p; exact (ih (f p a)).trans (h p a)

theorem queued_map_le (f : Announcement → Announcement) (hf : ∀ a, (f a).stage = .queued → a.stage = .queued)
    (l : List Announcement) :
    ((l.map f).filter fun a => a.stage == .queued).length ≤ (l.filter fun a => a.stage == .queued).length := by
  induction l with
  | nil => simp
  | cons a l ih =>
    simp only [List.map_cons, List.filter_cons]
    by_cases h : (f a).stage = .queued
    · simp [h, hf a h]; omega
    · simp only [h, beq_iff_eq, if_false]
      split
      · simp; omega
      · exact ih

section
variable (p : Part)

/-- A change of records that queues none leaves no more waiting. -/
theorem Part.queued_modAnn (id : Nat) (f : Announcement → Announcement)
    (hf : ∀ a, (f a).stage = .queued → a.stage = .queued) : (p.modAnn id f).queued ≤ p.queued := by
  refine queued_map_le _ (fun a => ?_) _
  split
  · exact hf a
  · exact fun h => h

theorem Part.queued_setJoin (id z : Nat) (st : JoinState) : (p.modAnn id fun a => a.setJoin z st).queued ≤ p.queued :=
  p.queued_modAnn id _ fun _ h => h

theorem Part.queued_wake (pos : Nat) : (p.wake pos).queued = p.queued := by
  apply Part.queued_of_ann
  unfold Part.wake; (repeat' split) <;> simp [apply_ite Part.ann]

theorem Part.queued_wakeFor (z : Nat) : (p.wakeFor z).queued = p.queued := by
  unfold Part.wakeFor; (repeat' split) <;> simp [Part.queued_wake]

/-- *Claims clear* leaves the announcements. -/
@[simp] theorem Part.claimsClear_ann (q : Part) (z : Nat) : (p.claimsClear q z).ann = q.ann := by
  unfold Part.claimsClear; split
  · split
    · unfold Part.quietIfInside Part.sendQuiet; (repeat' split) <;> simp
    · rfl
  · rfl

@[simp] theorem Part.queued_claimsClear (q : Part) (z : Nat) : (p.claimsClear q z).queued = q.queued :=
  Part.queued_of_ann (p.claimsClear_ann q z)

theorem Part.queued_noteAnn (id : Nat) (e : AnnounceEvent) : (p.noteAnn id e).queued = p.queued := by
  unfold Part.noteAnn; split <;> rfl

theorem Part.queued_removeAnn (id : Nat) (c : EndCause) : (p.removeAnn id c).queued ≤ p.queued := by
  unfold Part.removeAnn
  split
  · simp only [Part.queued, Part.note_ann, List.filter_filter]
    exact List.Sublist.length_le (List.monotone_filter_right p.ann.records fun a h => by
      simp only [Bool.and_eq_true] at h; exact h.1)
  · exact Nat.le_refl _

theorem Part.queued_enlist (id z : Nat) : (p.enlist id z).queued ≤ p.queued := by
  unfold Part.enlist; split
  · exact Part.queued_setJoin _ _ _ _
  · exact Nat.le_refl _

theorem Part.queued_grant (id z : Nat) : (p.grant id z).queued ≤ p.queued := by
  unfold Part.grant; split
  · rw [Part.queued_wakeFor]; exact Part.queued_setJoin _ _ _ _
  · exact Nat.le_refl _

theorem Part.queued_offerZone (z : Nat) : (p.offerZone z).queued ≤ p.queued := by
  unfold Part.offerZone; (repeat' split)
  · exact Nat.le_refl _
  · exact p.queued_grant _ _
  · exact Nat.le_refl _

theorem Part.queued_offerNode (pos : Nat) : (p.offerNode pos).queued ≤ p.queued := by
  refine Part.queued_each _ (fun q z => ?_) _ p
  split
  · exact Nat.le_refl _
  · exact q.queued_offerZone z

theorem Part.queued_changeJoin (id z : Nat) (st : JoinState) : (p.changeJoin id z st).queued ≤ p.queued := by
  unfold Part.changeJoin; split
  · exact p.queued_setJoin _ _ _
  · dsimp only; split
    · exact (Part.queued_offerNode _ _).trans (p.queued_setJoin _ _ _)
    · exact p.queued_setJoin _ _ _

theorem Part.queued_settleEntries (id : Nat) : (p.settleEntries id).queued ≤ p.queued :=
  p.queued_modAnn _ _ fun _ h => h

theorem Part.queued_removeIfSettled (id : Nat) : (p.removeIfSettled id).queued ≤ p.queued := by
  unfold Part.removeIfSettled; (repeat' split)
  · exact p.queued_removeAnn _ _
  · exact Nat.le_refl _
  · exact Nat.le_refl _

theorem Part.queued_giveBack (id z : Nat) : (p.giveBack id z).queued ≤ p.queued := by
  unfold Part.giveBack; dsimp only; rw [Part.queued_claimsClear]
  refine (Part.queued_changeJoin _ _ _ _).trans ?_
  refine (Part.queued_modAnn _ _ _ ?_).trans ?_
  · exact fun _ h => h
  · exact (Part.queued_offerZone _ _).trans (Nat.le_of_eq rfl)

theorem Part.queued_withdrawEntry (id z : Nat) : (p.withdrawEntry id z).queued ≤ p.queued :=
  Part.queued_modAnn _ _ _ fun _ h => h

theorem Part.queued_enterEnding (id : Nat) (c : EndCause) : (p.enterEnding id c).queued ≤ p.queued := by
  unfold Part.enterEnding; split
  · exact Nat.le_refl _
  · refine (Part.queued_removeIfSettled _ _).trans ?_
    rw [Part.queued_noteAnn]
    refine (Part.queued_settleEntries _ _).trans ?_
    refine (Part.queued_each _ (fun q z => q.queued_giveBack _ z) _ _).trans ?_
    refine (Part.queued_each _ (fun q z => q.queued_withdrawEntry _ z) _ _).trans ?_
    exact p.queued_modAnn _ _ fun _ h => by simp at h

theorem Part.queued_testDisplaced (id : Nat) : (p.testDisplaced id).queued ≤ p.queued := by
  unfold Part.testDisplaced; (repeat' split)
  · exact p.queued_enterEnding _ _
  · exact Nat.le_refl _
  · exact Nat.le_refl _

theorem Part.queued_loseJoin (id z : Nat) (st : JoinState) : (p.loseJoin id z st).queued ≤ p.queued :=
  (Part.queued_testDisplaced _ _).trans (p.queued_changeJoin _ _ _)

theorem Part.queued_requestSlot (id z : Nat) : (p.requestSlot id z).queued ≤ p.queued := by
  have h := p.queued_modAnn id (fun a => { a with joins := a.joins ++ [⟨z, .refused, false, false⟩] }) fun _ h => h
  unfold Part.requestSlot; dsimp only; (repeat' split)
  · exact h
  · exact (Part.queued_grant _ _ _).trans h
  · exact (Part.queued_enlist _ _ _).trans h
  · exact (Part.queued_loseJoin _ _ _ _).trans ((Part.queued_grant _ _ _).trans h)
  · exact (Part.queued_enlist _ _ _).trans h

/-- A change of a waiting record that waits no more leaves fewer waiting. -/
theorem Part.queued_modAnn_lt {id : Nat} (f : Announcement → Announcement) (hf : ∀ r, (f r).stage ≠ .queued)
    {a : Announcement} (ha : a ∈ p.ann.records) (hid : a.id = id) (hs : a.stage = .queued) :
    (p.modAnn id f).queued < p.queued := by
  simp only [Part.queued, Part.modAnn_ann]
  generalize p.ann.records = l at ha
  have hg : ∀ x : Announcement, (if (x.id == id) = true then f x else x).stage = .queued → x.stage = .queued := by
    intro x h; split at h
    · exact absurd h (hf x)
    · exact h
  induction l with
  | nil => simp at ha
  | cons x l ih =>
    have hle := queued_map_le _ hg l
    simp only [List.map_cons, List.filter_cons]
    rcases List.mem_cons.mp ha with rfl | hm
    · have h1 : (if (a.id == id) = true then f a else a).stage ≠ .queued := by simpa [hid] using hf a
      rw [if_neg (by simpa using h1), if_pos (by simpa using hs), List.length_cons]
      omega
    · have h2 := ih hm
      by_cases h1 : x.stage = .queued
      · rw [if_pos (c := (x.stage == AnnounceStage.queued) = true) (by simpa using h1), List.length_cons]
        refine lt_of_le_of_lt (b := (l.map fun a => if (a.id == id) = true then f a else a).filter
          (fun a => a.stage == AnnounceStage.queued) |>.length.succ) ?_ (by omega)
        (repeat' split) <;> simp
      · rw [if_neg (by simpa using fun h => h1 (hg x h)), if_neg (by simpa using h1)]
        exact h2

/-- The start of a waiting record leaves fewer waiting. -/
theorem Part.queued_startAnn {id : Nat} {a : Announcement} (ha : a ∈ p.ann.records) (hid : a.id = id)
    (hs : a.stage = .queued) : (p.startAnn id).queued < p.queued := by
  unfold Part.startAnn
  split
  next h =>
    exact absurd hid (by
      have := List.find?_eq_none.mp h a ha
      simpa using this)
  next b hb =>
    refine lt_of_le_of_lt (Part.queued_testDisplaced _ _) ?_
    rw [Part.queued_noteAnn]
    refine lt_of_le_of_lt (Part.queued_each _ (fun q z => q.queued_requestSlot _ z) _ _) ?_
    exact p.queued_modAnn_lt p.startRecord (fun r => by unfold Part.startRecord; dsimp only; split <;> simp) ha hid hs

end

/-- A record of a queue is a QUEUED record of the table. -/
theorem Part.mem_queue {p : Part} {i : PagingInput} {a : Announcement} (h : a ∈ p.queue i) :
    a ∈ p.ann.records ∧ a.stage = .queued := by
  have ins : ∀ (f : Announcement → Bool) (x : Announcement) (l : List Announcement) (b : Announcement),
      b ∈ insertWhere f x l → b = x ∨ b ∈ l := by
    intro f x l b
    induction l with
    | nil => simp [insertWhere]
    | cons y l ih =>
      unfold insertWhere; split
      · simp
      · intro hb
        rcases List.mem_cons.mp hb with rfl | hb
        · simp
        · rcases ih hb with rfl | hb <;> simp_all
  have fold : ∀ (l acc : List Announcement) (b : Announcement),
      b ∈ l.foldl (fun l a => insertWhere (fun b => a.before b) a l) acc → b ∈ l ∨ b ∈ acc := by
    intro l
    induction l with
    | nil => intro acc b hb; exact .inr hb
    | cons y l ih =>
      intro acc b hb
      rcases ih _ _ hb with hb | hb
      · exact .inl (List.mem_cons_of_mem _ hb)
      · rcases ins _ _ _ _ hb with rfl | hb
        · simp
        · exact .inr hb
  rcases fold _ _ _ h with h | h
  · simp at h; exact ⟨h.1, h.2.2⟩
  · simp at h

/-- With turns enough for every waiting record, what can start has started. -/
theorem Part.settled_startQueued : ∀ (n : Nat) (p : Part), p.queued ≤ n → (p.startQueued n).settled := by
  intro n
  induction n with
  | zero =>
    intro p h i _
    apply List.eq_nil_iff_forall_not_mem.mpr
    intro a ha
    obtain ⟨h1, h2⟩ := Part.mem_queue ha
    have : a ∈ p.ann.records.filter fun a => a.stage == .queued := List.mem_filter.mpr ⟨h1, by simp [h2]⟩
    rw [List.eq_nil_of_length_eq_zero (Nat.le_zero.mp h)] at this
    simp at this
  | succ n ih =>
    intro p h
    have start : ∀ i : PagingInput, ∀ a, (p.queue i).head? = some a → (p.startAnn a.id).queued ≤ n := by
      intro i a ha
      obtain ⟨h1, h2⟩ := Part.mem_queue (List.mem_of_mem_head? ha)
      have := p.queued_startAnn h1 rfl h2
      omega
    unfold Part.startQueued; dsimp only
    split
    next a h1 =>
      split at h1
      · exact ih _ (start _ _ h1)
      · simp at h1
    next a h1 h2 =>
      split at h2
      · exact ih _ (start _ _ h2)
      · simp at h2
    next h1 h2 =>
      intro i hi
      cases i
      · rw [if_pos (by simpa using hi)] at h1; simpa using h1
      · rw [if_pos (by simpa using hi)] at h2; simpa using h2

/-- After a step no free input leaves a record waiting (R67). -/
theorem Part.settled_settle (p : Part) : p.settle.settled :=
  Part.settled_startQueued _ _ (List.length_filter_le _ _)

end Sys2Proof.Machine
end

