-- ==== Sys2Proof/Laws/Timely.lean ====
section
/-! SUPPORT. No WAITING time-change record is past (R15), through the operations that move campus time or the records. -/

namespace Sys2Proof.Machine

/-! ### The law for a part -/

/-- No WAITING record of a list is earlier than a moment. -/
def noneBefore (n : Nat) (l : List TimeChange) : Prop := ∀ c ∈ l, c.done = false → n ≤ c.moment.total

/-- The law of `State.timely` for the part, with a tenth still to be counted or not. -/
def Part.timely (p : Part) (counting : Bool) : Prop :=
  p.backup.tod < dayTenths ∧ (∀ c ∈ p.cal.changes, c.minute ≤ 1439) ∧
  (p.isSet = true → noneBefore (p.campus.total + (if counting then 1 else 0)) p.cal.changes)

/-- All that the law looks at. -/
def Part.hours (p : Part) : Nat × Nat × Quality × List TimeChange :=
  (p.backup.day, p.backup.tod, p.time.quality, p.cal.changes)

theorem Part.timely_of_hours {p q : Part} (h : q.hours = p.hours) {b : Bool} (hp : p.timely b) : q.timely b := by
  simp only [Part.hours, Prod.mk.injEq] at h
  obtain ⟨h1, h2, h3, h4⟩ := h
  simpa only [Part.timely, Part.isSet, Part.campus, h1, h2, h3, h4] using hp

theorem Part.hours_of_clock {p q : Part} (h : q.clock = p.clock) : q.hours = p.hours := by
  simp only [Part.clock, Prod.mk.injEq] at h
  obtain ⟨_, h1, h2, _, h3, h4, _⟩ := h
  simp only [Part.hours, h1, h2, h3, h4]

theorem Part.timely_of_clock {p q : Part} (h : q.clock = p.clock) {b : Bool} (hp : p.timely b) : q.timely b :=
  Part.timely_of_hours (Part.hours_of_clock h) hp

/-- The law without a tenth to be counted is the weaker one. -/
theorem Part.timely_less {p : Part} {b : Bool} (h : p.timely b) : p.timely false := by
  refine ⟨h.1, h.2.1, fun hs c hc hd => ?_⟩
  have := h.2.2 hs c hc hd
  simp only [Bool.false_eq_true, if_false]; omega

theorem Part.timely_settle {p : Part} {b : Bool} (h : p.timely b) : p.settle.timely b :=
  Part.timely_of_clock (Part.clock_settle p) h

/-- With a tenth still to be counted the law says the more. -/
theorem Part.timely_any {p : Part} (h : p.timely true) (b : Bool) : p.timely b := by
  refine ⟨h.1, h.2.1, fun hs c hc hd => ?_⟩
  have := h.2.2 hs c hc hd
  simp only [if_true] at this
  split <;> omega

theorem Part.hours_each {α : Type} (f : Part → α → Part) (h : ∀ q a, (f q a).hours = q.hours) (l : List α) :
    ∀ p : Part, (p.each l f).hours = p.hours := by
  induction l with
  | nil => intro p; rfl
  | cons a l ih => intro p; exact (ih (f p a)).trans (h p a)

theorem Part.hours_checked {p : Part} (cs : List (Bool × Status)) (act : Part → Part × Answer) (h : (act p).1.hours = p.hours) :
    (checked cs p act).1.hours = p.hours := by
  unfold checked; split
  · rfl
  · exact h

/-! ### The bell scheduler and the selections do not move the hours -/

section
variable (p : Part)

@[simp] theorem Part.hours_note (n : Notice) : (p.note n).hours = p.hours := rfl
@[simp] theorem Part.hours_noteTime (c : TimeCause) : (p.noteTime c).hours = p.hours := rfl
@[simp] theorem Part.hours_with_bell (b : Bells) : ({ p with bell := b } : Part).hours = p.hours := rfl
@[simp] theorem Part.hours_buildTimeline (d : Nat) (n : Option Nat) (t : Nat) : (p.buildTimeline d n t).hours = p.hours := rfl
@[simp] theorem Part.hours_buildNow (n : Option Nat) : (p.buildNow n).hours = p.hours := rfl
@[simp] theorem Part.hours_setEntry (i : Nat) (st : EntryState) (n : Option Nat) : (p.setEntry i st n).hours = p.hours := rfl
@[simp] theorem Part.hours_setSelection (sel : DaySelection) (n : Nat) : (p.setSelection sel n).hours = p.hours := rfl
@[simp] theorem Part.hours_selectDay (n : Nat) : (p.selectDay n).hours = p.hours := rfl

@[simp] theorem Part.hours_evaluateQuiet : p.evaluateQuiet.hours = p.hours := by
  unfold Part.evaluateQuiet; dsimp only
  (repeat' split)
  · rfl
  · exact (Part.hours_noteTime _ _).trans ((Part.hours_of_clock (Part.clock_quietBegins _)).trans rfl)
  · exact (Part.hours_noteTime _ _).trans ((Part.hours_of_clock (Part.clock_quietEnds _)).trans rfl)

@[simp] theorem Part.hours_evaluateCircuits : p.evaluateCircuits.hours = p.hours :=
  Part.hours_of_clock (Part.clock_evaluateCircuits p)
@[simp] theorem Part.hours_scheduleJump (a b : CampusTime) : (p.scheduleJump a b).hours = p.hours :=
  Part.hours_of_clock (Part.clock_scheduleJump p a b)
@[simp] theorem Part.hours_scheduleSet : p.scheduleSet.hours = p.hours := Part.hours_of_clock (Part.clock_scheduleSet p)
@[simp] theorem Part.hours_circuitsSet : p.circuitsSet.hours = p.hours := Part.hours_of_clock (Part.clock_circuitsSet p)
@[simp] theorem Part.hours_circuitsUnset : p.circuitsUnset.hours = p.hours := Part.hours_of_clock (Part.clock_circuitsUnset p)

/-- A posting walks over zones. -/
theorem Part.hours_postBells (zs : List Nat) (c : BellClaim) : (p.postBells zs c).1.hours = p.hours := by
  unfold Part.postBells
  generalize (⟨0, 0, 0⟩ : Posted) = n
  induction zs generalizing p n with
  | nil => rfl
  | cons z zs ih => exact (ih _ _).trans (Part.hours_of_clock (Part.clock_postBell p z c))

@[simp] theorem Part.hours_takeDrop (o : BellOrigin) (d : Dropped) : (p.takeDrop o d).hours = p.hours := by
  unfold Part.takeDrop; split
  · rfl
  · split
    · rfl
    · dsimp only; (repeat' split) <;> rfl

@[simp] theorem Part.hours_reachLatest (n : Nat) (o : BellOrigin) : (p.reachLatest n o).hours = p.hours := by
  unfold Part.reachLatest; dsimp only
  exact (Part.hours_takeDrop _ _ _).trans (Part.hours_of_clock (Part.clock_dropPosting p n))

theorem Part.hours_ring (zs : List Nat) (x y : Nat) (o : BellOrigin) (report : Part → Posted → Part)
    (h : ∀ q c, (report q c).hours = q.hours) : (p.ring zs x y o report).1.hours = p.hours := by
  unfold Part.ring; dsimp only
  split
  · exact (Part.hours_reachLatest _ _ _).trans ((h _ _).trans (Part.hours_postBells _ _ _))
  · exact (h _ _).trans (Part.hours_postBells _ _ _)

@[simp] theorem Part.hours_fireEntry (i : Nat) (late : Bool) : (p.fireEntry i late).1.hours = p.hours := by
  unfold Part.fireEntry; dsimp only
  split
  · rfl
  · split
    · rfl
    · dsimp only; rw [Part.hours_ring]
      · rfl
      · intro q c; rfl

@[simp] theorem Part.hours_reachEntries : p.reachEntries.hours = p.hours := by
  unfold Part.reachEntries; split
  · exact Part.hours_each _ (fun q i => by simp) _ _
  · rfl

theorem Part.hours_skipEntries (l : List Nat) (t : Nat) : (p.skipEntries l t).1.hours = p.hours := by
  unfold Part.skipEntries
  generalize ((0, 0) : Nat × Nat) = n
  induction l generalizing p n with
  | nil => rfl
  | cons i l ih =>
    rw [List.foldl_cons]
    dsimp only
    split
    · exact ih _ _
    · split
      · split
        · exact (ih _ _).trans (by simp)
        · exact (ih _ _).trans (by simp)
      · exact (ih _ _).trans (by simp)

@[simp] theorem Part.hours_eachEntry (l : List Nat) (st : EntryState) (n : Option Nat) :
    (p.each l fun q i => q.setEntry i st n).hours = p.hours :=
  Part.hours_each (fun q i => q.setEntry i st n) (fun _ _ => rfl) _ _

@[simp] theorem Part.hours_bellJump (a b : CampusTime) (n : Option Nat) : (p.bellJump a b n).hours = p.hours := by
  unfold Part.bellJump; dsimp only
  (repeat' split) <;> simp [Part.hours_skipEntries]

@[simp] theorem Part.hours_arrive : p.arrive.hours = p.hours := by
  unfold Part.arrive
  exact (Part.hours_of_clock (Part.clock_reachScheduled _)).trans (Part.hours_reachEntries _)

@[simp] theorem Part.hours_bellTimeSet (n : Option Nat) : (p.bellTimeSet n).hours = p.hours := by
  unfold Part.bellTimeSet; dsimp only; split <;> rfl

@[simp] theorem Part.hours_planEdited (n : Nat) : (p.planEdited n).hours = p.hours := by
  unfold Part.planEdited; split <;> rfl

@[simp] theorem Part.hours_selectionEdited : p.selectionEdited.hours = p.hours := by
  unfold Part.selectionEdited; dsimp only; (repeat' split) <;> simp

end

/-! ### Campus time moves -/

/-- A moment of a record is a whole minute. -/
theorem TimeChange.moment_mod (c : TimeChange) : c.moment.total % 600 = 0 := by
  simp only [TimeChange.moment, minuteMoment, CampusTime.total, dayTenths]; omega

/-- Records that a mark has passed over. -/
theorem noneBefore_markDone {p : Part} {n m : Nat} {f : Nat → Bool} (h : noneBefore n p.cal.changes)
    (hf : ∀ k, n ≤ k → k < m → f k = true) : noneBefore m (p.markDone f).1.cal.changes := by
  intro c hc hd
  simp only [Part.markDone, List.mem_map] at hc
  obtain ⟨x, hx, rfl⟩ := hc
  by_cases hit : (!x.done && f x.moment.total) = true
  · rw [if_pos hit] at hd; simp at hd
  · rw [if_neg hit] at hd ⊢
    simp only [hd, Bool.not_false, Bool.true_and, Bool.not_eq_true] at hit
    by_contra hlt
    exact absurd (hf _ (h x hx hd) (by omega)) (by simp [hit])

/-- A mark keeps the moments of the records. -/
theorem minutes_markDone {p : Part} (h : ∀ c ∈ p.cal.changes, c.minute ≤ 1439) (f : Nat → Bool) :
    ∀ c ∈ (p.markDone f).1.cal.changes, c.minute ≤ 1439 := by
  intro c hc
  simp only [Part.markDone, List.mem_map] at hc
  obtain ⟨x, hx, rfl⟩ := hc
  split
  · exact h x hx
  · exact h x hx

/-- A jump leaves no WAITING record at or before its new time (R15). -/
theorem Part.timely_jumpTo {p : Part} {b : Bool} (h : p.timely b) {new : CampusTime} (hn : new.tod < dayTenths)
    (cause : CampusTime → Int → Nat → TimeCause) : (p.jumpTo new cause).timely true := by
  have e : (p.jumpTo new cause).hours =
      ((p.arrive.moveTime new).markDone fun m => p.campus.total ≤ m && m ≤ new.total).1.hours := by
    unfold Part.jumpTo; dsimp only; split <;> simp
  have ha : p.arrive.timely b := Part.timely_of_hours (Part.hours_arrive p) h
  have hc : p.arrive.campus = p.campus := by
    have := Part.hours_arrive p
    simp only [Part.hours, Prod.mk.injEq] at this
    simp [Part.campus, this]
  refine Part.timely_of_hours e ⟨hn, minutes_markDone (p := p.arrive.moveTime new) ha.2.1 _, fun hs => ?_⟩
  refine noneBefore_markDone (n := p.campus.total) (fun c hm hd => ?_) fun k h1 h2 => ?_
  · have := ha.2.2 hs c hm hd
    rw [hc] at this
    omega
  · simp only [if_true] at h2
    have h3 : k ≤ new.total := Nat.lt_succ_iff.mp h2
    simp [h1, h3]

/-- The time-set event leaves no WAITING record at or before its time (R15). -/
theorem Part.timely_setFromUnset {p : Part} {b : Bool} (h : p.timely b) {new : CampusTime} (hn : new.tod < dayTenths) :
    (p.setFromUnset new).timely true := by
  let q : Part := { p.cancelTrim.moveTime new with
    time := { (p.cancelTrim.moveTime new).time with quality := .set },
    backup := { (p.cancelTrim.moveTime new).backup with valid := true } }
  have e : (p.setFromUnset new).hours = (q.markDone fun m => m ≤ new.total).1.hours := by
    unfold Part.setFromUnset; dsimp only; simp only [Part.hours_circuitsSet, Part.hours_scheduleSet, Part.hours_bellTimeSet,
      Part.hours_evaluateQuiet, Part.hours_selectDay, Part.hours_noteTime]; rfl
  refine Part.timely_of_hours e ⟨hn, minutes_markDone (p := q) h.2.1 _, fun _ => ?_⟩
  refine noneBefore_markDone (p := q) (n := 0) (fun c _ _ => Nat.zero_le _) fun k _ h2 => ?_
  have h3 : k ≤ new.total := Nat.lt_succ_iff.mp h2
  simp [h3]

/-- While campus time is UNSET the law asks only for the ranges. -/
theorem Part.timely_unset {p : Part} (h : p.backup.tod < dayTenths) (hm : ∀ c ∈ p.cal.changes, c.minute ≤ 1439)
    (hq : p.time.quality = .unset) (b : Bool) : p.timely b :=
  ⟨h, hm, fun hs => by simp [Part.isSet, hq] at hs⟩

theorem Part.timely_becomeUnset {p : Part} (h : p.backup.tod < dayTenths) (hm : ∀ c ∈ p.cal.changes, c.minute ≤ 1439)
    (b : Bool) : p.becomeUnset.timely b := by
  let q : Part := { p.cancelTrim with
    time := { p.cancelTrim.time with quality := .unset }, backup := { p.cancelTrim.backup with valid := false } }
  have e : p.becomeUnset.hours = q.hours := by
    unfold Part.becomeUnset; dsimp only
    simp only [Part.hours_circuitsUnset, Part.hours_evaluateQuiet, Part.hours_setSelection, Part.hours_noteTime]; rfl
  exact Part.timely_of_hours e (Part.timely_unset (p := q) h hm rfl _)

/-- Campus time moves on by tenths of which none before the last is a whole minute. -/
theorem Part.timely_move {p q : Part} {b : Bool} (h : p.timely b) (n : Nat) (hq : q.cal.changes = p.cal.changes)
    (hs : q.isSet = true → p.isSet = true) (ht : q.backup.tod < dayTenths) (htot : q.campus.total = p.campus.total + n)
    (hn : ∀ k < n, (p.campus.total + k) % 600 ≠ 0) : q.timely false := by
  refine ⟨ht, hq ▸ h.2.1, fun hset c hc hd => ?_⟩
  have h1 := h.2.2 (hs hset) c (hq ▸ hc) hd
  have h2 := c.moment_mod
  simp only [Bool.false_eq_true, if_false, htot]
  by_contra hlt
  refine hn (c.moment.total - p.campus.total) (by omega) ?_
  rw [Nat.add_sub_cancel' (by omega)]; exact h2

@[simp] theorem Part.hours_newDate (p : Part) : p.newDate.hours = p.hours := by
  unfold Part.newDate; dsimp only; simp

@[simp] theorem Part.hours_trimMoved (p : Part) : p.trimMoved.hours = p.hours := by
  unfold Part.trimMoved; split <;> rfl

theorem Part.timely_dayStart {p : Part} {b : Bool} (h : p.timely b) (hd : p.atDateEnd = true) : p.dayStart.timely false := by
  simp only [Part.atDateEnd, Bool.and_eq_true, beq_iff_eq] at hd
  refine Part.timely_of_hours (p := p.moveTime ⟨p.backup.day + 1, 0⟩) (Part.hours_newDate _) ?_
  refine Part.timely_move h 1 rfl (fun x => x) (by simp [Part.moveTime, dayTenths]) ?_ fun k hk => ?_
  · simp only [Part.moveTime, Part.campus, CampusTime.total, hd.2, dayTenths]; omega
  · simp only [Part.campus, CampusTime.total, hd.2, dayTenths]; omega

theorem Part.timely_trimSecond {p : Part} {b : Bool} (h : p.timely b) (hd : p.nextTenth = .trim) :
    p.trimSecond.timely false := by
  have key : p.trimmedCount = p.backup.tod + 2 ∧ p.backup.tod % 10 = 8 ∨
      p.trimmedCount = p.backup.tod + 1 ∧ p.backup.tod % 10 = 9 := by
    unfold Part.nextTenth at hd
    unfold Part.trimmedCount
    split at hd
    next h1 =>
      simp only [Bool.and_eq_true, decide_eq_true_eq, beq_iff_eq] at h1
      left; simp [h1]
    · split at hd
      next h2 =>
        simp only [Bool.and_eq_true, decide_eq_true_eq, beq_iff_eq] at h2
        right; rw [if_neg (by omega)]; exact ⟨rfl, h2.2⟩
      · split at hd <;> simp at hd
  have ht := h.1
  have hn : ∀ k < p.trimmedCount - p.backup.tod, (p.campus.total + k) % 600 ≠ 0 := by
    intro k hk
    simp only [Part.campus, CampusTime.total, dayTenths]
    omega
  have hday : dayTenths = 864000 := rfl
  unfold Part.trimSecond; dsimp only
  split
  next h1 =>
    refine Part.timely_of_hours (Part.hours_trimMoved _) (Part.timely_move h (p.trimmedCount - p.backup.tod) rfl
      (fun x => x) h1 ?_ hn)
    simp only [Part.moveTime, Part.campus, CampusTime.total]; omega
  next h1 =>
    split
    next h2 =>
      refine Part.timely_of_hours ((Part.hours_newDate _).trans (Part.hours_trimMoved _)) (Part.timely_move h
        (p.trimmedCount - p.backup.tod) rfl (fun x => x) (by simp [Part.moveTime, dayTenths]) ?_ hn)
      simp only [Part.moveTime, Part.campus, CampusTime.total, hday] at h1 ⊢; omega
    next h2 =>
      refine Part.timely_becomeUnset ?_ ?_ _
      · simp only [Part.moveTime]; decide
      · exact h.2.1

/-- A time change that is reached leaves no WAITING record at or before the time it leads to (R15). -/
theorem Part.timely_takeChange {p : Part} {b : Bool} (h : p.timely b) : p.takeChange.timely b := by
  unfold Part.takeChange
  split
  next c _ =>
    unfold Part.applyChange; dsimp only
    refine Part.timely_any (Part.timely_jumpTo (b := b) ?_ (Nat.mod_lt _ (by decide)) _) _
    refine ⟨h.1, fun x hx => ?_, fun hs x hx hd => ?_⟩
    · simp only [List.mem_map] at hx
      obtain ⟨y, hy, rfl⟩ := hx
      split
      · exact h.2.1 y hy
      · exact h.2.1 y hy
    · simp only [List.mem_map] at hx
      obtain ⟨y, hy, rfl⟩ := hx
      split at hd
      · simp at hd
      next hne => rw [if_neg hne]; exact h.2.2 hs y hy hd
  · exact h

/-! ### Requests -/

/-- A record put into its place adds itself alone. -/
theorem mem_insertWhere {α : Type} {f : α → Bool} {x y : α} {l : List α} (h : y ∈ insertWhere f x l) : y = x ∨ y ∈ l := by
  induction l with
  | nil => simpa [insertWhere] using h
  | cons a l ih =>
    unfold insertWhere at h
    split at h
    · simpa using h
    · rcases List.mem_cons.mp h with rfl | h
      · simp
      · rcases ih h with rfl | h
        · simp
        · simp [h]

section
variable {p : Part} {c : Bool} (hp : p.timely c)
include hp

theorem timely_checked {cs : List (Bool × Status)} {act : Part → Part × Answer}
    (h : firstFailure cs = none → (act p).1.timely c) : (checked cs p act).1.timely c := by
  unfold checked; split
  · exact hp
  next hf => exact h hf

theorem timely_timeSet (d : CalDate) (n : Nat) (b : Bool) : (Part.timeSet d n b p).1.timely c := by
  refine timely_checked hp fun hf => ?_
  have hn : n < dayTenths := by
    simp only [firstFailure] at hf
    split at hf
    · simp at hf
    next h => simp only [Bool.or_eq_true, decide_eq_true_eq, not_or, Nat.not_lt] at h; simp only [dayTenths]; omega
  dsimp only
  split
  · exact Part.timely_any (Part.timely_setFromUnset hp hn) _
  · split
    · exact Part.timely_of_hours (p := p) rfl hp
    · exact Part.timely_any (Part.timely_jumpTo (p := p.cancelTrim) (Part.timely_of_hours (p := p) rfl hp) hn _) _

theorem timely_timeTrim (n : Int) (b : Bool) : (Part.timeTrim n b p).1.timely c :=
  Part.timely_of_hours (Part.hours_checked _ _ rfl) hp

theorem timely_weekWrite (es : List (Option Nat)) (b : Bool) : (Part.weekWrite es b p).1.timely c :=
  Part.timely_of_hours (Part.hours_checked _ _ ((Part.hours_selectionEdited _).trans rfl)) hp

theorem timely_exceptionAdd (x y : CalDate) (n : Option Nat) (q : Option Bool) (b : Bool) :
    (Part.exceptionAdd x y n q b p).1.timely c :=
  Part.timely_of_hours (Part.hours_checked _ _ ((Part.hours_selectionEdited _).trans rfl)) hp

theorem timely_exceptionRemove (x : CalDate) (b : Bool) : (Part.exceptionRemove x b p).1.timely c :=
  Part.timely_of_hours (Part.hours_checked _ _ ((Part.hours_selectionEdited _).trans rfl)) hp

theorem timely_quietSet (x y : Nat) (b : Bool) : (Part.quietSet x y b p).1.timely c :=
  Part.timely_of_hours (Part.hours_checked _ _ ((Part.hours_evaluateQuiet _).trans rfl)) hp

theorem timely_groupWrite (g : Nat) (rs : List Range) (b : Bool) : (Part.groupWrite g rs b p).1.timely c :=
  Part.timely_of_hours (Part.hours_checked _ _ rfl) hp

theorem timely_planWrite (n : Nat) (es : List BellEntry) (b : Bool) : (Part.planWrite n es b p).1.timely c :=
  Part.timely_of_hours (Part.hours_checked _ _ ((Part.hours_planEdited _ _).trans rfl)) hp

theorem timely_planAppend (n : Nat) (es : List BellEntry) (b : Bool) : (Part.planAppend n es b p).1.timely c :=
  Part.timely_of_hours (Part.hours_checked _ _ ((Part.hours_planEdited _ _).trans rfl)) hp

theorem timely_planClear (n : Nat) (b : Bool) : (Part.planClear n b p).1.timely c :=
  Part.timely_of_hours (Part.hours_checked _ _ ((Part.hours_planEdited _ _).trans rfl)) hp

theorem timely_bellRing (sel : Selector) (x y : Nat) (b : Bool) : (Part.bellRing sel x y b p).1.timely c :=
  Part.timely_of_hours (Part.hours_checked _ _ (Part.hours_ring _ _ _ _ _ _ fun _ _ => rfl)) hp

theorem timely_bellSettings (x y : Nat) (b : Bool) : (Part.bellSettings x y b p).1.timely c :=
  Part.timely_of_hours (Part.hours_checked _ _ rfl) hp

theorem timely_timeChangeRemove (d : CalDate) (m : Nat) (b : Bool) : (Part.timeChangeRemove d m b p).1.timely c := by
  refine timely_checked hp fun _ => ⟨hp.1, fun x hx => ?_, fun hs x hx hd => ?_⟩
  · exact hp.2.1 x (List.mem_of_mem_filter hx)
  · exact hp.2.2 hs x (List.mem_of_mem_filter hx) hd

theorem timely_timeChangeAdd (d : CalDate) (m : Nat) (s : Int) (b : Bool) : (Part.timeChangeAdd d m s b p).1.timely c := by
  refine timely_checked hp fun hf => ?_
  have hm : m ≤ 1439 := by
    simp only [firstFailure] at hf
    split at hf
    · simp at hf
    · split at hf
      · simp at hf
      next h => simp only [Bool.or_eq_true, decide_eq_true_eq, not_or, Nat.not_lt] at h; exact h.1.2
  refine ⟨hp.1, fun x hx => ?_, fun hs x hx hd => ?_⟩
  · rcases mem_insertWhere hx with rfl | hx
    · exact hm
    · exact hp.2.1 x hx
  · rcases mem_insertWhere hx with rfl | hx
    · have hs' : p.isSet = true := hs
      simp only [hs', Bool.true_and, decide_eq_false_iff_not, Nat.not_le] at hd
      show _ ≤ (minuteMoment d.number m).total
      show p.campus.total + _ ≤ _
      split <;> omega
    · exact hp.2.2 hs x hx hd

end

/-! ### Load and start-up -/

theorem Tables.minutes_of_valid {t : Tables} (h : t.valid = true) : ∀ c ∈ t.changes, c.minute ≤ 1439 := by
  simp only [Tables.valid, Bool.and_eq_true, List.all_eq_true, decide_eq_true_eq] at h
  obtain ⟨⟨⟨⟨⟨⟨⟨⟨⟨⟨⟨_, h3⟩, _⟩, _⟩, _⟩, _⟩, _⟩, _⟩, _⟩, _⟩, _⟩, _⟩ := h
  exact fun c hc => (h3.1.2 c hc).1.2

theorem Part.backup_withTables (p : Part) (t : Tables) : (p.withTables t).backup = p.backup := rfl

/-- A load leaves no WAITING record at or before campus time (R16, R170). -/
theorem timely_loadTables {p : Part} {b : Bool} (hp : p.timely b) {t : Tables} (h : t.valid = true) :
    (p.loadTables t).timely true := by
  let q : Part := p.clearClaims.withTables t
  have e0 : p.clearClaims.hours = p.hours := Part.hours_of_clock (Part.clock_clearClaims p)
  have e1 : ∀ l : List Nat, (Part.rosterChanged p.clearClaims (q.each l fun q c =>
      (q.defineCircuit c (Tab.get t.circuits c none)).evaluateCircuit c)).hours = q.hours := by
    intro l
    refine (Part.hours_of_clock (Part.clock_rosterChanged _ _)).trans (Part.hours_each _ (fun r c => ?_) l q)
    exact Part.hours_of_clock ((Part.clock_evaluateCircuit _ _).trans (Part.clock_defineCircuit _ _ _))
  have hq : q.backup.tod < dayTenths := by
    simp only [Part.hours, Prod.mk.injEq] at e0
    rw [Part.backup_withTables, e0.2.1]; exact hp.1
  have key : ∀ r : Part, r.hours = q.hours → r.loadSelections.timely true := by
    intro r hr
    have hr' := hr
    simp only [Part.hours, Prod.mk.injEq] at hr'
    have hm : ∀ c ∈ r.cal.changes, c.minute ≤ 1439 := by
      rw [hr'.2.2.2]; exact Tables.minutes_of_valid h
    have ht : r.backup.tod < dayTenths := by rw [hr'.2.1]; exact hq
    have e2 : r.loadSelections.hours = (r.markDone fun m => r.isSet && m ≤ r.campus.total).1.hours := by
      simp [Part.loadSelections]
    refine Part.timely_of_hours e2 ⟨ht, minutes_markDone hm _, fun hs => ?_⟩
    refine noneBefore_markDone (n := 0) (fun c _ _ => Nat.zero_le _) fun k _ h2 => ?_
    have h3 : k ≤ r.campus.total := Nat.lt_succ_iff.mp h2
    have h4 : r.isSet = true := hs
    simp [h3, h4]
  exact key _ (e1 _)

/-- The counter stays within its date (R7). -/
theorem Backup.tod_count {b : Backup} (h : b.tod < dayTenths) : b.count.tod < dayTenths := by
  unfold Backup.count
  (repeat' split) <;> first | exact h | assumption | (show 0 < dayTenths; decide)

theorem State.tod_kept {s : State} (h : s.part.backup.tod < dayTenths) : s.kept.tod < dayTenths := by
  unfold State.kept; split
  · exact Backup.tod_count h
  · exact h

/-- Campus time from the backup domain leaves no WAITING record at or before it (R8). -/
theorem timely_restoreTime {p : Part} (h : p.backup.tod < dayTenths) (hm : ∀ c ∈ p.cal.changes, c.minute ≤ 1439) :
    p.restoreTime.timely true := by
  have hmod : ∀ n, (campusOf n).tod < dayTenths := fun n => Nat.mod_lt _ (by decide)
  have htot : ∀ n, (campusOf n).total = n := fun n => by
    simp only [campusOf, CampusTime.total]; exact Nat.div_add_mod' n dayTenths
  unfold Part.restoreTime; dsimp only
  split
  · refine Part.timely_unset ?_ ?_ ?_ _
    · show 0 < dayTenths; decide
    · exact hm
    · rfl
  · split
    · refine Part.timely_unset ?_ ?_ ?_ _
      · exact h
      · exact minutes_markDone (p := p.cancelTrim) hm fun m => decide (m ≤ p.cancelTrim.campus.total)
      · rfl
    · generalize hn : ((p.cancelTrim.campus.total : Int) + ((p.cancelTrim.cal.changes.filter fun c =>
        !c.done && decide (c.moment.total ≤ p.cancelTrim.campus.total)).map (·.shift)).sum * 600).toNat = n
      generalize hr : (p.cancelTrim.markDone fun m => decide (m ≤ p.cancelTrim.campus.total)).1 = r
      have hr1 : ∀ c ∈ r.cal.changes, c.minute ≤ 1439 := hr ▸ minutes_markDone (p := p.cancelTrim) hm _
      have key : ∀ q : Part, q.hours = (n / dayTenths, n % dayTenths, .set, r.cal.changes) →
          (q.markDone fun m => decide (m ≤ n)).1.timely true := by
        intro q hq
        simp only [Part.hours, Prod.mk.injEq] at hq
        have hc : q.campus.total = n := by
          simp only [Part.campus, CampusTime.total, hq.1, hq.2.1]; exact Nat.div_add_mod' n dayTenths
        refine ⟨?_, minutes_markDone (by rw [hq.2.2.2]; exact hr1) _, fun _ => ?_⟩
        · show q.backup.tod < _; rw [hq.2.1]; exact hmod n
        · refine noneBefore_markDone (n := 0) (fun c _ _ => Nat.zero_le _) fun k _ h2 => ?_
          have h3 : k ≤ n := by
            have : k < q.campus.total + 1 := h2
            omega
          simp [h3]
      refine key _ ?_
      split <;> rfl

theorem Part.hours_modCircuit (p : Part) (c : Nat) (f : Circuit → Circuit) : (p.modCircuit c f).hours = p.hours :=
  Part.hours_of_clock (Part.clock_modCircuit p c f)

theorem Part.hours_restoreCircuits (p : Part) (v : Bool) : (p.restoreCircuits v).hours = p.hours := by
  unfold Part.restoreCircuits; dsimp only
  rw [Part.hours_note]
  refine (Part.hours_each _ (fun q a => ?_) _ _).trans (Part.hours_each _ (fun q a => Part.hours_modCircuit q a _) _ _)
  exact (Part.hours_of_clock (Part.clock_writeDial _ a)).trans (Part.hours_modCircuit q a _)

theorem Part.hours_startSelections (p : Part) : p.startSelections.hours = p.hours := by
  unfold Part.startSelections; dsimp only; split <;> simp

/-- A start-up leaves no WAITING record at or before campus time (R8, R171). -/
theorem timely_startUp {b : Backup} (hb : b.tod < dayTenths) {stored : Option Tables}
    (h : ∀ t, stored = some t → t.valid = true) : (Part.startUp b stored).timely true := by
  have key : ∀ p : Part, p.backup.tod < dayTenths → (∀ c ∈ p.cal.changes, c.minute ≤ 1439) →
      (if (((p.restoreTime).restoreCircuits b.valid).startSelections.chain.autoStart &&
      decide (0 < ((p.restoreTime).restoreCircuits b.valid).startSelections.chain.length)) = true then
      (((p.restoreTime).restoreCircuits b.valid).startSelections).startLine false
      else ((p.restoreTime).restoreCircuits b.valid).startSelections).timely true := by
    intro p h1 h2
    have h3 : (((p.restoreTime).restoreCircuits b.valid).startSelections).timely true :=
      Part.timely_of_hours ((Part.hours_startSelections _).trans (Part.hours_restoreCircuits _ _)) (timely_restoreTime h1 h2)
    split
    · exact Part.timely_of_clock (Part.clock_startLine _ _) h3
    · exact h3
  unfold Part.startUp
  refine key _ ?_ ?_ <;> cases stored with
  | none => first | exact hb | exact fun c hc => absurd hc (List.not_mem_nil (a := c))
  | some t => first | exact hb | exact Tables.minutes_of_valid (h t rfl)

/-! ### A tenth passes -/

/-- With no record at campus time the law holds with a tenth still to be counted. -/
theorem Part.timely_true {p : Part} (h : p.timely false) (hn : p.reachedChange = none) : p.timely true := by
  refine ⟨h.1, h.2.1, fun hs c hc hd => ?_⟩
  have h1 := h.2.2 hs c hc hd
  simp only [Bool.false_eq_true, if_false, Nat.add_zero] at h1
  refine Nat.succ_le_of_lt (Nat.lt_of_le_of_ne h1 fun he => ?_)
  simp only [Part.reachedChange, hs, if_true, List.find?_eq_none] at hn
  refine hn c hc ?_
  have ht := h.1
  have hm := h.2.1 c hc
  simp only [hd, Bool.not_false, Bool.true_and, beq_iff_eq]
  simp only [TimeChange.moment, minuteMoment, Part.campus, CampusTime.total, CampusTime.mk.injEq, dayTenths] at he ht ⊢
  omega

/-- A tenth passes for campus time; one that an event is to bring is still to be counted (R1, R5, R15). -/
theorem timely_passTenth {p : Part} (h : p.timely true) : (p.passTenth true).timely p.countHeld := by
  unfold Part.passTenth
  rw [if_pos rfl]
  split
  next hs =>
    cases hx : p.nextTenth with
    | plain =>
      have hc : p.countHeld = false := by simp [Part.countHeld, hx]
      rw [hc]
      refine ⟨?_, h.2.1, fun _ c hc hd => ?_⟩
      · have := h.1
        show p.backup.tod + 1 < dayTenths
        unfold Part.nextTenth at hx
        split at hx
        · simp at hx
        · split at hx
          · split at hx <;> simp at hx
          · split at hx
            · simp at hx
            next h3 => simp only [beq_iff_eq] at h3; simp only [dayTenths] at *; omega
      · have := h.2.2 hs c hc hd
        simp only [Part.campus, CampusTime.total, Bool.false_eq_true, if_false, if_true] at this ⊢; omega
    | wait => exact Part.timely_of_hours (p := p) rfl (Part.timely_any h _)
    | trim => exact Part.timely_any h _
    | dayEnd => exact Part.timely_any h _
  next hs => exact Part.timely_any h _

/-! ### The machine -/

theorem State.timely_part {s : State} (h : s.timely) (hp : s.powered = true) : s.part.timely s.marks.count :=
  ⟨h.1, h.2.1, h.2.2 hp⟩

theorem State.timely_of_part {s : State} (h : s.part.timely s.marks.count) : s.timely :=
  ⟨h.1, h.2.1, fun _ => h.2.2⟩

/-- A step that leaves the hours, power and the marks keeps the law. -/
theorem State.timely_of_hours {s t : State} (h : t.part.hours = s.part.hours) (hp : t.powered = s.powered)
    (hm : t.marks = s.marks) (hs : s.timely) : t.timely := by
  simp only [Part.hours, Prod.mk.injEq] at h
  obtain ⟨h1, h2, h3, h4⟩ := h
  simpa only [State.timely, Part.isSet, Part.campus, h1, h2, h3, h4, hp, hm] using hs

/-- An event whose effect keeps the law keeps it. -/
theorem timely_event {s : State} (h : s.timely) (f : Part → Part)
    (hf : s.powered = true → s.part.timely s.marks.count → (f s.part).timely s.marks.count) : (event f s).timely := by
  unfold event
  split
  next hp =>
    exact State.timely_of_part (Part.timely_settle (hf hp (State.timely_part h hp)))
  · exact h

/-- An event that counts the tenth that was due. -/
theorem timely_counted {s : State} (h : s.timely) (hp : s.powered = true) (f : Part → Part) (m : Bool)
    (hf : s.part.timely s.marks.count → (f s.part).timely false) : (counted f m s).timely := by
  unfold counted event
  rw [if_pos hp]
  exact State.timely_of_part (Part.timely_settle (hf (State.timely_part h hp)))

theorem timely_rangeEnd {s : State} (h : s.timely) : (rangeEnd s).timely := by
  unfold rangeEnd; split
  next hc =>
    simp only [Bool.and_eq_true] at hc
    exact timely_counted h hc.1.1 _ _ fun hp => Part.timely_becomeUnset hp.1 hp.2.1 _
  · exact h

theorem timely_dateStart {s : State} (h : s.timely) : (dayStart s).timely := by
  unfold dayStart; split
  next hc =>
    simp only [Bool.and_eq_true] at hc
    exact timely_counted h hc.1.1 _ _ fun hp => Part.timely_dayStart hp hc.1.2
  · exact h

theorem timely_secondTrimmed {s : State} (h : s.timely) : (trimSecond s).timely := by
  unfold trimSecond; split
  next hc =>
    simp only [Bool.and_eq_true, beq_iff_eq] at hc
    exact timely_counted h hc.1.1 _ _ fun hp => Part.timely_trimSecond hp hc.2
  · exact h

theorem timely_reachChange {s : State} (h : s.timely) : (event Part.takeChange s).timely :=
  timely_event h _ fun _ hp => Part.timely_takeChange hp

theorem timely_minute {s : State} (h : s.timely) :
    (event (fun p => if p.isSet && p.backup.tod % 600 == 0 then p.minuteBoundary else p) s).timely := by
  refine timely_event h _ fun _ hp => Part.timely_of_hours ?_ hp
  split
  · exact (Part.hours_evaluateCircuits _).trans (Part.hours_evaluateQuiet _)
  · rfl

theorem timely_fireEntry {p : Part} {b : Bool} (h : p.timely b) (i : Nat) (late : Bool) : (p.fireEntry i late).1.timely b :=
  Part.timely_of_hours (Part.hours_fireEntry p i late) h

theorem timely_latestStart {p : Part} {b : Bool} (h : p.timely b) (n : Nat) : (Part.latestStart n p).timely b := by
  unfold Part.latestStart; split
  · exact Part.timely_of_hours (Part.hours_reachLatest p _ _) h
  · exact h

/-- A finished load leaves no WAITING record past (R16, R170). -/
theorem timely_loadEnd {s : State} (h : s.timely) (answers : Bool) : (storeLoadComplete answers s).timely := by
  unfold storeLoadComplete
  split
  next hp =>
    simp only [Bool.and_eq_true] at hp
    dsimp only
    split
    · exact State.timely_of_hours (s := s) rfl rfl rfl h
    next t ht =>
      split
      · exact State.timely_of_hours (s := s) rfl rfl rfl h
      · refine State.timely_of_part ?_
        have h1 := timely_loadTables (State.timely_part h hp.1) (SerialMemory.tables_valid ht)
        revert h1
        generalize s.part.loadTables t = q
        exact fun h1 => Part.timely_of_hours (p := q.settle) rfl (Part.timely_settle (Part.timely_any h1 _))
  · exact h

theorem timely_unpowered {s : State} (h : s.part.backup.tod < dayTenths) (hm : s.part.cal.changes = [])
    (hp : s.powered = false) : s.timely :=
  ⟨h, fun c hc => by simp [hm] at hc, fun h => by simp [hp] at h⟩

theorem timely_mainPowerLoss {s : State} (h : s.timely) : (mainPowerLoss s).timely := by
  unfold mainPowerLoss; split
  · exact timely_unpowered (State.tod_kept h.1) rfl rfl
  · exact h

theorem timely_batteryLow {s : State} (h : s.timely) : (batteryLow s).timely := by
  unfold batteryLow; split
  · exact h
  next hp => exact timely_unpowered (by show Backup.lost.tod < dayTenths; decide) rfl (by simpa using hp)

theorem timely_powerUp {s : State} (h : s.timely) (answers : Bool) : (startUp answers s).timely := by
  unfold startUp; split
  · refine State.timely_of_part (Part.timely_of_hours (p := Part.startUp s.kept (s.memory.stored answers)) rfl ?_)
    exact Part.timely_any (timely_startUp (State.tod_kept h.1) fun t ht => SerialMemory.stored_valid ht) _
  · exact h

/-! ### Idling -/

theorem firstGroup_none {l : List (List Instr × Marks)} (h : firstGroup l = none) : ∀ g ∈ l, g.1 = [] := by
  induction l with
  | nil => simp
  | cons a l ih =>
    unfold firstGroup at h
    split at h
    next he => 
      intro g hg
      rcases List.mem_cons.mp hg with rfl | hg
      · simpa using he
      · exact ih h g hg
    · simp at h

theorem firstGroup_mem {l : List (List Instr × Marks)} {g : List Instr × Marks} (h : firstGroup l = some g) : g ∈ l := by
  induction l with
  | nil => simp [firstGroup] at h
  | cons a l ih =>
    unfold firstGroup at h
    split at h
    · exact List.mem_cons_of_mem _ (ih h)
    · simp at h; simp [h]

/-- No group of events takes the tenth that is still to be counted away. -/
theorem State.groups_count {s : State} {g : List Instr × Marks} (h : g ∈ s.groups) : g.2.count = s.marks.count := by
  simp only [State.groups, List.mem_append, List.mem_cons, List.not_mem_nil, or_false] at h
  rcases h with (h | h) | h
  · split at h
    · simp only [List.mem_cons, List.not_mem_nil, or_false] at h
      rcases h with h | h | h | h | h | h | h | h | h <;> simp [h]
    · simp at h
  · simp [h]
  · split at h
    · simp only [List.mem_cons, List.not_mem_nil, or_false] at h
      rcases h with h | h | h | h | h <;> simp [h]
    · simp at h

theorem State.timely_tick {s : State} (h : s.timely) (hn : firstGroup s.groups = none) : (tick s).timely := by
  cases hp : s.powered with
  | false =>
    refine ⟨?_, ?_, fun h => ?_⟩
    · unfold tick; dsimp only; split
      · simp only [Part.passTenth, hp, Bool.false_eq_true, if_false]; exact Backup.tod_count h.1
      · simpa only [hp, Bool.false_eq_true, if_false] using h.1
    · unfold tick; dsimp only; split
      · simpa only [Part.passTenth, hp, Bool.false_eq_true, if_false] using h.2.1
      · simpa only [hp, Bool.false_eq_true, if_false] using h.2.1
    · simp [tick, hp] at h
  | true =>
    have hr : s.part.reachedChange = none := by
      have := firstGroup_none hn (if s.part.reachedChange.isSome then [.timeChangeReached] else [], s.marks)
        (by simp [State.groups, hp])
      by_contra hne
      rw [← ne_eq, Option.ne_none_iff_isSome] at hne
      simp [hne] at this
    have h1 : s.part.timely true := Part.timely_true (Part.timely_less (State.timely_part h hp)) hr
    refine State.timely_of_part ?_
    have h2 : ({ s.part with now := s.part.now + 1 } : Part).timely true := Part.timely_of_hours (p := s.part) rfl h1
    unfold tick; dsimp only
    rw [hp]
    simp only [if_true, Bool.and_true]
    split
    next ht => simpa only [ht, Bool.true_and, Part.countHeld, Part.isSet, Part.nextTenth] using timely_passTenth h2
    next ht => 
      have ht' : ((s.world + 1) % unitsPerTenth == 0) = false := by simpa using ht
      simpa only [ht', Bool.false_and] using Part.timely_any h2 false

theorem State.timely_idle {s : State} (h : s.timely) : (idle s).timely := by
  unfold idle
  split
  · unfold takeHeld; split
    · exact State.timely_of_hours (s := s) rfl rfl rfl h
    · exact State.timely_of_hours (s := s) rfl rfl rfl h
  · split
    next hl =>
      simp only [State.lateTenth, Bool.and_eq_true, Bool.not_eq_true'] at hl
      obtain ⟨⟨⟨⟨hp, hc⟩, hs⟩, hh⟩, _⟩ := hl
      have h1 := State.timely_part h hp
      rw [hc] at h1
      have h2 := timely_passTenth h1
      rw [hh] at h2
      exact State.timely_of_part h2
    · split
      next g hg =>
        exact ⟨h.1, h.2.1, by simpa only [State.groups_count (firstGroup_mem hg)] using h.2.2⟩
      next hg => exact State.timely_tick h hg

end Sys2Proof.Machine
end

