-- ==== Sys2Proof/Laws/Invariant.lean ====
section
/-! SUPPORT. The parts of the invariant through the operations that every command is made of. -/

namespace Sys2Proof.Machine

/-- The port's part of the invariant. -/
def Port.ok (o : Port) : Prop := o.bounded ∧ o.endingWaits ∧ o.busyEnough

/-- A saturated count stays within 65,535. -/
theorem saturate16_le (n : Nat) : saturate16 n ≤ 65535 := Nat.min_le_right _ _

/-! ### Messages and the transmitter -/

/-- One message of a block keeps the port within its places. -/
theorem Port.take_bounded {o : Port} (h : o.bounded) (he : o.endingWaits) (m : Message) :
    (o.take m).bounded ∧ (o.take m).endingWaits := by
  obtain ⟨h1, h2, h3, h4, h5⟩ := h
  have nl : noticeLimit = 32 := rfl
  cases m with
  | notice n =>
    simp only [Port.take, Port.offer]
    (repeat' split)
    · refine ⟨⟨h1, h2, ?_, h4, h5⟩, ?_⟩
      · simp; omega
      · intro op hop hen
        have := he op hop hen
        omega
    · exact ⟨⟨h1, h2, h3, h4, h5⟩, he⟩
    · exact ⟨⟨h1, h2, h3, h4, h5⟩, he⟩
  | opEnd st f =>
    simp only [Port.take, Port.opDone]
    split
    · exact ⟨⟨h1, h2, h3, h4, h5⟩, he⟩
    · (repeat' split)
      · refine ⟨⟨h1, h2, ?_, h4, h5⟩, ?_⟩
        · simp; omega
        · intro op hop; simp at hop
      · refine ⟨⟨h1, h2, h3, h4, h5⟩, ?_⟩
        intro op _ _
        simp only [Nat.not_lt] at *
        exact Nat.le_antisymm h3 ‹_›
      · refine ⟨⟨h1, h2, h3, h4, h5⟩, ?_⟩
        intro op hop; simp at hop

/-- Messages of the blocks keep the port within its places. -/
theorem Port.takes_bounded (l : List Message) : ∀ {o : Port}, o.bounded → o.endingWaits →
    (l.foldl Port.take o).bounded ∧ (l.foldl Port.take o).endingWaits := by
  induction l with
  | nil => intro o h he; exact ⟨h, he⟩
  | cons m l ih =>
    intro o h he
    obtain ⟨h1, h2⟩ := Port.take_bounded h he m
    exact ih h1 h2

/-- The transmitter keeps the port within its places and leaves nothing that it may begin. -/
theorem Port.transmit_ok {o : Port} (h : o.bounded) (he : o.endingWaits) : o.transmit.ok := by
  obtain ⟨h1, h2, h3, h4, h5⟩ := h
  unfold Port.transmit
  split
  next x hx => exact ⟨⟨h1, h2, h3, h4, h5⟩, he, fun h => by simp [hx] at h⟩
  next hx =>
    split
    next r rs hr =>
      refine ⟨⟨h1, ?_, h3, h4, h5⟩, he, fun h => by simp at h⟩
      simp [hr] at h2 ⊢; omega
    next hr =>
      split
      next hn => exact ⟨⟨h1, h2, h3, h4, h5⟩, he, fun _ => ⟨hr, .inl hn⟩⟩
      next n ns hn =>
        split
        next hres => exact ⟨⟨h1, h2, h3, h4, h5⟩, he, fun _ => ⟨hr, .inr hres⟩⟩
        next hres =>
          have hlen : ns.length + 1 ≤ noticeLimit := by simpa [hn] using h3
          unfold Port.placeFreed
          split
          next n' hop =>
            refine ⟨⟨h1, h2, ?_, h4, h5⟩, fun op hop => by simp at hop, fun h => by simp at h⟩
            simpa using hlen
          next hop =>
            refine ⟨⟨h1, h2, ?_, h4, h5⟩, ?_, fun h => by simp at h⟩
            · show ns.length ≤ _; omega
            · intro op ho hen
              obtain ⟨t, k, a, e⟩ := op
              cases e with
              | none => simp at hen
              | some n' => exact absurd ho (by simpa using hop t k a n')

/-- The end of a step brings the port into the invariant. -/
theorem Port.drain_ok {o : Port} (h : o.bounded) (he : o.endingWaits) (l : List Message) : (o.drain l).ok := by
  obtain ⟨h1, h2⟩ := Port.takes_bounded l h he
  exact Port.transmit_ok h1 h2

/-! ### The end of a step -/

/-- The end of a step brings the machine into the invariant, given what the step itself must leave. -/
theorem finish_inv {s : State} (h : s.port.bounded) (he : s.port.endingWaits) (hs : s.part.settled)
    (hn : nodesSound s.nodes) (hm : s.memory.wf) (hl : s.part.lawful) (ht : s.timely) : (finish s).Inv := by
  obtain ⟨h1, h2, h3⟩ := Port.drain_ok h he s.part.outbox
  exact ⟨h1, h2, h3, rfl, Part.settled_of_ann rfl hs, hn, hm, hl, ht⟩

/-- Being lawful depends on the tables alone. -/
theorem Part.lawful_of_layout {p q : Part} (h : q.layout = p.layout) (hp : p.lawful) : q.lawful := by
  simp only [Part.layout, Prod.mk.injEq, Calendar.layout, Bells.layout, Arbiter.layout, DrillTimer.layout, ClockDriver.layout,
    Chain.layout] at h
  obtain ⟨⟨_, he, _⟩, _, ⟨hb, _⟩, _, hc, hr, _⟩ := h
  simpa only [Part.lawful, he, hb, hc, hr] using hp

/-- The end of a step leaves a lawful part lawful. -/
theorem Part.lawful_settle {p : Part} (h : p.lawful) : p.settle.lawful := Part.lawful_of_layout (by simp) h

/-- An event of the part that leaves it lawful, and no WAITING time change past, keeps the invariant. -/
theorem event_inv {s : State} (h : s.Inv) (f : Part → Part) (hf : (f s.part).lawful)
    (hc : s.part.timely s.marks.count → (f s.part).timely s.marks.count) : (event f s).Inv := by
  unfold event
  obtain ⟨h1, h2, _, _, _, h6, h7, _, h9⟩ := id h
  split
  next hp =>
    exact finish_inv h1 h2 (Part.settled_settle _) h6 h7 (Part.lawful_settle hf)
      (State.timely_of_part (Part.timely_settle (hc (State.timely_part h9 hp))))
  · exact h

/-- An event that counts the tenth that was due, and leaves the part lawful and no WAITING time change past, keeps the
invariant. -/
theorem counted_inv {s : State} (h : s.Inv) (hp : s.powered = true) (f : Part → Part) (m : Bool) (hf : (f s.part).lawful)
    (hc : s.part.timely s.marks.count → (f s.part).timely false) : (counted f m s).Inv := by
  obtain ⟨h1, h2, _, _, _, h6, h7, _, h9⟩ := id h
  have ht := timely_counted h9 hp f m hc
  revert ht hf
  unfold counted event
  rw [if_pos hp]
  generalize f s.part = q
  intro hf ht
  obtain ⟨p1, p2, p3⟩ := Port.drain_ok h1 h2 q.settle.outbox
  exact ⟨p1, p2, p3, rfl, Part.settled_of_ann (p := q.settle) rfl (Part.settled_settle _), h6, h7,
    Part.lawful_of_layout (p := q.settle) rfl (Part.lawful_settle hf), ht⟩

/-- A step that only ends a long operation, or sends notices, keeps the announcements settled. -/
theorem settled_endOp {p : Part} (h : p.settled) (st : Status) (f : OpFields) : (p.endOp st f).settled :=
  Part.settled_of_ann rfl h

/-! ### Requests -/

/-- What the function of a request must leave for the invariant to hold after its reply. -/
def SafeRequest (f : State → State × Answer) : Prop :=
  ∀ s : State, s.powered = true → s.port.bounded → s.port.endingWaits → s.part.settled → nodesSound s.nodes → s.memory.wf →
    s.part.lawful → s.timely → (f s).1.port.bounded ∧ (f s).1.port.endingWaits ∧ (f s).1.part.settled ∧ nodesSound (f s).1.nodes ∧
    (f s).1.memory.wf ∧ (f s).1.part.lawful ∧ (f s).1.timely ∧ (f s).1.port.replies = s.port.replies

/-- A request of a block that leaves the part lawful, and no WAITING time change past, is safe. -/
theorem safe_ofPart (f : Bool → Part → Part × Answer) (hf : ∀ b p, p.lawful → (f b p).1.lawful)
    (hc : ∀ b p c, p.timely c → (f b p).1.timely c) : SafeRequest (ofPart f) := by
  intro s hp h he hs hn hm hl ht
  unfold ofPart; dsimp only; split
  · exact ⟨h, he, Part.settled_settle _, hn, hm, Part.lawful_settle (hf _ _ hl),
      State.timely_of_part (Part.timely_settle (hc _ _ _ (State.timely_part ht hp))), rfl⟩
  · exact ⟨h, he, hs, hn, hm, hl, ht, rfl⟩

/-- A request of a block that leaves the part lawful and the clock as it was is safe. -/
theorem safe_ofPart_clock (f : Bool → Part → Part × Answer) (hf : ∀ b p, p.lawful → (f b p).1.lawful)
    (hc : ∀ b p, (f b p).1.clock = p.clock) : SafeRequest (ofPart f) :=
  safe_ofPart f hf fun b p _ h => Part.timely_of_clock (hc b p) h

/-- A request that only reads is safe. -/
theorem safe_ofReader (f : Part → Answer) : SafeRequest (ofReader f) :=
  fun _ _ h he hs hn hm hl ht => ⟨h, he, hs, hn, hm, hl, ht, rfl⟩

/-- A long operation is safe when its own work is. -/
theorem safe_longOp (tag kind : Nat) {f : State → State × Answer} (hf : SafeRequest f) : SafeRequest (longOp tag kind f) := by
  intro s hp h he hs hn hm hl ht
  obtain ⟨h1, h2, h3, h4, h5, h6, h7, h8⟩ := hf s hp h he hs hn hm hl ht
  unfold longOp; dsimp only; split
  · exact ⟨h, he, hs, hn, hm, hl, ht, rfl⟩
  · split
    · refine ⟨h1, ?_, h3, h4, h5, h6, h7, h8⟩
      intro op hop hen
      simp only [Option.some.injEq] at hop
      simp [← hop] at hen
    · exact ⟨h1, h2, h3, h4, h5, h6, h7, h8⟩

/-- A reply made where there is room, after a safe request. -/
theorem carryOut_inv {s : State} {f : State → State × Answer} (hf : SafeRequest f) (h : s.port.bounded)
    (he : s.port.endingWaits) (hs : s.part.settled) (hn : nodesSound s.nodes) (hm : s.memory.wf) (hl : s.part.lawful)
    (ht : s.timely) (hp : s.powered = true) (hr : s.port.replies.length < replyLimit) (tag kind : Nat) :
    (carryOut tag kind f s).Inv := by
  obtain ⟨h1, h2, h3, h4, h5, h6, h7, h8⟩ := hf s hp h he hs hn hm hl ht
  unfold carryOut; dsimp only
  apply finish_inv
  · split
    · obtain ⟨a, b, c, d, e⟩ := h
      exact ⟨a, by simp; omega, c, d, e⟩
    · obtain ⟨a, b, c, d, e⟩ := h1
      exact ⟨a, by simp [h8]; omega, c, d, e⟩
  all_goals split <;> assumption

/-- A request keeps the invariant, taken, held or turned away. -/
theorem request_inv {s : State} {f : State → State × Answer} (hf : SafeRequest f) (h : s.Inv) (i : Instr) (tag kind : Nat) :
    (request i tag kind f s).Inv := by
  obtain ⟨⟨b1, b2, b3, b4, b5⟩, he, hb, ho, hs, hn, hm, hl, ht⟩ := h
  unfold request
  split
  next hlist =>
    have hp : s.powered = true := by simp only [State.listening, Bool.and_eq_true] at hlist; exact hlist.1.1
    split
    · split
      next hr =>
        exact carryOut_inv (s := { s with port := { s.port with buffer := s.port.buffer.tail, taking := false } }) hf
          ⟨le_trans (by simp) b1, b2, b3, b4, b5⟩ he hs hn hm hl ht hp hr tag kind
      · exact ⟨⟨b1, b2, b3, b4, b5⟩, he, hb, ho, hs, hn, hm, hl, ht⟩
    · split
      next hr =>
        simp only [Bool.and_eq_true, decide_eq_true_eq] at hr
        exact carryOut_inv hf ⟨b1, b2, b3, b4, b5⟩ he hs hn hm hl ht hp hr.1 tag kind
      · refine finish_inv (s := { s with port := s.port.enter tag kind (.request i) }) ?_ ?_ hs hn hm hl ht
        · unfold Port.enter Port.turnAway
          have bl : bufferLimit = 2 := rfl
          (repeat' split)
          · exact ⟨by simp; omega, b2, b3, b4, b5⟩
          · exact ⟨b1, by simp; omega, b3, b4, b5⟩
          · exact ⟨b1, b2, b3, b4, saturate16_le _⟩
        · unfold Port.enter Port.turnAway
          (repeat' split) <;> exact he
  · exact ⟨⟨b1, b2, b3, b4, b5⟩, he, hb, ho, hs, hn, hm, hl, ht⟩

/-- A change of one node that keeps its store canonical keeps the invariant. -/
theorem onNode_inv {s : State} (h : s.Inv) (place : Nat) (f : Node → Node)
    (hf : ∀ n, Memory.wf n.store = true → Memory.wf (f n).store = true) : (onNode place f s).Inv := by
  obtain ⟨h1, h2, h3, h4, h5, ⟨h6, h7⟩, h8, h9⟩ := h
  refine ⟨h1, h2, h3, h4, h5, ⟨by simpa [onNode] using h6, ?_⟩, h8, h9⟩
  intro n hn
  simp only [onNode] at hn
  obtain ⟨k, hk, rfl⟩ := List.mem_iff_getElem.mp hn
  rw [List.getElem_modify]
  split
  · exact hf _ (h7 _ (List.getElem_mem _))
  · exact h7 _ (List.getElem_mem _)

end Sys2Proof.Machine
end

