-- ==== Sys2Proof/Laws/Lawful.lean ====
section
/-! SUPPORT. The laws of the tables through the requests that write them, a load and a start-up: exceptions, building ranges,
zone windows and circuit lines stay apart (R10, R39, R110, R142). -/

namespace Sys2Proof.Machine

/-- What the laws of the tables look at. -/
def Part.laws (p : Part) : List ExceptionRec × Vector Range 8 × Vector Range 24 × Vector (Option CircuitDef) 32 :=
  (p.cal.exceptions, p.arb.buildings.map (·.zones), p.chain.roster.map (·.window),
    p.clk.circuits.map fun r => r.map (·.definition))

theorem Part.lawful_of_laws {p q : Part} (h : q.laws = p.laws) (hp : p.lawful) : q.lawful := by
  simp only [Part.laws, Prod.mk.injEq] at h
  obtain ⟨h1, h2, h3, h4⟩ := h
  simpa only [Part.lawful, h1, h2, h3, h4] using hp

theorem Part.laws_of_layout {p q : Part} (h : q.layout = p.layout) : q.laws = p.laws := by
  simp only [Part.layout, Prod.mk.injEq, Calendar.layout, Bells.layout, Arbiter.layout, DrillTimer.layout, ClockDriver.layout,
    Chain.layout] at h
  obtain ⟨⟨_, he, _⟩, _, ⟨hb, _⟩, _, hc, hr, _⟩ := h
  simp only [Part.laws, he, hb, hc, hr]

theorem Part.laws_each {α : Type} (f : Part → α → Part) (h : ∀ q a, (f q a).laws = q.laws) (l : List α) :
    ∀ p : Part, (p.each l f).laws = p.laws := by
  induction l with
  | nil => intro p; rfl
  | cons a l ih => intro p; exact (ih (f p a)).trans (h p a)

/-- A checked request leaves a part lawful when its act does. -/
theorem lawful_checked {cs : List (Bool × Status)} {p : Part} {act : Part → Part × Answer} (hp : p.lawful)
    (h : firstFailure cs = none → (act p).1.lawful) : (checked cs p act).1.lawful := by
  unfold checked; split
  · exact hp
  next hc => exact h hc

/-- A request that writes a table which the laws do not look at. -/
theorem lawful_blind {cs : List (Bool × Status)} {p : Part} {act : Part → Part × Answer} (hp : p.lawful)
    (h : (act p).1.laws = p.laws) : (checked cs p act).1.lawful := lawful_checked hp fun _ => Part.lawful_of_laws h hp

section
variable {p : Part}

@[simp] theorem Part.laws_selectionEdited (p : Part) : p.selectionEdited.laws = p.laws :=
  Part.laws_of_layout (by unfold Part.selectionEdited; dsimp only; (repeat' split) <;> simp)

@[simp] theorem Part.laws_planEdited (p : Part) (n : Nat) : (p.planEdited n).laws = p.laws :=
  Part.laws_of_layout (by unfold Part.planEdited; split <;> simp)

theorem lawful_weekWrite (hp : p.lawful) (es : List (Option Nat)) (b : Bool) : (Part.weekWrite es b p).1.lawful :=
  lawful_blind hp (Part.laws_selectionEdited _)

theorem lawful_timeChangeAdd (hp : p.lawful) (d : CalDate) (m : Nat) (s : Int) (b : Bool) :
    (Part.timeChangeAdd d m s b p).1.lawful := lawful_blind hp rfl

theorem lawful_timeChangeRemove (hp : p.lawful) (d : CalDate) (m : Nat) (b : Bool) :
    (Part.timeChangeRemove d m b p).1.lawful := lawful_blind hp rfl

theorem lawful_quietSet (hp : p.lawful) (x y : Nat) (b : Bool) : (Part.quietSet x y b p).1.lawful :=
  lawful_blind hp (Part.laws_of_layout (p := { p with cal := { p.cal with quietStart := x, quietEnd := y } }) (by simp))

theorem lawful_groupWrite (hp : p.lawful) (g : Nat) (rs : List Range) (b : Bool) : (Part.groupWrite g rs b p).1.lawful :=
  lawful_blind hp rfl

theorem lawful_planWrite (hp : p.lawful) (n : Nat) (es : List BellEntry) (b : Bool) : (Part.planWrite n es b p).1.lawful :=
  lawful_blind hp (Part.laws_planEdited _ _)

theorem lawful_planAppend (hp : p.lawful) (n : Nat) (es : List BellEntry) (b : Bool) : (Part.planAppend n es b p).1.lawful :=
  lawful_blind hp (Part.laws_planEdited _ _)

theorem lawful_planClear (hp : p.lawful) (n : Nat) (b : Bool) : (Part.planClear n b p).1.lawful :=
  lawful_blind hp (Part.laws_planEdited _ _)

theorem lawful_bellSettings (hp : p.lawful) (x y : Nat) (b : Bool) : (Part.bellSettings x y b p).1.lawful :=
  lawful_blind hp rfl

theorem lawful_zoneDefine (hp : p.lawful) (z : Nat) (k : Option ZoneKind) (b : Bool) : (Part.zoneDefine z k b p).1.lawful :=
  lawful_blind hp rfl

theorem Part.laws_modZone (p : Part) (z : Nat) (f : Zone → Zone) : (p.modZone z f).laws = p.laws := rfl

theorem Part.laws_changeZone (p : Part) (z : Nat) (f : Zone → Zone) : (p.changeZone z f).laws = p.laws := rfl

theorem Part.laws_claimsClear (p q : Part) (z : Nat) : (p.claimsClear q z).laws = q.laws :=
  Part.laws_of_layout (by simp)

theorem Part.laws_reviseZone (p : Part) (z : Nat) (f : Zone → Zone) : (p.reviseZone z f).laws = p.laws := by
  unfold Part.reviseZone; dsimp only; rw [Part.laws_claimsClear]; split
  · exact (Part.laws_of_layout (by simp)).trans (Part.laws_changeZone p z f)
  · exact Part.laws_changeZone p z f

theorem Part.laws_loseOffers (p : Part) (z : Nat) (os : List Offer) (st : JoinState) :
    (p.loseOffers z os st).laws = p.laws := Part.laws_of_layout (by simp)

theorem Part.laws_loseHeld (p : Part) (z : Nat) (a : Option AnnounceClaim) : (p.loseHeld z a).laws = p.laws :=
  Part.laws_of_layout (by simp)

theorem lawful_zoneEnable (hp : p.lawful) (r : Range) (src : Option Source) (on : Option Bool) (b : Bool) :
    (Part.zoneEnable r src on b p).1.lawful := by
  refine lawful_blind hp ?_
  dsimp only; split
  · refine Part.laws_each _ (fun q z => ?_) _ _
    unfold Part.enableBell; exact (Part.laws_claimsClear _ _ _).trans rfl
  · unfold Part.enableAnnounce; split
    · exact Part.laws_each _ (fun q z => by rfl) _ _
    · unfold Part.disableAnnounce; dsimp only
      refine (Part.laws_each _ (fun q z => Part.laws_claimsClear _ _ _) _ _).trans ?_
      refine (Part.laws_each _ (fun q z => ?_) _ _).trans (Part.laws_each _ (fun q z => by rfl) _ _)
      rw [Part.laws_loseOffers, Part.laws_loseHeld]

theorem lawful_zoneMask (hp : p.lawful) (r : Range) (src : Option Source) (on : Option Bool) (b : Bool) :
    (Part.zoneMask r src on b p).1.lawful :=
  lawful_blind hp (Part.laws_each _ (fun q z => Part.laws_reviseZone q z _) _ _)

theorem lawful_programWrite (hp : p.lawful) (n : Nat) (f : Program) (b : Bool) : (Part.programWrite n f b p).1.lawful :=
  lawful_blind hp rfl

theorem lawful_scheduleAdd (hp : p.lawful) (d : CalDate) (m k : Nat) (b : Bool) : (Part.scheduleAdd d m k b p).1.lawful :=
  lawful_blind hp rfl

theorem lawful_scheduleRemove (hp : p.lawful) (d : CalDate) (m : Nat) (b : Bool) : (Part.scheduleRemove d m b p).1.lawful :=
  lawful_blind hp rfl

theorem lawful_lineSettings (hp : p.lawful) (x y : Option Bool) (n : Nat) (b : Bool) :
    (Part.lineSettings x y n b p).1.lawful := lawful_blind hp rfl

/-! ### Exceptions -/

/-- An exception that shares no date with those of a list stands apart from them where it is inserted (R10). -/
theorem exceptionsApart_insert {l : List ExceptionRec} {e : ExceptionRec} (hl : exceptionsApart l) (he : e.first ≤ e.last)
    (h : ∀ x ∈ l, ¬(x.first ≤ e.last ∧ e.first ≤ x.last)) :
    exceptionsApart (insertWhere (fun x => e.first < x.first) e l) := by
  have mem : ∀ (l : List ExceptionRec) y, y ∈ insertWhere (fun x => decide (e.first < x.first)) e l → y = e ∨ y ∈ l := by
    intro l y
    induction l with
    | nil => simp [insertWhere]
    | cons x l ih =>
      unfold insertWhere; split
      · simp
      · intro hy
        rcases List.mem_cons.mp hy with rfl | hy
        · simp
        · rcases ih hy with rfl | hy <;> simp_all
  obtain ⟨h1, h2⟩ := hl
  refine ⟨fun y hy => ?_, ?_⟩
  · rcases mem l y hy with rfl | hy
    · exact he
    · exact h1 y hy
  · induction l with
    | nil => simp [insertWhere]
    | cons x l ih =>
      obtain ⟨hx, hl⟩ := List.pairwise_cons.mp h2
      have hxe := h x (by simp)
      have hxx := h1 x (by simp)
      unfold insertWhere; split
      next hlt =>
        simp only [decide_eq_true_eq] at hlt
        refine List.pairwise_cons.mpr ⟨fun y hy => ?_, h2⟩
        rcases List.mem_cons.mp hy with rfl | hy
        · omega
        · have := hx y hy; omega
      next hge =>
        simp only [decide_eq_true_eq] at hge
        refine List.pairwise_cons.mpr ⟨fun y hy => ?_, ih (fun y hy => h y (by simp [hy])) (fun y hy => h1 y (by simp [hy])) hl⟩
        rcases mem l y hy with rfl | hy
        · omega
        · exact hx y hy

theorem firstFailure_cons {c : Bool} {st : Status} {l : List (Bool × Status)} (h : firstFailure ((c, st) :: l) = none) :
    c = false ∧ firstFailure l = none := by
  unfold firstFailure at h; split at h
  · simp at h
  next hc => exact ⟨by simpa using hc, h⟩

theorem lawful_exceptionAdd (hp : p.lawful) (x y : CalDate) (n : Option Nat) (q : Option Bool) (b : Bool) :
    (Part.exceptionAdd x y n q b p).1.lawful := by
  refine lawful_checked hp fun h => Part.lawful_of_laws (Part.laws_selectionEdited _) ?_
  obtain ⟨_, h⟩ := firstFailure_cons h
  obtain ⟨h1, h⟩ := firstFailure_cons h
  obtain ⟨h2, _⟩ := firstFailure_cons h
  obtain ⟨l1, l2, l3, l4⟩ := hp
  refine ⟨exceptionsApart_insert l1 ?_ ?_, l2, l3, l4⟩
  · simp only [Bool.or_eq_false_iff, decide_eq_false_iff_not] at h1
    dsimp only; omega
  · intro e he
    have := List.any_eq_false.mp h2 e he
    simpa using this

theorem lawful_exceptionRemove (hp : p.lawful) (x : CalDate) (b : Bool) : (Part.exceptionRemove x b p).1.lawful := by
  refine lawful_checked hp fun _ => Part.lawful_of_laws (Part.laws_selectionEdited _) ?_
  obtain ⟨⟨l1, l2⟩, l3⟩ := hp
  exact ⟨⟨fun e he => l1 e (List.mem_of_mem_filter he), l2.sublist List.filter_sublist⟩, l3⟩

/-! ### Ranges -/

theorem Range.meets_comm (a b : Range) : a.meets b = b.meets a := by
  have : ∀ x y z w : Bool, (x && y && z && w) = (y && x && w && z) := by decide
  exact this _ _ _ _

/-- A range that shares no zone with the others stands apart from them (R39, R142). -/
theorem rangesApart_set {n : Nat} {v : Vector Range n} (hv : rangesApart v) (i : Nat) (r : Range)
    (h : ∀ j (hj : j < n), j ≠ i → (v[j]).meets r = false) : rangesApart (v.setIfInBounds i r) := by
  intro a b ha hb hab
  simp only [Vector.getElem_setIfInBounds]
  split
  next e1 =>
    split
    next e2 => exact absurd (e1.symm.trans e2) hab
    next e2 => rw [Range.meets_comm]; exact h b hb fun e => e2 e.symm
  next e1 =>
    split
    · exact h a ha fun e => e1 e.symm
    · exact hv a b ha hb hab

theorem vector_map_set {α β : Type} {n : Nat} (v : Vector α n) (i : Nat) (x : α) (g : α → β) :
    (v.setIfInBounds i x).map g = (v.map g).setIfInBounds i (g x) := by
  ext j hj; simp only [Vector.getElem_map, Vector.getElem_setIfInBounds]; split <;> simp

/-- A map that does not look at the places is `Vector.map`. -/
theorem Tab.mapAll_const {α β : Type} {n : Nat} (v : Vector α n) (f : α → β) : (Tab.mapAll v fun _ a => f a) = v.map f := by
  ext i hi; all_goals simp [Tab.mapAll]

theorem tab_get_lt {α : Type} {n : Nat} (v : Vector α n) (i : Nat) (hi : i < n) (d : α) : Tab.get v i d = v[i] := by
  simp [Tab.get, hi]

theorem lawful_buildingWrite (hp : p.lawful) (n : Nat) (r : Range) (b : Bool) : (Part.buildingWrite n r b p).1.lawful := by
  refine lawful_checked hp fun h => ?_
  obtain ⟨_, h⟩ := firstFailure_cons h
  obtain ⟨_, h⟩ := firstFailure_cons h
  obtain ⟨_, h⟩ := firstFailure_cons h
  obtain ⟨h2, _⟩ := firstFailure_cons h
  obtain ⟨l1, l2, l3, l4⟩ := hp
  refine ⟨l1, ?_, l3, l4⟩
  simp only [Part.modBuilding_arb, Tab.modify]
  split
  · rw [vector_map_set]
    refine rangesApart_set l2 n _ fun j hj hjn => ?_
    have := List.any_eq_false.mp h2 j (by simpa [upTo] using hj)
    simp only [Bool.and_eq_true, bne_iff_ne, not_and, Bool.not_eq_true] at this
    simpa [Part.building, tab_get_lt _ j hj] using this hjn
  · exact l2

theorem lawful_rosterChanged (old : Part) (hp : p.lawful) : (Part.rosterChanged old p).lawful := by
  refine Part.lawful_of_laws ?_ hp
  unfold Part.rosterChanged; dsimp only
  refine (Part.laws_each _ (fun q pos => Part.laws_of_layout (by simp)) _ _).trans ?_
  refine (Part.laws_of_layout (Part.layout_settleZones _ _)).trans (Part.laws_each _ (fun q z => ?_) _ _)
  rw [Part.laws_of_layout (Part.layout_drillUnowned _ _)]
  exact (Part.laws_modZone _ _ _).trans (Part.laws_of_layout (Part.layout_endClaims _ _))

theorem lawful_rosterWrite (hp : p.lawful) (n : Nat) (r : RosterOperand) (b : Bool) : (Part.rosterWrite n r b p).1.lawful := by
  refine lawful_checked hp fun h => ?_
  dsimp only
  apply lawful_rosterChanged
  obtain ⟨_, h⟩ := firstFailure_cons h
  obtain ⟨_, h⟩ := firstFailure_cons h
  obtain ⟨_, h⟩ := firstFailure_cons h
  obtain ⟨h2, _⟩ := firstFailure_cons h
  obtain ⟨l1, l2, l3, l4⟩ := hp
  refine ⟨l1, l2, ?_, l4⟩
  simp only [Tab.set]
  rw [vector_map_set]
  refine rangesApart_set l3 n _ fun j hj hjn => ?_
  have := List.any_eq_false.mp h2 j (by simpa [upTo] using hj)
  simp only [Bool.and_eq_true, bne_iff_ne, not_and, Bool.not_eq_true] at this
  simpa [Part.rosterAt, tab_get_lt _ j hj, rosterOf] using this hjn

theorem lawful_rosterLength (hp : p.lawful) (n : Nat) (b : Bool) : (Part.rosterLength n b p).1.lawful :=
  lawful_checked hp fun _ => by
    dsimp only
    apply lawful_rosterChanged
    exact Part.lawful_of_laws rfl hp

/-! ### Circuits -/

/-- A definition that names no line of another stands apart from them (R110). -/
theorem linesApart_set {v : Vector (Option CircuitDef) 32} (hv : linesApart v) (c : Nat) (d : Option CircuitDef)
    (h : ∀ x, d = some x → ∀ j (hj : j < 32), j ≠ c → ∀ y, v[j] = some y → ¬(y.position = x.position ∧ y.line = x.line)) :
    linesApart (v.setIfInBounds c d) := by
  intro i j hi hj hij a b
  simp only [Vector.getElem_setIfInBounds]
  split
  next e1 =>
    split
    next e2 => exact absurd (e1.symm.trans e2) hij
    next e2 =>
      intro ha hb hab
      exact h a ha j hj (fun e => e2 e.symm) b hb ⟨hab.1.symm, hab.2.symm⟩
  next e1 =>
    split
    next e2 =>
      intro ha hb hab
      exact h b hb i hi (fun e => e1 e.symm) a ha hab
    · exact hv i j hi hj hij a b

/-- The laws after a circuit's definition has been replaced (R120). -/
theorem Part.laws_defineCircuit (p : Part) (c : Nat) (d : Option CircuitDef) :
    (p.defineCircuit c d).laws =
      (p.laws.1, p.laws.2.1, p.laws.2.2.1, (p.clk.circuits.map fun r => r.map (·.definition)).setIfInBounds c d) := by
  unfold Part.defineCircuit
  (repeat' split) <;>
    simp only [Part.laws, Part.writeDial, Part.setCircuit_clk, Part.withdraw_clk, Part.setCircuit_cal, Part.setCircuit_arb,
      Part.setCircuit_chain, Part.withdraw_cal, Part.withdraw_arb, Part.withdraw_chain, Tab.set, vector_map_set, Option.map_some,
      Option.map_none, Circuit.fresh]

theorem lawful_circuitWrite (hp : p.lawful) (c : Nat) (d : Option CircuitDef) (b : Bool) :
    (Part.circuitWrite c d b p).1.lawful := by
  refine lawful_checked hp fun h => ?_
  obtain ⟨_, h⟩ := firstFailure_cons h
  obtain ⟨h1, h⟩ := firstFailure_cons h
  obtain ⟨_, h⟩ := firstFailure_cons h
  obtain ⟨h2, _⟩ := firstFailure_cons h
  simp only [Bool.or_eq_false_iff, decide_eq_false_iff_not] at h1
  refine Part.lawful_of_laws (Part.laws_of_layout (Part.layout_evaluateCircuit _ _)) ?_
  have hl := p.laws_defineCircuit c d
  simp only [Part.laws, Prod.mk.injEq] at hl
  obtain ⟨e1, e2, e3, e4⟩ := hl
  obtain ⟨l1, l2, l3, l4⟩ := hp
  refine ⟨by rw [e1]; exact l1, by rw [e2]; exact l2, by rw [e3]; exact l3, ?_⟩
  rw [e4]
  refine linesApart_set l4 c d fun x hx j hj hjc y hy hxy => ?_
  subst hx
  simp only [Option.any_some, Part.lineTaken] at h2
  have := List.any_eq_false.mp h2 j (by simpa [upTo] using hj)
  simp only [Vector.getElem_map, Option.map_eq_some_iff] at hy
  obtain ⟨r, hr, rfl⟩ := hy
  simp [hjc, Part.circuit, tab_get_lt _ j hj, hr] at this
  exact this hxy.1 hxy.2

end

/-! ### A load and a start-up -/

/-- What valid tables keep (R185). -/
def Tables.lawful (t : Tables) : Prop :=
  exceptionsApart t.exceptions ∧ rangesApart t.ranges ∧ rangesApart (t.roster.map (·.window)) ∧ linesApart t.circuits

theorem exceptions_of_neighbours {l : List ExceptionRec} (h : ∀ e ∈ l, e.first ≤ e.last)
    (hn : neighbours (fun a b => a.last < b.first) l = true) : exceptionsApart l := by
  refine ⟨h, ?_⟩
  induction l with
  | nil => exact List.Pairwise.nil
  | cons a l ih =>
    cases l with
    | nil => simp
    | cons b l =>
      simp only [neighbours, Bool.and_eq_true, decide_eq_true_eq] at hn
      have ih := ih (fun e he => h e (by simp [he])) hn.2
      refine List.pairwise_cons.mpr ⟨fun c hc => ?_, ih⟩
      rcases List.mem_cons.mp hc with rfl | hc
      · exact hn.1
      · have h1 := (List.pairwise_cons.mp ih).1 c hc
        have h2 := h b (by simp)
        omega

theorem pairwise_of_disjoint {l : List Range} (h : disjoint l = true) : l.Pairwise fun a b => a.meets b = false := by
  induction l with
  | nil => exact List.Pairwise.nil
  | cons r l ih =>
    simp only [disjoint, Bool.and_eq_true, List.all_eq_true, Bool.not_eq_true'] at h
    exact List.pairwise_cons.mpr ⟨h.1, ih h.2⟩

theorem rangesApart_of_disjoint {n : Nat} {v : Vector Range n} (h : disjoint v.toList = true) : rangesApart v := by
  have hp := List.pairwise_iff_getElem.mp (pairwise_of_disjoint h)
  intro i j hi hj hij
  rcases Nat.lt_or_gt_of_ne hij with hlt | hlt
  · exact hp i j (by simpa using hi) (by simpa using hj) hlt
  · rw [Range.meets_comm]; exact hp j i (by simpa using hj) (by simpa using hi) hlt

theorem linesApart_of_nodup {v : Vector (Option CircuitDef) 32}
    (h : ((v.toList.filterMap id).map fun d => (d.position, d.line)).Nodup) : linesApart v := by
  have key : ∀ (l : List (Option CircuitDef)), ((l.filterMap id).map fun d => (d.position, d.line)).Nodup →
      l.Pairwise fun x y => ∀ a b, x = some a → y = some b → ¬(a.position = b.position ∧ a.line = b.line) := by
    intro l
    induction l with
    | nil => intro _; exact List.Pairwise.nil
    | cons x l ih =>
      intro h
      cases x with
      | none => exact List.pairwise_cons.mpr ⟨fun _ _ a b ha => by simp at ha, ih (by simpa using h)⟩
      | some d =>
        simp only [List.filterMap_cons, id, List.map_cons, List.nodup_cons] at h
        refine List.pairwise_cons.mpr ⟨fun y hy a b ha hb hab => ?_, ih h.2⟩
        cases ha; subst hb
        refine h.1 (List.mem_map.mpr ⟨b, List.mem_filterMap.mpr ⟨some b, hy, rfl⟩, ?_⟩)
        rw [hab.1, hab.2]
  have hp := List.pairwise_iff_getElem.mp (key _ h)
  intro i j hi hj hij a b ha hb hab
  rcases Nat.lt_or_gt_of_ne hij with hlt | hlt
  · exact hp i j (by simpa using hi) (by simpa using hj) hlt a b (by simpa using ha) (by simpa using hb) hab
  · exact hp j i (by simpa using hj) (by simpa using hi) hlt b a (by simpa using hb) (by simpa using ha)
      ⟨hab.1.symm, hab.2.symm⟩

theorem Tables.lawful_of_valid {t : Tables} (h : t.valid = true) : t.lawful := by
  simp only [Tables.valid, Bool.and_eq_true, List.all_eq_true, decide_eq_true_eq, circuitsAllowed, beq_iff_eq] at h
  obtain ⟨⟨⟨⟨⟨⟨⟨⟨⟨⟨⟨⟨_, h2⟩, _⟩, _⟩, _⟩, _⟩, _⟩, h8⟩, h9⟩, _⟩, h11⟩, _⟩, _⟩ := h
  refine ⟨exceptions_of_neighbours (fun e he => (h2.1.2 e he).1.1) h2.2, rangesApart_of_disjoint h8.2,
    rangesApart_of_disjoint (by rw [Vector.toList_map]; exact h9.1.2), linesApart_of_nodup (nodup_of_eraseDups ?_)⟩
  rw [h11.2, List.length_map]

/-- The laws of a part whose tables have been replaced; the circuits are replaced by their own rule. -/
theorem Part.laws_withTables (p : Part) (t : Tables) :
    (p.withTables t).laws = (t.exceptions, t.ranges, t.roster.map (·.window), p.laws.2.2.2) := by
  simp only [Part.laws, Part.withTables, Prod.mk.injEq, true_and]
  refine ⟨?_, trivial⟩
  ext i hi; all_goals simp [Tab.mapAll]

/-- The definitions after a load has walked over some circuits. -/
theorem Part.laws_defined (t : Tables) (l : List Nat) : ∀ q : Part, (∀ c ∈ l, c < 32) →
    (q.each l fun q c => (q.defineCircuit c (Tab.get t.circuits c none)).evaluateCircuit c).laws =
      (q.laws.1, q.laws.2.1, q.laws.2.2.1,
        Vector.ofFn fun i => if i.val ∈ l then t.circuits[i] else (q.laws.2.2.2)[i]) := by
  induction l with
  | nil =>
    intro q _
    simp only [Part.each, List.foldl_nil, List.not_mem_nil, if_false]
    refine Prod.ext rfl (Prod.ext rfl (Prod.ext rfl ?_))
    ext i hi; all_goals simp
  | cons c l ih =>
    intro q hl
    have hc := hl c (by simp)
    refine (ih _ fun x hx => hl x (by simp [hx])).trans ?_
    have he := (Part.laws_of_layout (Part.layout_evaluateCircuit (q.defineCircuit c (Tab.get t.circuits c none)) c)).trans
      (q.laws_defineCircuit c (Tab.get t.circuits c none))
    rw [he]
    refine Prod.ext rfl (Prod.ext rfl (Prod.ext rfl ?_))
    refine Vector.ext fun i hi => ?_
    simp only [Vector.getElem_ofFn, List.mem_cons]
    by_cases h1 : i ∈ l
    · simp [h1]
    · by_cases h2 : i = c
      · subst h2; simp [h1, tab_get_lt _ i hi]
      · have h3 : ¬ c = i := fun e => h2 e.symm
        simp [h1, h2, h3, Part.laws]

/-- A load of valid tables leaves a lawful part (R170). -/
theorem lawful_loadTables (p : Part) {t : Tables} (h : t.valid = true) : (p.loadTables t).lawful := by
  obtain ⟨l1, l2, l3, l4⟩ := Tables.lawful_of_valid h
  unfold Part.loadTables; dsimp only
  have sel : ∀ q : Part, q.loadSelections.layout = q.layout := by
    intro q; simp [Part.loadSelections]
  refine Part.lawful_of_layout (sel _) ?_
  apply lawful_rosterChanged
  have hd := Part.laws_defined t (upTo 32) ((p.clearClaims).withTables t) fun c hc => by simpa [upTo] using hc
  rw [Part.laws_withTables] at hd
  have hv : (Vector.ofFn fun i : Fin 32 => if i.val ∈ upTo 32 then t.circuits[i] else
      ((p.clearClaims).laws.2.2.2)[i]) = t.circuits := by
    refine Vector.ext fun i hi => ?_
    simp [upTo]
  simp only [hv] at hd
  simp only [Part.laws, Prod.mk.injEq] at hd
  obtain ⟨e1, e2, e3, e4⟩ := hd
  exact ⟨by rw [e1]; exact l1, by rw [e2]; exact l2, by rw [e3]; exact l3, by rw [e4]; exact l4⟩

/-- The empty tables are lawful. -/
theorem Part.lawful_reset : Part.reset.lawful := by
  have e : ∀ n (i : Nat) (hi : i < n), (Vector.replicate n Building.reset)[i] = Building.reset := fun n i hi => by simp
  refine ⟨⟨by simp [Part.reset], by simp [Part.reset]⟩, ?_, ?_, ?_⟩
  · intro i j hi hj _; simp [Part.reset, Building.reset, Range.meets, Range.isEmpty]
  · intro i j hi hj _; simp [Part.reset, Chain.reset, RosterRecord.reset, Range.meets, Range.isEmpty]
  · intro i j hi hj _ a b ha; simp [Part.reset] at ha

/-- The part without main power is lawful. -/
theorem Part.lawful_dark (p : Part) : p.dark.lawful := Part.lawful_of_laws (p := Part.reset) rfl Part.lawful_reset

/-- A start-up leaves a lawful part (R171). -/
theorem lawful_startUp (b : Backup) {stored : Option Tables} (h : ∀ t, stored = some t → t.valid = true) :
    (Part.startUp b stored).lawful := by
  have key : ∀ p : Part, p.lawful → (if (((p.restoreTime).restoreCircuits b.valid).startSelections.chain.autoStart &&
      decide (0 < ((p.restoreTime).restoreCircuits b.valid).startSelections.chain.length)) = true then
      (((p.restoreTime).restoreCircuits b.valid).startSelections).startLine false
      else ((p.restoreTime).restoreCircuits b.valid).startSelections).lawful := by
    intro p hp
    have h1 : p.restoreTime.layout = p.layout := by unfold Part.restoreTime; dsimp only; (repeat' split) <;> simp
    have h2 : ∀ q : Part, (q.restoreCircuits b.valid).layout = q.layout := by
      intro q; unfold Part.restoreCircuits; dsimp only
      rw [Part.layout_note]
      refine (Part.layout_each _ (fun q a => ?_) _ _).trans (Part.layout_each _ (fun q a => ?_) _ _)
      · exact (Part.layout_writeDial _ _).trans (Part.layout_modCircuit q a _ fun _ => rfl)
      · exact Part.layout_modCircuit q a _ fun _ => rfl
    have h3 : ∀ q : Part, q.startSelections.layout = q.layout := by
      intro q; unfold Part.startSelections; dsimp only; split <;> simp
    have h4 : (((p.restoreTime).restoreCircuits b.valid).startSelections).layout = p.layout := by rw [h3, h2, h1]
    split
    · exact Part.lawful_of_layout ((Part.layout_startLine _ _).trans h4) hp
    · exact Part.lawful_of_layout h4 hp
  unfold Part.startUp
  refine key _ ?_
  cases stored with
  | none => exact Part.lawful_of_laws (p := Part.reset) rfl Part.lawful_reset
  | some t =>
    obtain ⟨l1, l2, l3, l4⟩ := Tables.lawful_of_valid (h t rfl)
    refine ⟨l1, ?_, l3, ?_⟩
    · have : (Tab.mapAll t.ranges fun _ r => (⟨r, .clear, none⟩ : Building)).map (·.zones) = t.ranges := by
        refine Vector.ext fun i hi => ?_; simp [Tab.mapAll]
      simpa only [Part.withTables, this] using l2
    · have : (Tab.mapAll t.circuits fun _ d => d.map Circuit.fresh).map (fun r => r.map (·.definition)) = t.circuits := by
        refine Vector.ext fun i hi => ?_
        simp only [Tab.mapAll, Vector.getElem_map, Vector.getElem_ofFn]
        cases hx : t.circuits[i] <;> simp [Circuit.fresh]
      simpa only [this] using l4

/-- A time change that is reached leaves the tables lawful: it only marks its record. -/
theorem lawful_takeChange {p : Part} (h : p.lawful) : p.takeChange.lawful := by
  unfold Part.takeChange
  split
  · unfold Part.applyChange; dsimp only
    exact Part.lawful_of_laws ((Part.laws_of_layout (Part.layout_jumpTo _ _ _)).trans rfl) h
  · exact h

end Sys2Proof.Machine
end

