-- ==== Sys2Proof/Laws/Node.lean ====
section
/-! SUPPORT. What the operations on a node do to its setup store. -/

namespace Sys2Proof.Machine

section
variable (n : Node)

@[simp] theorem Node.store_setOutputs (o : Vector Applied 64) : (n.setOutputs o).store = n.store := rfl
@[simp] theorem Node.store_zoneOutput (w lo hi : Nat) (o : Output) : (n.zoneOutput w lo hi o).store = n.store := by
  unfold Node.zoneOutput; exact n.store_setOutputs _
@[simp] theorem Node.store_silence (w : Nat) : (n.silence w).store = n.store := by
  unfold Node.silence; exact n.store_setOutputs _
@[simp] theorem Node.store_impulse (w l : Nat) (p : Polarity) (k : Nat) : (n.impulse w l p k).store = n.store := rfl
@[simp] theorem Node.store_restart (f : Option Nat) : (n.restart f).store = n.store := rfl
@[simp] theorem Node.store_lineReset : n.lineReset.store = n.store := rfl
@[simp] theorem Node.store_powerUp : n.powerUp.store = n.store := rfl
@[simp] theorem Node.store_powerDown : n.powerDown.store = n.store := rfl
@[simp] theorem Node.store_sized : n.sized.store = n.store := rfl
@[simp] theorem Node.store_takeHeader (h : DownHalf) : (n.takeHeader h).store = n.store := rfl
@[simp] theorem Node.store_inputEdge (i : Nat) : (n.inputEdge i).store = n.store := rfl
@[simp] theorem Node.store_pulseEnd (w l : Nat) : (n.pulseEnd w l).store = n.store := rfl
@[simp] theorem Node.store_tick (w : Nat) (c : Bool) : (n.tick w c).store = n.store := rfl
@[simp] theorem Node.store_setPower (w : Nat) (q : Bool) : (n.setPower w q).store = n.store := by
  unfold Node.setPower; (repeat' split) <;> simp
@[simp] theorem Node.store_warmupEnd (w : Nat) : (n.warmupEnd w).store = n.store := by
  unfold Node.warmupEnd; split <;> simp
@[simp] theorem Node.store_cutEnd (w : Nat) : (n.cutEnd w).store = n.store := by
  unfold Node.cutEnd; split <;> simp
@[simp] theorem Node.store_isolate (w : Nat) : (n.isolate w).store = n.store := by
  unfold Node.isolate; dsimp only; (repeat' split) <;> simp
@[simp] theorem Node.store_holdOverEnd (w : Nat) : (n.holdOverEnd w).store = n.store := by
  unfold Node.holdOverEnd; split <;> simp
@[simp] theorem Node.store_lineResetEnd (w : Nat) : (n.lineResetEnd w).store = n.store := by
  unfold Node.lineResetEnd; split <;> simp
@[simp] theorem Node.store_fitted (l : List Host.Cell) (g : PortFault) : (Node.fitted l g).store = l := rfl

end

/-- A line command keeps the setup store canonical (R158). -/
theorem Node.wf_effect {n : Node} (h : Memory.wf n.store = true) (w q : Nat) (c : LineCommand) :
    Memory.wf (n.effect w q c).store = true := by
  cases c <;> simp only [Node.effect, Node.store_zoneOutput, Node.store_impulse, Node.store_setPower] <;> try exact h
  split
  · exact Memory.wf_writeRun _ _ _ h
  · exact h

/-- What a node makes of a slot keeps the setup store canonical. -/
theorem Node.wf_takeSlot {n : Node} (h : Memory.wf n.store = true) (w : Nat) (s : Option Slot) :
    Memory.wf (n.takeSlot w s).node.store = true := by
  unfold Node.takeSlot; dsimp only
  (repeat' split) <;> try exact h
  exact Node.wf_effect (n := { n with sinceApplied := min (n.sinceApplied + 1) (resendCycles + 1) }) h _ _ _

/-- A cycle leaves as many nodes as there were, with their setup stores canonical. -/
theorem passAlong_sound (noise : Noise) (w : Nat) (h : DownHalf) : ∀ (l : List Node) (place : Nat) (live : Bool)
    (slot : Option Slot), (∀ n ∈ l, Memory.wf n.store = true) →
    ((passAlong noise w h place live slot l).map (·.node)).length = l.length ∧
    ∀ n ∈ (passAlong noise w h place live slot l).map (·.node), Memory.wf n.store = true := by
  intro l
  induction l with
  | nil => intro place live slot _; simp [passAlong]
  | cons n l ih =>
    intro place live slot hl
    have tail := fun place live slot => ih place live slot fun m hm => hl m (List.mem_cons_of_mem _ hm)
    unfold passAlong; dsimp only
    split
    · obtain ⟨h1, h2⟩ := tail (place + 1) (live && n.closed && n.segment == .none)
        (if ((n.takeHeader h).takeSlot w slot).passes then slot else none)
      refine ⟨by simpa using h1, fun m hm => ?_⟩
      rcases List.mem_cons.mp hm with rfl | hm
      · exact Node.wf_takeSlot (n := n.takeHeader h) (hl n (List.mem_cons_self ..)) _ _
      · exact h2 m hm
    · obtain ⟨h1, h2⟩ := tail (place + 1) (live && n.closed && n.segment == .none) slot
      refine ⟨by simpa using h1, fun m hm => ?_⟩
      rcases List.mem_cons.mp hm with rfl | hm
      · exact hl _ (List.mem_cons_self ..)
      · exact h2 m hm

/-- A unit of time leaves the nodes of the line and their setup stores. -/
theorem tickNodes_sound (w : Nat) {l : List Node} (c : Bool) (h : nodesSound l) : nodesSound (tickNodes w c l) := by
  have : ∀ (l : List Node) (c : Bool), (tickNodes w c l).map Node.store = l.map Node.store := by
    intro l
    induction l with
    | nil => intro c; rfl
    | cons n l ih => intro c; simp [tickNodes, ih]
  have hs := this l c
  refine ⟨?_, fun n hn => ?_⟩
  · have := congrArg List.length hs
    simp only [List.length_map] at this
    rw [this]; exact h.1
  · have : n.store ∈ l.map Node.store := hs ▸ List.mem_map_of_mem hn
    obtain ⟨m, hm, he⟩ := List.mem_map.mp this
    rw [← he]; exact h.2 m hm

end Sys2Proof.Machine
end

