-- ==== Sys2Proof/WellFormed.lean ====
section
/-! DEFINITION. The well-formed commands: those whose operands fit the fields of spec 11 (R181 to R184).

Well-formed does not mean allowed: an operand outside the range of its request's rule is refused by the command's
meaning. A request that is not well-formed could not be written as a frame. -/

namespace Sys2Proof

/-- A value that a one-byte field holds. -/
def fitsByte (n : Nat) : Bool := n < 256

/-- A value that a one-byte field holds beside the mark 0xFF (R181). -/
def fitsMarked (n : Option Nat) : Bool := n.all (· < 255)

/-- A value that a two-byte field holds. -/
def fitsWord (n : Nat) : Bool := n < 65536

/-- A value that a three-byte field holds. -/
def fitsTenths (n : Nat) : Bool := n < 16777216

/-- A value that a signed one-byte field holds. -/
def fitsSignedByte (n : Int) : Bool := -128 ≤ n && n ≤ 127

/-- A value that a signed two-byte field holds. -/
def fitsSignedWord (n : Int) : Bool := -32768 ≤ n && n ≤ 32767

/-- A list that a one-byte count precedes (R181). -/
def fitsCount {α : Type} (l : List α) : Bool := l.length < 256

/-- A range takes two bytes (R181). -/
def Range.wf (r : Range) : Bool := fitsByte r.first && fitsByte r.last

/-- A date takes three bytes: the year less 2000, the month and the day (R181). -/
def CalDate.wf (d : CalDate) : Bool := 2000 ≤ d.year && d.year < 2256 && fitsByte d.month && fitsByte d.day

/-- The fields of a bell entry (R22): three, one, one and two bytes. -/
def BellEntry.wf (e : BellEntry) : Bool :=
  fitsTenths e.time && fitsByte e.group && fitsByte e.pattern && fitsWord e.duration

/-- What BELL_RING rings (R35). -/
def Selector.wf : Selector → Bool
  | .group g => fitsByte g
  | .zones r => r.wf

/-- The fields of a drill program (R82). -/
def Program.wf (p : Program) : Bool :=
  fitsCount p.scope && p.scope.all fitsByte && fitsMarked p.chime && fitsByte p.prealert && fitsByte p.evacuation &&
  fitsWord p.tone && fitsCount p.targets && p.targets.all fitsWord && fitsWord p.muster && fitsByte p.allclearPattern &&
  fitsByte p.allclear

/-- The fields of a circuit definition (R110); its first byte is not the mark *empty*. -/
def CircuitDef.wf (d : CircuitDef) : Bool :=
  d.position < 255 && fitsByte d.line && fitsByte d.width && fitsByte d.spacing && fitsByte d.holdLimit

/-- The fields of a roster record (R142), with its four input definitions. -/
def RosterOperand.wf (r : RosterOperand) : Bool :=
  fitsMarked r.maker && fitsMarked r.model && r.window.wf && fitsMarked r.building && fitsByte r.tapAssigned &&
  fitsByte r.holdOver && r.inputs.length == 4 && r.inputs.all (fun i => fitsMarked i.building)

/-- The bytes of an addressed setup store (R184): addresses 0 to 65,535, each at most once. -/
def storeBytesWf (l : List StoreByte) : Bool :=
  l.all (fun b => b.address < 65536) && (l.map StoreByte.address).eraseDups.length == l.length

/-- A line has at most 24 places (spec 00 section 4). -/
def Noise.wf (n : Noise) : Bool :=
  n.notTaken.all (· < 24) && n.lost.all (· < 24) && n.spoiled.all (· < 24) && n.foreign.all (fun f => f.1 < 24)

/-- Whether a command's operands fit their fields. -/
def Instr.fields : Instr → Bool
  | .timeSet _ d t => d.wf && fitsTenths t
  | .timeTrim _ a => fitsSignedWord a
  | .weekWrite _ es => es.length == 7 && es.all fitsMarked
  | .exceptionAdd _ f l p _ => f.wf && l.wf && fitsMarked p
  | .exceptionRemove _ d => d.wf
  | .exceptionRead _ i => fitsByte i
  | .timeChangeAdd _ d m s => d.wf && fitsWord m && fitsSignedByte s
  | .timeChangeRemove _ d m => d.wf && fitsWord m
  | .quietSet _ a b => fitsWord a && fitsWord b
  | .groupWrite _ g rs => fitsByte g && fitsCount rs && rs.all Range.wf
  | .groupRead _ g => fitsByte g
  | .planWrite _ p es => fitsByte p && fitsCount es && es.all BellEntry.wf
  | .planAppend _ p es => fitsByte p && fitsCount es && es.all BellEntry.wf
  | .planClear _ p => fitsByte p
  | .planRead _ p i => fitsByte p && fitsWord i
  | .timelineRead _ i => fitsWord i
  | .bellRing _ s p d => s.wf && fitsByte p && fitsWord d
  | .bellSilence _ z => z.wf
  | .bellSettings _ g c => fitsByte g && fitsWord c
  | .buildingWrite _ b z => fitsByte b && z.wf
  | .zoneDefine _ z _ => fitsByte z
  | .zoneEnable _ z _ _ => z.wf
  | .zoneMask _ z _ _ => z.wf
  | .zoneRead _ z => z.wf
  | .yieldRelease _ b => fitsByte b
  | .announceStart _ _ r sp c l => fitsByte r && fitsCount sp && sp.all Range.wf && fitsMarked c && fitsWord l
  | .announceEnd _ i => fitsByte i
  | .announceCancel _ i => fitsByte i
  | .announceRead _ i n => fitsByte i && fitsByte n
  | .programWrite _ p f => fitsByte p && f.wf
  | .programRead _ p => fitsByte p
  | .drillStart _ p _ => fitsByte p
  | .drillRecordsRead _ i => fitsByte i
  | .scheduleAdd _ d m p => d.wf && fitsWord m && fitsByte p
  | .scheduleRemove _ d m => d.wf && fitsWord m
  | .displaySet _ p _ => fitsByte p
  | .circuitWrite _ c d => fitsByte c && d.all CircuitDef.wf
  | .circuitSetDial _ c r _ => fitsByte c && fitsWord r
  | .circuitStop _ c => fitsByte c
  | .circuitRun _ c => fitsByte c
  | .circuitRead _ c => c.wf
  | .nodeLinkRead _ p => fitsByte p
  | .rosterWrite _ p r => fitsByte p && r.wf
  | .rosterLength _ n => fitsByte n
  | .rosterRead _ p => fitsByte p
  | .lineSettings _ _ _ i => fitsByte i
  | .chainRead _ f => fitsByte f
  | .lineRestart _ p => fitsByte p
  | .nodePower _ p _ => fitsByte p
  | .nodeRead _ p a c => fitsByte p && fitsWord a && fitsByte c
  | .nodeWrite _ p a bs => fitsByte p && fitsWord a && fitsCount bs
  | .frameReceived _ _ body _ => body.length ≤ 246
  | .frameLengthAbandon n => n.toNat < 2 || 248 < n.toNat
  | .bellEntryReached i => i < 480
  | .claimEndTime z => z < 64
  | .chimeEnd i => fitsByte i
  | .limitTime i => fitsByte i
  | .targetReached b => b < 8
  | .impulseSpacingEnd c => c < 32
  | .confirmationWaitEnd c => c < 32
  | .lineCycle n => n.wf
  | .nodeLivenessTimeout p => p < 24
  | .nodeInputEdge p i => p < 24 && i < 4
  | .nodePulseEnd p l => p < 24 && l < 2
  | .nodeWarmupEnd p => p < 24
  | .nodeCutOnwardEnd p => p < 24
  | .nodeIsolated p => p < 24
  | .nodeHoldOverEnd p => p < 24
  | .nodeLineReset p => p < 24
  | .nodePowerRestart p f => p < 24 && f.all storeBytesWf
  | .nodePowerLoss p => p < 24
  | .onwardSegmentChange p _ => p < 24
  | _ => true

/-- A command is well-formed: its tag takes one byte and its operands fit their fields. -/
def Instr.wellFormed (i : Instr) : Bool := i.tag?.all fitsByte && i.fields

end Sys2Proof
end

