-- ==== Sys2Proof/Laws/PerInstr.lean ====
section
/-! SUPPORT. Per command: the tag of a well-formed request takes one byte (R161, R181). -/

namespace Sys2Proof.Laws.Tagged

/-- A well-formed command that carries a tag carries one that a byte holds. -/
def Statement (i : Instr) : Prop := i.wellFormed = true → ∀ t, i.tag? = some t → t < 256

/-- Well-formedness gives the width of the tag, whatever the command. -/
theorem of_wellFormed (i : Instr) : Statement i := by
  intro h t ht
  simp only [Instr.wellFormed, ht, Option.all_some, Bool.and_eq_true, fitsByte, decide_eq_true_eq] at h
  exact h.1

theorem identify (tag : Nat) : Statement (.identify tag) := of_wellFormed _
theorem status (tag : Nat) : Statement (.status tag) := of_wellFormed _
theorem timeSet (tag : Nat) (date : CalDate) (tenths : Nat) : Statement (.timeSet tag date tenths) := of_wellFormed _
theorem timeTrim (tag : Nat) (amount : Int) : Statement (.timeTrim tag amount) := of_wellFormed _
theorem timeRead (tag : Nat) : Statement (.timeRead tag) := of_wellFormed _
theorem weekWrite (tag : Nat) (entries : List (Option Nat)) : Statement (.weekWrite tag entries) := of_wellFormed _
theorem weekRead (tag : Nat) : Statement (.weekRead tag) := of_wellFormed _
theorem exceptionAdd (tag : Nat) (first : CalDate) (last : CalDate) (plan : Option Nat) (quiet : Option Bool) :
    Statement (.exceptionAdd tag first last plan quiet) := of_wellFormed _
theorem exceptionRemove (tag : Nat) (first : CalDate) : Statement (.exceptionRemove tag first) := of_wellFormed _
theorem exceptionRead (tag : Nat) (index : Nat) : Statement (.exceptionRead tag index) := of_wellFormed _
theorem timeChangeAdd (tag : Nat) (date : CalDate) (minute : Nat) (shift : Int) :
    Statement (.timeChangeAdd tag date minute shift) := of_wellFormed _
theorem timeChangeRemove (tag : Nat) (date : CalDate) (minute : Nat) :
    Statement (.timeChangeRemove tag date minute) := of_wellFormed _
theorem timeChangeRead (tag : Nat) : Statement (.timeChangeRead tag) := of_wellFormed _
theorem quietSet (tag : Nat) (start : Nat) (stop : Nat) : Statement (.quietSet tag start stop) := of_wellFormed _
theorem quietRead (tag : Nat) : Statement (.quietRead tag) := of_wellFormed _
theorem groupWrite (tag : Nat) (group : Nat) (ranges : List Range) :
    Statement (.groupWrite tag group ranges) := of_wellFormed _
theorem groupRead (tag : Nat) (group : Nat) : Statement (.groupRead tag group) := of_wellFormed _
theorem planWrite (tag : Nat) (plan : Nat) (entries : List BellEntry) :
    Statement (.planWrite tag plan entries) := of_wellFormed _
theorem planAppend (tag : Nat) (plan : Nat) (entries : List BellEntry) :
    Statement (.planAppend tag plan entries) := of_wellFormed _
theorem planClear (tag : Nat) (plan : Nat) : Statement (.planClear tag plan) := of_wellFormed _
theorem planRead (tag : Nat) (plan : Nat) (index : Nat) : Statement (.planRead tag plan index) := of_wellFormed _
theorem timelineRead (tag : Nat) (index : Nat) : Statement (.timelineRead tag index) := of_wellFormed _
theorem bellRing (tag : Nat) (selector : Selector) (pattern : Nat) (duration : Nat) :
    Statement (.bellRing tag selector pattern duration) := of_wellFormed _
theorem bellSilence (tag : Nat) (zones : Range) : Statement (.bellSilence tag zones) := of_wellFormed _
theorem bellSettings (tag : Nat) (grace : Nat) (catchUp : Nat) :
    Statement (.bellSettings tag grace catchUp) := of_wellFormed _
theorem bellSettingsRead (tag : Nat) : Statement (.bellSettingsRead tag) := of_wellFormed _
theorem buildingWrite (tag : Nat) (building : Nat) (zones : Range) :
    Statement (.buildingWrite tag building zones) := of_wellFormed _
theorem buildingRead (tag : Nat) : Statement (.buildingRead tag) := of_wellFormed _
theorem zoneDefine (tag : Nat) (zone : Nat) (kind : Option ZoneKind) :
    Statement (.zoneDefine tag zone kind) := of_wellFormed _
theorem zoneEnable (tag : Nat) (zones : Range) (source : Option Source) (on : Option Bool) :
    Statement (.zoneEnable tag zones source on) := of_wellFormed _
theorem zoneMask (tag : Nat) (zones : Range) (source : Option Source) (set : Option Bool) :
    Statement (.zoneMask tag zones source set) := of_wellFormed _
theorem zoneRead (tag : Nat) (zones : Range) : Statement (.zoneRead tag zones) := of_wellFormed _
theorem yieldRelease (tag : Nat) (building : Nat) : Statement (.yieldRelease tag building) := of_wellFormed _
theorem announceStart (tag : Nat) (input : Option PagingInput) (rank : Nat) (spec : List Range) (chime : Option Nat) (limit : Nat) :
    Statement (.announceStart tag input rank spec chime limit) := of_wellFormed _
theorem announceEnd (tag : Nat) (id : Nat) : Statement (.announceEnd tag id) := of_wellFormed _
theorem announceCancel (tag : Nat) (id : Nat) : Statement (.announceCancel tag id) := of_wellFormed _
theorem announceList (tag : Nat) : Statement (.announceList tag) := of_wellFormed _
theorem announceRead (tag : Nat) (id : Nat) (index : Nat) : Statement (.announceRead tag id index) := of_wellFormed _
theorem programWrite (tag : Nat) (program : Nat) (fields : Program) :
    Statement (.programWrite tag program fields) := of_wellFormed _
theorem programRead (tag : Nat) (program : Nat) : Statement (.programRead tag program) := of_wellFormed _
theorem drillStart (tag : Nat) (program : Nat) (force : Option Bool) :
    Statement (.drillStart tag program force) := of_wellFormed _
theorem drillAbort (tag : Nat) : Statement (.drillAbort tag) := of_wellFormed _
theorem drillRead (tag : Nat) : Statement (.drillRead tag) := of_wellFormed _
theorem drillRecordsRead (tag : Nat) (index : Nat) : Statement (.drillRecordsRead tag index) := of_wellFormed _
theorem scheduleAdd (tag : Nat) (date : CalDate) (minute : Nat) (program : Nat) :
    Statement (.scheduleAdd tag date minute program) := of_wellFormed _
theorem scheduleRemove (tag : Nat) (date : CalDate) (minute : Nat) :
    Statement (.scheduleRemove tag date minute) := of_wellFormed _
theorem scheduleRead (tag : Nat) : Statement (.scheduleRead tag) := of_wellFormed _
theorem displaySet (tag : Nat) (position : Nat) (blank : Option Bool) :
    Statement (.displaySet tag position blank) := of_wellFormed _
theorem displayRead (tag : Nat) : Statement (.displayRead tag) := of_wellFormed _
theorem circuitWrite (tag : Nat) (circuit : Nat) (definition : Option CircuitDef) :
    Statement (.circuitWrite tag circuit definition) := of_wellFormed _
theorem circuitSetDial (tag : Nat) (circuit : Nat) (reading : Nat) (polarity : PolarityGiven) :
    Statement (.circuitSetDial tag circuit reading polarity) := of_wellFormed _
theorem circuitStop (tag : Nat) (circuit : Nat) : Statement (.circuitStop tag circuit) := of_wellFormed _
theorem circuitRun (tag : Nat) (circuit : Nat) : Statement (.circuitRun tag circuit) := of_wellFormed _
theorem circuitRead (tag : Nat) (circuits : Range) : Statement (.circuitRead tag circuits) := of_wellFormed _
theorem countersRead (tag : Nat) (clear : Option Bool) : Statement (.countersRead tag clear) := of_wellFormed _
theorem countersFreeze (tag : Nat) (freeze : Option Bool) : Statement (.countersFreeze tag freeze) := of_wellFormed _
theorem nodeLinkRead (tag : Nat) (position : Nat) : Statement (.nodeLinkRead tag position) := of_wellFormed _
theorem rosterWrite (tag : Nat) (position : Nat) (record : RosterOperand) :
    Statement (.rosterWrite tag position record) := of_wellFormed _
theorem rosterLength (tag : Nat) (length : Nat) : Statement (.rosterLength tag length) := of_wellFormed _
theorem rosterRead (tag : Nat) (position : Nat) : Statement (.rosterRead tag position) := of_wellFormed _
theorem lineSettings (tag : Nat) (autoStart : Option Bool) (autoSetup : Option Bool) (interval : Nat) :
    Statement (.lineSettings tag autoStart autoSetup interval) := of_wellFormed _
theorem lineSettingsRead (tag : Nat) : Statement (.lineSettingsRead tag) := of_wellFormed _
theorem chainRead (tag : Nat) (first : Nat) : Statement (.chainRead tag first) := of_wellFormed _
theorem lineStart (tag : Nat) : Statement (.lineStart tag) := of_wellFormed _
theorem lineRestart (tag : Nat) (position : Nat) : Statement (.lineRestart tag position) := of_wellFormed _
theorem lineStop (tag : Nat) : Statement (.lineStop tag) := of_wellFormed _
theorem nodePower (tag : Nat) (position : Nat) (power : Option PowerRequest) :
    Statement (.nodePower tag position power) := of_wellFormed _
theorem nodeRead (tag : Nat) (position : Nat) (address : Nat) (count : Nat) :
    Statement (.nodeRead tag position address count) := of_wellFormed _
theorem nodeWrite (tag : Nat) (position : Nat) (address : Nat) (bytes : List Byte) :
    Statement (.nodeWrite tag position address bytes) := of_wellFormed _
theorem noticeEnable (tag : Nat) (kinds : BitVec 16) (on : Option Bool) :
    Statement (.noticeEnable tag kinds on) := of_wellFormed _
theorem noticeEnableRead (tag : Nat) : Statement (.noticeEnableRead tag) := of_wellFormed _
theorem storeSave (tag : Nat) : Statement (.storeSave tag) := of_wellFormed _
theorem storeLoad (tag : Nat) : Statement (.storeLoad tag) := of_wellFormed _
theorem restart (tag : Nat) : Statement (.restart tag) := of_wellFormed _
theorem frameReceived (frameTag : Byte) (kind : Byte) (body : List Byte) (check : Byte) :
    Statement (.frameReceived frameTag kind body check) := of_wellFormed _
theorem frameGapTimeout (next : Byte) : Statement (.frameGapTimeout next) := of_wellFormed _
theorem transmitDone : Statement (.transmitDone) := of_wellFormed _
theorem startUp (answers : Bool) : Statement (.startUp answers) := of_wellFormed _
theorem mainPowerLoss : Statement (.mainPowerLoss) := of_wellFormed _
theorem batteryLow : Statement (.batteryLow) := of_wellFormed _
theorem dayStart : Statement (.dayStart) := of_wellFormed _
theorem rangeEnd : Statement (.rangeEnd) := of_wellFormed _
theorem trimSecond : Statement (.trimSecond) := of_wellFormed _
theorem minuteBoundary : Statement (.minuteBoundary) := of_wellFormed _
theorem timeChangeReached : Statement (.timeChangeReached) := of_wellFormed _
theorem bellEntryReached (index : Nat) : Statement (.bellEntryReached index) := of_wellFormed _
theorem latestStart (posting : Nat) : Statement (.latestStart posting) := of_wellFormed _
theorem claimEndTime (zone : Nat) : Statement (.claimEndTime zone) := of_wellFormed _
theorem chimeEnd (id : Nat) : Statement (.chimeEnd id) := of_wellFormed _
theorem limitTime (id : Nat) : Statement (.limitTime id) := of_wellFormed _
theorem scheduledDrillReached : Statement (.scheduledDrillReached) := of_wellFormed _
theorem drillWakeWaitEnd : Statement (.drillWakeWaitEnd) := of_wellFormed _
theorem probeEchoWaitEnd : Statement (.probeEchoWaitEnd) := of_wellFormed _
theorem prealertEnd : Statement (.prealertEnd) := of_wellFormed _
theorem targetReached (building : Nat) : Statement (.targetReached building) := of_wellFormed _
theorem toneEnd : Statement (.toneEnd) := of_wellFormed _
theorem musterLimit : Statement (.musterLimit) := of_wellFormed _
theorem allclearEnd : Statement (.allclearEnd) := of_wellFormed _
theorem impulseSpacingEnd (circuit : Nat) : Statement (.impulseSpacingEnd circuit) := of_wellFormed _
theorem confirmationWaitEnd (circuit : Nat) : Statement (.confirmationWaitEnd circuit) := of_wellFormed _
theorem lineCycle (noise : Noise) : Statement (.lineCycle noise) := of_wellFormed _
theorem nodeLivenessTimeout (position : Nat) : Statement (.nodeLivenessTimeout position) := of_wellFormed _
theorem hailWindowEnd : Statement (.hailWindowEnd) := of_wellFormed _
theorem setupWaitEnd : Statement (.setupWaitEnd) := of_wellFormed _
theorem headPortClose (test : PortFault) : Statement (.headPortClose test) := of_wellFormed _
theorem headPortFault (kind : FaultKind) : Statement (.headPortFault kind) := of_wellFormed _
theorem faultedRetryExpiry (test : PortFault) : Statement (.faultedRetryExpiry test) := of_wellFormed _
theorem retryExpiry : Statement (.retryExpiry) := of_wellFormed _
theorem cutSettleEnd : Statement (.cutSettleEnd) := of_wellFormed _
theorem storeSaveComplete (good : Bool) : Statement (.storeSaveComplete good) := of_wellFormed _
theorem storeLoadComplete (answers : Bool) : Statement (.storeLoadComplete answers) := of_wellFormed _
theorem nodeInputEdge (place : Nat) (input : Nat) : Statement (.nodeInputEdge place input) := of_wellFormed _
theorem nodePulseEnd (place : Nat) (line : Nat) : Statement (.nodePulseEnd place line) := of_wellFormed _
theorem nodeWarmupEnd (place : Nat) : Statement (.nodeWarmupEnd place) := of_wellFormed _
theorem nodeCutOnwardEnd (place : Nat) : Statement (.nodeCutOnwardEnd place) := of_wellFormed _
theorem nodeIsolated (place : Nat) : Statement (.nodeIsolated place) := of_wellFormed _
theorem nodeHoldOverEnd (place : Nat) : Statement (.nodeHoldOverEnd place) := of_wellFormed _
theorem nodeLineReset (place : Nat) : Statement (.nodeLineReset place) := of_wellFormed _
theorem nodePowerRestart (place : Nat) (fitted : Option (List StoreByte)) :
    Statement (.nodePowerRestart place fitted) := of_wellFormed _
theorem startByte : Statement (.startByte) := of_wellFormed _
theorem frameLengthAbandon (length : Byte) : Statement (.frameLengthAbandon length) := of_wellFormed _
theorem nodePowerLoss (place : Nat) : Statement (.nodePowerLoss place) := of_wellFormed _
theorem onwardSegmentChange (place : Nat) (segment : PortFault) :
    Statement (.onwardSegmentChange place segment) := of_wellFormed _

end Sys2Proof.Laws.Tagged
end

