-- ==== Sys2Proof/Laws/Requests.lean ====
section
/-! SUPPORT. Requests and events in full: what they lead to when the blocks' claims and announcements stand. -/

namespace Sys2Proof.Machine

/-- A part with nothing on its way to the port is its own emptied self. -/
theorem Part.empty_outbox {p : Part} (h : p.outbox = []) : { p with outbox := [] } = p := by
  cases p; simp_all

/-- The end of a step in which nothing was sent, after a reply. -/
theorem finish_replied {s : State} {p : Part} (h : p.outbox = []) (tag kind : Nat) (a : Answer) :
    finish { s with part := p, port := { s.port with replies := s.port.replies ++ [replyOf tag kind a] } } =
      State.replied { s with part := p } tag kind a := by
  simp only [finish, State.replied, h, Port.drain, List.foldl_nil, Part.empty_outbox h]

/-- A request that its own function refuses makes its reply and changes nothing else. -/
theorem request_refused {s : State} {tag : Nat} (h : s.ready tag) (i : Instr) (kind : Nat) (f : State → State × Answer)
    {a : Answer} (hf : f s = (s, a)) : request i tag kind f s = s.replied tag kind a := by
  rw [request_carried h, hf]
  exact finish_replied (p := s.part) h.2.2.2.2 tag kind a

/-- A request of a block that touches no announcement and sends nothing. -/
theorem request_block {s : State} {tag : Nat} (h : s.ready tag) (hs : s.part.settled) (i : Instr) (kind : Nat)
    (f : Bool → Part → Part × Answer) {p : Part} {a : Answer} (hf : f s.port.saving.isSome s.part = (p, a))
    (ha : a.status = .ok ∨ a.status = .accepted) (h1 : p.ann = s.part.ann) (h5 : p.outbox = []) :
    request i tag kind (ofPart f) s = State.replied { s with part := p } tag kind a := by
  rw [request_carried h]
  have : ofPart f s = ({ s with part := p }, a) := by
    simp only [ofPart, hf]
    rw [if_pos ha, Part.settle_same hs h1]
  rw [this]
  exact finish_replied h5 tag kind a

/-- A long operation of a block of the same kind. -/
theorem request_long {s : State} {tag : Nat} (h : s.ready tag) (hs : s.part.settled) (i : Instr) (kind : Nat)
    (f : Bool → Part → Part × Answer) {p : Part} {a : Answer} (hl : s.port.longOp = none)
    (hf : f s.port.saving.isSome s.part = (p, a)) (ha : a.status = .accepted) (h1 : p.ann = s.part.ann) (h5 : p.outbox = []) :
    request i tag kind (longOp tag kind (ofPart f)) s =
      State.replied { s with part := p, port := { s.port with longOp := some ⟨tag, kind, s.part.now, none⟩ } } tag kind a := by
  rw [request_carried h]
  have : longOp tag kind (ofPart f) s =
      ({ s with part := p, port := { s.port with longOp := some ⟨tag, kind, s.part.now, none⟩ } }, a) := by
    have ho : ofPart f s = ({ s with part := p }, a) := by
      simp only [ofPart, hf]
      rw [if_pos (.inr ha), Part.settle_same hs h1]
    simp only [longOp, hl, ho, Option.isSome_none, if_false, ha, if_true, Bool.false_eq_true]
  rw [this]
  exact finish_replied
    (s := { s with port := { s.port with longOp := some ⟨tag, kind, s.part.now, none⟩ } }) h5 tag kind a

/-- A request of a block leaves what lies outside the part and the replies as it is. -/
theorem request_sameOutside {s : State} {tag : Nat} (h : s.ready tag) (i : Instr) (kind : Nat)
    (f : Bool → Part → Part × Answer) : State.sameOutside s (request i tag kind (ofPart f) s) := by
  rw [request_carried h]
  have hp : (ofPart f s).1.port = s.port ∧ (ofPart f s).1.memory = s.memory ∧ (ofPart f s).1.nodes = s.nodes ∧
      (ofPart f s).1.powered = s.powered ∧ (ofPart f s).1.world = s.world ∧ (ofPart f s).1.marks = s.marks ∧
      (ofPart f s).1.pending = s.pending := by
    simp only [ofPart]; split <;> exact ⟨rfl, rfl, rfl, rfl, rfl, rfl, rfl⟩
  obtain ⟨h1, h2, h3, h4, h5, h6, h7⟩ := hp
  have hf := Port.frame_drain { (ofPart f s).1.port with
    replies := (ofPart f s).1.port.replies ++ [replyOf tag kind (ofPart f s).2] } (ofPart f s).1.part.outbox
  simp only [Port.frame, Prod.mk.injEq, h1] at hf
  obtain ⟨f1, f2, _, f4, f5, f6, f7, f8, f9, f10⟩ := hf
  exact ⟨h2, h3, h4, h5, h6, h7, by simpa [finish, h1] using f1, by simpa [finish, h1] using f2,
    by simpa [finish, h1] using f4, by simpa [finish, h1] using f5, by simpa [finish, h1] using f6,
    by simpa [finish, h1] using f7, by simpa [finish, h1] using f8, by simpa [finish, h1] using f9,
    by simpa [finish, h1] using f10⟩

/-- An event of the part leaves what lies outside the part, its notices and its replies as it is. -/
theorem event_sameOutside (f : Part → Part) (s : State) : State.sameOutside s (event f s) := by
  unfold event; split
  · have hf := Port.frame_drain s.port (Part.settle (f s.part)).outbox
    simp only [Port.frame, Prod.mk.injEq] at hf
    obtain ⟨f1, f2, _, f4, f5, f6, f7, f8, f9, f10⟩ := hf
    exact ⟨rfl, rfl, rfl, rfl, rfl, rfl, f1, f2, f4, f5, f6, f7, f8, f9, f10⟩
  · exact ⟨rfl, rfl, rfl, rfl, rfl, rfl, rfl, rfl, rfl, rfl, rfl, rfl, rfl, rfl, rfl⟩

/-- The part after an event. -/
theorem event_part {s : State} (h : s.powered = true) (f : Part → Part) :
    (event f s).part = { Part.settle (f s.part) with outbox := [] } := by
  simp [event, h, finish]

end Sys2Proof.Machine
end

