-- ==== Sys2Proof/Laws/StartUp.lean ====
section
/-! SUPPORT. A start-up: it leaves no announcement, and its port is within the invariant. -/

namespace Sys2Proof.Machine

/-- A walk over a list leaves the announcements when each of its steps does. -/
theorem Part.ann_each {α : Type} (f : Part → α → Part) (h : ∀ q a, (f q a).ann = q.ann) (l : List α) :
    ∀ p : Part, (p.each l f).ann = p.ann := by
  induction l with
  | nil => intro p; rfl
  | cons a l ih => intro p; exact (ih (f p a)).trans (h p a)

@[simp] theorem Part.ann_noteTime (p : Part) (c : TimeCause) : (p.noteTime c).ann = p.ann := rfl
@[simp] theorem Part.ann_modCircuit (p : Part) (c : Nat) (f : Circuit → Circuit) : (p.modCircuit c f).ann = p.ann := by unfold Part.modCircuit; split <;> rfl
@[simp] theorem Part.ann_writeDial (p : Part) (c : Nat) : (p.writeDial c).ann = p.ann := rfl
@[simp] theorem Part.ann_wake (p : Part) (pos : Nat) : (p.wake pos).ann = p.ann := by
  unfold Part.wake; (repeat' split) <;> simp [apply_ite Part.ann]
@[simp] theorem Part.ann_quiet (p : Part) : p.evaluateQuiet.ann = p.ann := by
  unfold Part.evaluateQuiet; dsimp only; split
  · rfl
  · split
    · simp only [Part.ann_noteTime]; unfold Part.quietBegins
      refine (Part.ann_each _ (fun q a => ?_) _ _).trans rfl
      unfold Part.sendQuiet; (repeat' split) <;> simp
    · simp only [Part.ann_noteTime]; unfold Part.quietEnds
      refine (Part.ann_each _ (fun q a => by simp) _ _).trans rfl
theorem Part.ann_restoreTime (p : Part) : p.restoreTime.ann = p.ann := by
  unfold Part.restoreTime; dsimp only; (repeat' split) <;> rfl
theorem Part.ann_restoreCircuits (p : Part) (v : Bool) : (p.restoreCircuits v).ann = p.ann := by
  unfold Part.restoreCircuits; dsimp only
  rw [Part.note_ann]
  refine (Part.ann_each _ (fun q a => by simp) _ _).trans (Part.ann_each _ (fun q a => by simp) _ _)
theorem Part.ann_startSelections (p : Part) : p.startSelections.ann = p.ann := by
  unfold Part.startSelections; dsimp only; split
  · have : ∀ q : Part, q.scheduleSet.ann = q.ann := by
      intro q; unfold Part.scheduleSet Part.missEntries; dsimp only
      (repeat' split) <;> simp
    rw [this]
    simp only [Part.buildNow, Part.buildTimeline, Part.ann_quiet, Part.selectDay, Part.setSelection, Part.ann_noteTime]
  · rfl
/-- A start-up leaves no announcement. -/
theorem Part.ann_startUp (b : Backup) (t : Option Tables) : (Part.startUp b t).ann = ⟨[], 0, 0⟩ := by
  have key : ∀ p : Part, (if (((p.restoreTime).restoreCircuits b.valid).startSelections.chain.autoStart && decide (0 < ((p.restoreTime).restoreCircuits b.valid).startSelections.chain.length)) = true then (((p.restoreTime).restoreCircuits b.valid).startSelections).startLine false else ((p.restoreTime).restoreCircuits b.valid).startSelections).ann = p.ann := by
    intro p
    have h : (((p.restoreTime).restoreCircuits b.valid).startSelections).ann = p.ann := by
      rw [Part.ann_startSelections, Part.ann_restoreCircuits, Part.ann_restoreTime]
    split
    · exact h
    · exact h
  unfold Part.startUp
  refine (key _).trans ?_
  cases t <;> rfl

/-- A part without announcements is settled. -/
theorem Part.settled_nil {p : Part} (h : p.ann.records = []) : p.settled := by
  intro i _; simp [Part.queue, h]

/-- The port before a start-up is within the invariant. -/
theorem Port.dark_ok : Port.dark.ok := by
  refine ⟨⟨by decide, by decide, by decide, by decide, by decide⟩, ?_, ?_⟩
  · intro op h; simp [Port.dark, Port.reset] at h
  · intro _; simp [Port.dark, Port.reset]

/-- The port after a start-up is within the invariant. -/
theorem Port.startUp_ok (c : StartCause) (st : Option Tables) (v b : Bool) (l : List Message) : (Port.startUp c st v b l).ok := by
  unfold Port.startUp; dsimp only
  have h0 : ({ Port.dark with rx := .hunting, imageState := if st.isSome then .valid else .invalid } : Port).bounded ∧ ({ Port.dark with rx := .hunting, imageState := if st.isSome then .valid else .invalid } : Port).endingWaits := by
    exact ⟨Port.dark_ok.1, Port.dark_ok.2.1⟩
  have h1 := Port.take_bounded h0.1 h0.2 (.notice (.started c st.isSome v b))
  have h2 := Port.drain_ok h1.1 h1.2 l
  exact h2


end Sys2Proof.Machine
end

