-- ==== Sys2Proof/Tests/Slice0.lean ====
section
/-! SUPPORT. The tests: ill-formed commands are refused, the checks and layouts that spec 11 works out, what a few commands
do on a small site, and for each obligation with premises a state and operands that meet them (`witness_<Name>`, one
conjunct for each of its clauses, at boundary values of their ranges; `witness_<Name>_<topic>` for some of them apart). -/

namespace Sys2Proof.Tests
open Sys2Proof.Machine

set_option Elab.async false

/-! ### States for the tests -/

/-- An identity that a node may give: two lanes, quiet capable, a warm-up of 2 s, two inputs, two clock lines. -/
def identity : Identity := ⟨7, 3, 1, 2, true, 2, 2, 2, 0⟩

/-- A roster record of the test site. -/
def rosterRow (window : Range) (building : Nat) (first : InputFunction) : RosterRecord :=
  { RosterRecord.reset with
    window := window, building := some building,
    inputs := Vector.ofFn fun i => if i.val = 0 then ⟨first, some building, .rising⟩ else ⟨.none, none, .rising⟩ }

/-- The runtime record of a node in a state. -/
def nodeIn (st : NodeState) : Runtime := { Runtime.reset with node := st, answer := some ⟨identity, false, none⟩ }

/-- The three roster records of the test site. -/
def siteRoster : Vector RosterRecord 24 := Vector.ofFn fun i => match i.val with
  | 0 => rosterRow ⟨0, 7⟩ 0 .clear
  | 1 => rosterRow ⟨8, 15⟩ 0 .count
  | 2 => rosterRow ⟨16, 23⟩ 1 .yield
  | _ => RosterRecord.reset

/-- A drill program over both buildings. -/
def program : Program := ⟨[0, 1], some 3, 10, 8, 120, [90, 240], 600, 9, 10⟩

/-- A circuit at node 0, line 0. -/
def circuitDef : CircuitDef := ⟨0, 0, 5, 20, 30⟩

/-- The test site at 2024-08-26 07:59:59.0 (a Monday): three READY nodes with zones 0 to 23, speakers from zone 8 on, two
buildings, a plan for every weekday, a drill program, a stopped circuit; nothing is sounding and nothing is on its way. -/
def site : State :=
  let p := Part.reset
  let p := { p with
    now := 1000,
    backup := { p.backup with day := 9004, tod := 287990, valid := true },
    time := ⟨.set, 0, false⟩,
    cal := { p.cal with week := Vector.replicate 7 (some 0), selection := ⟨some 0, .week, false⟩ },
    bell := { p.bell with
      groups := p.bell.groups.setIfInBounds 0 [⟨0, 3⟩, ⟨16, 16⟩]
      plans := p.bell.plans.setIfInBounds 0 [⟨28799, 0, 2, 50⟩, ⟨30000, 0, 5, 0⟩]
      timeline := ⟨some 9004, some 0, 1, [⟨⟨28799, 0, 2, 50⟩, .waiting, none⟩, ⟨⟨30000, 0, 5, 0⟩, .waiting, none⟩]⟩
      furthest := some 9004 },
    arb := { buildings := Vector.ofFn fun i => match i.val with
               | 0 => ⟨⟨0, 15⟩, .clear, none⟩
               | 1 => ⟨⟨16, 23⟩, .clear, none⟩
               | _ => Building.reset
             zones := Vector.ofFn fun i => { Zone.reset with kind := if i.val < 8 then .sounder else .speaker } },
    drill := { p.drill with programs := p.drill.programs.setIfInBounds 0 (some program) },
    clk := { p.clk with circuits := p.clk.circuits.setIfInBounds 0 (some { Circuit.fresh circuitDef with dial := some 479 }) },
    chain := { p.chain with
      roster := siteRoster, length := 3, line := .running, reach := 3
      runtime := Vector.ofFn fun i => if i.val < 3 then nodeIn (.ready .active) else Runtime.reset } }
  { State.reset with part := p, port := { Port.reset with notices := [], sending := none } }

/-- The test site with its part changed. -/
def siteWith (f : Part → Part) : State := { site with part := f site.part }

/-- The state that a command leads to. -/
def after (c : Instr) (s : State) : State :=
  match exec c s with
  | .next t => t
  | _ => s

/-! ### Well-formedness -/

/-- A program that fits its fields, with one field changed by the tests. -/
def fits : Program := ⟨[0], none, 255, 255, 65535, [65535], 65535, 255, 255⟩

/-- A roster record that fits its fields. -/
def fitsRow : RosterOperand := ⟨some 254, none, ⟨0, 255⟩, some 254, 255, 255, List.replicate 4 ⟨none, some 254, none⟩⟩

theorem test_wellFormed_fields :
    [fitsByte 255, fitsMarked none, fitsMarked (some 254), fitsWord 65535, fitsTenths 16777215, fitsSignedByte (-128),
      fitsSignedByte 127, fitsSignedWord (-32768), fitsSignedWord 32767, Range.wf ⟨255, 0⟩, CalDate.wf ⟨2255, 255, 255⟩,
      BellEntry.wf ⟨16777215, 255, 255, 65535⟩, Program.wf fits, CircuitDef.wf ⟨254, 255, 255, 255, 255⟩,
      RosterOperand.wf fitsRow, storeBytesWf [⟨0, 1#8⟩, ⟨65535, 1#8⟩], Noise.wf ⟨[23], [23], [23], [(23, [])], true, true⟩,
      Selector.wf (.group 255), Instr.wellFormed (.timeTrim 255 (-601))].all id = true := by decide

theorem test_illFormed_fields :
    [fitsByte 256, fitsMarked (some 255), fitsWord 65536, fitsTenths 16777216, fitsSignedByte (-129), fitsSignedByte 128,
      fitsSignedWord (-32769), fitsSignedWord 32768, Range.wf ⟨256, 0⟩, Range.wf ⟨0, 256⟩, CalDate.wf ⟨1999, 1, 1⟩,
      CalDate.wf ⟨2256, 1, 1⟩, CalDate.wf ⟨2000, 256, 1⟩, CalDate.wf ⟨2000, 1, 256⟩, BellEntry.wf ⟨16777216, 0, 0, 0⟩,
      BellEntry.wf ⟨0, 256, 0, 0⟩, BellEntry.wf ⟨0, 0, 256, 0⟩, BellEntry.wf ⟨0, 0, 0, 65536⟩, Selector.wf (.group 256),
      Selector.wf (.zones ⟨0, 256⟩), Program.wf { fits with scope := [256] },
      Program.wf { fits with scope := List.replicate 256 0 }, Program.wf { fits with chime := some 255 },
      Program.wf { fits with prealert := 256 }, Program.wf { fits with evacuation := 256 },
      Program.wf { fits with tone := 65536 }, Program.wf { fits with targets := [65536] },
      Program.wf { fits with targets := List.replicate 256 0 }, Program.wf { fits with muster := 65536 },
      Program.wf { fits with allclearPattern := 256 }, Program.wf { fits with allclear := 256 }].any id = false := by
  decide +kernel

theorem test_illFormed_records :
    [CircuitDef.wf ⟨255, 0, 0, 0, 0⟩, CircuitDef.wf ⟨0, 256, 0, 0, 0⟩, CircuitDef.wf ⟨0, 0, 256, 0, 0⟩,
      CircuitDef.wf ⟨0, 0, 0, 256, 0⟩, CircuitDef.wf ⟨0, 0, 0, 0, 256⟩, RosterOperand.wf { fitsRow with maker := some 255 },
      RosterOperand.wf { fitsRow with model := some 255 }, RosterOperand.wf { fitsRow with window := ⟨256, 0⟩ },
      RosterOperand.wf { fitsRow with building := some 255 }, RosterOperand.wf { fitsRow with tapAssigned := 256 },
      RosterOperand.wf { fitsRow with holdOver := 256 }, RosterOperand.wf { fitsRow with inputs := [] },
      RosterOperand.wf { fitsRow with inputs := List.replicate 4 ⟨none, some 255, none⟩ }, storeBytesWf [⟨65536, 0#8⟩],
      storeBytesWf [⟨9, 0#8⟩, ⟨9, 1#8⟩], Noise.wf ⟨[24], [], [], [], false, false⟩, Noise.wf ⟨[], [24], [], [], false, false⟩,
      Noise.wf ⟨[], [], [24], [], false, false⟩, Noise.wf ⟨[], [], [], [(24, [])], false, false⟩].any id = false := by
  decide

/-- A date that fits its field. -/
def day : CalDate := ⟨2024, 1, 1⟩

/-- A date that does not fit its field. -/
def noDay : CalDate := ⟨1999, 1, 1⟩

/-- A range that does not fit its field. -/
def wide : Range := ⟨0, 256⟩

/-! Every check of `Instr.fields` refuses a command, operand by operand. -/

/-- Commands whose operands do not fit their fields. -/
def ill1 : List Instr :=
  [.identify 256, .timeSet 1 noDay 0, .timeSet 1 day 16777216, .timeTrim 1 32768, .weekWrite 1 [],
   .weekWrite 1 [none, none, none, none, none, none, some 255], .exceptionAdd 1 noDay day none none,
   .exceptionAdd 1 day noDay none none, .exceptionAdd 1 day day (some 255) none, .exceptionRemove 1 noDay, .exceptionRead 1 256,
   .timeChangeAdd 1 noDay 0 0, .timeChangeAdd 1 day 65536 0, .timeChangeAdd 1 day 0 128, .timeChangeRemove 1 noDay 0,
   .timeChangeRemove 1 day 65536, .quietSet 1 65536 0, .quietSet 1 0 65536, .groupWrite 1 256 [],
   .groupWrite 1 0 (List.replicate 256 ⟨0, 0⟩), .groupWrite 1 0 [wide], .groupRead 1 256, .planWrite 1 256 [],
   .planWrite 1 0 (List.replicate 256 ⟨0, 0, 0, 0⟩)]

/-- Commands whose operands do not fit their fields. -/
def ill2 : List Instr :=
  [.planWrite 1 0 [⟨0, 256, 0, 0⟩], .planAppend 1 256 [], .planAppend 1 0 (List.replicate 256 ⟨0, 0, 0, 0⟩),
   .planAppend 1 0 [⟨0, 256, 0, 0⟩], .planClear 1 256, .planRead 1 256 0, .planRead 1 0 65536, .timelineRead 1 65536,
   .bellRing 1 (.group 256) 0 0, .bellRing 1 (.group 0) 256 0, .bellRing 1 (.group 0) 0 65536, .bellSilence 1 wide,
   .bellSettings 1 256 0, .bellSettings 1 0 65536, .buildingWrite 1 256 ⟨0, 0⟩, .buildingWrite 1 0 wide,
   .zoneDefine 1 256 none, .zoneEnable 1 wide none none, .zoneMask 1 wide none none, .zoneRead 1 wide, .yieldRelease 1 256,
   .announceStart 1 none 256 [] none 0, .announceStart 1 none 0 (List.replicate 256 ⟨0, 0⟩) none 0,
   .announceStart 1 none 0 [wide] none 0]

/-- Commands whose operands do not fit their fields. -/
def ill3 : List Instr :=
  [.announceStart 1 none 0 [] (some 255) 0, .announceStart 1 none 0 [] none 65536, .announceEnd 1 256,
   .announceCancel 1 256, .announceRead 1 256 0, .announceRead 1 0 256, .programWrite 1 256 fits,
   .programWrite 1 0 { fits with prealert := 256 }, .programRead 1 256, .drillStart 1 256 none,
   .drillRecordsRead 1 256, .scheduleAdd 1 noDay 0 0, .scheduleAdd 1 day 65536 0, .scheduleAdd 1 day 0 256,
   .scheduleRemove 1 noDay 0, .scheduleRemove 1 day 65536, .displaySet 1 256 none, .circuitWrite 1 256 none,
   .circuitWrite 1 0 (some ⟨255, 0, 0, 0, 0⟩), .circuitSetDial 1 256 0 .notGiven, .circuitSetDial 1 0 65536 .notGiven,
   .circuitStop 1 256, .circuitRun 1 256, .circuitRead 1 wide]

/-- Commands whose operands do not fit their fields. -/
def ill4 : List Instr :=
  [.nodeLinkRead 1 256, .rosterWrite 1 256 fitsRow, .rosterWrite 1 0 { fitsRow with inputs := [] },
   .rosterLength 1 256, .rosterRead 1 256, .lineSettings 1 none none 256, .chainRead 1 256, .lineRestart 1 256,
   .nodePower 1 256 none, .nodeRead 1 256 0 0, .nodeRead 1 0 65536 0, .nodeRead 1 0 0 256, .nodeWrite 1 256 0 [],
   .nodeWrite 1 0 65536 [], .nodeWrite 1 0 0 (List.replicate 256 0#8)]

/-- Commands whose operands do not fit their fields. -/
def ill5 : List Instr :=
  [.frameReceived 0#8 0#8 (List.replicate 247 0#8) 0#8, .frameLengthAbandon 2#8, .frameLengthAbandon 248#8,
   .bellEntryReached 480, .claimEndTime 64, .chimeEnd 256, .limitTime 256, .targetReached 8, .impulseSpacingEnd 32,
   .confirmationWaitEnd 32, .lineCycle ⟨[24], [], [], [], false, false⟩, .nodeLivenessTimeout 24, .nodeInputEdge 24 0,
   .nodeInputEdge 0 4, .nodePulseEnd 24 0, .nodePulseEnd 0 2, .nodeWarmupEnd 24, .nodeCutOnwardEnd 24,
   .nodeIsolated 24, .nodeHoldOverEnd 24, .nodeLineReset 24, .nodePowerRestart 24 none,
   .nodePowerRestart 0 (some [⟨65536, 0#8⟩]), .nodePowerLoss 24, .onwardSegmentChange 24 .none]

theorem test_illFormed : [ill1, ill2, ill3, ill4, ill5].all (fun l => !l.any Instr.wellFormed) = true := by decide +kernel

/-! ### Formats -/

/-- The check values of spec 11 section 11.4. -/
theorem test_crc :
    crc8 [0x31#8, 0x32#8, 0x33#8, 0x34#8, 0x35#8, 0x36#8, 0x37#8, 0x38#8, 0x39#8] = 0xF4#8 ∧
    crc16 [0x31#8, 0x32#8, 0x33#8, 0x34#8, 0x35#8, 0x36#8, 0x37#8, 0x38#8, 0x39#8] = 0x29B1#16 := by decide +kernel

/-- No row of the table gives bits. -/
theorem test_no_word_spells_a_command : decodeTableWord 16 7 = none := rfl

/-- The status record that spec 11 section 11.5 writes out, byte by byte; with the counts byte 0x15 it is bad. -/
theorem test_status_record_example :
    (let body := fun counts => [2#8, 0x01#8, 0#8, 88#8, 0#8, counts, 4#8, 0#8, 0#8, 1#8, 57#8, 2#8, 0#8, 0#8, 0#8, 0#8]
     let bytes := fun counts => body counts ++ [crc8 (body counts)]
     (StatusRecord.ofBytes (bytes 0x12#8)).map (fun r => (r.position, r.assigned, r.lastApplied, r.inputs)) =
       some (2, true, 88, [(4, false), (0, true)]) ∧
     StatusRecord.ofBytes (bytes 0x15#8) = none) := by decide +kernel

/-- The frame of spec 11 section 11.5: TIME_READ with tag 7. -/
theorem test_frame_example :
    after (.frameReceived 7#8 5#8 [] (crc8 [2#8, 7#8, 5#8])) { site with port := { site.port with rx := .inFrame } } =
      { site with port := { site.port with buffer := [.request (.timeRead 7)] } } := by decide +kernel

/-- The reply of spec 11 section 11.5, as far as the section gives it: TIME_READ with tag 7 at 2031-03-30 03:00:00.0, then the
weekday. -/
theorem test_reply_example :
    (((after (.timeRead 7) (siteWith fun p => { p with
      backup := { p.backup with day := (⟨2031, 3, 30⟩ : CalDate).number, tod := 108000 } })).port.wire.drop 2).take 10) =
      [7#8, 0x85#8, 0x00#8, 31#8, 3#8, 30#8, 0x01#8, 0xA5#8, 0xE0#8, 6#8] := by decide +kernel

/-- The notice of a trim that is done, on the wire (R19, R181): its head, and the date and time of day. -/
theorem test_notice_example :
    ((SentFrame.notice (.timeEvent .trimDone ⟨9004, 36000⟩ .set) true).bytes.take 12) =
      [0xA5#8, 11#8, 0x00#8, 0x61#8, 0x01#8, 0x06#8, 24#8, 8#8, 26#8, 0x00#8, 0x8C#8, 0xA0#8] := by decide +kernel

/-! ### Witnesses: the machine and its requests -/

/-- What makes a state ready for a request, as one condition. -/
theorem ready_of {s : State} {tag : Nat} (h : (s.listening && tag != 0 && s.port.buffer.isEmpty &&
    decide (s.port.replies.length < replyLimit) && s.part.outbox.isEmpty) = true) : s.ready tag := by
  simp only [Bool.and_eq_true, bne_iff_ne, List.isEmpty_iff, decide_eq_true_eq] at h
  exact ⟨h.1.1.1.1, h.1.1.1.2, h.1.1.2, h.1.2, h.2⟩

/-- A state without announcements is settled. -/
theorem settled_of {s : State} (h : s.part.ann.records.isEmpty = true) : s.part.settled :=
  Part.settled_nil (List.isEmpty_iff.mp h)

theorem site_ready : site.ready 7 := ready_of (by decide +kernel)

theorem site_settled : site.part.settled := settled_of (by decide +kernel)

theorem reset_ready : State.reset.ready 255 := ready_of (by decide +kernel)

/-- The site with its control port changed. -/
def portWith (f : Port → Port) : State := { site with port := f site.port }

/-- The site while a STORE_SAVE is in progress. -/
def saving : State := after (.storeSave 7) site

/-- The site with its line down. -/
def downSite : State := siteWith fun p => { p with chain := { p.chain with line := .down } }

/-- The site early in the day, when nothing is due. -/
def early : State := siteWith fun p => { p with backup := { p.backup with tod := 3 } }

theorem witness_StepRunsTheFrontCommand : ({ site with pending := [.startByte] } : State).pending = .startByte :: [] := rfl

/-- The site with a frame held, which a step takes. -/
def holding (h : HeldFrame) : State := portWith fun o => { o with buffer := [h] }

/-- The site at a time of day at which nothing is due, one unit before a tenth, with a trim. -/
def ticking (tod : Nat) (trim : Int) : State :=
  { siteWith fun p => { p with backup := { p.backup with tod := tod }, time := { p.time with trim := trim } } with world := 4 }

/-- That site with the mark of a tenth that an event was to count. -/
def forestalled (tod : Nat) (trim : Int) : State := { ticking tod trim with marks := { Marks.none with count := true } }

/-- The site, whose first bell entry stands at the present campus time, with such a mark. -/
def overtaken : State := { site with marks := { Marks.none with count := true } }

/-- The entry is reached before the tenth is counted. -/
theorem test_overtaken_entry_is_reached :
    (match step overtaken with
      | .next t => t.pending == [.bellEntryReached 0] && t.part.backup.tod == overtaken.part.backup.tod && t.marks.count
      | _ => false) = true := by decide +kernel

/-- That site without main power. -/
def unpowered (day tod : Nat) (valid : Bool) : State :=
  let s := ticking tod 0
  { s with powered := false, part := { s.part with backup := { s.part.backup with day := day, valid := valid } } }

theorem witness_EmptyQueueStep :
    ([HeldFrame.request (.timeRead 7), .tagZero 5, .unknownKind 3 0x1B, .badLength 7 5].all fun h =>
      let s := holding h
      s.pending == [] && s.listening && s.port.buffer == h :: [] && decide (s.port.replies.length < replyLimit) &&
        s.part.outbox == []) = true ∧
    ([(3, 0, NextTenth.plain), (9, -1, .wait)].all fun x =>
      let s := forestalled x.1 x.2.1
      s.pending == [] && !s.canTake && s.powered && s.marks.count && s.part.time.quality == .set && !s.part.momentDue &&
        s.part.nextTenth == x.2.2) = true ∧
    (let s := overtaken
     s.pending = [] ∧ s.canTake = false ∧ s.powered = true ∧ s.marks.count = true ∧ s.part.time.quality = .set ∧
      s.part.bell.timeline.date = some s.part.backup.day ∧
      (s.part.bell.timeline.entries[0]?.map fun e => (e.state, e.entry.time * 10)) =
        some (EntryState.waiting, s.part.backup.tod)) ∧
    (site.pending = [] ∧ site.canTake = false ∧ site.lateTenth = false ∧
      firstGroup site.groups = some ([.bellEntryReached 0], site.marks)) ∧
    ([(3, 0, NextTenth.plain), (9, -1, .wait), (8, 1, .trim), (863999, 0, .dayEnd)].all fun x =>
      let s := ticking x.1 x.2.1
      s.pending == [] && !s.canTake && !s.lateTenth && (firstGroup s.groups).isNone && s.powered &&
        s.part.time.quality == .set && (s.world + 1) % 5 == 0 && s.part.nextTenth == x.2.2) = true ∧
    ([unpowered 9004 3 false, unpowered 9004 863998 true, unpowered 36523 863999 true, unpowered 36524 863999 true].all fun s =>
      s.pending == [] && !s.canTake && !s.lateTenth && (firstGroup s.groups).isNone && !s.powered &&
        (s.world + 1) % 5 == 0) = true ∧
    ((early.world + 1) % 5 ≠ 0 ∧ early.canTake = false ∧ early.lateTenth = false ∧ firstGroup early.groups = none) ∧
    (let s := { siteWith fun p => { p with time := ⟨.unset, 0, false⟩, bell := Part.reset.bell } with world := 4 }
     s.pending = [] ∧ s.canTake = false ∧ s.lateTenth = false ∧ firstGroup s.groups = none ∧ s.powered = true ∧
      s.part.time.quality = .unset ∧ (s.world + 1) % 5 = 0) := by decide +kernel

/-- The tables of the site, which are valid. -/
def siteTables : Tables := tablesOf site.part site.port.enables

theorem siteTables_valid : siteTables.valid = true := by decide +kernel

/-- The serial memory with the image of the site's tables. -/
def siteImage : SerialMemory := SerialMemory.blank.written (imageOf siteTables)

theorem siteImage_tables : siteImage.tables true = some siteTables := SerialMemory.tables_written (m := .blank) rfl siteTables_valid

theorem site_lawful : site.part.lawful := by
  obtain ⟨h1, h2, h3, h4⟩ := Tables.lawful_of_valid siteTables_valid
  refine ⟨h1, ?_, h3, ?_⟩
  · simpa [siteTables, tablesOf, Tab.mapAll_const] using h2
  · simpa [siteTables, tablesOf, Tab.mapAll_const] using h4

/-- The site with a WAITING time change one tenth ahead, and a tenth elapsed that is still to be counted. -/
def changing : State :=
  { siteWith fun p => { p with backup := { p.backup with tod := 287999 }, cal := { p.cal with changes := [⟨9004, 480, 60, false⟩] } }
    with marks := { Marks.none with count := true } }

theorem changing_timely : changing.timely := by
  refine ⟨by decide +kernel, fun c hc => ?_, fun _ _ c hc _ => ?_⟩
  all_goals
    have h : c = ⟨9004, 480, 60, false⟩ := List.mem_singleton.mp hc
    subst h; decide +kernel

/-- A state with the invariant that takes a step. -/
theorem witness_StepKeepsTheInvariant :
    let s := { changing with pending := [.mainPowerLoss] }
    s.Inv ∧ step s = .next (after .mainPowerLoss changing) := by
  refine ⟨⟨?_, ?_, ?_, ?_, Part.settled_of_ann (p := site.part) rfl site_settled, ?_, rfl,
    Part.lawful_of_laws (p := site.part) rfl site_lawful, changing_timely⟩, ?_⟩
  · simp only [Port.bounded]; decide +kernel
  · intro op h; revert h; simp [changing, siteWith, site, Port.reset]
  · intro _; exact ⟨rfl, .inl rfl⟩
  · rfl
  · exact ⟨by decide, fun n h => by simp [changing, siteWith, site, State.reset] at h⟩
  · rfl

/-- A status record with every field at the end of its range. -/
def fullRecord : StatusRecord :=
  ⟨23, true, true, true, .warming, 255, 255, List.replicate 4 (255, true), [(255, some .positive), (0, none)], true, true, .crossed,
    some (255, List.replicate 8 255#8)⟩

theorem witness_StatusRecordReadsBack : fullRecord.allowed = true ∧ StatusRecord.ofBytes fullRecord.bytes = some fullRecord := by
  decide +kernel

theorem witness_LineCommandReadsBack :
    LineCommand.allowed (.zoneOutput 0 63 (.audio 2)) = true ∧
    LineCommand.allowed (.setupPut 254 none (List.replicate 7 255#8)) = true ∧
    LineCommand.allowed (.storeRead none 8) = true := by decide +kernel

theorem witness_EveryRequestIsAnswered :
    requestKind (.identify 255) = some 1 ∧ (Instr.identify 255).tag? = some 255 ∧ State.reset.ready 255 :=
  ⟨rfl, rfl, reset_ready⟩

theorem witness_RequestsWithoutEffect :
    (requestKind (.timeRead 0) = some 5 ∧ (Instr.timeRead 0).tag? = some 0 ∧ site.listening = true ∧ site.port.buffer = [] ∧
      site.port.replies.length < replyLimit ∧ site.part.outbox = []) ∧
    State.listening { site with powered := false } = false ∧ (portWith fun o => { o with rx := .heldOff }).listening = false ∧
    (portWith fun o => { o with restarting := true }).listening = false := by decide +kernel

/-- A reply that waits. -/
def waiting : Reply := replyOf 1 1 ⟨.ok, .none⟩

theorem witness_RequestsAreHeldInOrder :
    let i := Instr.timeRead 7
    let with_ := fun (buffer : List HeldFrame) (replies : List Reply) (taking : Bool) =>
      portWith fun o => { o with buffer := buffer, replies := replies, taking := taking }
    let base := fun (s : State) => s.listening = true ∧ s.part.outbox = []
    let held := fun (s : State) => (s.port.taking && s.port.buffer.head? == some (HeldFrame.request i)) = false
    let one := HeldFrame.unknownKind 3 0x1B
    requestKind i = some 5 ∧ i.tag? = some 7 ∧
    (let s := with_ [] (List.replicate 4 waiting) false
     base s ∧ held s ∧ s.port.replies.length = replyLimit ∧ s.port.buffer.length < 2) ∧
    (let s := with_ [one] [] false; base s ∧ held s ∧ s.port.buffer ≠ [] ∧ s.port.buffer.length < 2) ∧
    (let s := with_ [one, one] [] false
     base s ∧ held s ∧ s.port.buffer ≠ [] ∧ 2 ≤ s.port.buffer.length ∧ s.port.replies.length < replyLimit) ∧
    (let s := with_ [one, one] (List.replicate 4 waiting) false
     base s ∧ held s ∧ s.port.buffer ≠ [] ∧ 2 ≤ s.port.buffer.length ∧ replyLimit ≤ s.port.replies.length) ∧
    (let s := with_ [.request i, one] [] true
     base s ∧ s.port.taking = true ∧ s.port.buffer = .request i :: [one] ∧ s.port.replies.length < replyLimit) := by
  decide +kernel

/-! ### Witnesses: requests that read -/

theorem witness_TimeReadGivesCampusTime :
    (site.ready 7 ∧ site.part.time.quality = .set) ∧ (State.reset.ready 255 ∧ State.reset.part.time.quality = .unset) :=
  ⟨⟨site_ready, rfl⟩, reset_ready, rfl⟩

theorem witness_CalendarAndBellReads : site.ready 7 ∧ 47 ≤ 47 ∧ 47 < 48 ∧ 31 ≤ 31 ∧ 31 < 32 ∧ (15 ≤ 15 ∧ 479 ≤ 479) ∧
    (15 < 16 ∨ 479 < 479) ∧ (15 < 15 ∨ 479 < 480) := ⟨site_ready, by decide⟩

/-- The site with an announcement that is CHIMING on P1 with an end to its chime, and one QUEUED behind it. -/
def announcing : State := after (.announceStart 7 (some .p1) 1 [⟨8, 9⟩] none 0) (after (.announceStart 7 (some .p1) 2 [⟨10, 12⟩, ⟨30, 30⟩] (some 3) 5) site)

theorem witness_ZoneAndAnnounceReads :
    site.ready 7 ∧ (61 ≤ 63 ∧ 63 ≤ 63 ∧ 63 ≤ 61 + 2) ∧ (0 < 1 ∨ 63 < 0 ∨ 1 + 2 < 0) ∧ (64 < 63 ∨ 63 < 64 ∨ 63 + 2 < 64) ∧
    (3 < 0 ∨ 63 < 3 ∨ 0 + 2 < 3) ∧ (announcing.part.announcement 1).isSome = true ∧ announcing.part.announcement 9 = none ∧
    63 < 64 := ⟨site_ready, by decide +kernel⟩

/-- The site with a drill that begins: the node of building 1 is woken. -/
def waking : State :=
  after (.drillStart 7 0 (some false)) (siteWith fun p => p.modRuntime 2 fun r => { r with node := .ready .quiet })

theorem witness_DrillReads :
    site.ready 7 ∧ 3 ≤ 3 ∧ 3 < 4 ∧ site.part.drill.run = none ∧ waking.ready 7 ∧ waking.part.drill.run.isSome = true :=
  ⟨site_ready, by decide, by decide, rfl, ready_of (by decide +kernel), by decide +kernel⟩

theorem witness_LineAndPortReads :
    site.ready 7 ∧ (24 ≤ 31 ∧ 31 ≤ 31 ∧ 31 ≤ 24 + 7) ∧ (0 < 1 ∨ 31 < 0 ∨ 1 + 7 < 0) ∧ (32 < 31 ∨ 31 < 32 ∨ 31 + 7 < 32) ∧
    (8 < 0 ∨ 31 < 8 ∨ 0 + 7 < 8) ∧ 23 ≤ 23 ∧ 23 < 24 := ⟨site_ready, by decide⟩

/-! ### Witnesses: campus time, the calendar, bells and zones -/

/-- A table entry that is not there meets every premise about it. -/
theorem absent_meets {α : Type} {o : Option α} {P : α → Prop} (h : o.isNone = true) : ∀ r, o = some r → P r := by
  intro r hr; simp [hr] at h

/-- A value that is there meets a premise that holds of it. -/
theorem present_meets {α : Type} {o : Option α} {a : α} {P : α → Prop} (h : o = some a) (ha : P a) : ∀ r, o = some r → P r := by
  intro r hr; rw [h] at hr; cases hr; exact ha

/-- The site at the second before its first bell, with a time change and a drill to come on its date, and one entry whose
event has not yet been taken. -/
def beforeBells : State := siteWith fun p => { p with
  backup := { p.backup with tod := 287000 },
  cal := { p.cal with changes := [⟨9004, 480, 60, false⟩] },
  drill := { p.drill with schedule := [⟨9004, 481, 0, .waiting⟩] } }

theorem witness_TimeSetSetsCampusTime :
    (site.ready 7 ∧ State.reset.ready 255 ∧ beforeBells.ready 7) ∧ (CalDate.valid ⟨2099, 12, 31⟩ = true ∧ 863999 ≤ 863999) ∧
    (State.reset.part.time.quality = .unset) ∧
    (let s := beforeBells
     let day := CalDate.number ⟨2024, 8, 26⟩
     let old := s.part.backup.day * 864000 + s.part.backup.tod
     let e := (s.part.bell.timeline.entries[0]?).getD ⟨⟨0, 0, 0, 0⟩, .passed, none⟩
     s.part.time.quality = .set ∧ s.part.backup.day = day ∧ s.part.bell.timeline.date = some day ∧
      (0 < s.part.bell.grace ∧ s.part.bell.fired.length + s.part.bell.timeline.entries.length ≤ 480) ∧
      s.part.bell.timeline.entries[0]? = some e ∧ e.state = .waiting ∧ e.entry.time * 10 = 287990 ∧
      (∀ tod ∈ [287000 + 1, 287990, 287990 + 1200, 287990 + 1201, 863999], old ≠ day * 864000 + tod) ∧
      (∀ x ∈ s.part.drill.schedule, x.state = .waiting → x.day * 864000 + x.minute * 600 ≠ day * 864000 + 289191) ∧
      s.part.backup.tod ≤ 287990 ∧ 287990 < 289190 ∧ 289190 - 287990 ≤ s.part.bell.catchUp * 10 ∧
      s.part.bell.catchUp * 10 < 289191 - 287990) ∧
    (let s := beforeBells
     let day := CalDate.number ⟨2024, 8, 27⟩
     s.part.backup.day ≠ day ∧ s.part.backup.day < day ∧ s.part.bell.furthest.all (· < day) = true ∧
      (s.part.selectionFor day).plan = some 0 ∧ s.part.bell.furthest = some 9004 ∧ CalDate.number ⟨2024, 8, 25⟩ < 9004) ∧
    (site.part.settled ∧ site.part.time.quality = .set ∧ site.part.campus = ⟨CalDate.number ⟨2024, 8, 26⟩, 287990⟩ ∧
      CalDate.valid ⟨2024, 8, 26⟩ = true ∧ 287990 ≤ 863999) ∧
    (CalDate.valid ⟨2023, 2, 29⟩ = false ∨ 863999 < 0) ∧ (CalDate.valid ⟨2024, 2, 29⟩ = false ∨ 863999 < 864000) :=
  ⟨⟨site_ready, reset_ready, ready_of (by decide +kernel)⟩, by decide, by decide +kernel, by decide +kernel, by decide +kernel,
    ⟨site_settled, by decide +kernel⟩, by decide⟩

/-- The site without circuits, its one entry passed, with a quiet window over midnight and the next day an exception. -/
def bare (f : Part → Part) : State := siteWith fun p => f { p with
  clk := Part.reset.clk
  cal := { p.cal with quietStart := 1320, quietEnd := 360, exceptions := [⟨9005, 9005, none, true⟩] }
  bell := { p.bell with timeline := { p.bell.timeline with entries := [⟨⟨28799, 0, 2, 50⟩, .passed, none⟩] } } }

/-- Where the calendar alone has something to report: SET from UNSET, JUMP within the date and to the next. And an entry at
the old time. -/
theorem witness_TimeSetSetsCampusTime_notices :
    (bare id).ready 7 ∧ (bare id).part.settled ∧ (∀ c < 32, (bare id).part.circuit c = none) ∧
    (bare id).part.time.quality = .set ∧ (∀ e ∈ (bare id).part.bell.timeline.entries, e.state ≠ .waiting) ∧
    ((bare id).part.selectionFor 9005).plan = none ∧ (bare id).part.drill.schedule = [] ∧
    ((bare id).part.backup.day = CalDate.number ⟨2024, 8, 26⟩ ∧ (bare id).part.backup.tod ≠ 10) ∧
    (bare id).part.backup.day ≠ CalDate.number ⟨2024, 8, 27⟩ ∧
    (State.reset.part.settled ∧ (∀ c < 32, State.reset.part.circuit c = none) ∧ State.reset.part.drill.schedule = []) ∧
    (site.part.bell.timeline.entries[0]? = some ⟨⟨28799, 0, 2, 50⟩, .waiting, none⟩ ∧ 28799 * 10 = site.part.backup.tod ∧
      site.part.bell.timeline.date = some (CalDate.number ⟨2024, 8, 26⟩)) :=
  ⟨ready_of (by decide +kernel), settled_of (by decide +kernel), by decide +kernel, by decide +kernel, by decide +kernel,
    by decide +kernel, by decide +kernel, by decide +kernel, by decide +kernel,
    ⟨settled_of (by decide +kernel), by decide +kernel⟩, by decide +kernel⟩

/-- The site, its first bell rung, set back to the day before, so that the furthest date lies ahead. -/
def setBack : State := after (.timeSet 7 ⟨2024, 8, 25⟩ 5000) (after (.bellEntryReached 0) site)

/-- A jump to the furthest date itself: a key in the fired record, and entries before, at and after the new time. -/
theorem witness_TimeSetSetsCampusTime_furthest :
    (setBack.ready 7 ∧ setBack.part.time.quality = .set) ∧
    (let day := CalDate.number ⟨2024, 8, 26⟩
     setBack.part.bell.furthest = some day ∧ setBack.part.backup.day ≠ day ∧
      (∀ e ∈ setBack.part.bell.timeline.entries, e.state = .waiting → e.entry.time * 10 ≠ setBack.part.backup.tod) ∧
      setBack.part.bell.fired = [⟨28799, 0, false⟩] ∧ 0 < setBack.part.bell.grace ∧
      (∀ tod ∈ [299999, 300000, 300001], ((after (.timeSet 7 ⟨2024, 8, 26⟩ tod) setBack).part.bell.timeline.entries.map
        fun x => (x.entry.time, x.state)) = [(28799, .fired),
          (30000, if tod < 300000 then .waiting else if tod = 300000 then .fired else .passed)])) :=
  ⟨⟨ready_of (by decide +kernel), by decide +kernel⟩, by decide +kernel⟩

/-- The site with two exception records, a time change and a scheduled drill. -/
def planned : State := siteWith fun p => { p with
  cal := { p.cal with exceptions := [⟨9000, 9003, some 3, false⟩, ⟨9006, 9010, none, true⟩],
                      changes := [⟨9000, 60, 60, true⟩, ⟨9100, 60, -60, false⟩] },
  drill := { p.drill with schedule := [⟨9000, 60, 0, .missed⟩, ⟨9100, 60, 1, .waiting⟩] } }

theorem planned_ready : planned.ready 7 := ready_of (by decide +kernel)

theorem planned_settled : planned.part.settled := settled_of (by decide +kernel)

theorem witness_CalendarEdits :
    planned.ready 7 ∧ planned.port.saving = none ∧ planned.part.time.quality = .set ∧
    (State.reset.ready 255 ∧ State.reset.port.saving = none ∧ State.reset.part.time.quality = .unset) ∧
    (let entries := List.replicate 6 none ++ [some 15]
     entries.length = 7 ∧ ∀ e ∈ entries, ∀ n, e = some n → n ≤ 15) ∧
    (let first : CalDate := ⟨2024, 8, 26⟩
     let last : CalDate := ⟨2024, 8, 27⟩
     first.valid = true ∧ last.valid = true ∧ first.number ≤ last.number ∧ (∀ n, some 15 = some n → n ≤ 15) ∧
      (∀ e ∈ planned.part.cal.exceptions, last.number < e.first ∨ e.last < first.number) ∧
      planned.part.cal.exceptions.length < 48) ∧
    ((dateOf 9006).valid = true ∧ ∃ e ∈ planned.part.cal.exceptions, e.first = (dateOf 9006).number) ∧
    (1439 ≤ 1439 ∧ 0 ≤ 1439) := by
  refine ⟨planned_ready, rfl, rfl, ⟨reset_ready, rfl, rfl⟩, ⟨rfl, ?_⟩, ⟨by decide, by decide, by decide, ?_, by decide +kernel⟩,
    by decide +kernel, by decide⟩
  · intro e he n hn; subst hn; simp at he; omega
  · intro n hn; cases hn; decide

/-- A selection that stays, one that differs, and one whose quiet-all-day flag differs. -/
theorem witness_CalendarEdits_selections :
    (bare id).part.settled ∧
    (let selects := fun (c : Instr) => (after c (bare id)).part.selectionFor 9004
     let old := (bare id).part.cal.selection
     selects (.weekWrite 7 (List.replicate 7 (some 0))) = old ∧
      (selects (.weekWrite 7 (List.replicate 7 none)) ≠ old ∧
        (selects (.weekWrite 7 (List.replicate 7 none))).quiet = old.quiet) ∧
      (selects (.exceptionAdd 7 ⟨2024, 8, 26⟩ ⟨2024, 8, 26⟩ none (some true))).quiet ≠ old.quiet) :=
  ⟨settled_of (by decide +kernel), by decide +kernel⟩

theorem witness_TimeAndBellTables :
    planned.ready 7 ∧ planned.part.settled ∧ planned.port.saving = none ∧
    (planned.part.time.quality = .set ∧ -600 ≤ (-600 : Int) ∧ (-600 : Int) ≤ 600) ∧
    (let date : CalDate := ⟨2024, 8, 26⟩
     date.valid = true ∧ 1319 ≤ 1439 ∧ (120 : Int) ≠ 0 ∧ (120 : Int) % 15 = 0 ∧ -120 ≤ (120 : Int) ∧ (120 : Int) ≤ 120 ∧
      0 ≤ (1319 : Int) + 120 ∧ (1319 : Int) + 120 ≤ 1439 ∧
      (∀ c ∈ planned.part.cal.changes, ¬ (c.day = date.number ∧ c.minute = 1319)) ∧ planned.part.cal.changes.length < 8) ∧
    ((dateOf 9100).valid = true ∧ ∃ c ∈ planned.part.cal.changes, c.day = (dateOf 9100).number ∧ c.minute = 60) ∧
    (let rs : List Range := [⟨0, 63⟩, ⟨5, 4⟩]
     31 ≤ 31 ∧ 1 ≤ rs.length ∧ rs.length ≤ 4 ∧ (∀ r ∈ rs, r.first ≤ 63 ∧ r.last ≤ 63) ∧ ∃ r ∈ rs, r.first ≤ r.last) ∧
    (120 ≤ 120 ∧ 300 ≤ 300) :=
  ⟨planned_ready, planned_settled, rfl, by decide +kernel⟩

/-- Two entries that are not in order. -/
def newEntries : List BellEntry := [⟨86399, 31, 15, 600⟩, ⟨0, 0, 0, 0⟩]

theorem witness_PlanEdits :
    site.ready 7 ∧ site.port.saving = none ∧ (15 ≤ 15 ∧ site.part.cal.selection.plan ≠ some 15) ∧
    (site.part.time.quality = .set ∧ site.part.cal.selection.plan = some 0) ∧
    (newEntries.length ≤ 32 ∧ (∀ e ∈ newEntries, e.allowed = true) ∧ (newEntries.map fun e => (e.time, e.group)).Nodup ∧
      (site.part.bell.plans.toList.map List.length).sum - (site.part.plan 0).length + newEntries.length ≤ 480 ∧
      (site.part.bell.plans.toList.map List.length).sum ≤ 480) ∧
    (1 ≤ newEntries.length ∧ ((site.part.plan 0 ++ newEntries).map fun e => (e.time, e.group)).Nodup ∧
      (site.part.bell.plans.toList.map List.length).sum + newEntries.length ≤ 480 ∧
      (site.part.plan 0).Pairwise fun a b => a.time < b.time ∨ (a.time = b.time ∧ a.group < b.group)) :=
  ⟨site_ready, rfl, by decide +kernel⟩

/-- The site with the node of building 1 quiet. -/
def quietSite : State := siteWith fun p => p.modRuntime 2 fun r => { r with node := .ready .quiet }

theorem quiet_ready : quietSite.ready 7 := ready_of (by decide +kernel)

/-- Zone 0 is able and free, zone 16 is not able, zone 30 has no owner; with the drill, zone 0 holds a DRILL claim. -/
theorem witness_BellRingPostsClaims :
    quietSite.ready 7 ∧ quietSite.part.settled ∧ 15 ≤ 15 ∧ 600 ≤ 600 ∧ (0 ≤ 63 ∧ 30 ≤ 63 ∧ Range.toList ⟨0, 30⟩ ≠ []) ∧
    (0 ≤ 31 ∧ quietSite.part.groupZones 0 ≠ []) ∧ 0 < quietSite.part.bell.grace ∧
    (let refuses := fun (z : Nat) =>
      !(quietSite.part.zone z).bellOn || (quietSite.part.owner z).isNone || !quietSite.part.buildingClear z
     refuses 30 = true ∧
     (refuses 0 = false ∧ quietSite.part.able 0 = true ∧ (quietSite.part.zone 0).drill = none ∧
      (quietSite.part.zone 0).ann = none ∧ (quietSite.part.zone 0).bellMask = false) ∧
     (refuses 16 = false ∧ quietSite.part.able 16 = false)) :=
  ⟨quiet_ready, settled_of (by decide +kernel), by decide +kernel⟩

theorem witness_BellSilenceEndsClaims :
    site.ready 7 ∧ site.part.settled ∧ (63 ≤ 63 ∧ Range.has ⟨63, 63⟩ 63 = true ∧ Range.has ⟨63, 63⟩ 0 = false) ∧
    (0 < 1 ∨ 63 < 0) ∧ (64 < 0 ∨ 63 < 64) := ⟨site_ready, site_settled, by decide⟩

theorem witness_BuildingZoneAndDrillTables :
    (site.ready 7 ∧ site.part.settled ∧ site.port.saving = none) ∧
    (7 ≤ 7 ∧ 24 ≤ 63 ∧ 63 ≤ 63 ∧ (site.part.building 7).yield = .clear ∧ site.part.drill.run = none ∧
      ∀ c ≤ 7, c ≠ 7 → ∀ z ≤ 63, ¬ ((site.part.building c).zones.has z = true ∧ Range.has ⟨24, 63⟩ z = true)) ∧
    ((site.part.zone 63).hasClaim = false ∧ (site.part.zone 63).offers = []) ∧
    (3 ≤ 3 ∧ programAllowed program = true ∧ ∀ r, site.part.drill.run = some r → r.program ≠ 3) ∧
    (planned.ready 7 ∧ planned.part.settled ∧ planned.port.saving = none) ∧
    (let date : CalDate := ⟨2024, 8, 26⟩
     date.valid = true ∧ 1439 ≤ 1439 ∧ (∀ e ∈ planned.part.drill.schedule, ¬ (e.day = date.number ∧ e.minute = 1439)) ∧
      planned.part.drill.schedule.length < 8) ∧
    ((dateOf 9100).valid = true ∧ ∃ e ∈ planned.part.drill.schedule, e.day = (dateOf 9100).number ∧ e.minute = 60) :=
  ⟨⟨site_ready, site_settled, rfl⟩, by decide +kernel, by decide +kernel,
    ⟨by decide, by decide, absent_meets (by decide +kernel)⟩, ⟨planned_ready, planned_settled, rfl⟩, by decide +kernel,
    by decide +kernel⟩

/-- The site with its zones changed. -/
def zonesWith (f : Nat → Zone → Zone) : State := siteWith fun p => { p with arb := { p.arb with zones := Vector.ofFn fun i => f i.val (p.zone i.val) } }

/-- The site with a BELL claim in zone 0, masked or not, and an ANNOUNCE claim in zone 9, masked or not. -/
def claimed (st : ClaimState) (mask : Bool) : State := zonesWith fun i z =>
  if i = 0 then { z with bell := some ⟨st, 2, 50, none, .manual, 1000, false, 0⟩, bellMask := mask }
  else if i = 9 then { z with ann := some ⟨st, .audio 1, 2⟩, annMask := mask } else z

/-- A BELL claim of zone 0 and an ANNOUNCE claim of zone 9, SOUNDING unmasked and PENDING masked; ANNOUNCE turned off with a
claim and an offer that wait. -/
theorem witness_ZoneSwitches :
    (site.ready 7 ∧ (0 ≤ 63 ∧ 63 ≤ 63) ∧ site.port.saving = none ∧ Range.has ⟨0, 63⟩ 63 = true) ∧
    (∀ st mask, (claimed st mask).ready 7 ∧ (claimed st mask).part.settled) ∧
    ([(ClaimState.sounding, false), (.pending, true)].all fun x =>
      let s := claimed x.1 x.2
      let z := s.part.zone 0
      Range.has ⟨0, 7⟩ 0 && ((List.range 64).all fun y => !Range.has ⟨0, 7⟩ y || (s.part.zone y).ann.isNone) &&
        z.bellMask == x.2 && z.drill.isNone && z.bell.any (fun b => b.state == x.1 && decide (s.part.now ≤ b.latest)) &&
        s.part.able 0) = true ∧
    ([(ClaimState.sounding, false), (.pending, true)].all fun x =>
      let s := claimed x.1 x.2
      let z := s.part.zone 9
      Range.has ⟨9, 9⟩ 9 && z.annOn && z.drill.isNone && z.annMask == x.2 && z.ann.any (·.state == x.1) &&
        s.part.able 9) = true ∧
    ((announcing.part.ann.records.flatMap (·.joins)).all fun j => j.state != .waiting) = true := by
  refine ⟨⟨site_ready, by decide +kernel⟩, fun st mask => ⟨⟨rfl, by decide, rfl, (by decide : 0 < replyLimit), rfl⟩,
    Part.settled_nil rfl⟩, by decide +kernel, by decide +kernel, by decide +kernel⟩

/-- A bell claim. -/
def bellClaim : BellClaim := ⟨.pending, 2, 50, none, .manual, 1000, false, 0⟩

/-- An announcement's claim. -/
def annClaim : AnnounceClaim := ⟨.pending, .audio 1, 2⟩

/-- A drill's claim. -/
def drillClaim : DrillClaim := ⟨.pending, 8, 1⟩

theorem witness_SoundingRule :
    ({ Zone.reset with drill := some drillClaim } : Zone).drill = some drillClaim ∧
    (let z : Zone := { Zone.reset with ann := some annClaim }; z.drill = none ∧ z.ann = some annClaim ∧ z.annMask = false) ∧
    (let z : Zone := { Zone.reset with bell := some bellClaim, ann := some annClaim, annMask := true }
     z.drill = none ∧ (z.ann = none ∨ z.annMask = true) ∧ z.bell = some bellClaim ∧ z.bellMask = false ∧
      (bellClaim.state = .sounding ∨ 1000 ≤ bellClaim.latest)) ∧
    ([({ Zone.reset with bell := some bellClaim } : Zone), { Zone.reset with bell := some bellClaim, bellMask := true },
      { Zone.reset with ann := some annClaim, annMask := true }, Zone.reset].all fun z =>
      z.drill.isNone && (z.ann.isNone || z.annMask) &&
        z.bell.all (fun b => z.bellMask || (b.state == .pending && decide (b.latest < 1001)))) = true ∧
    (let z : Zone := { Zone.reset with bell := some bellClaim }
     (z.evaluate true true 1000).commanded ≠ z.commanded ∧ (z.evaluate true true 1001).commanded = z.commanded) := by
  decide +kernel

/-- A SOUNDING claim below a higher one; and a zone's claim that a change of the zone ends, and keeps. -/
theorem witness_SoundingRule_claims :
    (let z : Zone := { Zone.reset with bell := some { bellClaim with state := .sounding }, ann := some annClaim }
     z.drill = none ∧ z.ann = some annClaim ∧ z.annMask = false ∧ (z.evaluate true true 1000).bell = none) ∧
    (let p := (claimed .sounding false).part
     (p.zone 9).ann = some ⟨.sounding, .audio 1, 2⟩ ∧
      ((p.changeZone 9 fun z => { z with annOn := false, annMask := true }).zone 9).ann = none ∧
      ((p.changeZone 9 id).zone 9).ann.isSome = true) := by decide +kernel

/-- The site with building 7 held after a yield. -/
def heldSite : State := siteWith fun p => p.modBuilding 7 fun x => { x with yield := .held }

/-- The site in a yield state of building 1, its YIELD input (input 0 of the node at position 2) last read at a level. -/
def yielding (y : YieldState) (level : Bool) : Part :=
  let p := site.part.modBuilding 1 fun x => { x with yield := y }
  { p with line := { p.line with links := Tab.modify p.line.links 2 fun l =>
      { l with latest := some { fullRecord with position := 2, inputs := [(9, level)] } } } }

theorem witness_YieldRelease :
    (heldSite.ready 7 ∧ (7 ≤ 7 ∧ (heldSite.part.building 7).yield = .held) ∧ (heldSite.part.building 0).yield ≠ .held ∧ 7 < 8) ∧
    ((yielding .yielded true).building 1).yield = .yielded ∧
    ((site.part.building 1).yield ≠ .yielded ∧ site.part.lawful ∧ (site.part.building 1).zones.has 16 = true) ∧
    (let d := ((yielding .clear true).rosterAt 2).inputs[(0 : Fin 4)]
     d.function = .yield ∧ d.building = some 1 ∧ 0 < [1, 0, 0, 0].getD 0 0 ∧ [(9, true)][0]? = some (9, true) ∧
      true = (d.edge == .rising)) ∧
    (((yielding .yielded true).node 2).isServed = true ∧ (yielding .yielded true).yieldInactive 1 = false ∧
      (yielding .yielded false).yieldInactive 1 = true) :=
  ⟨⟨ready_of (by decide +kernel), by decide +kernel⟩, by decide +kernel, ⟨by decide +kernel, site_lawful, by decide +kernel⟩,
    by decide +kernel, by decide +kernel⟩

/-- A building whose zones hold and await no announcement, with no drill on. -/
theorem witness_YieldRelease_notices :
    (heldSite.part.settled ∧ ∀ z < 64, (heldSite.part.building 7).zones.has z = true → (heldSite.part.zone z).ann = none) ∧
    (site.part.drill.run = none ∧ site.part.lawful ∧ (site.part.building 1).yield ≠ .yielded ∧
      ∀ z < 64, (site.part.building 1).zones.has z = true → (site.part.zone z).ann = none ∧ (site.part.zone z).offers = []) :=
  ⟨⟨settled_of (by decide +kernel), by decide +kernel⟩, rfl, site_lawful, by decide +kernel, by decide +kernel⟩

/-! ### Witnesses: announcements, drills, displays and circuits -/

/-- The site with the node at position 1 given no lane: its zones wait. -/
def laneless : State := siteWith fun p => { p with
  chain := { p.chain with roster := Tab.modify p.chain.roster 1 fun r => { r with tapAssigned := 0 } } }

theorem witness_AnnounceStart :
    (let spec : List Range := [⟨0, 63⟩, ⟨63, 63⟩, ⟨5, 4⟩, ⟨0, 0⟩]
     3 ≤ 3 ∧ 1 ≤ spec.length ∧ spec.length ≤ 4 ∧ (∀ r ∈ spec, r.first ≤ 63 ∧ r.last ≤ 63) ∧ (∃ r ∈ spec, r.first ≤ r.last) ∧
      (∀ c, some 15 = some c → c ≤ 15 ∧ c ≠ 6 ∧ c ≠ 7 ∧ c ≠ 8) ∧ ((5 : Nat) = 0 ∨ (5 ≤ 5 ∧ 5 ≤ 600)) ∧
      ((0 : Nat) = 0 ∨ (5 ≤ 0 ∧ 0 ≤ 600))) ∧
    (site.ready 7 ∧ site.part.settled ∧ site.part.ann.records.length < 8 ∧ site.part.served? .p1 = none ∧
      site.part.ann.records = [] ∧ ∀ z < 64, (site.part.zone z).ann = none ∧ (site.part.zone z).offers = []) ∧
    (announcing.ready 7 ∧ announcing.part.settled ∧ announcing.part.ann.records.length < 8 ∧
      (announcing.part.served? .p1).isSome = true ∧
      ∀ a ∈ announcing.part.ann.records, a.arrival ≤ announcing.part.ann.arrivals) ∧
    (let refuses := fun (s : State) (z : Nat) =>
      (s.part.zone z).kind == .sounder || !(s.part.zone z).annOn || (s.part.owner z).isNone || !s.part.buildingClear z
     (∀ z < 8, refuses site z = true) ∧
     (refuses site 8 = false ∧ (site.part.owner 8).elim 0 site.part.tapCapacity ≠ 0 ∧ site.part.able 8 = true ∧
      (site.part.zone 8).drill = none ∧ (site.part.zone 8).annMask = false) ∧
     (refuses laneless 8 = false ∧ (laneless.part.owner 8).elim 0 laneless.part.tapCapacity = 0)) := by
  refine ⟨⟨by decide, by decide, by decide, by decide, by decide, ?_, by decide⟩,
    ⟨site_ready, site_settled, by decide +kernel⟩,
    ⟨ready_of (by decide +kernel), ?_, by decide +kernel, by decide +kernel, by decide +kernel⟩, by decide +kernel⟩
  · intro c h; cases h; decide
  · intro i h; revert h; cases i <;> decide +kernel

/-- The site with an announcement that is LIVE. -/
def live : State := after (.announceStart 7 (some .p1) 2 [⟨10, 12⟩] none 0) site

/-- The site with an announcement that is ENDING: its node has not yet reported silence. -/
def ending : State :=
  after (.announceEnd 7 1) { live with
    part := { live.part with arb := { live.part.arb with
      zones := live.part.arb.zones.setIfInBounds 10 { live.part.zone 10 with confirmed := some (.audio 1) } } } }

theorem witness_AnnounceEndAndCancel :
    (announcing.ready 7 ∧ (announcing.part.announcement 2).any (·.stage == .queued) = true ∧
      (announcing.part.announcement 1).any (·.stage == .chiming) = true ∧ announcing.part.announcement 9 = none) ∧
    (live.ready 7 ∧ (live.part.announcement 1).any (·.stage == .live) = true) ∧
    (ending.ready 7 ∧ (ending.part.announcement 1).any (·.stage == .ending) = true) :=
  ⟨⟨ready_of (by decide +kernel), by decide +kernel⟩, ⟨ready_of (by decide +kernel), by decide +kernel⟩,
    ready_of (by decide +kernel), by decide +kernel⟩

/-- The queued record is the only one of its id. -/
theorem witness_AnnounceEndAndCancel_queued :
    announcing.part.settled ∧ ∀ b ∈ announcing.part.ann.records, b.id = 2 → b.stage = .queued := by
  refine ⟨fun i h => ?_, by decide +kernel⟩
  revert h; cases i <;> decide +kernel

theorem witness_DrillStart :
    (quietSite.ready 7 ∧ quietSite.part.settled ∧ 0 ≤ 3 ∧ Tab.get quietSite.part.drill.programs 0 none = some program ∧ quietSite.part.drill.run = none) ∧
    (let p := quietSite.part
     (p.positions.filter fun pos => ((p.rosterAt pos).building.any fun b =>
        program.scope.contains b && (p.building b).yield == .clear) && (p.node pos).isReady && !(p.node pos).isActive) = [2] ∧
      ∃ b ∈ program.scope, b < 8 ∧ (p.building b).yield = .clear) := ⟨⟨quiet_ready, settled_of (by decide +kernel), by decide +kernel⟩, by decide +kernel⟩

/-- The site with its three nodes in the same state, and with the yield states of its two buildings. -/
def allIn (n : NodeState) : State := siteWith fun p => (upTo 3).foldl (fun p pos => p.modRuntime pos fun r => { r with node := n }) p
def yieldedSite : State :=
  siteWith fun p => (p.modBuilding 0 fun x => { x with yield := .held }).modBuilding 1 fun x => { x with yield := .yielded }

/-- A start with none to wake: nodes to probe, none to probe, and every building yielded. -/
theorem witness_DrillStart_unwoken :
    let mine := fun (p : Part) (pos : Nat) => (p.rosterAt pos).building.any fun b =>
      program.scope.contains b && (p.building b).yield == .clear
    let woken := fun (p : Part) => p.positions.filter fun pos => mine p pos && (p.node pos).isReady && !(p.node pos).isActive
    let probed := fun (p : Part) => p.positions.filter fun pos => (p.node pos).isActive && mine p pos
    (site.ready 7 ∧ site.part.settled ∧ site.part.drill.run = none ∧ Tab.get site.part.drill.programs 0 none = some program) ∧
    (woken site.part = [] ∧ probed site.part = [0, 1, 2]) ∧
    ((allIn .suspect).ready 7 ∧ woken (allIn .suspect).part = [] ∧ probed (allIn .suspect).part = [] ∧
      0 ∈ (allIn .suspect).part.positions ∧ ((allIn .suspect).part.rosterAt 0).building = some 0) ∧
    (yieldedSite.ready 7 ∧ ∀ b ∈ program.scope, b < 8 → (yieldedSite.part.building b).yield ≠ .clear) :=
  ⟨⟨site_ready, site_settled, by decide +kernel⟩, by decide +kernel, ⟨ready_of (by decide +kernel), by decide +kernel⟩,
    ready_of (by decide +kernel), by decide +kernel⟩

theorem witness_DrillAbort :
    (waking.ready 7 ∧ waking.part.drill.run.isSome = true) ∧ (site.ready 7 ∧ site.part.drill.run = none) :=
  ⟨⟨ready_of (by decide +kernel), by decide +kernel⟩, site_ready, rfl⟩

theorem witness_DisplaySet : site.ready 7 ∧ 23 ≤ 23 ∧ 23 < 24 := ⟨site_ready, by decide⟩

/-- The site with its first node lost. -/
def lostSite : State := siteWith fun p => p.modRuntime 0 fun r => { r with node := .lost }

theorem witness_CircuitWriteAndSetDial :
    (site.ready 7 ∧ site.part.settled ∧ 31 ≤ 31 ∧ site.port.saving = none) ∧
    (∀ r, site.part.circuit 31 = some r → r.flight = none) ∧ (∀ r, site.part.circuit 0 = some r → r.flight = none) ∧
    (circuitAllowed ⟨0, 1, 5, 20, 30⟩ = true ∧ circuitAllowed { circuitDef with holdLimit := 31 } = true) ∧
    (∀ k ≤ 31, k ≠ 0 → ∀ r, site.part.circuit k = some r → ¬ (r.definition.position = 0 ∧ r.definition.line = 0)) ∧
    (∀ r, site.part.circuit 31 = some r → ¬ (r.definition.position = 0 ∧ r.definition.line = 1)) ∧
    (∃ r, site.part.circuit 0 = some r ∧ r.definition.position = circuitDef.position ∧ r.definition.line = circuitDef.line ∧
      (r.mode = .stopped ∨ r.mode = .wait ∨ r.mode = .fault) ∧ 719 ≤ 719 ∧ (r.flight = none ∨ r.mode = .wait)) ∧
    (lostSite.ready 7 ∧ lostSite.part.settled ∧ (lostSite.part.circuit 0).isSome = true ∧
      (lostSite.part.node 0).isReady = false ∧ (site.part.node 0).isReady = true) := by
  refine ⟨⟨site_ready, site_settled, by decide, rfl⟩, absent_meets (by decide +kernel), present_meets rfl rfl, by decide +kernel,
    ?_, absent_meets (by decide +kernel), ⟨_, rfl, by decide +kernel⟩, ready_of (by decide +kernel), settled_of (by decide +kernel),
    by decide +kernel⟩
  intro k hk hne
  have : ∀ k ≤ 31, k ≠ 0 → (site.part.circuit k).isNone = true := by decide +kernel
  exact absent_meets (this k hk hne)

/-- An impulse in flight. -/
def impulse : Impulse := ⟨.negative, 1, none, 0, true, false, false, false⟩

/-- The site with circuit 0 as given. -/
def circuitSite (r : Circuit) : State := siteWith fun p => p.setCircuit 0 (some r)

/-- A circuit whose dial shows the site's campus time. -/
def inStep : Circuit := { Circuit.fresh circuitDef with dial := some 479 }

theorem witness_CircuitStopAndRun :
    (∀ r, (circuitSite r).ready 7 ∧ (circuitSite r).part.settled ∧ (circuitSite r).part.circuit 0 = some r) ∧
    (let r := { inStep with mode := .run, course := .inStep, flight := some impulse }
     r.mode ≠ .stopped ∧ r.mode ≠ .fault ∧ r.flight.isSome = true) ∧
    (let r := { inStep with mode := .wait }; r.mode = .wait ∧ r.flight = none) ∧
    (let r := { inStep with mode := .hold, course := .holding }
     (r.mode = .run ∨ r.mode = .advance ∨ r.mode = .hold) ∧ r.flight = none) ∧
    (let r := { inStep with dial := none }; r.mode = .fault ∨ r.dial = none) ∧
    (let r := { inStep with mode := .run }; r.mode ≠ .fault ∧ r.mode ≠ .stopped ∧ r.dial.isSome = true) ∧
    (let r := { inStep with definition := { circuitDef with position := 5 } }
     r.mode = .stopped ∧ r.dial.isSome = true ∧ ((circuitSite r).part.node r.definition.position).isReady = false) ∧
    (let s := circuitSite inStep
     inStep.mode = .stopped ∧ inStep.flight = none ∧ inStep.course = .none ∧ s.part.isSet = true ∧
      (s.part.node inStep.definition.position).isReady = true ∧ inStep.dial = some (s.part.backup.tod / 600 % 720)) := by
  refine ⟨fun r => ⟨⟨rfl, by decide, rfl, (by decide : 0 < replyLimit), rfl⟩, Part.settled_nil rfl, ?_⟩, by decide +kernel⟩
  simp [circuitSite, siteWith, Part.setCircuit, Part.circuit, Tab.get, Tab.set]

/-- A circuit in RUN, ADVANCE or HOLD that takes new timings; a line whose last record reports a polarity, and one without. -/
theorem witness_CircuitWriteAndSetDial_evaluated :
    (∀ r, (circuitSite r).ready 7 ∧ (circuitSite r).part.settled ∧ (circuitSite r).port.saving = none) ∧
    (∀ m ∈ [CircuitMode.run, .advance, .hold], let r := { inStep with mode := m }
     r.flight = none ∧ r.definition.position = circuitDef.position ∧ r.definition.line = circuitDef.line ∧
      (r.mode = .run ∨ r.mode = .advance ∨ r.mode = .hold) ∧ r.dial = some 479) ∧
    (PolarityGiven.notGiven ≠ .unknown ∧ (site.part.link 0).latest = none ∧
      (({ fullRecord with lines := [(3, some .negative)] } : StatusRecord).lines[0]?).bind Prod.snd = some .negative) :=
  ⟨fun _ => ⟨⟨rfl, by decide, rfl, (by decide : 0 < replyLimit), rfl⟩, Part.settled_nil rfl, rfl⟩, by decide, by decide +kernel⟩

/-! ### Witnesses: the line, the chain, the port and the store -/

theorem witness_LineTables :
    site.ready 7 ∧ site.part.settled ∧ (site.port.saving = none ∧ 1 ≤ 255 ∧ 255 ≤ 255 ∧ 1 ≤ 1) :=
  ⟨site_ready, site_settled, rfl, by decide⟩

/-- A roster record with a window of its own. -/
def newRow : RosterOperand :=
  ⟨some 1, none, ⟨24, 63⟩, some 7, 1, 60,
    [⟨some .general, none, some .falling⟩, ⟨some .yield, some 7, some .rising⟩, ⟨some .none, none, some .rising⟩,
     ⟨some .none, none, some .rising⟩]⟩

theorem down_ready : downSite.ready 7 := ready_of (by decide +kernel)

theorem witness_RosterWrites :
    (State.reset.ready 255 ∧ State.reset.port.saving = none ∧ State.reset.part.chain.line = .down) ∧
    (23 ≤ 23 ∧ rosterAllowed newRow = true ∧
      ∀ q < 24, q ≠ 23 → ∀ z, ¬ ((State.reset.part.rosterAt q).window.has z = true ∧ newRow.window.has z = true)) ∧
    (downSite.ready 7 ∧ downSite.port.saving = none ∧ downSite.part.chain.line = .down ∧ 0 ≤ 24 ∧ 24 ≤ 24 ∧
      (downSite.part.owner 0).isSome = true ∧ (after (.rosterLength 7 0) downSite).part.owner 0 = none) := by
  refine ⟨⟨reset_ready, rfl, rfl⟩, ⟨by decide, by decide, ?_⟩, down_ready, rfl, by decide +kernel⟩
  intro q hq _ z h
  have : ∀ q < 24, (State.reset.part.rosterAt q).window = ⟨1, 0⟩ := by decide +kernel
  rw [this q hq] at h
  simp only [Range.has, Bool.and_eq_true, decide_eq_true_eq] at h
  omega

theorem witness_LongOperationsBegin :
    (downSite.ready 7 ∧ downSite.part.settled ∧ downSite.port.longOp = none ∧ downSite.part.chain.line = .down ∧
      0 < downSite.part.chain.length ∧ downSite.part.drill.run = none) ∧
    (saving.ready 7 ∧ saving.part.settled ∧ saving.port.longOp.isSome = true ∧ saving.port.saving.isSome = true) ∧
    (site.ready 7 ∧ site.part.settled ∧ site.port.longOp = none ∧
      (site.part.chain.line ≠ .down ∨ site.part.chain.length = 0) ∧
      (site.part.chain.line ≠ .down ∨ site.part.drill.run.isSome = true)) ∧
    (State.reset.part.settled ∧ State.reset.port.longOp = none ∧
      (State.reset.part.chain.line ≠ .down ∨ State.reset.part.chain.length = 0)) ∧ requestKind (.timeRead 7) = some 5 :=
  ⟨⟨down_ready, settled_of (by decide +kernel), by decide +kernel⟩,
    ⟨ready_of (by decide +kernel), settled_of (by decide +kernel), by decide +kernel⟩,
    ⟨site_ready, site_settled, by decide +kernel⟩, ⟨settled_of (by decide +kernel), by decide +kernel⟩, rfl⟩

/-- The site with a LINE_RESTART or a host access in progress. -/
def longTask (t : Task) (kind : Nat) : State :=
  let s := siteWith fun p => { p with chain := { p.chain with work := [t], step := some .access } }
  { s with port := { s.port with longOp := some ⟨9, kind, 1000, none⟩ } }

theorem witness_LineStop :
    (site.ready 7 ∧ site.part.chain.line ≠ .down) ∧ (downSite.ready 7 ∧ downSite.part.settled ∧ downSite.part.chain.line = .down) ∧
    (let s := longTask (.cut 1) 0x4F
     s.ready 7 ∧ s.part.chain.line ≠ .down ∧ (∃ q, .cut q ∈ s.part.chain.work) ∧ s.port.longOp = some ⟨9, 0x4F, 1000, none⟩) ∧
    (let a : Access := ⟨1, 0, 8, none, [], 0, true, 0⟩
     let s := longTask (.access a) 0x52
     s.ready 7 ∧ s.part.chain.line ≠ .down ∧ (∃ a, .access a ∈ s.part.chain.work) ∧
      s.port.longOp = some ⟨9, 0x52, 1000, none⟩) ∧
    (let s := after (.lineStart 9) downSite
     s.ready 7 ∧ s.part.chain.line ≠ .down ∧ s.part.chain.buildOp = true ∧ s.port.longOp = some ⟨9, 0x4E, 1000, none⟩ ∧
      ({ s with port := { s.port with enables := Vector.replicate 14 false } } : State).port.enabled .opDone = false) := by
  refine ⟨⟨site_ready, by decide +kernel⟩, ⟨down_ready, settled_of (by decide +kernel), rfl⟩,
    ⟨ready_of (by decide +kernel), by decide +kernel, ⟨1, ?_⟩, rfl⟩, ⟨ready_of (by decide +kernel), by decide +kernel,
      ⟨⟨1, 0, 8, none, [], 0, true, 0⟩, .head _⟩, rfl⟩, ready_of (by decide +kernel), by decide +kernel⟩
  exact .head _

/-- The site with a SETUP task at work. -/
def busy : State :=
  siteWith fun p => { p with chain := { p.chain with work := [.setup 1], step := some (.first 1) } }

theorem witness_LineRestartAndHostAccess :
    (site.ready 7 ∧ site.part.settled ∧ site.port.longOp = none) ∧ (site.part.chain.work = [] ∧ site.part.chain.step = none) ∧
    (2 < site.part.chain.length ∧ (site.part.chain.line = .running ∨ site.part.chain.line = .partialLine) ∧
      (2 = 0 ∨ (site.part.node (2 - 1)).isServed = true) ∧ 0 < 2) ∧
    (0 < site.part.chain.length ∧ (0 = 0 ∨ (site.part.node (0 - 1)).isServed = true)) ∧
    (busy.ready 7 ∧ busy.part.settled ∧ busy.port.longOp = none ∧ 2 < busy.part.chain.length ∧
      busy.part.chain.line = .running ∧ (busy.part.node 1).isServed = true ∧ busy.part.chain.step.isSome = true) ∧
    (∀ t ∈ busy.part.chain.work, ∀ q, t ≠ .cut q) ∧ (∀ t ∈ busy.part.chain.work, ∀ a, t ≠ .access a) ∧
    (2 ≤ 23 ∧ (site.part.node 2).isReady = true ∧ (busy.part.node 2).isReady = true ∧ 1 ≤ 240 ∧ 240 ≤ 240 ∧
      65296 + 240 ≤ 65536 ∧ 1 ≤ (List.replicate 240 0#8).length ∧ (List.replicate 240 0#8).length ≤ 240) := by
  refine ⟨⟨site_ready, site_settled, rfl⟩, ⟨rfl, rfl⟩, by decide +kernel, by decide +kernel,
    ⟨ready_of (by decide +kernel), settled_of (by decide +kernel), by decide +kernel⟩, ?_, ?_, by decide +kernel⟩
  · intro t ht q; simp [busy, siteWith] at ht; simp [ht]
  · intro t ht a; simp [busy, siteWith] at ht; simp [ht]

/-- The site with POWER QUIET handed for the node at position 2, and in flight. -/
def sleepy : State := after (.nodePower 7 2 (some .quiet)) site
def asleep : State := siteWith fun p => { p with line := { p.line with
  flight := some ⟨.power true, some 2, .power, 9, 1, [2], [], false⟩ } }

theorem witness_NodePower :
    let waits := fun (s : State) =>
      s.part.line.output.any fun h => h.command == .power true && h.target == some 2
    let flies := fun (s : State) =>
      s.part.line.flight.any fun f => f.command == .power true && f.target == some 2
    (site.ready 7 ∧ site.part.settled ∧ 23 ≤ 23 ∧ (site.part.node 23).isReady = false) ∧
    ((site.part.node 2).isReady = true ∧ site.part.node 2 ≠ .ready .quiet ∧ waits site = false ∧ flies site = false) ∧
    (sleepy.ready 7 ∧ sleepy.part.settled ∧ (sleepy.part.node 2).isReady = true ∧ waits sleepy = true ∧ flies sleepy = false ∧
      sleepy.part.node 2 ≠ .ready .quiet) ∧
    (asleep.ready 7 ∧ asleep.part.settled ∧ (asleep.part.node 2).isReady = true ∧ flies asleep = true ∧
      waits asleep = false ∧ asleep.part.node 2 ≠ .ready .quiet) ∧
    (quietSite.ready 7 ∧ quietSite.part.settled ∧ quietSite.part.node 2 = .ready .quiet ∧ waits quietSite = false ∧
      flies quietSite = false) :=
  ⟨⟨site_ready, site_settled, by decide +kernel⟩, by decide +kernel,
    ⟨ready_of (by decide +kernel), settled_of (by decide +kernel), by decide +kernel⟩,
    ⟨ready_of (by decide +kernel), settled_of (by decide +kernel), by decide +kernel⟩,
    quiet_ready, settled_of (by decide +kernel), by decide +kernel⟩

theorem witness_EditsAreBusyWhileSaving :
    saving.ready 7 ∧ saving.port.saving.isSome = true ∧ (Instr.planClear 7 16).tag? = some 7 ∧
    requestKind (.planClear 7 16) = some 0x14 := ⟨ready_of (by decide +kernel), by decide +kernel⟩

theorem witness_NoticeEnable :
    (site.ready 7 ∧ site.port.saving = none ∧ 0x7F7F#16 ≠ 0#16 ∧ (0x7F7F#16).getLsbD 7 = false ∧ (0x7F7F#16).getLsbD 15 = false) ∧
    (saving.ready 7 ∧ saving.port.saving.isSome = true) ∧
    (0#16 = 0#16 ∧ (0x0081#16).getLsbD 7 = true ∧ (0x8001#16).getLsbD 15 = true) :=
  ⟨⟨site_ready, by decide +kernel⟩, ⟨ready_of (by decide +kernel), by decide +kernel⟩, by decide⟩

/-- A load under way without and with the image of the site's tables. -/
def loadingBlank : State := after (.storeLoad 7) downSite
def loadingImage : State := { loadingBlank with memory := siteImage }

theorem witness_StoreWorkEnds :
    (saving.powered = true ∧ saving.part.outbox = [] ∧ saving.port.saving = some siteTables ∧
      saving.port.longOp = some ⟨7, 0x5A, 1000, none⟩ ∧ saving.port.enabled .opDone = true ∧ saving.port.notices.length < 32 ∧
      saving.memory.wf ∧ siteTables.valid = true) ∧
    (loadingBlank.powered = true ∧ loadingBlank.part.outbox = [] ∧ loadingBlank.port.loading = true ∧
      loadingBlank.memory.tables false = none ∧ loadingBlank.port.longOp = some ⟨7, 0x5B, 1000, none⟩) ∧
    (let s := { saving with port := { saving.port with enables := Vector.replicate 14 false } }
     s.powered = true ∧ s.part.outbox = [] ∧ s.port.saving = some siteTables ∧ s.port.enabled .opDone = false) ∧
    (let s := { saving with port := { saving.port with
       notices := List.replicate 32 (.clockRestored 1 0 true), sending := some (.reply waiting) } }
     s.port.saving = some siteTables ∧ s.port.longOp = some ⟨7, 0x5A, 1000, none⟩ ∧ s.port.enabled .opDone = true ∧
      32 ≤ s.port.notices.length ∧ s.port.sending.isSome = true) ∧
    ((loadingImage.memory.tables true).isSome = true ∧ loadingImage.port.loading = true ∧
      ({ loadingImage with part := site.part } : State).part.chain.line ≠ .down ∧
      ({ loadingImage with part := waking.part } : State).part.drill.run.isSome = true ∧
      ({ loadingImage with part := (after (.drillAbort 7) waking).part } : State).part.drill.startedSince = true) :=
  ⟨⟨by decide +kernel, by decide +kernel, by decide +kernel, by decide +kernel, by decide +kernel, by decide +kernel, rfl,
      siteTables_valid⟩, by decide +kernel, by decide +kernel, by decide +kernel,
    by rw [show loadingImage.memory = siteImage from rfl, siteImage_tables]; rfl, by decide +kernel⟩

theorem witness_StoreLoadReplacesTables :
    loadingImage.powered = true ∧ loadingImage.port.loading = true ∧ loadingImage.memory.tables true = some siteTables ∧
    loadingImage.part.chain.line = .down ∧ loadingImage.part.drill.run = none ∧
    loadingImage.part.drill.startedSince = false ∧ loadingImage.port.longOp = some ⟨7, 0x5B, 1000, none⟩ :=
  ⟨by decide +kernel, by decide +kernel, siteImage_tables, by decide +kernel⟩

/-- The same load while campus time is UNSET. -/
theorem witness_StoreLoadReplacesTables_unset :
    let s := { loadingImage with part := { loadingImage.part with time := ⟨.unset, 0, false⟩ } }
    s.powered = true ∧ s.port.loading = true ∧ s.memory.tables true = some siteTables ∧ s.part.chain.line = .down ∧
    s.part.drill.run = none ∧ s.part.drill.startedSince = false ∧ s.part.time.quality = .unset :=
  ⟨by decide +kernel, by decide +kernel, siteImage_tables, by decide +kernel⟩

theorem witness_Receiver :
    (site.powered = true ∧ site.port.rx = .hunting) ∧
    (let s := portWith fun o => { o with rx := .inFrame }
     s.powered = true ∧ s.port.rx = .inFrame ∧ s.part.outbox = [] ∧ s.port.buffer.length < 2) ∧
    ((1#8).toNat < 2 ∨ 248 < (1#8).toNat) ∧ ((249#8).toNat < 2 ∨ 248 < (249#8).toNat) ∧
    (List.replicate 246 0#8).length ≤ 246 ∧ 0#8 ≠ crc8 [2#8, 7#8, 5#8] ∧
    (let s := portWith fun o => { o with rx := .inFrame, buffer := List.replicate 2 (.unknownKind 3 0x1B) }
     s.port.rx = .inFrame ∧ 2 ≤ s.port.buffer.length ∧ s.port.replies.length < 4 ∧ s.part.outbox = []) ∧
    (let s := portWith fun o => { o with rx := .inFrame, buffer := List.replicate 2 (.unknownKind 3 0x1B),
                                         replies := List.replicate 4 waiting }
     s.port.rx = .inFrame ∧ 2 ≤ s.port.buffer.length ∧ 4 ≤ s.port.replies.length ∧ s.part.outbox = []) := by decide +kernel

theorem witness_TransmitterOrder :
    let sent := some (SentFrame.reply waiting)
    let n := Notice.clockRestored 1 0 true
    let e := Notice.opDone 7 0x5A .ok .none
    (let s := portWith fun o => { o with sending := sent, replies := [waiting] }
     s.powered = true ∧ s.port.sending.isSome = true ∧ s.port.replies = waiting :: []) ∧
    exec (.timeRead 7) (portWith fun o => { o with sending := sent }) =
      .next (after (.timeRead 7) (portWith fun o => { o with sending := sent })) ∧
    (let s := portWith fun o => { o with sending := sent, notices := [n], dropped := true }
     s.port.sending.isSome = true ∧ s.port.replies = [] ∧ s.port.notices = n :: [] ∧ s.port.restarting = false ∧
      (s.port.longOp.bind (·.ending)) = none) ∧
    (let s := portWith fun o => { o with sending := sent, notices := List.replicate 32 n, longOp := some ⟨7, 0x5A, 0, some e⟩ }
     s.port.sending.isSome = true ∧ s.port.replies = [] ∧ s.port.notices = n :: List.replicate 31 n ∧
      s.port.restarting = false ∧ s.port.longOp = some ⟨7, 0x5A, 0, some e⟩) ∧
    (let s := portWith fun o => { o with sending := sent, notices := [n], restarting := true }
     s.port.sending.isSome = true ∧ s.port.replies = [] ∧ (s.port.notices = [] ∨ s.port.restarting = true)) ∧
    (requestKind (.status 7) = some 2 ∧ (Instr.status 7).tag? = some 7 ∧ site.ready 7 ∧ site.port.sending = none ∧
      site.port.replies = []) ∧
    ((Vector.replicate 14 false)[n.kind.place]? = some false ∧ site.port.enables[n.kind.place]? = some true ∧
      site.port.notices.length < 32 ∧ 32 ≤ (List.replicate 32 n).length) ∧
    (let s := siteWith fun p => p.note n
     s.part.outbox = [n].map .notice) ∧
    (State.reset.port.sending = some (.notice (.started .powerOn false false false) false) ∧ waiting.body = .none) :=
  ⟨by decide +kernel, rfl, by decide +kernel, by decide +kernel, by decide +kernel, ⟨rfl, rfl, site_ready, rfl, rfl⟩,
    by decide +kernel, rfl, rfl, rfl⟩

/-- The site without main power. -/
def darkSite : State := after .mainPowerLoss { site with memory := siteImage }

theorem witness_PowerFails :
    site.powered = true ∧ darkSite.powered = false ∧ (saving.powered = true ∧ saving.port.saving.isSome = true) := by
  decide +kernel

theorem darkSite_tables : darkSite.memory.tables true = some siteTables :=
  (congrArg (SerialMemory.tables · true) (rfl : darkSite.memory = siteImage)).trans siteImage_tables

theorem witness_StartUp :
    (darkSite.powered = false ∧ darkSite.part.backup.valid = true ∧ darkSite.memory.tables true = some siteTables ∧
      darkSite.memory.tables false = none ∧ siteTables.autoStart = false) ∧
    (0 ≤ (darkSite.kept.day : Int) * 864000 + darkSite.kept.tod ∧
      (darkSite.kept.day : Int) * 864000 + darkSite.kept.tod < 36525 * 864000) ∧
    (let s := portWith fun o => { o with restarting := true }
     s.port.restarting = true ∧ s.port.sending = none ∧ s.port.replies = []) ∧
    (after .batteryLow darkSite).part.backup.valid = false :=
  ⟨⟨by decide +kernel, by decide +kernel, darkSite_tables, rfl, by decide +kernel⟩, by decide +kernel⟩

/-- The image found and not found beside a valid backup domain, and a dial of it that is the circuit's and one that is not. -/
theorem witness_StartUp_stored :
    (darkSite.memory.stored true = some siteTables ∧ darkSite.memory.stored false = none ∧
      ({ darkSite.memory with torn := true } : SerialMemory).stored true = none) ∧
    siteTables.circuits[0]? = some (some circuitDef) ∧
    (darkSite.kept.dials[0]? = some ⟨none, .positive, none⟩ ∧
      ({ darkSite.kept with dials := Tab.set darkSite.kept.dials 0 ⟨some 719, .negative, some (0, 0)⟩ } : Backup).dials[0]? =
        some ⟨some 719, .negative, some (0, 0)⟩) :=
  ⟨⟨(if_neg Bool.false_ne_true : (if siteImage.torn then none else _) = _).trans darkSite_tables, rfl,
    SerialMemory.stored_torn rfl true⟩, by decide +kernel, by decide +kernel⟩

/-! ### Witnesses: events of the blocks -/

/-- The site at a time of day. -/
def siteAt (tod : Nat) : State := siteWith fun p => { p with backup := { p.backup with tod := tod } }

/-- The site at 08:00:00 with circuits in step, one behind, far behind and ahead. -/
def minuteSite : State :=
  let s := siteAt 288000
  let running := fun (dial : Nat) => some { Circuit.fresh circuitDef with dial := some dial, mode := .run, course := .inStep }
  let p := (((s.part.setCircuit 0 (running 480)).setCircuit 1 (running 479)).setCircuit 2 (running 300)).setCircuit 31 (running 500)
  { s with part := p }

theorem witness_CampusTimeEvents :
    (let s := siteAt 863999
     s.powered = true ∧ s.part.time.quality = .set ∧ s.part.backup.tod = 863999 ∧ s.part.backup.day ≠ 36524) ∧
    (let s := siteWith fun p => { p with backup := { p.backup with day := 36524, tod := 863999 } }
     s.powered = true ∧ s.part.time.quality = .set ∧ s.part.backup.tod = 863999 ∧ s.part.backup.day = 36524) ∧
    (let s := siteWith fun p => { p with backup := { p.backup with tod := 863998 }, time := { p.time with trim := 1 } }
     s.part.settled ∧ s.part.outbox = [] ∧ s.part.time.quality = .set ∧ 0 < s.part.time.trim ∧ s.part.backup.tod % 10 = 8 ∧
      864000 = s.part.backup.tod + 2 ∧ s.part.backup.day < 36524) ∧
    (let s := siteWith fun p => { p with backup := { p.backup with tod := 599 }, time := ⟨.set, -600, true⟩ }
     s.part.settled ∧ s.part.outbox = [] ∧ s.part.time.quality = .set ∧ s.part.time.trim < 0 ∧
      s.part.backup.tod % 10 = 9 ∧ s.part.time.held = true) ∧
    (let s := siteWith fun p => { p with backup := { p.backup with tod := 8 }, time := { p.time with trim := 1 } }
     s.part.settled ∧ s.part.outbox = [] ∧ 0 < s.part.time.trim ∧ s.part.backup.tod % 10 = 8 ∧
      s.part.backup.tod + 2 < 864000) ∧
    (∀ day ∈ [9004, 36524], let s := siteWith fun p =>
       { p with backup := { p.backup with day := day, tod := 863999 }, time := ⟨.set, -1, true⟩ }
     s.part.time.trim < 0 ∧ s.part.backup.tod % 10 = 9 ∧ s.part.time.held = true ∧ 864000 = s.part.backup.tod + 1 ∧
      (s.part.backup.day < 36524 ∨ s.part.backup.day = 36524)) ∧
    (minuteSite.powered = true ∧ minuteSite.part.time.quality = .set ∧ minuteSite.part.backup.tod % 600 = 0) ∧
    (∀ c ∈ [0, 1, 2, 31], ∃ d ∈ [480, 479, 300, 500], (minuteSite.part.circuit c).any (fun r =>
      r.dial == some d && r.flight.isNone && r.mode == .run) = true) ∧
    (let s := siteWith fun p => { p with backup := { p.backup with tod := 36000 },
                                         cal := { p.cal with changes := [⟨9004, 60, -60, false⟩] } }
     s.powered = true ∧ s.part.time.quality = .set ∧ s.part.reachedChange = some ⟨9004, 60, -60, false⟩ ∧
      0 ≤ (s.part.campus.total : Int) + (-60) * 600) :=
  ⟨by decide +kernel, by decide +kernel, ⟨Part.settled_nil rfl, by decide +kernel⟩, ⟨Part.settled_nil rfl, by decide +kernel⟩,
    ⟨Part.settled_nil rfl, by decide +kernel⟩, by decide +kernel, by decide +kernel, by decide +kernel, by decide +kernel⟩

/-- Where no circuit, entry or scheduled drill has anything to report: at a date's end, in a trim, at the range's end, at a
whole minute and at a time change. -/
theorem witness_CampusTimeEvents_notices :
    (∀ (b : Backup) (k : TimeKeeper) (l : List TimeChange),
      let s := bare fun p => { p with backup := b, time := k, cal := { p.cal with changes := l } }
      s.powered = true ∧ s.part.settled ∧ s.part.outbox = [] ∧ s.part.drill.schedule = [] ∧
        (∀ c < 32, s.part.circuit c = none) ∧ ∀ e ∈ s.part.bell.timeline.entries, e.state ≠ .waiting) ∧
    (let s := bare fun p => { p with backup := { p.backup with tod := 36000 }, cal := { p.cal with changes := [⟨9004, 60, -60, false⟩] } }
     s.part.reachedChange = some ⟨9004, 60, -60, false⟩ ∧ (after .timeChangeReached s).part.backup.day = s.part.backup.day) := by
  refine ⟨fun b k l => ⟨rfl, Part.settled_nil rfl, rfl, rfl, ?_, ?_⟩, by decide +kernel⟩
  · exact (by decide +kernel : ∀ c < 32, (bare id).part.circuit c = none)
  · exact (by decide +kernel : ∀ e ∈ (bare id).part.bell.timeline.entries, e.state ≠ .waiting)

/-- The quiet site some time after a bell was rung in zones 0 to 30: zones 16 to 23 hold it PENDING. -/
def rung : State :=
  let s := after (.bellRing 7 (.zones ⟨0, 30⟩) 5 30) quietSite
  { s with part := { s.part with now := 5000 } }

theorem witness_BellEvents :
    (site.powered = true ∧ site.part.settled ∧ site.part.time.quality = .set ∧
      site.part.bell.timeline.date = some site.part.backup.day ∧
      site.part.bell.timeline.entries[0]? = some ⟨⟨28799, 0, 2, 50⟩, .waiting, none⟩ ∧ 28799 * 10 = site.part.backup.tod ∧
      0 < site.part.bell.grace ∧ site.part.bell.fired.length < 480) ∧
    (0 ∈ site.part.groupZones 0 ∧ 63 ∉ site.part.groupZones 0 ∧ (site.part.zone 0).bellOn = true ∧
      (site.part.zone 0).bellMask = false ∧ site.part.able 0 = true ∧ (site.part.zone 0).ann = none ∧
      (site.part.zone 0).drill = none) ∧
    (let s := siteWith fun p => { p with bell := { p.bell with fired := List.replicate 480 ⟨0, 0, false⟩ } }
     s.part.settled ∧ s.part.time.quality = .set ∧ s.part.bell.timeline.date = some s.part.backup.day ∧
      s.part.bell.timeline.entries[0]? = some ⟨⟨28799, 0, 2, 50⟩, .waiting, none⟩ ∧ 480 ≤ s.part.bell.fired.length) ∧
    (rung.powered = true ∧ rung.part.settled ∧
      ((rung.part.zone 16).bell.any fun b => b.posting == 0 && b.state == .pending && b.latest ≤ rung.part.now) = true ∧
      ((rung.part.zone 0).bell.any fun b => b.state == .sounding && b.endTime == some 1150) = true ∧ 1150 ≤ rung.part.now ∧
      (rung.part.zone 16).awaits 0 = true ∧ (rung.part.zone 0).awaits 0 = false) :=
  ⟨⟨rfl, site_settled, by decide +kernel⟩, by decide +kernel, ⟨Part.settled_nil rfl, by decide +kernel⟩,
    by decide +kernel, settled_of (by decide +kernel), by decide +kernel⟩

theorem witness_BellEvents_notices :
    site.part.outbox = [] ∧ rung.part.outbox = [] ∧
    ∀ y < 64, ∀ c, (rung.part.zone y).bell = some c → c.posting = 0 → c.origin = .manual := by
  have h : ∀ y < 64, (rung.part.zone y).bell.all (fun c => c.origin == .manual) = true := by decide +kernel
  exact ⟨rfl, by decide +kernel, fun y hy c hc _ => by simpa [hc] using h y hy⟩

/-- The site with a bell grace of 0, its node at position 2 QUIET, and the nodes of its group's zones all unable to sound. -/
def graceless (f : Part → Part) : State := siteWith fun p => f { p with bell := { p.bell with grace := 0, postings := 5 } }
def someQuiet (p : Part) : Part := p.modRuntime 2 fun r => { r with node := .ready .quiet }
def noneAble (p : Part) : Part := (someQuiet p).modRuntime 0 fun r => { r with node := .suspect }

/-- A firing without grace of which some claims sound, and one of which none does. -/
theorem witness_BellEvents_graceless :
    ∀ f ∈ [someQuiet, noneAble], let s := graceless f
      s.part.bell.grace = 0 ∧ s.part.bell.fired.length < 480 ∧ s.part.bell.timeline.plan = some 0 ∧
      (∀ z < 64, (s.part.zone z).bell = none) ∧ s.part.outbox = [] ∧ s.part.settled ∧
      (0 ∈ s.part.groupZones 0 ∧ (s.part.zone 0).bellOn = true ∧ s.part.closedZone 0 = false) ∧
      (16 ∈ s.part.groupZones 0 ∧ s.part.closedZone 16 = false ∧ s.part.able 16 = false ∧ (s.part.zone 16).ann = none) := by
  have settles : ∀ f ∈ [someQuiet, noneAble], (graceless f).part.ann.records.isEmpty = true := by decide +kernel
  have rest : ∀ f ∈ [someQuiet, noneAble], let s := graceless f
      s.part.bell.grace = 0 ∧ s.part.bell.fired.length < 480 ∧ s.part.bell.timeline.plan = some 0 ∧
      (∀ z < 64, (s.part.zone z).bell = none) ∧ s.part.outbox = [] ∧
      (0 ∈ s.part.groupZones 0 ∧ (s.part.zone 0).bellOn = true ∧ s.part.closedZone 0 = false) ∧
      (16 ∈ s.part.groupZones 0 ∧ s.part.closedZone 16 = false ∧ s.part.able 16 = false ∧ (s.part.zone 16).ann = none) := by
    decide +kernel
  intro f hf
  obtain ⟨h1, h2, h3, h4, h5, h6⟩ := rest f hf
  exact ⟨h1, h2, h3, h4, h5, settled_of (settles f hf), h6⟩

/-- The site's first bell, fired over nodes of which some, or all, can not sound, its latest start past. -/
def staling (f : Part → Part) : State :=
  let s := after (.bellEntryReached 0) (siteWith f)
  { s with part := { s.part with now := 5000 } }

/-- A posting of an entry none of whose claims has sounded, one of which some has, and one of a timeline since rebuilt. -/
theorem witness_BellEvents_stale :
    (∀ f ∈ [someQuiet, noneAble], let s := staling f
      s.part.bell.timeline.build = 1 ∧ s.part.bell.timeline.plan = some 0 ∧ s.part.outbox = [] ∧
      (∀ y < 64, (s.part.zone y).bell.all fun c => c.origin == .entry 0 0 1) ∧
      ((s.part.zone 16).bell.any fun b => b.posting == 0 && b.state == .pending && b.latest ≤ s.part.now) = true) ∧
    (staling noneAble).part.bell.timeline.entries[0]? = some ⟨⟨28799, 0, 2, 50⟩, .fired, some 5⟩ ∧
    ((List.range 64).filter fun y => ((staling noneAble).part.zone y).awaits 0).length = 5 ∧
    ((List.range 64).filter fun y => ((staling someQuiet).part.zone y).awaits 0).length = 1 := by decide +kernel

/-- The entry of the first is MISSED, and its key with it; that of the second stays FIRED. -/
theorem test_stale_entry :
    (after (.latestStart 0) (staling noneAble)).part.bell.timeline.entries[0]?.map (·.state) = some .missed ∧
    (after (.latestStart 0) (staling noneAble)).part.bell.fired = [⟨28799, 0, true⟩] ∧
    (after (.latestStart 0) (staling someQuiet)).part.bell.fired = [⟨28799, 0, false⟩] := by decide +kernel

/-- The site with one announcement, CHIMING, its chime end and its limit time past. -/
def chimed : State :=
  let s := after (.announceStart 7 (some .p1) 2 [⟨10, 12⟩] (some 3) 5) site
  { s with part := { s.part with now := 5000 } }

theorem witness_AnnounceEvents :
    chimed.powered = true ∧ ∃ a, chimed.part.announcement 1 = some a ∧ chimed.part.ann.records = [a] ∧ a.stage = .chiming ∧
      a.chimeEnd = some 1120 ∧ 1120 ≤ chimed.part.now ∧ a.limitTime = some 1250 ∧ 1250 ≤ chimed.part.now ∧
      ⟨10, .joined, true, false⟩ ∈ a.joins ∧ (chimed.part.zone 10).ann.isSome = true ∧ (chimed.part.zone 10).drill = none ∧
      (chimed.part.zone 10).annMask = false ∧ chimed.part.able 10 = true :=
  ⟨by decide +kernel, _, rfl, by decide +kernel⟩

/-- All zones of the chimed announcement sound; and a LIVE record with nothing to give back or to settle. -/
theorem witness_AnnounceEvents_notices :
    (chimed.part.outbox = [] ∧ ∀ a ∈ chimed.part.ann.records, ∀ j ∈ a.joins, j.state = .joined →
      j.zone < 64 ∧ (chimed.part.zone j.zone).ann.isSome = true ∧ (chimed.part.zone j.zone).drill = none ∧
        (chimed.part.zone j.zone).annMask = false ∧ chimed.part.able j.zone = true) ∧
    (let a : Announcement :=
      { id := 255, input := .p2, rank := 2, spec := [⟨10, 12⟩], chime := none, limit := 5, stage := .live, arrival := 1,
        start := some 1, chimeEnd := none, limitTime := some 900, cause := none,
        joins := [⟨10, .lost, true, false⟩, ⟨11, .left, true, true⟩] }
     let s := siteWith fun p => { p with ann := ⟨[a], 255, 1⟩ }
     s.powered = true ∧ s.part.outbox = [] ∧ s.part.announcement 255 = some a ∧ s.part.ann.records = [a] ∧ a.stage = .live ∧
      a.limitTime = some 900 ∧ 900 ≤ s.part.now ∧
      ∀ j ∈ a.joins, j.state ≠ .joined ∧ j.state ≠ .waiting ∧ (j.state = .left → j.settled = true)) := by decide +kernel

/-- The site at 08:00:00 with a drill scheduled for that moment. -/
def drillAt (number : Nat) : State :=
  siteWith fun p => { p with backup := { p.backup with tod := 288000 },
                             drill := { p.drill with schedule := [⟨9004, 480, number, .waiting⟩] } }

theorem witness_ScheduledDrill :
    (let s := drillAt 0
     s.powered = true ∧ s.part.time.quality = .set ∧
      (s.part.drill.schedule.find? fun x => x.state == .waiting && x.moment == s.part.campus) = some ⟨9004, 480, 0, .waiting⟩ ∧
      s.part.drill.run = none ∧ Tab.get s.part.drill.programs 0 none = some program ∧
      ∀ x ∈ s.part.drill.schedule, x.day = 9004 → x.minute = 480 → x.state = .waiting) ∧
    (let s := drillAt 3
     s.part.settled ∧ s.part.outbox = [] ∧
      (s.part.drill.schedule.find? fun x => x.state == .waiting && x.moment == s.part.campus) = some ⟨9004, 480, 3, .waiting⟩ ∧
      (s.part.drill.run.isSome = true ∨ Tab.get s.part.drill.programs 3 none = none)) :=
  ⟨by decide +kernel, Part.settled_nil rfl, by decide +kernel⟩

/-- A state with its drill run changed, at a moment. -/
def runWith (s : State) (now : Nat) (f : DrillRun → DrillRun) : State :=
  { s with part := { s.part with now := now, drill := { s.part.drill with run := s.part.drill.run.map f } } }

/-- The waking drill at its wake end; probing with every echo, and with one missing; forced; with every building
yielded. -/
def wakeOver : State := runWith waking 1150 id
def probing : State := runWith (after .drillWakeWaitEnd wakeOver) 1160 fun r =>
  { r with probes := r.probes.map fun x => { x with seen := some 3 } }
def forced : State := runWith probing 1160 fun r => { r with forced := true }
def allYielded : State := runWith probing 1160 fun r => { r with timers := r.timers.map fun x => { x with state := .yielded } }

theorem witness_DrillCheck :
    (wakeOver.powered = true ∧ (wakeOver.part.drill.run.any fun r =>
      r.phase == .checking && !r.probing && r.wakeEnd ≤ wakeOver.part.now) = true) ∧
    (probing.powered = true ∧ (probing.part.drill.run.any fun r => r.phase == .checking && r.probing &&
      r.probes.all (fun x => x.echoed || x.seen.any (3 ≤ ·)) && !r.allYielded &&
      (probing.part.readiness r).notReady != [] && !r.forced) = true) ∧
    (forced.powered = true ∧ (forced.part.drill.run.any fun r => r.phase == .checking && r.probing &&
      r.probes.all (fun x => x.echoed || x.seen.any (3 ≤ ·)) && !r.allYielded && r.forced) = true) ∧
    (allYielded.powered = true ∧ (allYielded.part.drill.run.any fun r => r.phase == .checking && r.probing &&
      r.probes.all (fun x => x.echoed || x.seen.any (3 ≤ ·)) && r.allYielded) = true) := by decide +kernel

/-- A probe that is not judged any more ends the wait for it. -/
theorem witness_DrillCheck_unjudged :
    (runWith (after .drillWakeWaitEnd wakeOver) 1160 fun r =>
      { r with probes := r.probes.map fun x => { x with judged := false } }).part.drill.run.any (fun r =>
        r.phase == .checking && r.probing && r.probes != [] && r.probes.all fun x => !x.judged) = true := by decide +kernel

/-- A forced run, and one whose buildings are all ready, about to post its claims to zones free of announcements, with and
without a prealert; and one over announcements. -/
def allReady (prealert : Nat) : State := runWith (siteWith fun p => { p with drill := probing.part.drill }) 1160 fun r =>
  { r with probes := (upTo 3).map fun pos => ⟨pos, pos + 1, some 3, true, true⟩, fields := { r.fields with prealert := prealert } }

theorem witness_DrillCheck_posting :
    (∀ s ∈ [forced, allReady 0, allReady 10], s.powered = true ∧ s.part.settled ∧ s.part.outbox = [] ∧
      s.part.drill.run.any (fun r => r.phase == .checking && r.probing && !r.allYielded &&
        r.probes.all (fun x => x.echoed || x.seen.any (3 ≤ ·)) && (r.forced || (s.part.readiness r).notReady == [])) = true ∧
      ∀ r ∈ s.part.drill.run, s.part.drillTargets r = List.range 24 ∧
        ∀ z ∈ s.part.drillTargets r, (s.part.zone z).ann = none ∧ (s.part.zone z).offers = []) ∧
    (let p := { forced.part with ann := live.part.ann, arb := live.part.arb }
     (∀ a ∈ p.ann.records, a.stage ≠ .queued) ∧ (p.zone 10).ann.isSome = true ∧ p.closedZone 10 = false ∧ p.able 10 = true) := by
  have settles : ∀ s ∈ [forced, allReady 0, allReady 10], s.part.ann.records.isEmpty = true := by decide +kernel
  have rest : ∀ s ∈ [forced, allReady 0, allReady 10], s.powered = true ∧ s.part.outbox = [] ∧
      s.part.drill.run.any (fun r => r.phase == .checking && r.probing && !r.allYielded &&
        r.probes.all (fun x => x.echoed || x.seen.any (3 ≤ ·)) && (r.forced || (s.part.readiness r).notReady == [])) = true ∧
      ∀ r ∈ s.part.drill.run, s.part.drillTargets r = List.range 24 ∧
        ∀ z ∈ s.part.drillTargets r, (s.part.zone z).ann = none ∧ (s.part.zone z).offers = [] := by decide +kernel
  refine ⟨fun s hs => ?_, by decide +kernel⟩
  obtain ⟨h1, h2, h3⟩ := rest s hs
  exact ⟨h1, settled_of (settles s hs), h2, h3⟩

/-- The forced drill at the end of its prealert, at the end of its tone, at its muster limit and at the end of its all-clear. -/
def prealerted : State := runWith (after .probeEchoWaitEnd forced) 1660 id
def evacuating : State := runWith (after .prealertEnd prealerted) 7660 id
def mustering : State := runWith (after .toneEnd evacuating) 31660 id
def allClear : State := runWith (after .musterLimit mustering) 32160 id

theorem witness_DrillTimedEnds :
    (prealerted.powered = true ∧ (prealerted.part.drill.run.any fun r =>
      r.phase == .prealert && r.phaseStart + r.fields.prealert * 50 ≤ prealerted.part.now) = true) ∧
    (evacuating.powered = true ∧ evacuating.part.settled ∧ evacuating.part.outbox = [] ∧
      (evacuating.part.drill.run.any fun r => r.phase == .evacuate && r.evacuation == some 1660 &&
        1660 + r.fields.tone * 50 ≤ evacuating.part.now && evacuating.part.now < 1660 + r.fields.muster * 50 &&
        (r.timers.find? fun y => y.building == 0).any (fun x => x.state.isRunning && !x.overdue) &&
        r.fields.target 0 * 10 ≤ min 36000 ((evacuating.part.now - 1660) / 5)) = true) ∧
    (mustering.powered = true ∧ (mustering.part.drill.run.any fun r => r.phase == .muster && r.evacuation == some 1660 &&
      1660 + r.fields.muster * 50 ≤ mustering.part.now && 0 < r.fields.allclear) = true) ∧
    (let s := runWith mustering 31660 fun r => { r with fields := { r.fields with allclear := 0 } }
     s.powered = true ∧ (s.part.drill.run.any fun r => r.phase == .muster && r.evacuation == some 1660 &&
      1660 + r.fields.muster * 50 ≤ s.part.now && r.fields.allclear == 0) = true) ∧
    (allClear.powered = true ∧ (allClear.part.drill.run.any fun r =>
      r.phase == .allclear && r.phaseStart + r.fields.allclear * 50 ≤ allClear.part.now) = true) :=
  ⟨by decide +kernel, ⟨by decide +kernel, settled_of (by decide +kernel), by decide +kernel⟩, by decide +kernel⟩

/-- The muster limit with every building in the roster once and no announcement in the way, and a prealert's end with none. -/
theorem witness_DrillTimedEnds_posting :
    (mustering.part.settled ∧ mustering.part.outbox = [] ∧ mustering.part.drill.run.any (fun r =>
        r.phase == .muster && decide ((r.timers.map (·.building)).Nodup) && 0 < r.fields.allclear) = true ∧
      ∀ r ∈ mustering.part.drill.run, mustering.part.drillTargets r = List.range 24 ∧
        ∀ z ∈ mustering.part.drillTargets r, (mustering.part.zone z).ann = none ∧ (mustering.part.zone z).offers = []) ∧
    (prealerted.part.settled ∧ prealerted.part.outbox = [] ∧ (prealerted.part.zone 0).drill.isSome = true ∧
      ∀ z < 64, (prealerted.part.zone z).ann = none) :=
  ⟨⟨settled_of (by decide +kernel), by decide +kernel⟩, settled_of (by decide +kernel), by decide +kernel⟩

/-- The evacuation's run changed, in the site, where no zone holds a claim of it. -/
def drilled (f : DrillRun → DrillRun) : Part :=
  { site.part with now := 7660, drill := { site.part.drill with run := evacuating.part.drill.run.map f } }

/-- The run with the timer of building 1 in a state, and an all-clear length. -/
def oneLeft (st : TimerState) (allclear : Nat) : Part := drilled fun r =>
  { r with timers := r.timers.map fun y => if y.building = 1 then { y with state := st } else y
           fields := { r.fields with allclear := allclear } }

/-- For each clause on the edges, yields and drop-outs of a drill, a run and a timer that it is about. -/
theorem witness_DrillTimedEnds_edges :
    let timer := fun (p : Part) (b : Nat) => p.drill.run.bind fun r => r.timers.find? fun y => y.building == b
    let state := fun (p : Part) (b : Nat) => (timer p b).map (·.state)
    let phase := fun (p : Part) => p.drill.run.map (·.phase)
    (phase waking.part = some .checking ∧ state waking.part 0 = some .waiting) ∧
    (phase (drilled id) = some .evacuate ∧ ((timer (drilled id) 0).any (·.state.isRunning)) = true ∧
      ((timer (drilled id) 1).any (·.state.isRunning)) = true ∧ (drilled id).drill.run.any (·.evacuation == some 1660) = true ∧
      (drilled id).drill.run.any (fun r => decide ((r.timers.map (·.building)).Nodup)) = true) ∧
    (let p := drilled fun r => { r with phase := .muster }
     phase p = some .muster ∧ p.drill.run.any (fun r => p.now < r.evacuation.getD 0 + r.fields.muster * 50) = true) ∧
    (∀ allclear ∈ [0, 10], state (oneLeft .cleared allclear) 1 = some .cleared ∧
      ((timer (oneLeft .cleared allclear) 0).any (·.state.isRunning)) = true ∧
      phase (oneLeft .cleared allclear) = some .evacuate) ∧
    (∀ z < 64, ((oneLeft .cleared 0).zone z).drill = none) ∧
    (phase allClear.part = some .allclear ∧ (timer allClear.part 0).isSome = true) ∧
    (phase prealerted.part = some .prealert ∧ state prealerted.part 1 = some .waiting) ∧
    (let p := (runWith prealerted 1660 fun r => { r with timers := r.timers.take 1 }).part
     phase p = some .prealert ∧ p.drill.run.any (fun r => r.timers.map (·.building) == [0]) = true) ∧
    state (oneLeft .yielded 10) 1 = some .yielded ∧
    (let p := (after .drillWakeWaitEnd wakeOver).part
     p.drill.run.any (fun r => r.phase == .checking && r.probing && (r.timers.any fun y => y.building == 1) &&
      r.probes.any fun y => (p.rosterAt y.position).building != some 1 && y.judged && !y.echoed && y.seen.all (· < 3)) = true) ∧
    timer (drilled id) 7 = none ∧
    ((drilled id).inScope program.scope 0 = true ∧ (drilled id).inScope program.scope 5 = false) := by
  decide +kernel

theorem witness_DrillAbort_running :
    evacuating.ready 7 ∧ (evacuating.part.drill.run.any fun r => decide ((r.timers.map (·.building)).Nodup) &&
      r.timers.any fun x => x.state == .running || x.state == .partialRun) = true :=
  ⟨ready_of (by decide +kernel), by decide +kernel⟩

/-- The site with an impulse of circuit 0 in flight. -/
def flying (i : Impulse) : State := circuitSite { inStep with mode := .run, course := .inStep, flight := some i, lastSend := some 900 }

theorem witness_CircuitEvents :
    (∀ i, (flying i).powered = true ∧ (flying i).part.settled ∧ (flying i).part.outbox = [] ∧ 0 < 32 ∧
      (flying i).part.time.quality = .set ∧ ∃ r, (flying i).part.circuit 0 = some r ∧ r.flight = some i ∧ r.mode ≠ .wait ∧
        ∀ m, r.lastSend = some m → m + r.definition.spacing * 5 ≤ (flying i).part.now) ∧
    (let i : Impulse := ⟨.negative, 1, none, 0, false, false, false, false⟩
     i.handed = false ∧ i.sentAt = none ∧ i.everSent = false) ∧
    (∀ n ∈ [1, 3], let i : Impulse := ⟨.negative, n, some 965, 0, true, true, false, false⟩
      i.sentAt = some 965 ∧ i.resendDue = false ∧ 965 + circuitDef.width * 5 + 10 ≤ site.part.now) ∧ (1 < 3 ∧ 3 ≤ 3) ∧
    (let s := { flying impulse with part := { (flying impulse).part with time := ⟨.unset, 0, false⟩ } }
     s.powered = true ∧ s.part.time.quality = .unset ∧ (s.part.circuit 0).isSome = true) ∧
    (let i : Impulse := ⟨.negative, 1, some 965, 4, true, true, false, false⟩
     let lines : List (Nat × LinePolarity) := [(5, some .negative)]
     (∀ mode stop, (circuitSite { inStep with mode := mode, stopPending := stop, flight := some i }).part.circuit 0 =
        some { inStep with mode := mode, stopPending := stop, flight := some i }) ∧
      inStep.definition.position = 0 ∧ inStep.definition.position ≠ 1 ∧ i.sentAt.isSome = true ∧ i.restarted = false ∧
      lines[inStep.definition.line]? = some (5, some .negative) ∧ (5 ≠ i.reference ∧ some Polarity.negative = some i.polarity) ∧
      (∀ l ∈ [((4 : Nat), (some .negative : LinePolarity)), (5, some .positive), (5, none)],
        ¬ (l.1 ≠ i.reference ∧ l.2 = some i.polarity)) ∧
      ({ i with restarted := true } : Impulse).restarted = true ∧ inStep.flight = none) := by
  refine ⟨fun i => ⟨rfl, Part.settled_nil rfl, rfl, by decide, rfl,
    { inStep with mode := .run, course := .inStep, flight := some i, lastSend := some 900 }, ?_, rfl, by simp, ?_⟩,
    by decide, by decide +kernel, by decide, by decide +kernel, ⟨fun mode stop => ?_, by decide +kernel⟩⟩
  · simp [flying, circuitSite, siteWith, Part.setCircuit, Part.circuit, Tab.get, Tab.set]
  · intro m h; cases h; exact (by decide : 900 + 20 * 5 ≤ 1000)
  · simp [circuitSite, siteWith, Part.setCircuit, Part.circuit, Tab.get, Tab.set]

/-! ### Witnesses: the line, the chain and the nodes -/

/-- The site with a task and a step of the chain builder. -/
def stepping (line : LineState) (work : List Task) (step : Option Step) : State :=
  siteWith fun p => { p with chain := { p.chain with line := line, work := work, step := step } }

/-- A part whose line engine is changed. -/
def lineWith (f : LineEngine → LineEngine) : Part := { site.part with line := f site.part.line }

/-- A line command handed at a moment by the power block for one position. -/
def handedAt (moment pos : Nat) : Handed := ⟨.power true, some pos, moment, .power⟩

/-- A part with one queue of each class as given and the classes passed over as given. -/
def queues (urgent output clock service : List Handed) (passedClock passedService : Nat) : Part := lineWith fun l =>
  { l with urgent := urgent, output := output, clock := clock, service := service, passedClock := passedClock,
           passedService := passedService }

/-- A part with dirty zones, all commanded the same. -/
def dirtyZones (zs : List Nat) (p : Part) : Part :=
  { p with arb := { p.arb with zones := Vector.ofFn fun i =>
      { p.zone i.val with dirty := zs.contains i.val, commanded := .pattern 2 } } }

/-- A part whose link of position 2 is as given, frozen or not. -/
def linked (frozen : Bool) (l : Link) : Part := lineWith fun e => { e with frozen := frozen, links := Tab.set e.links 2 l }

/-- A zone update in flight. -/
def flight (sends : Nat) (waiting confirmed : List Nat) : Flight :=
  ⟨.zoneOutput 0 16 (.pattern 2), none, .zones, 9, sends, waiting, confirmed, false⟩

theorem witness_LineCyclesAndLiveness :
    ((downSite.powered = false ∨ downSite.part.driving = false ∨ downSite.marks.cycle = false) ∧
      (let s := { site with marks := { Marks.none with cycle := true } }
       s.powered = true ∧ s.part.driving = true ∧ s.marks.cycle = true ∧ (∀ x ∈ s.part.chain.work, x ≠ .cut 0) ∧
        ∀ a ∈ s.part.ann.records, ∀ b ∈ s.part.ann.records, a.stage ≠ .queued → b.stage ≠ .queued → a.input = b.input → a = b)) ∧
    (let h := handedAt 5 2
     let holds := fun (p : Part) (k : SlotClass) => p.line.queueOf k ≠ [] ∨ p.classZones k ≠ []
     let all := queues [h] [h] [h] [h]
     (holds (all 4 0) .clock ∧ 4 ≤ (all 4 0).line.passedClock) ∧
      (¬ (4 ≤ (all 3 8).line.passedClock) ∧ holds (all 3 8) .service ∧ 8 ≤ (all 3 8).line.passedService) ∧
      (¬ (4 ≤ (all 3 7).line.passedClock) ∧ ¬ (8 ≤ (all 3 7).line.passedService) ∧ holds (all 3 7) .urgent) ∧
      (¬ holds (queues [] [h] [h] [h] 3 7) .urgent ∧ holds (queues [] [h] [h] [h] 3 7) .output) ∧
      (¬ holds (queues [] [] [h] [h] 3 7) .output ∧ holds (queues [] [] [h] [h] 3 7) .clock) ∧
      (¬ holds (queues [] [] [] [h] 3 7) .clock ∧ holds (queues [] [] [] [h] 3 7) .service) ∧
      (∀ k, ¬ holds (queues [] [] [] [] 4 8) k)) ∧
    (asleep.part.line.flight.any (fun f => !f.resend) = true ∧
      (lineWith fun l => { l with flight := some ⟨.power true, some 2, .power, 9, 1, [2], [], true⟩ }).line.flight.any (·.resend) =
        true) ∧
    (site.part.line.flight = none ∧ site.part.chosenClass = none) ∧
    (let p := queues [] [handedAt 5 2] [] [] 0 0
     p.line.flight = none ∧ p.chosenClass = some .output ∧ p.line.queueOf .output = handedAt 5 2 :: [] ∧ p.classZones .output = []) ∧
    (let p := dirtyZones [8, 9, 11] site.part
     p.line.flight = none ∧ p.chosenClass = some .output ∧ p.classZones .output = 8 :: [9, 11] ∧
      (∀ h ∈ (p.line.queueOf .output).head?, p.dirtyAge (p.classZones .output) ≤ h.handedAt)) ∧
    (let full : Link := { site.part.link 2 with missed := 32767, badcheck := 65534, levels := ⟨true, true, true, true⟩ }
     2 < 24 ∧ (linked false full).line.frozen = false ∧ (linked true full).line.frozen = true ∧
      ((linked false full).link 2).missed = 32767 ∧ ((linked false full).link 2).badcheck = 65534 ∧
      (site.part.node 2).isExamined = true ∧ (site.part.link 2).missed ≤ 65535) ∧
    (let l : Link := { site.part.link 2 with fresh := false }
     fullRecord.inputs[0]? = some (255, true) ∧ (fullRecord.restarted = true ∨ l.fresh = true) ∧
      ({ fullRecord with restarted := false } : StatusRecord).restarted = false ∧ ((linked false l).link 2).fresh = false ∧
      (fullRecord.lastApplied = (⟨.power true, some 2, .power, 255, 1, [2], [], false⟩ : Flight).seq ∧ 2 ∈ [2]) ∧
      (fullRecord.lastApplied ≠ (flight 1 [2] []).seq ∨ 2 ∉ (flight 1 [2] []).waiting)) ∧
    ((flight 2 [1] [0]).waiting ≠ [] ∧ (flight 2 [1] [0]).sends < 3 ∧ ((flight 1 [] [0, 1]).waiting = [] ∨ 3 ≤ 1) ∧
      ((flight 3 [1] [0]).waiting = [] ∨ 3 ≤ (flight 3 [1] [0]).sends) ∧
      (site.part.owner 0 = some 0 ∧ 0 ∈ (flight 3 [1] [0]).confirmed) ∧
      (site.part.owner 8 = some 1 ∧ 1 ∉ (flight 3 [1] [0]).confirmed ∧ (site.part.node 1).isServed = true) ∧
      (lostSite.part.owner 0 = some 0 ∧ 0 ∉ (flight 3 [0] [1]).confirmed ∧ (lostSite.part.node 0).isServed = false) ∧ 16 < 17) ∧
    (let missing := fun (pos : Nat) (st : NodeState) (n : Nat) => siteWith fun p =>
      { p.modRuntime pos fun r => { r with node := st } with
        line := { p.line with links := Tab.modify p.line.links pos fun l => { l with missing := n } } }
     let s := missing 0 (.ready .waking) 5
     let u := missing 23 .setting 25
     (s.powered = true ∧ s.part.chain.work = [] ∧ s.part.chain.step = none ∧ (s.part.node 0).isReady = true ∧
      5 ≤ (s.part.link 0).missing) ∧
     (u.powered = true ∧ u.part.chain.work = [] ∧ u.part.chain.step = none ∧ u.part.node 23 = .setting ∧
      25 ≤ (u.part.link 23).missing)) := by
  refine ⟨by decide +kernel, ⟨by decide +kernel, by decide +kernel, by decide +kernel, by decide +kernel, by decide +kernel,
    by decide +kernel, fun k => by cases k <;> decide +kernel⟩, by decide +kernel, by decide +kernel, by decide +kernel,
    by decide +kernel, by decide +kernel, by decide +kernel, by decide +kernel, by decide +kernel⟩

/-- Records of an examined node that report a restart for the first time and that do not; edges and none; a choice that
passes the clock and the service class, and one that does not; a liveness limit beside nothing else to report. -/
theorem witness_LineCyclesAndLiveness_records :
    ((site.part.node 2).isExamined = true ∧ fullRecord.restarted = true ∧ (site.part.link 2).reported = false ∧
      ({ fullRecord with restarted := false } : StatusRecord).restarted = false) ∧
    ((∀ n ∈ [0, 0, 0, 0], n = 0) ∧ ∃ n ∈ [0, 255, 0, 0], n ≠ 0) ∧
    (let h := handedAt 5 2
     let holds := fun (p : Part) (k : SlotClass) => p.line.queueOf k ≠ [] ∨ p.classZones k ≠ []
     let p := queues [h] [] [h] [h] 3 7
     (p.line.flight = none ∧ holds p .clock ∧ p.chosenClass ≠ some .clock ∧ holds p .service ∧
      p.chosenClass ≠ some .service) ∧ (queues [] [] [h] [] 4 0).chosenClass = some .clock ∧
      (queues [] [] [] [h] 0 8).chosenClass = some .service ∧ ¬ holds (queues [] [] [] [] 4 8) .clock) ∧
    (∀ x ∈ [(2, NodeState.ready .quiet, 5), (23, .found, 25)],
      let s := bare fun p => { p.modRuntime x.1 fun r => { r with node := x.2.1 } with
        line := { p.line with links := Tab.modify p.line.links x.1 fun l => { l with missing := x.2.2 } } }
      s.powered = true ∧ s.part.chain.work = [] ∧ s.part.chain.step = none ∧ s.part.node x.1 = x.2.1 ∧
      (s.part.link x.1).missing = x.2.2 ∧ s.part.outbox = [] ∧ s.part.ann.records = [] ∧ s.part.drill.run = none ∧
      (∀ z < 64, (s.part.zone z).hasClaim = false ∧ (s.part.zone z).offers = []) ∧
      (∀ b < 8, (s.part.building b).yield ≠ .yielded) ∧ ∀ c < 32, s.part.circuit c = none) :=
  ⟨by decide +kernel, by decide, by decide +kernel, by decide +kernel⟩

theorem witness_ChainTimedEnds :
    (let s := stepping .building [.build] (some (.hail 2 false 1 (some 10)))
     s.powered = true ∧ s.part.chain.work = [.build] ∧ s.part.chain.step = some (.hail 2 false 1 (some 10)) ∧ 10 ≤ 10) ∧
    (let s := stepping .running [.setup 2] (some (.hail 2 true 0 (some 10)))
     s.powered = true ∧ s.part.chain.work = [.setup 2] ∧ s.part.chain.step = some (.hail 2 true 0 (some 10)) ∧
      s.part.chain.line = .running) ∧
    (let s := stepping .building [.build] (some (.setup 2 (.wait 1000) 0))
     let s := { s with part := s.part.modRuntime 2 fun r => { r with setup := some ⟨0, 9⟩ } }
     s.powered = true ∧ 2 < 24 ∧ s.part.chain.step = some (.setup 2 (.wait 1000) 0) ∧ 1000 ≤ s.part.now ∧
      (s.part.runtime 2).setup = some ⟨0, 9⟩) ∧
    (let s := stepping .building [.cut 1] (some (.cutSettle 60))
     let p := { s.part with chain := { s.part.chain with reach := 1 } }
     let s := { s with part := (p.modRuntime 1 fun _ => Runtime.reset).modRuntime 2 fun _ => Runtime.reset }
     s.powered = true ∧ s.part.chain.work = [.cut 1] ∧ s.part.chain.step = some (.cutSettle 60) ∧
      s.part.chain.reach < s.part.chain.length ∧ (s.part.node s.part.chain.reach).isReady = false ∧
      ∀ q < s.part.chain.reach, s.part.node q ≠ .lost ∧ (s.part.runtime q).restartOut = false) ∧
    (let p := (stepping .building [.build] (some (.hail 1 false 0 none))).part
     let wrong := fun (a : HailAnswer) => (p.rosterAt 1).maker.any (· != a.identity.maker)
     p.chain.step = some (.hail 1 false 0 none) ∧ p.chain.work = [.build] ∧
      (∀ q, (⟨identity, false, some 1⟩ : HailAnswer).former = some q → q = 1) ∧
      (∀ q, (⟨identity, true, none⟩ : HailAnswer).former = some q → q = 1) ∧
      wrong ⟨identity, false, some 1⟩ = false ∧ identity.inputCount = 2 ∧
      (∀ i : Fin 4, ¬ ((p.rosterAt 1).inputs[i].function ≠ .none ∧ identity.inputCount ≤ i)) ∧
      (∃ i : Fin 4, (p.rosterAt 1).inputs[i].function ≠ .none ∧ ({ identity with inputCount := 0 } : Identity).inputCount ≤ i)) ∧
    (let s := stepping .building [.build] (some (.hail 1 false 0 none))
     let p := { s.part with chain := { s.part.chain with roster := Tab.modify s.part.chain.roster 1 fun r => { r with maker := some 9 } } }
     ∃ m, (p.rosterAt 1).maker = some m ∧ m ≠ identity.maker) ∧
    (stepping .building [.build] (some (.assign 1))).part.chain.step = some (.assign 1) ∧
    (let s := stepping .building [.build] (some (.first 2))
     let p := s.part.modRuntime 2 fun r =>
       { r with node := .found, answer := some ⟨{ identity with recordCount := 1 }, false, none⟩ }
     p.node 2 = .found ∧ p.chain.step = some (.first 2) ∧ p.chain.work = [.build] ∧ p.chain.autoSetup = true ∧
      ({ p with chain := { p.chain with autoSetup := false } } : Part).chain.autoSetup = false ∧
      (∀ a ∈ (s.part.runtime 2).answer, a.identity.recordCount = 0) ∧
      ∃ a, (p.runtime 2).answer = some a ∧ 0 < a.identity.recordCount) := by
  refine ⟨by decide +kernel, by decide +kernel, by decide +kernel, by decide +kernel,
    ⟨rfl, rfl, fun q h => by cases h; rfl, fun q h => (by cases h), by decide +kernel, by decide +kernel, by decide +kernel,
      ⟨0, by decide +kernel⟩⟩,
    ⟨9, by decide +kernel⟩, rfl, by decide +kernel, by decide +kernel, by decide +kernel, by decide +kernel, by decide +kernel,
    by decide +kernel, ⟨⟨{ identity with recordCount := 1 }, false, none⟩, by decide +kernel⟩⟩

/-- The site with its line in a state, the head cut to end, and the retry timer run out. -/
def retrying (line : LineState) : State :=
  siteWith fun p => { p with chain := { p.chain with line := line, retryAt := some 1000 } }

theorem witness_HeadPortAndRetries :
    (let s := after (.lineStart 7) downSite
     let p := { s.part with now := 1050, chain := { s.part.chain with runtime := Vector.replicate 24 Runtime.reset } }
     s.powered = true ∧ p.chain.headCut = some 1050 ∧ 1050 ≤ p.now ∧ p.chain.work = [] ∧ p.chain.step = none ∧
      p.chain.reach = 0 ∧ 0 < p.chain.length ∧ (p.node 0).isReady = false) ∧ PortFault.crossed ≠ .none ∧
    (site.powered = true ∧ site.part.driving = true) ∧
    (let s := retrying .faulted
     s.powered = true ∧ s.part.chain.retryAt = some 1000 ∧ 1000 ≤ s.part.now ∧ s.part.chain.line = .faulted) ∧
    (let s := retrying .partialLine
     let u := { s with part := { s.part with chain := { s.part.chain with work := [.setup 1], step := some (.first 1) } } }
     u.part.chain.retryAt = some 1000 ∧ 1000 ≤ u.part.now ∧ u.part.chain.line = .partialLine ∧
      u.part.chain.step.isSome = true ∧ Task.retry ∉ u.part.chain.work) ∧
    (let s := retrying .partialLine
     let u := { s with part := { s.part with line := { s.part.line with links := Tab.modify s.part.line.links 2 fun l =>
       { l with latest := some { fullRecord with position := 2, onward := .shorted } } } } }
     u.part.chain.retryAt = some 1000 ∧ u.part.chain.line = .partialLine ∧ u.part.chain.work = [] ∧
      u.part.chain.step = none ∧ u.part.onwardReported = true) := by decide +kernel

/-- The site on a PARTIAL line whose retry timer has run out, with its part changed. -/
def retryingWith (f : Part → Part) : State := { retrying .partialLine with part := f (retrying .partialLine).part }

/-- What a RETRY finds: restarts outstanding, a NO_APPLY, a reach that is short with its node not READY and READY, and a LOST
position below it. -/
theorem witness_HeadPortAndRetries_tasks :
    let short := fun (reach : Nat) (f : Part → Part) => retryingWith fun p => f { p with chain := { p.chain with reach := reach } }
    let restarting := retryingWith fun p => p.modRuntime 23 fun r => { r with restartOut := true }
    let noApply := retryingWith fun p => p.modRuntime 0 fun r => { r with node := .mismatch .noApply }
    let reset := fun (pos : Nat) (p : Part) => p.modRuntime pos fun _ => Runtime.reset
    let lost := fun (p : Part) => p.modRuntime 0 fun r => { r with node := .lost }
    (∀ s ∈ [restarting, noApply, short 2 (reset 2), short 1 id, short 1 lost], s.powered = true ∧
      s.part.chain.retryAt = some 1000 ∧ 1000 ≤ s.part.now ∧ s.part.chain.line = .partialLine ∧ s.part.chain.work = [] ∧
      s.part.chain.step = none ∧ s.part.onwardReported = false) ∧
    (restarting.part.runtime 23).restartOut = true ∧ noApply.part.node 0 = .mismatch .noApply ∧
    ((short 2 (reset 2)).part.node 2).isReady = false ∧ (((short 1 id).part.node 1).isReady = true ∧ 1 + 1 < 3) ∧
    (short 1 lost).part.node 0 = .lost := by decide +kernel

/-- A node at position 3 with an input and a clock line that drives a pulse. -/
def lineNode : Node :=
  { Node.fitted [] .none with position := some 3, restarted := false, answered := false, holdOver := 0, missedFor := 51,
                              inputs := [⟨.clear, .rising, false, 255⟩], lines := [⟨255, none, some (.positive, 0)⟩] }

/-- The site with one node on the line. -/
def nodeSite (n : Node) : State := { site with nodes := [n] }

theorem witness_NodeRestarts : (nodeSite lineNode).nodes[0]? = some lineNode := rfl

/-- The node at position 3 after it has lost and regained its power. -/
def restartedNode : Node := lineNode.powerDown.powerUp

theorem witness_UnassignedNodes :
    restartedNode.position = none ∧ restartedNode.former = some 3 ∧
    (LineCommand.extend ≠ .hail ∧ ∀ p, LineCommand.extend ≠ .assign p) ∧
    (let n := { restartedNode with answered := true }
     n.position = none ∧ n.answered = true ∧
      (let s : Slot := ⟨9, some 23, .probe 1⟩
       s.target = some 23 ∧ s.seq ≠ 8 ∧ s.command ≠ .hail ∧ (∀ q, s.command ≠ .assign q) ∧
        ∀ lo hi o, s.command ≠ .zoneOutput lo hi o)) ∧
    (Node.fitted [] .none).position = none ∧ (Node.fitted [] .none).former = none := by
  refine ⟨rfl, rfl, ⟨by simp, by simp⟩, ⟨rfl, rfl, by simp⟩, rfl, rfl⟩

theorem witness_NodeEvents :
    (lineNode.inputs[0]? = some ⟨.clear, .rising, false, 255⟩ ∧ lineNode.powered = true) ∧
    (lineNode.lines[0]? = some ⟨255, none, some (.positive, 0)⟩ ∧ 0 ≤ site.world) ∧
    (lineNode.isolatedAt = none ∧ 50 < lineNode.missedFor ∧ lineNode.holdOver = 0) ∧
    (let n := { lineNode with holdOver := 255 }; n.isolatedAt = none ∧ 50 < n.missedFor ∧ n.holdOver ≠ 0) ∧
    (let n := { lineNode with power := .warming, warmUntil := 0 }; n.powered = true ∧ n.power = .warming ∧ n.warmUntil ≤ site.world) ∧
    (let n := { lineNode with cutUntil := some 0 }; n.powered = true ∧ n.cutUntil = some 0 ∧ 0 ≤ site.world) ∧
    (let n := { lineNode with isolatedAt := some 0, holdOver := 1 }
     n.isolatedAt = some 0 ∧ n.heldOver = false ∧ 0 + n.holdOver * 50 ≤ ({ nodeSite n with world := 50 } : State).world) ∧
    (let n := { lineNode with cutSince := some 0 }
     n.powered = true ∧ n.cutSince = some 0 ∧ n.resetDone = false ∧ 0 + 25 ≤ ({ nodeSite n with world := 25 } : State).world) := by
  decide +kernel

theorem witness_CommandsKeepToTheirState :
    writesTables (.timeRead 7) = false ∧ movesClock (.timeRead 7) = false ∧ touchesNodes (.timeRead 7) = false ∧
    (∀ good, Instr.timeRead 7 ≠ .storeSaveComplete good) ∧ Instr.timeRead 7 ≠ .mainPowerLoss ∧
    (∀ tag, Instr.timeRead 7 ≠ .restart tag) ∧ (∀ noise, Instr.timeRead 7 ≠ .lineCycle noise) ∧
    (∀ a, Instr.timeRead 7 ≠ .startUp a) ∧ exec (.timeRead 7) site = .next (after (.timeRead 7) site) :=
  ⟨rfl, rfl, rfl, by simp, by simp, by simp, by simp, by simp, rfl⟩

/-! ### A few commands on the site -/

theorem test_dates :
    CalDate.number ⟨2000, 1, 1⟩ = 0 ∧ CalDate.number ⟨2099, 12, 31⟩ = 36524 ∧ dateOf 36524 = ⟨2099, 12, 31⟩ ∧
    dateOf 9004 = ⟨2024, 8, 26⟩ ∧ CalDate.valid ⟨2000, 2, 29⟩ = true ∧ CalDate.valid ⟨2001, 2, 29⟩ = false := by decide +kernel

/-- BELL_RING in zones 0 to 30: zones 0 to 15 sound, 16 to 23 wait for their quiet node, the others have no owner. -/
theorem test_bell_ring :
    (rung.part.zone 15).commanded = .pattern 5 ∧ (rung.part.zone 16).commanded = .silent ∧
    (rung.part.zone 16).bell.isSome = true ∧ (rung.part.zone 24).bell = none := by decide +kernel

/-- LATEST_START ends the claims that still wait. -/
theorem test_latest_start : ((after (.latestStart 0) rung).part.zone 16).bell = none := by decide +kernel

/-- A save that ends well leaves the image of its copy in the memory, and the tables are found there again; a save that power
cuts leaves none for a start-up. -/
theorem test_saved_image :
    (after (.storeSaveComplete true) saving).memory.tables true = some siteTables ∧
    (after .mainPowerLoss saving).memory.stored true = none :=
  ⟨(congrArg (SerialMemory.tables · true) (rfl : (after (.storeSaveComplete true) saving).memory = { siteImage with torn := false })).trans
    ((SerialMemory.tables_torn siteImage false true).trans siteImage_tables), SerialMemory.stored_torn rfl true⟩

/-- The evacuation sounds its pattern in the zones of building 0; the node of building 1 is still quiet. -/
theorem test_evacuation :
    ((List.range 16).all fun z => (evacuating.part.zone z).commanded == .pattern 8) = true ∧
    (evacuating.part.zone 16).commanded = .silent := by decide +kernel

/-- The mark REMOVED takes one byte, 0xFF. -/
theorem test_removed_mark : stageBytes none = [0xFF#8] := by decide

/-- A line held short by one outstanding restart alone is RUNNING as the ASSIGN of its position is carried, and the report of
that restart is not forgotten before a node has applied the ASSIGN. -/
theorem test_assign_carried :
    let p := (stepping .partialLine [.setup 2] (some (.assign 2))).part.modRuntime 2 fun r =>
      { r with node := .lost, restartOut := true }
    let p := p.modLink 2 fun l => { l with reported := true }
    let slot : Option Slot := some ⟨9, some 2, .assign 2⟩
    (p.assigned 2).chain.line = .running ∧ (p.assigned 2).node 2 = .found ∧ ((p.assigned 2).link 2).reported = true ∧
    ((p.assignApplied slot false).link 2).reported = true ∧ ((p.assignApplied slot true).link 2).reported = false := by
  decide +kernel

end Sys2Proof.Tests
end

section
/-! SUPPORT. What each command leaves alone (spec 95): the tables, the clock, and what lies outside the part. -/

namespace Sys2Proof.Machine

/-! ### The tables and the clock -/

/-- The tables that the host fills, and the clock, as one view of the part. -/
def Part.kept (p : Part) := (p.layout, p.clock)

theorem Part.kept_eq {p q : Part} (hl : q.layout = p.layout) (hc : q.clock = p.clock) : q.kept = p.kept := by
  rw [Part.kept, Part.kept, hl, hc]

/-- A view of the part that the end of a step leaves: the start of waiting announcements, and the messages sent. -/
structure StepView {β : Type} (g : Part → β) : Prop where
  outbox : ∀ p : Part, g { p with outbox := [] } = g p
  settle : ∀ p : Part, g p.settle = g p

theorem stepView_layout : StepView Part.layout := ⟨layout_outbox, layout_settle⟩
theorem stepView_clock : StepView Part.clock := ⟨clock_outbox, clock_settle⟩
theorem stepView_kept : StepView Part.kept :=
  ⟨fun p => Part.kept_eq (layout_outbox p) (clock_outbox p), fun p => Part.kept_eq (layout_settle p) (clock_settle p)⟩

section
variable {β : Type} {g : Part → β} {s t : State} {i : Instr} {tag kind : Nat}

/-- A request leaves a view that its meaning leaves. -/
theorem StepView.of_portRequest (hg : StepView g) {f : State → State × Answer} (hf : ∀ s, g (f s).1.part = g s.part)
    (h : (.next (request i tag kind f s) : Result) = .next t) : g t.part = g s.part := by
  cases h; exact frame_request g hg.outbox _ _ _ _ hf s

/-- A request of a block leaves a view that its meaning leaves. -/
theorem StepView.of_request (hg : StepView g) {f : Bool → Part → Part × Answer} (hf : ∀ b p, g (f b p).1 = g p)
    (h : (.next (request i tag kind (ofPart f) s) : Result) = .next t) : g t.part = g s.part := by
  cases h; exact frame_request g hg.outbox _ _ _ _ (frame_ofPart g hg.settle f hf) s

/-- A long operation leaves a view that its meaning leaves. -/
theorem StepView.of_longOp (hg : StepView g) {f : State → State × Answer} (hf : ∀ s, g (f s).1.part = g s.part)
    (h : (.next (request i tag kind (longOp tag kind f) s) : Result) = .next t) : g t.part = g s.part := by
  cases h; exact frame_request g hg.outbox _ _ _ _ (frame_longOp g _ _ f hf) s

/-- A long operation of a block leaves a view that its meaning leaves. -/
theorem StepView.of_blockLongOp (hg : StepView g) {f : Bool → Part → Part × Answer} (hf : ∀ b p, g (f b p).1 = g p)
    (h : (.next (request i tag kind (longOp tag kind (ofPart f)) s) : Result) = .next t) : g t.part = g s.part :=
  hg.of_longOp (frame_ofPart g hg.settle f hf) h

/-- An event of the part leaves a view that its effect leaves. -/
theorem StepView.of_event (hg : StepView g) {f : Part → Part} (hf : ∀ p, g (f p) = g p)
    (h : (.next (event f s) : Result) = .next t) : g t.part = g s.part := by
  cases h; exact frame_event g hg.outbox hg.settle f hf s

/-- An event that counts a tenth when it is due leaves a view that its effect leaves. -/
theorem StepView.of_counted (hg : StepView g) {f : Part → Part} (hf : ∀ p, g (f p) = g p) {due m : Bool}
    (h : (.next (if due then counted f m s else s) : Result) = .next t) : g t.part = g s.part := by
  cases h; split
  · exact frame_event g hg.outbox hg.settle f hf s
  · rfl

end

/-! ### The commands of the port, of the store and of the nodes -/

/-- What lies outside the part and its port, but for the marks and the free values drawn. -/
def State.outside (s : State) := (s.world, s.pending, s.memory, s.nodes, s.powered)

theorem startByte_port (s : State) : (startByte s).part = s.part ∧ (startByte s).outside = s.outside := by
  unfold startByte; split <;> exact ⟨rfl, rfl⟩
theorem frameLengthAbandon_port (n : Byte) (s : State) :
    (frameLengthAbandon n s).part = s.part ∧ (frameLengthAbandon n s).outside = s.outside := by
  unfold frameLengthAbandon; split <;> exact ⟨rfl, rfl⟩
theorem frameGapTimeout_port (n : Byte) (s : State) :
    (frameGapTimeout n s).part = s.part ∧ (frameGapTimeout n s).outside = s.outside := by
  unfold frameGapTimeout; split <;> exact ⟨rfl, rfl⟩
theorem transmitDone_port (s : State) : (transmitDone s).part = s.part ∧ (transmitDone s).outside = s.outside := by
  unfold transmitDone; split <;> exact ⟨rfl, rfl⟩
theorem noticeEnable_port (k : BitVec 16) (on : Option Bool) (s : State) :
    (noticeEnable k on s).1.part = s.part ∧ (noticeEnable k on s).1.outside = s.outside := by
  unfold noticeEnable; (repeat' split) <;> exact ⟨rfl, rfl⟩

theorem part_nodePowerRestart (n : Nat) (f : Option (List StoreByte)) (s : State) :
    (nodePowerRestart n f s).part = s.part := by unfold nodePowerRestart; (repeat' split) <;> rfl

/-- A frame that is received changes the part by what it has to say alone. -/
theorem StepView.of_frameReceived {β : Type} {g : Part → β} (hg : StepView g) (t k : Byte) (b : List Byte) (c : Byte)
    (s : State) : g (frameReceived t k b c s).part = g s.part := by
  unfold frameReceived; dsimp only; (repeat' split)
  · rfl
  · exact hg.outbox _
  · rfl

/-- The end of a save's work changes the part by its OP_DONE alone. -/
theorem kept_storeSaveComplete (good : Bool) (s : State) : (storeSaveComplete good s).part.kept = s.part.kept := by
  unfold storeSaveComplete; dsimp only; (repeat' split) <;> rfl

theorem restart_layout (s : State) : (restart s).1.part.layout = s.part.layout := rfl

theorem kept_storeLoad (s : State) : (storeLoad s).1.part.kept = s.part.kept := by
  unfold storeLoad; split <;> rfl

theorem kept_lineCycle (noise : Noise) (s : State) : (lineCycle noise s).part.kept = s.part.kept :=
  Part.kept_eq (layout_lineCycle noise s) (clock_lineCycle noise s)

/-! ### Every command -/

/-- A command that neither writes tables nor moves the clock leaves both. -/
theorem exec_kept {c : Instr} {s t : State} (hw : writesTables c = false) (hm : movesClock c = false)
    (h : exec c s = .next t) : t.part.kept = s.part.kept := by
  have hg := stepView_kept
  cases c
  case weekWrite | exceptionAdd | exceptionRemove | timeChangeAdd | timeChangeRemove | quietSet | groupWrite | planWrite
      | planAppend | planClear | bellSettings | buildingWrite | zoneDefine | zoneEnable | zoneMask | programWrite
      | scheduleAdd | scheduleRemove | circuitWrite | rosterWrite | rosterLength | lineSettings | storeLoadComplete
      | startUp | mainPowerLoss | batteryLow => cases hw
  case timeSet | timeTrim | bellRing | dayStart | rangeEnd | trimSecond | minuteBoundary | timeChangeReached
      | bellEntryReached | restart | latestStart => cases hm
  -- the requests that read, and those of the port
  case identify | status | noticeEnableRead | timeRead | weekRead | exceptionRead | timeChangeRead | quietRead | groupRead
      | planRead | timelineRead | bellSettingsRead | buildingRead | zoneRead | announceList | announceRead | programRead
      | drillRead | drillRecordsRead | scheduleRead | displayRead | circuitRead | nodeLinkRead | rosterRead
      | lineSettingsRead | chainRead => exact hg.of_portRequest (fun _ => rfl) h
  case noticeEnable => exact hg.of_portRequest (fun s => congrArg _ (noticeEnable_port _ _ s).1) h
  -- the requests of the blocks
  case bellSilence | yieldRelease | announceStart | announceEnd | announceCancel | drillStart | drillAbort | displaySet
      | circuitSetDial | circuitStop | circuitRun | countersRead | countersFreeze | lineStop | nodePower =>
    exact hg.of_request (fun b p => Part.kept_eq (by simp) (by simp)) h
  -- the long operations
  case lineStart | lineRestart | nodeRead | nodeWrite =>
    exact hg.of_blockLongOp (fun b p => Part.kept_eq (by simp) (by simp)) h
  case storeSave => exact hg.of_longOp (fun _ => rfl) h
  case storeLoad => exact hg.of_longOp kept_storeLoad h
  -- the events of the blocks
  case claimEndTime | chimeEnd | limitTime | scheduledDrillReached | drillWakeWaitEnd | probeEchoWaitEnd | prealertEnd
      | targetReached | toneEnd | musterLimit | allclearEnd | impulseSpacingEnd | confirmationWaitEnd
      | nodeLivenessTimeout | hailWindowEnd | setupWaitEnd | headPortClose | headPortFault | faultedRetryExpiry
      | retryExpiry | cutSettleEnd =>
    exact hg.of_event (fun p => Part.kept_eq (by simp) (by simp)) h
  -- the line, the port and the store
  case lineCycle => cases h; exact kept_lineCycle _ s
  case storeSaveComplete => cases h; exact kept_storeSaveComplete _ s
  case frameReceived => cases h; exact hg.of_frameReceived _ _ _ _ s
  case startByte => cases h; exact congrArg _ (startByte_port s).1
  case frameLengthAbandon => cases h; exact congrArg _ (frameLengthAbandon_port _ s).1
  case frameGapTimeout => cases h; exact congrArg _ (frameGapTimeout_port _ s).1
  case transmitDone => cases h; exact congrArg _ (transmitDone_port s).1
  -- the nodes
  case nodePowerRestart => cases h; exact congrArg _ (part_nodePowerRestart _ _ s)
  case nodeInputEdge | nodePulseEnd | nodeWarmupEnd | nodeCutOnwardEnd | nodeIsolated | nodeHoldOverEnd | nodeLineReset
      | nodePowerLoss | onwardSegmentChange => cases h; rfl

@[simp] theorem Part.layout_takeChange (p : Part) : p.takeChange.layout = p.layout := by
  unfold Part.takeChange; split
  · exact Part.layout_applyChange _ _
  · rfl

/-- The tables change only by the commands that write them. -/
theorem exec_layout {c : Instr} {s t : State} (hw : writesTables c = false) (h : exec c s = .next t) :
    t.part.layout = s.part.layout := by
  by_cases hm : movesClock c = false
  · exact congrArg Prod.fst (exec_kept hw hm h)
  have hg := stepView_layout
  cases c
  case weekWrite | exceptionAdd | exceptionRemove | timeChangeAdd | timeChangeRemove | quietSet | groupWrite | planWrite
      | planAppend | planClear | bellSettings | storeLoadComplete | startUp | mainPowerLoss | batteryLow => cases hw
  case timeSet | timeTrim | bellRing => exact hg.of_request (fun b p => by simp) h
  case minuteBoundary | bellEntryReached => exact hg.of_event (fun p => by split <;> simp) h
  case timeChangeReached | latestStart => exact hg.of_event (fun p => by simp) h
  case dayStart | rangeEnd | trimSecond => exact hg.of_counted (fun p => by simp) h
  case restart => exact hg.of_portRequest restart_layout h
  all_goals exact absurd rfl hm

/-- Elapsed time, campus time, the calendar and the bell scheduler change only by the commands that move them. -/
theorem exec_clock {c : Instr} {s t : State} (hm : movesClock c = false) (h : exec c s = .next t) :
    t.part.clock = s.part.clock := by
  by_cases hw : writesTables c = false
  · exact congrArg Prod.snd (exec_kept hw hm h)
  have hg := stepView_clock
  cases c
  case weekWrite | exceptionAdd | exceptionRemove | timeChangeAdd | timeChangeRemove | quietSet | groupWrite | planWrite
      | planAppend | planClear | bellSettings | storeLoadComplete | startUp | mainPowerLoss | batteryLow => cases hm
  case buildingWrite | zoneDefine | zoneEnable | zoneMask | programWrite | scheduleAdd | scheduleRemove | circuitWrite
      | rosterWrite | rosterLength | lineSettings => exact hg.of_request (fun b p => by simp) h
  all_goals exact absurd rfl hw

/-! ### Outside the part -/

theorem outside_finish (s : State) : (finish s).outside = s.outside := rfl

section
variable {s t : State} {i : Instr} {tag kind : Nat}

/-- A request leaves what its meaning leaves, of a view that looks at neither the part nor the port. -/
theorem view_request {γ : Type} (g : State → γ) (hg : ∀ (s : State) p o, g { s with part := p, port := o } = g s)
    {f : State → State × Answer} (hf : ∀ s, g (f s).1 = g s)
    (h : (.next (request i tag kind f s) : Result) = .next t) : g t = g s := by
  have carried : ∀ s : State, g (carryOut tag kind f s) = g s := by
    intro s; unfold carryOut; dsimp only; split
    · exact hg s _ _
    · exact (hg (f s).1 _ _).trans (hf s)
  have port : ∀ o, g { s with port := o } = g s := hg s s.part
  cases h
  unfold request
  (repeat' split)
  · exact (carried _).trans (port _)
  · exact port _
  · exact carried s
  · exact hg s _ _
  · rfl

/-- A request leaves what lies outside when its meaning does. -/
theorem outside_request {f : State → State × Answer} (hf : ∀ s, (f s).1.outside = s.outside)
    (h : (.next (request i tag kind f s) : Result) = .next t) : t.outside = s.outside :=
  view_request State.outside (fun _ _ _ => rfl) hf h

theorem outside_ofPart (f : Bool → Part → Part × Answer) (s : State) : (ofPart f s).1.outside = s.outside := by
  unfold ofPart; dsimp only; split <;> rfl

theorem outside_longOp {f : State → State × Answer} (hf : ∀ s, (f s).1.outside = s.outside) (s : State) :
    (longOp tag kind f s).1.outside = s.outside := by
  unfold longOp; dsimp only; (repeat' split)
  · rfl
  · exact hf s
  · exact hf s

theorem outside_event (f : Part → Part) (s : State) : (event f s).outside = s.outside := by
  unfold event; split <;> rfl

theorem outside_counted {f : Part → Part} {due m : Bool}
    (h : (.next (if due then counted f m s else s) : Result) = .next t) : t.outside = s.outside := by
  cases h; split
  · exact outside_event f s
  · rfl

end

theorem outside_storeLoad (s : State) : (storeLoad s).1.outside = s.outside := by unfold storeLoad; split <;> rfl
theorem outside_storeLoadComplete (a : Bool) (s : State) : (storeLoadComplete a s).outside = s.outside := by
  unfold storeLoadComplete; split
  · dsimp only; split
    · rfl
    · split
      · rfl
      next t _ _ => generalize (Part.loadTables _ t).settle = q; rfl
  · rfl
theorem outside_frameReceived (t k : Byte) (b : List Byte) (c : Byte) (s : State) :
    (frameReceived t k b c s).outside = s.outside := by
  unfold frameReceived; dsimp only; (repeat' split) <;> rfl
theorem outside_batteryLow (s : State) : (batteryLow s).outside = s.outside := by unfold batteryLow; split <;> rfl

/-- The commands that reach outside the part: those that end, cut or replace a save, a node's own events, a line cycle, and
the coming and going of power. -/
def reachesOutside : Instr → Bool
  | .restart _ | .storeSaveComplete _ | .mainPowerLoss | .startUp _ | .lineCycle _ => true
  | c => touchesNodes c

/-- Every other command leaves the world, the queue of commands, the serial memory, the nodes and power. -/
theorem exec_outside {c : Instr} {s t : State} (hr : reachesOutside c = false) (h : exec c s = .next t) :
    t.outside = s.outside := by
  cases c
  case restart | storeSaveComplete | mainPowerLoss | startUp | lineCycle | nodeInputEdge | nodePulseEnd | nodeWarmupEnd
      | nodeCutOnwardEnd | nodeIsolated | nodeHoldOverEnd | nodeLineReset | nodePowerRestart | nodePowerLoss
      | onwardSegmentChange => cases hr
  case identify | status | noticeEnableRead | timeRead | weekRead | exceptionRead | timeChangeRead | quietRead | groupRead
      | planRead | timelineRead | bellSettingsRead | buildingRead | zoneRead | announceList | announceRead | programRead
      | drillRead | drillRecordsRead | scheduleRead | displayRead | circuitRead | nodeLinkRead | rosterRead
      | lineSettingsRead | chainRead => exact outside_request (fun _ => rfl) h
  case noticeEnable => exact outside_request (fun s => (noticeEnable_port _ _ s).2) h
  case storeSave => exact outside_request (outside_longOp fun _ => rfl) h
  case storeLoad => exact outside_request (outside_longOp outside_storeLoad) h
  case lineStart | lineRestart | nodeRead | nodeWrite => exact outside_request (outside_longOp (outside_ofPart _)) h
  case storeLoadComplete => cases h; exact outside_storeLoadComplete _ s
  case frameReceived => cases h; exact outside_frameReceived _ _ _ _ s
  case startByte => cases h; exact (startByte_port s).2
  case frameLengthAbandon => cases h; exact (frameLengthAbandon_port _ s).2
  case frameGapTimeout => cases h; exact (frameGapTimeout_port _ s).2
  case transmitDone => cases h; exact (transmitDone_port s).2
  case batteryLow => cases h; exact outside_batteryLow s
  case dayStart | rangeEnd | trimSecond => exact outside_counted h
  case minuteBoundary | timeChangeReached | bellEntryReached | latestStart | claimEndTime | chimeEnd | limitTime
      | scheduledDrillReached | drillWakeWaitEnd | probeEchoWaitEnd | prealertEnd | targetReached | toneEnd | musterLimit
      | allclearEnd | impulseSpacingEnd | confirmationWaitEnd | nodeLivenessTimeout | hailWindowEnd | setupWaitEnd
      | headPortClose | headPortFault | faultedRetryExpiry | retryExpiry | cutSettleEnd =>
    cases h; exact outside_event _ s
  -- the requests of the blocks
  all_goals exact outside_request (outside_ofPart _) h

/-! ### The commands that reach outside -/

/-- The end of a save's work changes the serial memory alone. -/
theorem outside_storeSaveComplete (good : Bool) (s : State) :
    (storeSaveComplete good s).outside = { s with memory := (storeSaveComplete good s).memory }.outside := by
  unfold storeSaveComplete; dsimp only; (repeat' split) <;> rfl

theorem outside_restart {s t : State} {tag : Nat} (h : exec (.restart tag) s = .next t) :
    t.outside = { s with memory := t.memory }.outside := by
  have hf : ∀ s : State, (fun s : State => (s.world, s.pending, s.nodes, s.powered)) (restart s).1 =
      (s.world, s.pending, s.nodes, s.powered) := by
    intro s; simp [restart]
  have hv := view_request (fun s : State => (s.world, s.pending, s.nodes, s.powered)) (fun _ _ _ => rfl) hf h
  simp only [Prod.mk.injEq] at hv
  obtain ⟨hw, hp, hn, hpow⟩ := hv
  simp [State.outside, hw, hp, hn, hpow]

theorem outside_mainPowerLoss (s : State) : (mainPowerLoss s).outside =
    { s with memory := (mainPowerLoss s).memory, powered := (mainPowerLoss s).powered }.outside := by
  unfold mainPowerLoss; split
  · simp [State.outside]
  · rfl

theorem outside_startUp (a : Bool) (s : State) :
    (startUp a s).outside = { s with powered := (startUp a s).powered }.outside := by
  unfold startUp; split <;> rfl

theorem outside_lineCycle (noise : Noise) (s : State) :
    (lineCycle noise s).outside = { s with nodes := (lineCycle noise s).nodes }.outside := by
  unfold lineCycle; split <;> rfl

theorem outside_nodePowerRestart (n : Nat) (f : Option (List StoreByte)) (s : State) :
    (nodePowerRestart n f s).outside = { s with nodes := (nodePowerRestart n f s).nodes }.outside := by
  unfold nodePowerRestart; (repeat' split) <;> rfl

/-- What an equation of the views says, field by field. -/
theorem outside_fields {t u : State} (h : t.outside = u.outside) :
    t.world = u.world ∧ t.pending = u.pending ∧ t.memory = u.memory ∧ t.nodes = u.nodes ∧ t.powered = u.powered := by
  simpa only [State.outside, Prod.mk.injEq] using h

/-- A node's own events change the nodes alone. -/
theorem outside_ofNode {c : Instr} {s t : State} (hc : touchesNodes c = true) (h : exec c s = .next t) :
    t.outside = { s with nodes := t.nodes }.outside := by
  cases c
  case nodePowerRestart => cases h; exact outside_nodePowerRestart _ _ s
  case nodeInputEdge | nodePulseEnd | nodeWarmupEnd | nodeCutOnwardEnd | nodeIsolated | nodeHoldOverEnd | nodeLineReset
      | nodePowerLoss | onwardSegmentChange => cases h; rfl
  all_goals cases hc

/-- What each command may change outside the part. -/
theorem exec_changes_outside {c : Instr} {s t : State} (h : exec c s = .next t) :
    t.outside = s.outside ∨
    (t.outside = { s with memory := t.memory }.outside ∧ ((∃ good, c = .storeSaveComplete good) ∨ ∃ tag, c = .restart tag)) ∨
    (t.outside = { s with memory := t.memory, powered := t.powered }.outside ∧ c = .mainPowerLoss) ∨
    (t.outside = { s with powered := t.powered }.outside ∧ ∃ a, c = .startUp a) ∨
    (t.outside = { s with nodes := t.nodes }.outside ∧ ((∃ noise, c = .lineCycle noise) ∨ touchesNodes c = true)) := by
  by_cases hr : reachesOutside c = false
  · exact .inl (exec_outside hr h)
  by_cases hn : touchesNodes c = true
  · exact .inr (.inr (.inr (.inr ⟨outside_ofNode hn h, .inr hn⟩)))
  cases c
  case restart => exact .inr (.inl ⟨outside_restart h, .inr ⟨_, rfl⟩⟩)
  case storeSaveComplete => cases h; exact .inr (.inl ⟨outside_storeSaveComplete _ s, .inl ⟨_, rfl⟩⟩)
  case mainPowerLoss => cases h; exact .inr (.inr (.inl ⟨outside_mainPowerLoss s, rfl⟩))
  case startUp => cases h; exact .inr (.inr (.inr (.inl ⟨outside_startUp _ s, _, rfl⟩)))
  case lineCycle => cases h; exact .inr (.inr (.inr (.inr ⟨outside_lineCycle _ s, .inl ⟨_, rfl⟩⟩)))
  all_goals first | exact absurd rfl hr | exact absurd rfl hn

/-- Settles O60: every command by what it may reach, once for the tables and the clock and once for what lies outside. -/
theorem commandsKeepToTheirState : Obligations.CommandsKeepToTheirState := by
  refine ⟨fun c s t => exec_layout, fun c s t => exec_clock, fun c s t h => ?_⟩
  rcases exec_changes_outside h with ho | ⟨ho, hc⟩ | ⟨ho, hc⟩ | ⟨ho, hc⟩ | ⟨ho, hc⟩ <;>
    obtain ⟨hworld, hpending, hmemory, hnodes, hpowered⟩ := outside_fields ho <;>
    refine ⟨hworld, hpending, ?_, ?_, ?_⟩
  · exact fun _ _ _ => hmemory
  · exact fun _ _ => hnodes
  · exact fun _ _ => hpowered
  · intro hsave _ hrestart
    rcases hc with ⟨good, hc⟩ | ⟨tag, hc⟩
    · exact absurd hc (hsave good)
    · exact absurd hc (hrestart tag)
  · exact fun _ _ => hnodes
  · exact fun _ _ => hpowered
  · exact fun _ hloss _ => absurd hc hloss
  · exact fun _ _ => hnodes
  · exact fun _ hloss => absurd hc hloss
  · exact fun _ _ _ => hmemory
  · exact fun _ _ => hnodes
  · intro hstart _
    obtain ⟨a, hc⟩ := hc
    exact absurd hc (hstart a)
  · exact fun _ _ _ => hmemory
  · intro hcycle htouch
    rcases hc with ⟨noise, hc⟩ | hc
    · exact absurd hc (hcycle noise)
    · exact absurd hc (by simp [htouch])
  · exact fun _ _ => hpowered

end Sys2Proof.Machine
end

section
/-! SUPPORT. TIME_READ (R6). -/

namespace Sys2Proof.Machine

/-- Day 0 is a Saturday, and the days of the week are counted from Monday (R6; log entry 10). -/
theorem weekdayOf_eq (day : Nat) : weekdayOf day = (day + 5) % 7 := rfl

theorem Part.isSet_of_set {p : Part} (h : p.time.quality = .set) : p.isSet = true := by simp [Part.isSet, h]
theorem Part.isSet_of_unset {p : Part} (h : p.time.quality = .unset) : p.isSet = false := by simp [Part.isSet, h]

/-- Settles O11: the reply is the reader's, whose two conditional fields follow the quality. -/
theorem timeReadGivesCampusTime : Obligations.TimeReadGivesCampusTime := by
  intro s tag hready
  refine ⟨if s.part.isSet then s.part.cal.selection else .unset, s.part.isSet && s.part.cal.inside, ?_, ?_, ?_⟩
  · exact congrArg _ (request_reader hready _ _ Part.timeRead)
  · intro hset
    simp [Part.isSet_of_set hset]
  · intro hunset
    simp [Part.isSet_of_unset hunset, DaySelection.unset]

end Sys2Proof.Machine
end

section
/-! SUPPORT. The loss of main power and of the battery (R7, R169). -/

namespace Sys2Proof.Machine

/-- An image has a head and a check (R185). -/
theorem imageOf_length (t : Tables) : 7 ≤ (imageOf t).length := by
  simp only [imageOf, imageWith, List.length_append, imageHead_length, imageCheck_length]; omega

/-- A save that is cut has written a proper beginning of its image (R169; log entry 74). -/
theorem SerialMemory.cut_beginning (m : SerialMemory) (t : Tables) (draw : Nat) : ∃ k, 1 ≤ k ∧ k < (imageOf t).length ∧
    m.cut (imageOf t) draw = { m.written ((imageOf t).take k) with torn := true } := by
  have hlen := imageOf_length t
  have hmod := Nat.mod_lt (Config.writtenAtCut draw) (y := (imageOf t).length - 1) (by omega)
  exact ⟨_, Nat.le_add_right 1 _, by omega, rfl⟩

/-- What a power loss leaves of the machine. -/
theorem exec_mainPowerLoss {s : State} (h : s.powered = true) : exec .mainPowerLoss s =
    .next { s.cutSave with part := { s.part with backup := s.kept }.dark, port := Port.dark, powered := false,
                           marks := Marks.none } := by
  simp [exec, execMainPowerLoss, mainPowerLoss, h]

theorem exec_mainPowerLoss_dark {s : State} (h : s.powered = false) : exec .mainPowerLoss s = .next s := by
  simp [exec, execMainPowerLoss, mainPowerLoss, h]

/-- What a flat battery leaves of the machine without main power. -/
theorem exec_batteryLow_dark {s : State} (h : s.powered = false) : exec .batteryLow s =
    .next { s with part := { s.part with backup := Backup.lost }.dark } := by
  simp [exec, execBatteryLow, batteryLow, h]

theorem exec_batteryLow_powered {s : State} (h : s.powered = true) : exec .batteryLow s = .next s := by
  simp [exec, execBatteryLow, batteryLow, h]

/-- A part without main power holds no claim. -/
theorem Part.dark_hasClaim (p : Part) : ∀ z < 64, (p.dark.zone z).hasClaim = false := by
  have h : ∀ z < 64, (Part.reset.zone z).hasClaim = false := by decide
  exact h

/-- A lost backup domain holds no dial (log entry 3). -/
theorem Backup.lost_dials : ∀ c < 32, Backup.lost.dials[c]? = some ⟨none, .positive, none⟩ := by decide

/-- Settles O45: with main power, without it, and the battery with main power. -/
theorem powerFails : Obligations.PowerFails := by
  intro s
  refine ⟨fun hp => ?_, fun hp => ?_, fun hp => ?_⟩
  · refine ⟨_, exec_mainPowerLoss hp, rfl, rfl, fun hn => ?_, fun x hx => ?_, State.cutSave_nodes s, State.cutSave_world s,
      State.cutSave_pending s, rfl, rfl, rfl, rfl, rfl, rfl, rfl, rfl, rfl, rfl, Part.dark_hasClaim _⟩
    · rw [State.cutSave_none hn]
    · rw [State.cutSave_some hx]
      exact s.memory.cut_beginning x s.draws
  · exact ⟨exec_mainPowerLoss_dark hp, _, exec_batteryLow_dark hp, hp, rfl, rfl, rfl, Backup.lost_dials, rfl, rfl⟩
  · exact exec_batteryLow_powered hp

end Sys2Proof.Machine
end

section
/-! SUPPORT. What the calendar's operations send and change: selections, the quiet state, builds (R12, R17, R19, R26). -/

namespace Sys2Proof.Machine

/-! ### Notices sent -/

/-- From `p` to `q` the blocks have sent these notices and nothing else, and no announcement record has changed. -/
def Part.says (p q : Part) (l : List Notice) : Prop := q.ann = p.ann ∧ q.outbox = p.outbox ++ l.map .notice

theorem Part.says_nil {p q : Part} (ha : q.ann = p.ann) (ho : q.outbox = p.outbox) : p.says q [] := ⟨ha, by simp [ho]⟩

theorem Part.says_note (p : Part) (n : Notice) : p.says (p.note n) [n] := ⟨rfl, rfl⟩

theorem Part.says.trans {p q r : Part} {l l' : List Notice} (h : p.says q l) (h' : q.says r l') : p.says r (l ++ l') := by
  obtain ⟨ha, ho⟩ := h
  obtain ⟨ha', ho'⟩ := h'
  exact ⟨ha'.trans ha, by simp [ho', ho]⟩

/-- What sends nothing and leaves the announcements may follow. -/
theorem Part.says.silent {p q r : Part} {l : List Notice} (h : p.says q l) (ha : r.ann = q.ann) (ho : r.outbox = q.outbox) :
    p.says r l := ⟨ha.trans h.1, ho.trans h.2⟩

/-- What sends nothing and leaves the announcements may go before. -/
theorem Part.says.of_silent {p q r : Part} {l : List Notice} (h : q.says r l) (ha : q.ann = p.ann) (ho : q.outbox = p.outbox) :
    p.says r l := ⟨h.1.trans ha, by rw [h.2, ho]⟩

theorem Part.says.of_silent_congr {p q r : Part} {l l' : List Notice} (h : q.says r l) (ha : q.ann = p.ann)
    (ho : q.outbox = p.outbox) (hl : l = l') : p.says r l' := hl ▸ h.of_silent ha ho

theorem Part.says.congr {p q : Part} {l l' : List Notice} (h : p.says q l) (hl : l = l') : p.says q l' := hl ▸ h

/-- Messages that are notices reach the port as notices. -/
theorem Port.takes_notices (l : List Notice) : ∀ o : Port, (l.map Message.notice).foldl Port.take o = l.foldl Port.offer o := by
  induction l with
  | nil => intro o; rfl
  | cons n l ih => intro o; exact ih (o.offer n)

/-- What the end of a step reports: the replies that it made, and the notices that the blocks have sent. -/
theorem finish_reports {s : State} {p : Part} {l : List Notice} (hs : s.part.settled) (ho : s.part.outbox = [])
    (h : s.part.says p l) (rs : List Reply) :
    State.reports s (finish { s with part := p.settle, port := { s.port with replies := s.port.replies ++ rs } }) rs l := by
  obtain ⟨ha, hl⟩ := h
  rw [Part.settle_same hs ha]
  simp [State.reports, finish, Port.drain, hl, ho, Port.takes_notices]

/-- What a request of a block reports: its reply, and the notices that it sends. -/
theorem request_reports {s : State} {tag : Nat} (h : s.ready tag) (hs : s.part.settled) (i : Instr) (kind : Nat)
    (f : Bool → Part → Part × Answer) {p : Part} {a : Answer} {l : List Notice} (hf : f s.port.saving.isSome s.part = (p, a))
    (ha : a.status = .ok ∨ a.status = .accepted) (hl : s.part.says p l) :
    State.reports s (request i tag kind (ofPart f) s) [replyOf tag kind a] l := by
  rw [request_carried h]
  have hp : ofPart f s = ({ s with part := p.settle }, a) := by simp only [ofPart, hf, if_pos ha]
  rw [hp]
  exact finish_reports hs h.2.2.2.2 hl _

/-- What an event reports: the notices that it sends. -/
theorem event_reports {s : State} (hp : s.powered = true) (hs : s.part.settled) (ho : s.part.outbox = []) {f : Part → Part}
    {l : List Notice} (hl : s.part.says (f s.part) l) : State.reports s (event f s) [] l := by
  have h := finish_reports hs ho hl []
  simpa [event, hp] using h

/-! ### The quiet state -/

/-- The notice of a change of the quiet state, if there is one (R17, R19). -/
def quietNotices (old new : Bool) (start stop : Nat) (at' : CampusTime) (q : Quality) : List Notice :=
  if new = old then [] else
    [.timeEvent (if new = true then .quietBegins start stop else .quietEnds start stop) at' q]

@[simp] theorem Part.outbox_wake (p : Part) (pos : Nat) : (p.wake pos).outbox = p.outbox := by
  unfold Part.wake; (repeat' split) <;> simp [apply_ite Part.outbox]

@[simp] theorem Part.outbox_sendQuiet (p : Part) (pos : Nat) : (p.sendQuiet pos).outbox = p.outbox := by
  unfold Part.sendQuiet; split <;> simp

/-- A walk over a list sends nothing when none of its steps does. -/
theorem Part.outbox_each {α : Type} (f : Part → α → Part) (h : ∀ q a, (f q a).outbox = q.outbox) (l : List α) :
    ∀ p : Part, (p.each l f).outbox = p.outbox := by
  induction l with
  | nil => intro p; rfl
  | cons a l ih => intro p; exact (ih (f p a)).trans (h p a)

@[simp] theorem Part.outbox_quietBegins (p : Part) : p.quietBegins.outbox = p.outbox :=
  Part.outbox_each _ (fun q pos => by (repeat' split) <;> simp) _ p

@[simp] theorem Part.outbox_quietEnds (p : Part) : p.quietEnds.outbox = p.outbox :=
  Part.outbox_each _ (fun q pos => by simp) _ p

@[simp] theorem Part.core_noteTime (p : Part) (c : TimeCause) : (p.noteTime c).core = p.core := rfl

/-- An evaluation of the quiet state changes that state alone, and the power of nodes (R17). -/
theorem Part.core_evaluateQuiet (p : Part) :
    p.evaluateQuiet.core = { p with cal := { p.cal with inside := p.quietNow } }.core := by
  unfold Part.evaluateQuiet; dsimp only
  split
  next h => rw [beq_iff_eq.mp h]
  · split
    · simp
    · simp

/-- What the core holds of the campus time, the calendar and the bell scheduler. -/
theorem Part.core_fields {p q : Part} (h : q.core = p.core) :
    q.now = p.now ∧ q.backup = p.backup ∧ q.time = p.time ∧ q.cal = p.cal ∧ q.bell = p.bell ∧ q.drill = p.drill := by
  simp only [Part.core, Prod.mk.injEq] at h
  obtain ⟨h1, h2, h3, h4, h5, h6, _⟩ := h
  exact ⟨h1, h2, h3, h4, h5, h6⟩

@[simp] theorem Part.evaluateQuiet_now (p : Part) : p.evaluateQuiet.now = p.now := (Part.core_fields p.core_evaluateQuiet).1
@[simp] theorem Part.evaluateQuiet_backup (p : Part) : p.evaluateQuiet.backup = p.backup :=
  (Part.core_fields p.core_evaluateQuiet).2.1
@[simp] theorem Part.evaluateQuiet_time (p : Part) : p.evaluateQuiet.time = p.time :=
  (Part.core_fields p.core_evaluateQuiet).2.2.1
@[simp] theorem Part.evaluateQuiet_cal (p : Part) : p.evaluateQuiet.cal = { p.cal with inside := p.quietNow } :=
  (Part.core_fields p.core_evaluateQuiet).2.2.2.1
@[simp] theorem Part.evaluateQuiet_bell (p : Part) : p.evaluateQuiet.bell = p.bell :=
  (Part.core_fields p.core_evaluateQuiet).2.2.2.2.1
@[simp] theorem Part.evaluateQuiet_drill (p : Part) : p.evaluateQuiet.drill = p.drill :=
  (Part.core_fields p.core_evaluateQuiet).2.2.2.2.2

/-- An evaluation of the quiet state reports a change of it (R17, R19). -/
theorem Part.says_evaluateQuiet (p : Part) : p.says p.evaluateQuiet
    (quietNotices p.cal.inside p.quietNow p.cal.quietStart p.cal.quietEnd p.campus p.time.quality) := by
  refine ⟨Part.ann_quiet p, ?_⟩
  by_cases h : p.quietNow = p.cal.inside
  · simp [Part.evaluateQuiet, quietNotices, h]
  obtain ⟨-, hb, ht, hc, -⟩ := Part.core_fields (Part.core_quietBegins { p with cal := { p.cal with inside := p.quietNow } })
  obtain ⟨-, hb', ht', hc', -⟩ := Part.core_fields (Part.core_quietEnds { p with cal := { p.cal with inside := p.quietNow } })
  simp only [Part.evaluateQuiet, quietNotices, beq_iff_eq, h, if_false]
  split
  · rw [Part.noteTime, Part.note_outbox, Part.outbox_quietBegins, Part.campus, hb, ht]; rfl
  · rw [Part.noteTime, Part.note_outbox, Part.outbox_quietEnds, Part.campus, hb', ht']; rfl

/-- The quiet state while campus time is SET (R17). -/
theorem Part.quietNow_of_set {p : Part} (h : p.time.quality = .set) :
    p.quietNow = (p.cal.selection.quiet || inWindow p.cal.quietStart p.cal.quietEnd p.backup.tod) := by
  simp [Part.quietNow, Part.isSet, h]

theorem Part.quietNow_of_unset {p : Part} (h : p.time.quality = .unset) : p.quietNow = false := by
  simp [Part.quietNow, Part.isSet, h]

/-! ### Selections -/

@[simp] theorem Part.setSelection_now (p : Part) (sel : DaySelection) (n : Nat) : (p.setSelection sel n).now = p.now := rfl
@[simp] theorem Part.setSelection_backup (p : Part) (sel : DaySelection) (n : Nat) : (p.setSelection sel n).backup = p.backup := rfl
@[simp] theorem Part.setSelection_time (p : Part) (sel : DaySelection) (n : Nat) : (p.setSelection sel n).time = p.time := rfl
@[simp] theorem Part.setSelection_cal (p : Part) (sel : DaySelection) (n : Nat) :
    (p.setSelection sel n).cal = { p.cal with selection := sel } := rfl
@[simp] theorem Part.setSelection_bell (p : Part) (sel : DaySelection) (n : Nat) : (p.setSelection sel n).bell = p.bell := rfl
@[simp] theorem Part.setSelection_drill (p : Part) (sel : DaySelection) (n : Nat) : (p.setSelection sel n).drill = p.drill := rfl

/-- A selection is reported (R12, R19). -/
theorem Part.says_setSelection (p : Part) (sel : DaySelection) (n : Nat) : p.says (p.setSelection sel n)
    [.timeEvent (.dayPlan p.backup.day sel n) p.campus p.time.quality] := ⟨rfl, rfl⟩

theorem Part.says_selectDay (p : Part) (n : Nat) : p.says (p.selectDay n)
    [.timeEvent (.dayPlan p.backup.day (p.selectionFor p.backup.day) n) p.campus p.time.quality] := ⟨rfl, rfl⟩

theorem Part.says_noteTime (p : Part) (c : TimeCause) : p.says (p.noteTime c) [.timeEvent c p.campus p.time.quality] :=
  ⟨rfl, rfl⟩

/-- A day selection depends on the week table and the exceptions alone (R12). -/
theorem Part.selectionFor_congr {p q : Part} (hw : q.cal.week = p.cal.week) (he : q.cal.exceptions = p.cal.exceptions)
    (day : Nat) : q.selectionFor day = p.selectionFor day := by
  simp [Part.selectionFor, hw, he]

/-! ### Builds -/

@[simp] theorem Part.buildTimeline_ann (p : Part) (d : Nat) (n : Option Nat) (t : Nat) : (p.buildTimeline d n t).ann = p.ann := rfl
@[simp] theorem Part.buildTimeline_outbox (p : Part) (d : Nat) (n : Option Nat) (t : Nat) :
    (p.buildTimeline d n t).outbox = p.outbox := rfl
@[simp] theorem Part.buildTimeline_now (p : Part) (d : Nat) (n : Option Nat) (t : Nat) : (p.buildTimeline d n t).now = p.now := rfl
@[simp] theorem Part.buildTimeline_backup (p : Part) (d : Nat) (n : Option Nat) (t : Nat) :
    (p.buildTimeline d n t).backup = p.backup := rfl
@[simp] theorem Part.buildTimeline_time (p : Part) (d : Nat) (n : Option Nat) (t : Nat) : (p.buildTimeline d n t).time = p.time := rfl
@[simp] theorem Part.buildTimeline_cal (p : Part) (d : Nat) (n : Option Nat) (t : Nat) : (p.buildTimeline d n t).cal = p.cal := rfl
@[simp] theorem Part.buildTimeline_drill (p : Part) (d : Nat) (n : Option Nat) (t : Nat) :
    (p.buildTimeline d n t).drill = p.drill := rfl

/-- The entries of a plan, of a part with the same bell scheduler. -/
theorem Part.plan_congr {p q : Part} (h : q.bell.plans = p.bell.plans) : q.plan = p.plan := by
  funext n; simp [Part.plan, h]

/-- A build takes the timeline, the furthest date and the fired record (R26, R27). -/
theorem Part.bell_buildTimeline (p : Part) (d : Nat) (n : Option Nat) (t : Nat) :
    (p.buildTimeline d n t).bell = { p.bell with timeline := (p.buildTimeline d n t).bell.timeline, furthest := (p.buildTimeline d n t).bell.furthest, fired := (p.buildTimeline d n t).bell.fired } := rfl

/-- The build rule as the statements have it (R26, R27). -/
theorem Part.builds_buildTimeline (p : Part) (day : Nat) (plan : Option Nat) (t : Nat) :
    Bells.builds p.bell (p.buildTimeline day plan t).bell day t plan (plan.elim [] p.plan) := by
  have hplan : (plan.map p.plan).getD [] = plan.elim [] p.plan := by cases plan <;> rfl
  refine ⟨rfl, rfl, rfl, ?_, fun h => ?_, fun h => ?_, fun x hx => ?_⟩
  · simp [Part.buildTimeline, hplan, Function.comp_def]
  · exact ⟨if_pos h, if_pos h⟩
  · exact ⟨if_neg (by simp [h]), if_neg (by simp [h])⟩
  · simp only [Part.buildTimeline, List.mem_map] at hx
    obtain ⟨e, -, rfl⟩ := hx
    refine ⟨rfl, fun h => ?_, fun h => ⟨fun hk => ?_, fun k hk => ?_⟩, fun f h hf => ?_⟩
    · dsimp only [buildState, BellEntry.moment]
      cases hf : p.bell.furthest with
      | none => rfl
      | some f => 
        simp only [hf, Option.all_some, decide_eq_true_eq] at h
        exact if_pos h
    · simp only [buildState, h, Nat.lt_irrefl, if_false]
      rw [show List.find? _ _ = none from hk]
      rfl
    · simp [buildState, h, hk]
    · simp [buildState, h, hf, Nat.not_lt.mpr (Nat.le_of_lt hf)]

end Sys2Proof.Machine
end

section
/-! SUPPORT. The edits of the calendar's day tables and of the quiet window (R9 to R13, R17, R18). -/

namespace Sys2Proof.Machine

/-! ### An edit of the week table or the exceptions (R13) -/

/-- A build changes the bell scheduler alone. -/
theorem Part.core_buildTimeline (p : Part) (d : Nat) (n : Option Nat) (t : Nat) :
    (p.buildTimeline d n t).core = { p with bell := (p.buildTimeline d n t).bell }.core := rfl

/-- An edit that leaves today's selection as it was, or comes while campus time is UNSET, changes nothing more. -/
theorem Part.selectionEdited_same {p : Part} (h : p.isSet = false ∨ p.selectionFor p.backup.day = p.cal.selection) :
    p.selectionEdited = p := by
  rcases h with h | h <;> simp [Part.selectionEdited, h]

/-- An edit that changes today's selection, but not its quiet-all-day flag, is reported, and the timeline is built. -/
theorem Part.selectionEdited_plan {p : Part} {sel : DaySelection} (hs : p.isSet = true)
    (hsel : p.selectionFor p.backup.day = sel) (hne : sel ≠ p.cal.selection) (hq : sel.quiet = p.cal.selection.quiet) :
    p.selectionEdited = (p.setSelection sel 0).buildNow sel.plan := by
  simp [Part.selectionEdited, hs, hsel, hne, hq]

/-- With a change of the quiet-all-day flag the quiet state is evaluated too. -/
theorem Part.selectionEdited_quiet {p : Part} {sel : DaySelection} (hs : p.isSet = true)
    (hsel : p.selectionFor p.backup.day = sel) (hne : sel ≠ p.cal.selection) (hq : sel.quiet ≠ p.cal.selection.quiet) :
    p.selectionEdited = (p.setSelection sel 0).evaluateQuiet.buildNow sel.plan := by
  simp [Part.selectionEdited, hs, hsel, hne, hq]

/-- An edit reaches the calendar and the bell scheduler alone, but for the power of nodes. -/
theorem Part.core_selectionEdited (p : Part) :
    p.selectionEdited.core = { p with cal := p.selectionEdited.cal, bell := p.selectionEdited.bell }.core := by
  by_cases hsame : p.isSet = false ∨ p.selectionFor p.backup.day = p.cal.selection
  · rw [Part.selectionEdited_same hsame]
  rw [not_or, Bool.not_eq_false] at hsame
  obtain ⟨hs, hne⟩ := hsame
  by_cases hq : (p.selectionFor p.backup.day).quiet = p.cal.selection.quiet
  · rw [Part.selectionEdited_plan hs rfl hne hq]; rfl
  · rw [Part.selectionEdited_quiet hs rfl hne hq]
    have h := Part.core_evaluateQuiet (p.setSelection (p.selectionFor p.backup.day) 0)
    simp only [Part.core, Prod.mk.injEq] at h ⊢
    obtain ⟨h1, h2, h3, -, -, h6, h7, h8, h9, h10⟩ := h
    exact ⟨h1, h2, h3, trivial, trivial, h6, h7, h8, h9, h10⟩

/-- The parts of the calendar and of the bell scheduler that such an edit leaves. -/
theorem Part.selectionEdited_tables (p : Part) :
    p.selectionEdited.cal = { p.cal with selection := p.selectionEdited.cal.selection, inside := p.selectionEdited.cal.inside } ∧
    p.selectionEdited.bell = { p.bell with timeline := p.selectionEdited.bell.timeline,
                                           furthest := p.selectionEdited.bell.furthest,
                                           fired := p.selectionEdited.bell.fired } := by
  by_cases hsame : p.isSet = false ∨ p.selectionFor p.backup.day = p.cal.selection
  · rw [Part.selectionEdited_same hsame]; constructor <;> rfl
  rw [not_or, Bool.not_eq_false] at hsame
  obtain ⟨hs, hne⟩ := hsame
  by_cases hq : (p.selectionFor p.backup.day).quiet = p.cal.selection.quiet
  · rw [Part.selectionEdited_plan hs rfl hne hq]; constructor <;> rfl
  · rw [Part.selectionEdited_quiet hs rfl hne hq]
    simp [Part.buildNow, Part.buildTimeline]

/-- What follows from an edit of the week table or the exceptions, as the statement has it: in `t` the tables are edited. -/
def State.follows (s : State) (tag kind : Nat) (t : State) : Prop :=
  let quietState := fun (quiet : Bool) =>
    quiet || inWindow s.part.cal.quietStart s.part.cal.quietEnd s.part.backup.tod
  let timeEvent := fun (c : TimeCause) => Notice.timeEvent c s.part.campus s.part.time.quality
  let reports := State.reports s t [replyOf tag kind ⟨.ok, .none⟩]
  State.sameOutside s t ∧ t.part.core = { s.part with cal := t.part.cal, bell := t.part.bell }.core ∧
  t.part.bell = { s.part.bell with timeline := t.part.bell.timeline, furthest := t.part.bell.furthest,
                                   fired := t.part.bell.fired } ∧
  (s.part.time.quality = .set →
    let old := s.part.cal.selection
    let sel := t.part.selectionFor s.part.backup.day
    t.part.cal.selection = sel ∧
    (sel ≠ old → Bells.builds s.part.bell t.part.bell s.part.backup.day s.part.backup.tod sel.plan
      (sel.plan.elim [] s.part.plan)) ∧
    (sel = old → t.part.bell = s.part.bell ∧ t.part.cal.inside = s.part.cal.inside ∧ (s.part.settled → reports [])) ∧
    (sel ≠ old → sel.quiet = old.quiet → t.part.cal.inside = s.part.cal.inside ∧
      (s.part.settled → reports [timeEvent (.dayPlan s.part.backup.day sel 0)])) ∧
    (sel ≠ old → sel.quiet ≠ old.quiet → t.part.cal.inside = quietState sel.quiet ∧
      (s.part.settled → reports (timeEvent (.dayPlan s.part.backup.day sel 0) ::
        (if quietState sel.quiet = s.part.cal.inside then [] else [timeEvent (if quietState sel.quiet = true
          then .quietBegins s.part.cal.quietStart s.part.cal.quietEnd
          else .quietEnds s.part.cal.quietStart s.part.cal.quietEnd)]))))) ∧
  (s.part.time.quality = .unset → t.part.cal.selection = s.part.cal.selection ∧ t.part.bell = s.part.bell ∧
    t.part.cal.inside = s.part.cal.inside ∧ (s.part.settled → reports []))

/-- A request that replaces the week table and the exceptions, and lets the selection follow. -/
theorem request_follows {s : State} {tag : Nat} (hr : s.ready tag) (i : Instr) (kind : Nat) {f : Bool → Part → Part × Answer}
    (w : Vector (Option Nat) 7) (es : List ExceptionRec)
    (hf : f s.port.saving.isSome s.part =
      ({ s.part with cal := { s.part.cal with week := w, exceptions := es } }.selectionEdited, okOnly)) :
    let t := request i tag kind (ofPart f) s
    State.answers s t tag kind ⟨.ok, .none⟩ ∧ s.follows tag kind t ∧
      t.part.cal.week = w ∧ t.part.cal.exceptions = es ∧ t.part.cal.changes = s.part.cal.changes ∧
      t.part.cal.quietStart = s.part.cal.quietStart ∧ t.part.cal.quietEnd = s.part.cal.quietEnd := by
  intro t
  obtain ⟨hpart, hans⟩ := request_part hr i kind f hf (.inl rfl)
  let p : Part := { s.part with cal := { s.part.cal with week := w, exceptions := es } }
  have hcore : t.part.core = p.selectionEdited.core := by
    rw [show t.part = _ from hpart, Part.core_with_outbox, Part.core_settle]
  obtain ⟨-, -, -, hcal, hbell, -⟩ := Part.core_fields hcore
  obtain ⟨htables, hbells⟩ := p.selectionEdited_tables
  have hreports : s.part.settled → ∀ l, p.says p.selectionEdited l → State.reports s t [replyOf tag kind ⟨.ok, .none⟩] l :=
    fun hs l hl => request_reports hr hs i kind f hf (.inl rfl) hl
  have hsel : t.part.selectionFor s.part.backup.day = p.selectionFor p.backup.day := by
    refine Part.selectionFor_congr ?_ ?_ _ <;> rw [hcal, htables]
  refine ⟨hans, ⟨request_sameOutside hr i kind f, ?_, ?_, fun hset => ?_, fun hunset => ?_⟩, ?_⟩
  · rw [hcore, p.core_selectionEdited, hcal, hbell]
  · rw [hbell]; exact hbells
  · have hs : p.isSet = true := Part.isSet_of_set hset
    dsimp only
    rw [hsel, hcal, hbell]
    by_cases hne : p.selectionFor p.backup.day = p.cal.selection
    · rw [Part.selectionEdited_same (.inr hne)]
      refine ⟨hne.symm, fun h => absurd hne h, fun _ => ⟨rfl, rfl, fun hst => hreports hst [] ?_⟩, fun h => absurd hne h,
        fun h => absurd hne h⟩
      rw [Part.selectionEdited_same (.inr hne)]
      exact Part.says_nil rfl rfl
    · by_cases hq : (p.selectionFor p.backup.day).quiet = p.cal.selection.quiet
      · have he := Part.selectionEdited_plan hs rfl hne hq
        rw [he]
        refine ⟨rfl, fun _ => Part.builds_buildTimeline _ _ _ _, fun h => absurd h hne, fun _ _ => ⟨rfl, fun hst => ?_⟩,
          fun _ h => absurd hq h⟩
        refine hreports hst _ ?_
        rw [he]
        exact (p.says_setSelection _ 0).silent rfl rfl
      · have he := Part.selectionEdited_quiet hs rfl hne hq
        have hnow : (p.setSelection (p.selectionFor p.backup.day) 0).quietNow = ((p.selectionFor p.backup.day).quiet ||
            inWindow s.part.cal.quietStart s.part.cal.quietEnd s.part.backup.tod) :=
          Part.quietNow_of_set (p := p.setSelection (p.selectionFor p.backup.day) 0) hset
        rw [he]
        refine ⟨by simp [Part.buildNow], fun _ => ?_, fun h => absurd h hne, fun _ h => absurd h hq,
          fun _ _ => ⟨by simp [Part.buildNow, hnow], fun hst => hreports hst _ ?_⟩⟩
        · have hb := Part.builds_buildTimeline (p.setSelection (p.selectionFor p.backup.day) 0).evaluateQuiet
            s.part.backup.day (p.selectionFor p.backup.day).plan s.part.backup.tod
          rw [Part.plan_congr (p := s.part) (by rw [Part.evaluateQuiet_bell]; rfl), Part.evaluateQuiet_bell] at hb
          simpa [Part.buildNow] using hb
        · rw [he]
          have hl := (p.says_setSelection (p.selectionFor p.backup.day) 0).trans (Part.says_evaluateQuiet _)
          rw [hnow] at hl
          exact hl.silent rfl rfl
  · have he := Part.selectionEdited_same (p := p) (.inl (Part.isSet_of_unset hunset))
    rw [hcal, hbell, he]
    refine ⟨rfl, rfl, rfl, fun hst => hreports hst [] ?_⟩
    rw [he]
    exact Part.says_nil rfl rfl
  · refine ⟨?_, ?_, ?_, ?_, ?_⟩ <;> rw [hcal, htables]

/-! ### The requests -/

/-- A request all of whose checks pass is carried out. -/
theorem checked_pass {cs : List (Bool × Status)} (h : firstFailure cs = none) (p : Part) (act : Part → Part × Answer) :
    checked cs p act = act p := by
  simp [checked, h]

/-- Where a record is put into its place: behind those that it does not precede, ahead of the first that it does. -/
theorem insertWhere_split {α : Type} (f : α → Bool) (x : α) (l : List α) : ∃ before after, l = before ++ after ∧
    insertWhere f x l = before ++ x :: after ∧ (∀ e ∈ before, f e = false) ∧ (∀ e ∈ after.head?, f e = true) := by
  induction l with
  | nil => exact ⟨[], [], rfl, rfl, by simp, by simp⟩
  | cons a l ih =>
    cases hf : f a with
    | true => exact ⟨[], a :: l, rfl, by simp [insertWhere, hf], by simp, by simp [hf]⟩
    | false =>
      obtain ⟨before, after, hl, hi, hb, ha⟩ := ih
      exact ⟨a :: before, after, by simp [hl], by simp [insertWhere, hf, hi], by simp [hf]; exact hb, ha⟩

theorem monthLength_le (y m : Nat) : monthLength y m ≤ 31 := by
  unfold monthLength; (repeat' split) <;> decide

/-- A date that exists lies within the layout of its field. -/
theorem CalDate.inLayout_of_valid {d : CalDate} (h : d.valid = true) : d.inLayout = true := by
  have hm := monthLength_le d.year d.month
  simp only [CalDate.valid, CalDate.inLayout, Bool.and_eq_true, decide_eq_true_eq] at h ⊢
  obtain ⟨⟨⟨⟨⟨h1, h2⟩, h3⟩, h4⟩, h5⟩, h6⟩ := h
  exact ⟨⟨⟨⟨⟨h1, h2⟩, h3⟩, h4⟩, h5⟩, by omega⟩

theorem planAllowed_of {plan : Option Nat} (h : ∀ n, plan = some n → n ≤ 15) : planAllowed plan = true := by
  cases plan with
  | none => rfl
  | some n => simpa [planAllowed, Nat.lt_succ_iff] using h n rfl

theorem Part.weekWrite_eq {p : Part} {entries : List (Option Nat)} (h : ∀ e ∈ entries, ∀ n, e = some n → n ≤ 15) :
    Part.weekWrite entries false p =
      ({ p with cal := { p.cal with week := Vector.ofFn fun i => (entries[i.val]?).getD none } }.selectionEdited, okOnly) := by
  refine checked_pass ?_ p _
  have : entries.all planAllowed = true := List.all_eq_true.mpr fun e he => planAllowed_of (h e he)
  simp [firstFailure, this]

theorem Part.exceptionAdd_eq {p : Part} {first last : CalDate} {plan : Option Nat} (quiet : Bool) (hf : first.valid = true)
    (hl : last.valid = true) (hfl : first.number ≤ last.number) (hp : ∀ n, plan = some n → n ≤ 15)
    (hapart : ∀ e ∈ p.cal.exceptions, last.number < e.first ∨ e.last < first.number) (hroom : p.cal.exceptions.length < 48) :
    Part.exceptionAdd first last plan (some quiet) false p =
      ({ p with
          cal := { p.cal with
            exceptions := insertWhere (fun x => first.number < x.first) ⟨first.number, last.number, plan, quiet⟩ p.cal.exceptions }
        }.selectionEdited, okOnly) := by
  refine checked_pass ?_ p _
  have hany : p.cal.exceptions.any (fun e => e.first ≤ last.number && first.number ≤ e.last) = false := by
    simp only [List.any_eq_false, Bool.and_eq_true, decide_eq_true_eq]
    intro e he
    have := hapart e he
    omega
  simp [firstFailure, hf, hl, hany, planAllowed_of hp, Nat.not_lt.mpr hfl, hroom]

theorem Part.exceptionRemove_eq {p : Part} {first : CalDate} (hf : first.valid = true)
    (hh : ∃ e ∈ p.cal.exceptions, e.first = first.number) : Part.exceptionRemove first false p =
      ({ p with cal := { p.cal with exceptions := p.cal.exceptions.filter fun e => e.first != first.number } }.selectionEdited,
       okOnly) := by
  have hany : (p.cal.exceptions.any fun e => e.first == first.number) = true := by simpa using hh
  unfold Part.exceptionRemove; dsimp only
  rw [checked_pass]
  · simp [hf, bne]
  · simp [firstFailure, CalDate.inLayout_of_valid hf, hf, hany]

theorem Part.quietSet_eq {p : Part} {start stop : Nat} (h1 : start ≤ 1439) (h2 : stop ≤ 1439) :
    Part.quietSet start stop false p =
      ({ p with cal := { p.cal with quietStart := start, quietEnd := stop } }.evaluateQuiet, okOnly) := by
  refine checked_pass ?_ p _
  simp [firstFailure, h1, h2]

/-- Settles O17: three edits through `request_follows`, and QUIET_SET through the evaluation of the quiet state. -/
theorem calendarEdits : Obligations.CalendarEdits := by
  intro s tag hr hsave
  have hsaving : s.port.saving.isSome = false := by simp [hsave]
  refine ⟨fun entries hlen hall => ?_, fun first last plan quiet hf hl hfl hp hapart hroom => ?_, fun first hf hh => ?_,
    fun start stop h1 h2 => ?_⟩
  · obtain ⟨hans, hfollows, hweek, hexc, hchanges, hstart, hstop⟩ := request_follows hr (.weekWrite tag entries) 0x06 (f := Part.weekWrite entries) _
      s.part.cal.exceptions (by rw [hsaving]; exact Part.weekWrite_eq hall)
    refine ⟨_, rfl, hans, hfollows, ?_, hexc, hchanges, hstart, hstop⟩
    rw [hweek]
    refine List.ext_getElem (by simp [hlen]) fun i h1 h2 => ?_
    simp [h2]
  · obtain ⟨before, after, hsplit, hinsert, hbefore, hafter⟩ := insertWhere_split (fun x => first.number < x.first)
      ⟨first.number, last.number, plan, quiet⟩ s.part.cal.exceptions
    obtain ⟨hans, hfollows, hweek, hexc, hchanges, hstart, hstop⟩ := request_follows hr (.exceptionAdd tag first last plan (some quiet)) 0x08
      (f := Part.exceptionAdd first last plan (some quiet)) s.part.cal.week _
      (by rw [hsaving]; exact Part.exceptionAdd_eq quiet hf hl hfl hp hapart hroom)
    refine ⟨_, before, after, rfl, hans, hfollows, hsplit, hexc.trans hinsert,
      fun e he => ?_, fun e he => ?_, hweek, hchanges⟩
    · simpa using hbefore e he
    · simpa using hafter e he
  · obtain ⟨hans, hfollows, hweek, hexc, hchanges, hstart, hstop⟩ := request_follows hr (.exceptionRemove tag first) 0x09 (f := Part.exceptionRemove first)
      s.part.cal.week _ (by rw [hsaving]; exact Part.exceptionRemove_eq hf hh)
    exact ⟨_, rfl, hans, hfollows, hexc, hweek,
      hchanges⟩
  · have he : Part.quietSet start stop s.port.saving.isSome s.part =
        ({ s.part with cal := { s.part.cal with quietStart := start, quietEnd := stop } }.evaluateQuiet, okOnly) := by
      rw [hsaving]; exact Part.quietSet_eq h1 h2
    obtain ⟨hpart, hans⟩ := request_part hr (.quietSet tag start stop) 0x0E (Part.quietSet start stop) he (.inl rfl)
    refine ⟨_, rfl, hans, request_sameOutside hr _ _ _, ?_, fun hst => ?_⟩
    · rw [hpart, Part.core_with_outbox, Part.core_settle, Part.core_evaluateQuiet]; rfl
    · exact request_reports hr hst _ _ _ he (.inl rfl)
        (Part.says_evaluateQuiet { s.part with cal := { s.part.cal with quietStart := start, quietEnd := stop } })

end Sys2Proof.Machine
end

section
/-! SUPPORT. What the bell scheduler, the drill list and the circuits leave when campus time moves (R4, R29 to R34). -/

namespace Sys2Proof.Machine

/-! ### What the bell scheduler leaves -/

/-- What no operation of the bell scheduler touches: the core but for the scheduler itself. -/
def Part.offBells (p : Part) :
    Nat × Backup × TimeKeeper × Calendar × DrillTimer × Vector Building 8 × Vector (Option Circuit) 32 × LineEngine × Chain :=
  (p.now, p.backup, p.time, p.cal, p.drill, p.arb.buildings, p.clk.circuits, p.line.fixed, p.chain.fixed)

theorem Part.offBells_of_core {p q : Part} (h : q.core = p.core) : q.offBells = p.offBells := by
  simp only [Part.core, Prod.mk.injEq] at h
  obtain ⟨h1, h2, h3, h4, -, h6, h7, h8, h9, h10⟩ := h
  simp only [Part.offBells, h1, h2, h3, h4, h6, h7, h8, h9, h10]

theorem Part.offBells_each {α : Type} (f : Part → α → Part) (h : ∀ q a, (f q a).offBells = q.offBells) (l : List α) :
    ∀ p : Part, (p.each l f).offBells = p.offBells := by
  induction l with
  | nil => intro p; rfl
  | cons a l ih => intro p; exact (ih (f p a)).trans (h p a)

section
variable (p : Part)

@[simp] theorem Part.offBells_with_bell (b : Bells) : ({ p with bell := b } : Part).offBells = p.offBells := rfl
@[simp] theorem Part.offBells_note (n : Notice) : (p.note n).offBells = p.offBells := rfl
@[simp] theorem Part.offBells_setEntry (i : Nat) (st : EntryState) (n : Option Nat) :
    (p.setEntry i st n).offBells = p.offBells := rfl
@[simp] theorem Part.offBells_buildTimeline (d : Nat) (n : Option Nat) (t : Nat) :
    (p.buildTimeline d n t).offBells = p.offBells := rfl

theorem Part.offBells_postBells (zs : List Nat) (c : BellClaim) : (p.postBells zs c).1.offBells = p.offBells := by
  unfold Part.postBells
  generalize (⟨0, 0, 0⟩ : Posted) = n
  induction zs generalizing p n with
  | nil => rfl
  | cons z zs ih => exact (ih _ _).trans (Part.offBells_of_core (Part.core_postBell p z c))

@[simp] theorem Part.offBells_takeDrop (o : BellOrigin) (d : Dropped) : (p.takeDrop o d).offBells = p.offBells := by
  unfold Part.takeDrop; dsimp only; (repeat' split) <;> rfl

@[simp] theorem Part.offBells_reachLatest (n : Nat) (o : BellOrigin) : (p.reachLatest n o).offBells = p.offBells :=
  (Part.offBells_takeDrop _ _ _).trans (Part.offBells_of_core (Part.core_dropPosting p n))

theorem Part.offBells_ring (zs : List Nat) (x y : Nat) (o : BellOrigin) (report : Part → Posted → Part)
    (h : ∀ q c, (report q c).offBells = q.offBells) : (p.ring zs x y o report).1.offBells = p.offBells := by
  unfold Part.ring; dsimp only
  split
  · exact (Part.offBells_reachLatest _ _ _).trans ((h _ _).trans (Part.offBells_postBells _ _ _))
  · exact (h _ _).trans (Part.offBells_postBells _ _ _)

@[simp] theorem Part.offBells_fireEntry (i : Nat) (late : Bool) : (p.fireEntry i late).1.offBells = p.offBells := by
  unfold Part.fireEntry; dsimp only
  split
  · rfl
  · split
    · rfl
    · dsimp only
      rw [Part.offBells_ring]
      · rfl
      · intro q c; rfl

@[simp] theorem Part.offBells_reachEntries : p.reachEntries.offBells = p.offBells := by
  unfold Part.reachEntries; split
  · exact Part.offBells_each _ (fun q i => by simp) _ _
  · rfl

@[simp] theorem Part.offBells_skipEntries (l : List Nat) (t : Nat) : (p.skipEntries l t).1.offBells = p.offBells := by
  unfold Part.skipEntries
  generalize ((0, 0) : Nat × Nat) = n
  induction l generalizing p n with
  | nil => rfl
  | cons i l ih =>
    rw [List.foldl_cons]
    dsimp only
    (repeat' split) <;> exact (ih _ _).trans (by simp)

@[simp] theorem Part.offBells_eachEntry (l : List Nat) (st : EntryState) (n : Option Nat) :
    (p.each l fun q i => q.setEntry i st n).offBells = p.offBells :=
  Part.offBells_each (fun q i => q.setEntry i st n) (fun _ _ => rfl) _ _

@[simp] theorem Part.offBells_bellJump (a b : CampusTime) (n : Option Nat) : (p.bellJump a b n).offBells = p.offBells := by
  unfold Part.bellJump; dsimp only
  (repeat' split) <;> simp

@[simp] theorem Part.offBells_bellTimeSet (n : Option Nat) : (p.bellTimeSet n).offBells = p.offBells := by
  unfold Part.bellTimeSet; dsimp only; split <;> rfl

end

/-! ### What the drill timer leaves -/

/-- What no operation of the drill timer that starts a drill touches: the core but for the timer itself. -/
def Part.offDrill (p : Part) :
    Nat × Backup × TimeKeeper × Calendar × Bells × Vector Building 8 × Vector (Option Circuit) 32 × LineEngine × Chain :=
  (p.now, p.backup, p.time, p.cal, p.bell, p.arb.buildings, p.clk.circuits, p.line.fixed, p.chain.fixed)

theorem Part.offDrill_of_core {p q : Part} (h : q.core = p.core) : q.offDrill = p.offDrill := by
  simp only [Part.core, Prod.mk.injEq] at h
  obtain ⟨h1, h2, h3, h4, h5, -, h7, h8, h9, h10⟩ := h
  simp only [Part.offDrill, h1, h2, h3, h4, h5, h7, h8, h9, h10]

section
variable (p : Part)

@[simp] theorem Part.offDrill_with_drill (d : DrillTimer) : ({ p with drill := d } : Part).offDrill = p.offDrill := rfl
@[simp] theorem Part.offDrill_note (n : Notice) : (p.note n).offDrill = p.offDrill := rfl
@[simp] theorem Part.offDrill_modRun (f : DrillRun → DrillRun) : (p.modRun f).offDrill = p.offDrill := rfl
@[simp] theorem Part.offDrill_setSchedule (l : List ScheduleEntry) : (p.setSchedule l).offDrill = p.offDrill := rfl
@[simp] theorem Part.offDrill_markEntry (m : CampusTime) (a b : ScheduleState) : (p.markEntry m a b).offDrill = p.offDrill := rfl
@[simp] theorem Part.offDrill_noteDrill (r : DrillRun) (e : DrillEvent) (ph : Option DrillPhase) :
    (p.noteDrill r e ph).offDrill = p.offDrill := rfl
@[simp] theorem Part.offDrill_enterPhase (ph : DrillPhase) : (p.enterPhase ph).offDrill = p.offDrill := rfl
@[simp] theorem Part.offDrill_displayList (on : Bool) (l : List Nat) : (p.displayList on l).offDrill = p.offDrill :=
  Part.offDrill_of_core (by simp)
@[simp] theorem Part.offDrill_hand (c : LineCommand) (t : Option Nat) (w : Sender) : (p.hand c t w).offDrill = p.offDrill :=
  Part.offDrill_of_core (by simp)
@[simp] theorem Part.offDrill_endRun (r : DrillRun) : (p.endRun r).offDrill = p.offDrill :=
  Part.offDrill_of_core (p := { p with drill := { p.drill with run := none } }) (by simp [Part.endRun])
@[simp] theorem Part.offDrill_changeDrills (l : List Nat) (n : Nat) :
    (p.each l fun q z => q.changeDrill z n).offDrill = p.offDrill :=
  Part.offDrill_of_core (Part.core_each _ (fun q z => by simp) l p)
@[simp] theorem Part.offDrill_wakeAll (l : List Nat) : (p.each l Part.wake).offDrill = p.offDrill :=
  Part.offDrill_of_core (Part.core_each _ (fun q z => by simp) l p)

/-- A posting walks over zones. -/
@[simp] theorem Part.offDrill_postDrills (r : DrillRun) (n : Nat) : (p.postDrills r n).1.offDrill = p.offDrill := by
  unfold Part.postDrills; dsimp only
  generalize List.flatMap _ _ = zs
  generalize ((0, 0) : Nat × Nat) = c
  induction zs generalizing p c with
  | nil => rfl
  | cons z zs ih =>
    rw [List.foldl_cons]; dsimp only
    split <;> exact (ih _ _).trans (Part.offDrill_of_core (by simp))

@[simp] theorem Part.offDrill_closeDrill (c : DrillEnd) : (p.closeDrill c).offDrill = p.offDrill := by
  unfold Part.closeDrill; split <;> simp

@[simp] theorem Part.offDrill_enterEvacuate (b : Bool) : (p.enterEvacuate b).offDrill = p.offDrill := by
  unfold Part.enterEvacuate; dsimp only
  split
  · split <;> simp
  · simp

@[simp] theorem Part.offDrill_enterSounding : p.enterSounding.offDrill = p.offDrill := by
  unfold Part.enterSounding; (repeat' split) <;> simp

@[simp] theorem Part.offDrill_checkResult : p.checkResult.offDrill = p.offDrill := by
  unfold Part.checkResult; dsimp only; (repeat' split) <;> simp

@[simp] theorem Part.offDrill_testProbes : p.testProbes.offDrill = p.offDrill := by
  unfold Part.testProbes; (repeat' split) <;> simp

@[simp] theorem Part.offDrill_handProbe : p.handProbe.offDrill = p.offDrill := by
  unfold Part.handProbe; (repeat' split) <;> simp

@[simp] theorem Part.offDrill_beginProbing : p.beginProbing.offDrill = p.offDrill := by
  unfold Part.beginProbing; split <;> simp

@[simp] theorem Part.offDrill_testWoken : p.testWoken.offDrill = p.offDrill := by
  unfold Part.testWoken; (repeat' split) <;> simp

@[simp] theorem Part.offDrill_startDrill (n : Nat) (f : Program) (o : DrillOrigin) (b : Bool) :
    (p.startDrill n f o b).offDrill = p.offDrill := by
  unfold Part.startDrill; simp

@[simp] theorem Part.offDrill_reachScheduled : p.reachScheduled.offDrill = p.offDrill := by
  unfold Part.reachScheduled; (repeat' split) <;> simp

@[simp] theorem Part.offDrill_missEntries (f : Nat → Bool) : (p.missEntries f).offDrill = p.offDrill := by
  unfold Part.missEntries; dsimp only; split <;> simp

@[simp] theorem Part.offDrill_scheduleJump (a b : CampusTime) : (p.scheduleJump a b).offDrill = p.offDrill := by
  simp [Part.scheduleJump]

@[simp] theorem Part.offDrill_scheduleSet : p.scheduleSet.offDrill = p.offDrill := by
  unfold Part.scheduleSet; split <;> simp

end

/-! ### What the circuits leave -/

/-- What no evaluation of a circuit touches: the core but for the circuits. -/
def Part.offCircuits (p : Part) :
    Nat × Backup × TimeKeeper × Calendar × Bells × DrillTimer × Vector Building 8 × LineEngine × Chain :=
  (p.now, p.backup, p.time, p.cal, p.bell, p.drill, p.arb.buildings, p.line.fixed, p.chain.fixed)

theorem Part.offCircuits_of_core {p q : Part} (h : q.core = p.core) : q.offCircuits = p.offCircuits := by
  simp only [Part.core, Prod.mk.injEq] at h
  obtain ⟨h1, h2, h3, h4, h5, h6, h7, -, h9, h10⟩ := h
  simp only [Part.offCircuits, h1, h2, h3, h4, h5, h6, h7, h9, h10]

theorem Part.offCircuits_each {α : Type} (f : Part → α → Part) (h : ∀ q a, (f q a).offCircuits = q.offCircuits) (l : List α) :
    ∀ p : Part, (p.each l f).offCircuits = p.offCircuits := by
  induction l with
  | nil => intro p; rfl
  | cons a l ih => intro p; exact (ih (f p a)).trans (h p a)

section
variable (p : Part)

@[simp] theorem Part.offCircuits_modCircuit (c : Nat) (f : Circuit → Circuit) :
    (p.modCircuit c f).offCircuits = p.offCircuits := by
  unfold Part.modCircuit; split <;> rfl
@[simp] theorem Part.offCircuits_hand (c : LineCommand) (t : Option Nat) (w : Sender) :
    (p.hand c t w).offCircuits = p.offCircuits := Part.offCircuits_of_core (by simp)
@[simp] theorem Part.offCircuits_withdraw (k : SlotClass) (f : Handed → Bool) :
    (p.withdraw k f).offCircuits = p.offCircuits := Part.offCircuits_of_core (by simp)
@[simp] theorem Part.offCircuits_noteClock (c : Nat) (e : ClockEvent) : (p.noteClock c e).offCircuits = p.offCircuits := by
  unfold Part.noteClock; split <;> rfl
@[simp] theorem Part.offCircuits_handImpulse (c : Nat) : (p.handImpulse c).offCircuits = p.offCircuits := by
  unfold Part.handImpulse; (repeat' split) <;> simp
@[simp] theorem Part.offCircuits_callImpulse (c : Nat) : (p.callImpulse c).offCircuits = p.offCircuits := by
  unfold Part.callImpulse; dsimp only; (repeat' split) <;> simp
@[simp] theorem Part.offCircuits_resendImpulse (c : Nat) : (p.resendImpulse c).offCircuits = p.offCircuits := by
  unfold Part.resendImpulse; simp
@[simp] theorem Part.offCircuits_setCourse (c : Nat) (m : CircuitMode) (k : Course) (x y : Nat) :
    (p.setCourse c m k x y).offCircuits = p.offCircuits := by
  unfold Part.setCourse; dsimp only; (repeat' split) <;> simp
@[simp] theorem Part.offCircuits_evaluateCircuit (c : Nat) : (p.evaluateCircuit c).offCircuits = p.offCircuits := by
  unfold Part.evaluateCircuit; dsimp only; (repeat' split) <;> simp
@[simp] theorem Part.offCircuits_evaluateCircuits : p.evaluateCircuits.offCircuits = p.offCircuits :=
  Part.offCircuits_each _ (fun q c => by simp) _ p
@[simp] theorem Part.offCircuits_circuitsSet : p.circuitsSet.offCircuits = p.offCircuits :=
  Part.offCircuits_each _ (fun q c => by (repeat' split) <;> simp) _ p
@[simp] theorem Part.offCircuits_circuitsUnset : p.circuitsUnset.offCircuits = p.offCircuits :=
  Part.offCircuits_each _ (fun q c => by split <;> simp) _ p

end

/-! ### The time keeper and the calendar -/

/-- Elapsed time, campus time with its quality, trim and flag, and the calendar. -/
def Part.watch (p : Part) : Nat × Nat × Nat × Bool × TimeKeeper × Calendar :=
  (p.now, p.backup.day, p.backup.tod, p.backup.valid, p.time, p.cal)

theorem Part.watch_of_clock {p q : Part} (h : q.clock = p.clock) : q.watch = p.watch := by
  simp only [Part.clock, Prod.mk.injEq] at h
  obtain ⟨h1, h2, h3, h4, h5, h6, -⟩ := h
  simp only [Part.watch, h1, h2, h3, h4, h5, h6]

theorem Part.watch_of_offBells {p q : Part} (h : q.offBells = p.offBells) : q.watch = p.watch := by
  simp only [Part.offBells, Prod.mk.injEq] at h
  obtain ⟨h1, h2, h3, h4, -⟩ := h
  simp only [Part.watch, h1, h2, h3, h4]

/-- The clock is the watch and the bell scheduler. -/
theorem Part.watch_fields {p q : Part} (h : q.watch = p.watch) :
    q.now = p.now ∧ q.campus = p.campus ∧ q.backup.valid = p.backup.valid ∧ q.time = p.time ∧ q.cal = p.cal := by
  simp only [Part.watch, Prod.mk.injEq] at h
  obtain ⟨h1, h2, h3, h4, h5, h6⟩ := h
  exact ⟨h1, by simp [Part.campus, h2, h3], h4, h5, h6⟩

@[simp] theorem Part.watch_arrive (p : Part) : p.arrive.watch = p.watch :=
  (Part.watch_of_clock (Part.clock_reachScheduled _)).trans (Part.watch_of_offBells (Part.offBells_reachEntries p))

@[simp] theorem Part.watch_settle (p : Part) : p.settle.watch = p.watch := Part.watch_of_clock (Part.clock_settle p)

/-- The records that a jump passes are marked (R15). -/
def passedChanges (f : Nat → Bool) (l : List TimeChange) : List TimeChange :=
  l.map fun c => { c with done := c.done || f c.moment.total }

theorem Part.markDone_eq (p : Part) (f : Nat → Bool) :
    p.markDone f = ({ p with cal := { p.cal with changes := passedChanges f p.cal.changes } },
      (p.cal.changes.filter fun c => !c.done && f c.moment.total).length) := by
  have h : ∀ c : TimeChange, (if (!c.done && f c.moment.total) = true then { c with done := true } else c) =
      { c with done := c.done || f c.moment.total } := by
    rintro ⟨d, m, s, done⟩
    generalize f (TimeChange.moment _).total = hit
    cases done <;> cases hit <;> rfl
  simp only [Part.markDone, passedChanges, h]

/-- The calendar after a jump: the passed records, a new date's selection, the quiet state (R4, R12, R15, R17). -/
def Part.jumped (p : Part) (new : CampusTime) : Calendar :=
  let sel := if p.backup.day = new.day then p.cal.selection else p.selectionFor new.day
  { p.cal with
    changes := passedChanges (fun m => decide (p.campus.total ≤ m) && decide (m ≤ new.total)) p.cal.changes
    selection := sel
    inside := sel.quiet || inWindow p.cal.quietStart p.cal.quietEnd new.tod }

/-- A jump up to the bell scheduler's turn: campus time has moved, and the calendar has followed and reported it (R4). -/
def Part.jumpCalendar (p : Part) (new : CampusTime) (cause : CampusTime → Int → Nat → TimeCause) : Part :=
  let x := (p.arrive.moveTime new).markDone fun m => p.campus.total ≤ m && m ≤ new.total
  let q := x.1.noteTime (cause p.campus ((new.total : Int) - p.campus.total) x.2)
  (if p.backup.day = new.day then q else q.selectDay 0).evaluateQuiet

theorem Part.jumpTo_eq (p : Part) (new : CampusTime) (cause : CampusTime → Int → Nat → TimeCause) :
    p.jumpTo new cause =
      (((p.jumpCalendar new cause).bellJump p.campus new (p.jumpCalendar new cause).cal.selection.plan).scheduleJump
        p.campus new).evaluateCircuits := rfl

/-- The core after the calendar's part of a jump. -/
theorem Part.core_jumpCalendar {p : Part} (hset : p.time.quality = .set) (new : CampusTime)
    (cause : CampusTime → Int → Nat → TimeCause) : (p.jumpCalendar new cause).core =
      { p.arrive with
        backup := { p.arrive.backup with day := new.day, tod := new.tod }
        time := { p.time with held := false }
        cal := p.jumped new }.core := by
  obtain ⟨-, -, -, htime, hcal⟩ := Part.watch_fields (Part.watch_arrive p)
  have hsel : ∀ q : Part, q.cal.week = p.cal.week → q.cal.exceptions = p.cal.exceptions →
      q.selectionFor new.day = p.selectionFor new.day := fun q hw he => Part.selectionFor_congr hw he _
  unfold Part.jumpCalendar; dsimp only
  rw [Part.core_evaluateQuiet, Part.markDone_eq]
  by_cases hday : p.backup.day = new.day
  · simp only [hday, if_true, Part.quietNow, Part.isSet, Part.noteTime, Part.jumped, Part.core, Part.note_time, Part.note_cal,
      Part.note_backup, Part.moveTime, htime, hcal, hset]
    simp
  · simp only [hday, if_false, Part.quietNow, Part.isSet, Part.selectDay, Part.setSelection, Part.noteTime, Part.jumped,
      Part.core, Part.note_time, Part.note_cal, Part.note_backup, Part.moveTime, htime, hcal, hset]
    rw [hsel _ (by simp) (by simp)]
    simp

/-- The quiet state that the calendar evaluates in a jump. -/
theorem Part.jumped_inside (p : Part) (new : CampusTime) : (p.jumped new).inside =
    ((p.jumped new).selection.quiet || inWindow p.cal.quietStart p.cal.quietEnd new.tod) := rfl

/-- What the calendar reports of a jump, where nothing was still to be reached at the old time (R12, R15, R17, R19). -/
theorem Part.says_jumpCalendar {p : Part} (hset : p.time.quality = .set) (harrive : p.arrive = p) (new : CampusTime)
    (cause : CampusTime → Int → Nat → TimeCause) : p.says (p.jumpCalendar new cause)
      (.timeEvent (cause p.campus ((new.total : Int) - p.campus.total)
          (p.cal.changes.filter fun c => !c.done && (decide (p.campus.total ≤ c.moment.total) &&
            decide (c.moment.total ≤ new.total))).length) new .set ::
        (if p.backup.day = new.day then [] else [.timeEvent (.dayPlan new.day (p.jumped new).selection 0) new .set]) ++
        quietNotices p.cal.inside (p.jumped new).inside p.cal.quietStart p.cal.quietEnd new .set) := by
  unfold Part.jumpCalendar; dsimp only
  rw [harrive, Part.markDone_eq]
  by_cases hday : p.backup.day = new.day
  · simp only [hday, if_true]
    refine ((Part.says_noteTime _ _).trans (Part.says_evaluateQuiet _)).of_silent_congr rfl rfl ?_
    simp only [Part.quietNow, Part.isSet, Part.noteTime, Part.jumped, Part.note_time, Part.note_cal,
      Part.note_backup, Part.moveTime, Part.campus, hset, hday]
    simp
  · simp only [hday, if_false]
    refine (((Part.says_noteTime _ _).trans (Part.says_selectDay _ 0)).trans (Part.says_evaluateQuiet _)).of_silent_congr rfl rfl ?_
    simp only [Part.quietNow, Part.isSet, Part.selectDay, Part.setSelection, Part.noteTime, Part.jumped,
      Part.note_time, Part.note_cal, Part.note_backup, Part.moveTime, Part.campus, hset, hday]
    rw [Part.selectionFor_congr (p := p) (by simp) (by simp)]
    simp

/-! ### What has nothing to do -/

/-- A walk whose steps change nothing. -/
theorem Part.each_same {α : Type} {p : Part} {f : Part → α → Part} {l : List α} (h : ∀ a ∈ l, f p a = p) : p.each l f = p := by
  induction l with
  | nil => rfl
  | cons a l ih =>
    have ha : f p a = p := h a (by simp)
    exact (congrArg (fun q : Part => q.each l f) ha).trans (ih fun b hb => h b (by simp [hb]))

/-- Without circuits there is nothing to evaluate. -/
theorem Part.evaluateCircuits_none {p : Part} (h : ∀ c < 32, p.circuit c = none) : p.evaluateCircuits = p :=
  Part.each_same fun c hc => by simp [Part.evaluateCircuit, h c (List.mem_range.mp hc)]
theorem Part.circuitsSet_none {p : Part} (h : ∀ c < 32, p.circuit c = none) : p.circuitsSet = p :=
  Part.each_same fun c hc => by simp [h c (List.mem_range.mp hc)]
theorem Part.circuitsUnset_none {p : Part} (h : ∀ c < 32, p.circuit c = none) : p.circuitsUnset = p :=
  Part.each_same fun c hc => by simp [h c (List.mem_range.mp hc)]

/-- A circuit of a part with the same circuits. -/
theorem Part.circuit_congr {p q : Part} (h : q.clk.circuits = p.clk.circuits) : q.circuit = p.circuit := by
  funext c; simp [Part.circuit, h]

/-- Without a WAITING entry that is selected, no index is. -/
theorem Part.waitingEntries_none {p : Part} {f : Nat → Bool}
    (h : ∀ e ∈ p.bell.timeline.entries, e.state = .waiting → f e.entry.moment = false) : p.waitingEntries f = [] := by
  simp only [Part.waitingEntries, List.filter_eq_nil_iff, Part.entryAt, upTo, List.mem_range]
  intro i hi
  rw [List.getElem?_eq_getElem hi]
  simpa using h _ (List.getElem_mem hi)

/-- Where no entry waits at the present campus time, none is reached (R29). -/
theorem Part.reachEntries_none {p : Part}
    (h : ∀ e ∈ p.bell.timeline.entries, e.state = .waiting → e.entry.moment ≠ p.backup.tod) : p.reachEntries = p := by
  unfold Part.reachEntries; split
  · rw [Part.waitingEntries_none fun e he hw => by simpa using h e he hw]; rfl
  · rfl

/-- Where no drill is scheduled at the present campus time, none is reached (R103). -/
theorem Part.reachScheduled_none {p : Part} (h : ∀ e ∈ p.drill.schedule, e.state = .waiting → e.moment ≠ p.campus) :
    p.reachScheduled = p := by
  have hf : (p.drill.schedule.find? fun e => e.state == .waiting && e.moment == p.campus) = none := by
    simpa using h
  simp [Part.reachScheduled, hf]

/-- Where a jump passes no scheduled drill, none is missed (R103). -/
theorem Part.missEntries_none {p : Part} {f : Nat → Bool}
    (h : ∀ e ∈ p.drill.schedule, e.state = .waiting → f e.moment.total = false) : p.missEntries f = p := by
  have hf : (p.drill.schedule.filter fun e => e.state == .waiting && f e.moment.total) = [] := by
    simpa [List.filter_eq_nil_iff] using h
  simp [Part.missEntries, hf]

/-- A jump within a date does nothing to a timeline on which nothing waits (R31). -/
theorem Part.bellJump_none {p : Part} (h : ∀ e ∈ p.bell.timeline.entries, e.state ≠ .waiting) {old new : CampusTime}
    (hday : old.day = new.day) (plan : Option Nat) : p.bellJump old new plan = p := by
  have hr : p.reachEntries = p := Part.reachEntries_none fun e he hw => absurd hw (h e he)
  unfold Part.bellJump; dsimp only
  rw [if_pos hday, Part.waitingEntries_none fun e he hw => absurd hw (h e he)]
  split
  · exact hr
  · exact hr

/-- A build from an empty plan gives an empty timeline (R26). -/
theorem Part.buildTimeline_empty {p : Part} {plan : Option Nat} (h : plan.elim [] p.plan = []) (d t : Nat) :
    (p.buildTimeline d plan t).bell.timeline.entries = [] := by
  cases plan with
  | none => rfl
  | some n => simpa [Part.buildTimeline] using h

/-- A jump reports nothing of the bells where nothing waits on the timeline, and a new date has no entries (R31 to R34). -/
theorem Part.says_bellJump_none {p : Part} (h : ∀ e ∈ p.bell.timeline.entries, e.state ≠ .waiting) {old new : CampusTime}
    {plan : Option Nat} (hplan : old.day ≠ new.day → plan.elim [] p.plan = []) : p.says (p.bellJump old new plan) [] := by
  by_cases hday : old.day = new.day
  · rw [Part.bellJump_none h hday]
    exact Part.says_nil rfl rfl
  have hempty := Part.buildTimeline_empty (hplan hday) new.day
  have hreach : ∀ t, (p.buildTimeline new.day plan t).reachEntries = p.buildTimeline new.day plan t := fun t =>
    Part.reachEntries_none fun e he => by simp [hempty] at he
  have hleft : p.waitingEntries (fun _ => true) = [] := Part.waitingEntries_none fun e he hw => absurd hw (h e he)
  have hearlier : (p.buildTimeline new.day plan 0).waitingEntries (fun m => decide (m < new.tod)) = [] :=
    Part.waitingEntries_none fun e he => by simp [hempty] at he
  unfold Part.bellJump; dsimp only
  rw [if_neg hday, hleft]
  split
  · have heach : (p.each ([] : List Nat) fun p i => p.setEntry i .missed none) = p := rfl
    rw [heach, hearlier]
    split <;> exact (hreach _).symm ▸ Part.says_nil rfl rfl
  · exact (hreach _).symm ▸ Part.says_nil rfl rfl

/-- A jump that no bell entry, scheduled drill or circuit is concerned in reports what the calendar reports of it (R4). -/
theorem Part.says_jumpTo {p : Part} (hset : p.time.quality = .set) {new : CampusTime}
    (hwait : ∀ e ∈ p.bell.timeline.entries, e.state ≠ .waiting)
    (hplan : p.backup.day ≠ new.day → (p.jumped new).selection.plan.elim [] p.plan = [])
    (hdrill : ∀ e ∈ p.drill.schedule, e.state = .waiting → e.moment.total ≠ p.campus.total ∧ e.moment.total ≠ new.total ∧
      ¬ (p.campus.total < e.moment.total ∧ e.moment.total < new.total))
    (hcirc : ∀ c < 32, p.circuit c = none) (cause : CampusTime → Int → Nat → TimeCause) : p.says (p.jumpTo new cause)
      (.timeEvent (cause p.campus ((new.total : Int) - p.campus.total)
          (p.cal.changes.filter fun c => !c.done && (decide (p.campus.total ≤ c.moment.total) &&
            decide (c.moment.total ≤ new.total))).length) new .set ::
        (if p.backup.day = new.day then [] else [.timeEvent (.dayPlan new.day (p.jumped new).selection 0) new .set]) ++
        quietNotices p.cal.inside (p.jumped new).inside p.cal.quietStart p.cal.quietEnd new .set) := by
  have harrive : p.arrive = p := by
    have he : p.reachEntries = p := Part.reachEntries_none fun e he hw => absurd hw (hwait e he)
    rw [Part.arrive, he]
    exact Part.reachScheduled_none fun e he hw heq => (hdrill e he hw).1 (congrArg CampusTime.total heq)
  have hcore := Part.core_jumpCalendar hset new cause
  rw [harrive] at hcore
  rw [Part.jumpTo_eq]
  have hsays := Part.says_jumpCalendar hset harrive new cause
  generalize p.jumpCalendar new cause = q at hcore hsays ⊢
  obtain ⟨-, hbackup, -, hcal, hbell, -⟩ := Part.core_fields hcore
  have hq : q.says (q.bellJump p.campus new q.cal.selection.plan) [] := by
    refine Part.says_bellJump_none (by rw [hbell]; exact hwait) fun hday => ?_
    rw [hcal, Part.plan_congr (p := p) (by rw [hbell])]
    exact hplan hday
  have hoff := Part.offBells_bellJump q p.campus new q.cal.selection.plan
  generalize q.bellJump p.campus new q.cal.selection.plan = r at hq hoff ⊢
  have hoff' := hoff.trans (Part.offBells_of_core hcore)
  simp only [Part.offBells, Prod.mk.injEq] at hoff'
  obtain ⟨-, rbackup, -, -, rdrill, -, rcirc, -, -⟩ := hoff'
  have hcampus : r.campus = new := by rw [Part.campus, rbackup]
  have hjump : r.scheduleJump p.campus new = r := by
    have hm : (r.missEntries fun m => decide (p.campus.total < m) && decide (m < new.total)) = r :=
      Part.missEntries_none fun e he hw => by
        rw [rdrill] at he
        simpa only [Bool.and_eq_false_iff, decide_eq_false_iff_not, not_and_or] using (hdrill e he hw).2.2
    rw [Part.scheduleJump, hm]
    refine Part.reachScheduled_none fun e he hw heq => ?_
    rw [rdrill] at he
    exact (hdrill e he hw).2.1 (by rw [heq, hcampus])
  rw [hjump, Part.evaluateCircuits_none (by rw [Part.circuit_congr rcirc]; exact hcirc)]
  exact hsays.silent hq.1 (by simpa using hq.2)

/-- What a jump leaves in the time keeper and the calendar (R4). -/
theorem Part.watch_jumpTo {p : Part} (hset : p.time.quality = .set) (new : CampusTime)
    (cause : CampusTime → Int → Nat → TimeCause) : (p.jumpTo new cause).watch =
      (p.now, new.day, new.tod, p.backup.valid, { p.time with held := false }, p.jumped new) := by
  have hcore := Part.core_jumpCalendar hset new cause
  obtain ⟨hnow, -, hvalid, -, -⟩ := Part.watch_fields (Part.watch_arrive p)
  rw [Part.jumpTo_eq, Part.watch_of_clock (Part.clock_evaluateCircuits _), Part.watch_of_clock (Part.clock_scheduleJump _ _ _),
    Part.watch_of_offBells (Part.offBells_bellJump _ _ _ _), Part.watch_of_clock (Part.clock_of_core hcore)]
  simp only [Part.watch, hnow, hvalid]

end Sys2Proof.Machine
end

section
/-! SUPPORT. The events of campus time: the end of a date and of the range, trimmed seconds, whole minutes, time changes
(R1, R2, R5, R15, R17, R112). -/

namespace Sys2Proof.Machine

/-! ### An event that counts a tenth -/

theorem counted_part {s : State} (h : s.powered = true) (f : Part → Part) (m : Bool) :
    (counted f m s).part = { (f s.part).settle with outbox := [] } := event_part h f

theorem counted_sameOutside (f : Part → Part) (m : Bool) (s : State) :
    State.sameOutside { s with marks := { s.marks with count := false, minute := m } } (counted f m s) := by
  obtain ⟨h1, h2, h3, h4, h5, h⟩ := event_sameOutside f s
  exact ⟨h1, h2, h3, h4, congrArg (fun k : Marks => { k with count := false, minute := m }) h5, h⟩

theorem counted_reports {s : State} (hp : s.powered = true) (hs : s.part.settled) (ho : s.part.outbox = []) {f : Part → Part}
    {l : List Notice} (hl : s.part.says (f s.part) l) (m : Bool) : State.reports s (counted f m s) [] l :=
  event_reports hp hs ho hl

/-! ### A new date (R1) -/

/-- The day selection of the date that has come. -/
theorem Part.newDate_eq (p : Part) : p.newDate =
    (p.selectDay 0).evaluateQuiet.buildNow (p.selectionFor p.backup.day).plan := rfl

/-- What a new date brings: its selection and quiet state, its timeline, and the notices of these. -/
theorem Part.newDate_brings {p : Part} (hset : p.time.quality = .set) :
    let sel := p.selectionFor p.backup.day
    let quiet := sel.quiet || inWindow p.cal.quietStart p.cal.quietEnd p.backup.tod
    p.newDate.backup = p.backup ∧ p.newDate.time = p.time ∧ p.newDate.cal = { p.cal with selection := sel, inside := quiet } ∧
    Bells.builds p.bell p.newDate.bell p.backup.day p.backup.tod sel.plan (sel.plan.elim [] p.plan) ∧
    p.says p.newDate (.timeEvent (.dayPlan p.backup.day sel 0) p.campus p.time.quality ::
      quietNotices p.cal.inside quiet p.cal.quietStart p.cal.quietEnd p.campus p.time.quality) := by
  intro sel quiet
  have hnow : (p.selectDay 0).quietNow = quiet := Part.quietNow_of_set (p := p.selectDay 0) hset
  have hb : (p.selectDay 0).evaluateQuiet.backup = p.backup := Part.evaluateQuiet_backup _
  rw [Part.newDate_eq]
  refine ⟨hb, Part.evaluateQuiet_time _, (Part.evaluateQuiet_cal _).trans (by rw [hnow]; rfl), ?_, ?_⟩
  · have h := Part.builds_buildTimeline (p.selectDay 0).evaluateQuiet p.backup.day sel.plan p.backup.tod
    rw [Part.plan_congr (p := p) (by rw [Part.evaluateQuiet_bell]; rfl), Part.evaluateQuiet_bell] at h
    rw [Part.buildNow, hb]
    exact h
  · have h := (p.says_selectDay 0).trans (Part.says_evaluateQuiet (p.selectDay 0))
    rw [hnow] at h
    exact h.silent rfl rfl

/-- No circuit, no announcement waiting, and nothing on its way to the port. -/
def State.alone (s : State) : Prop := s.part.settled ∧ s.part.outbox = [] ∧ ∀ c < 32, s.part.circuit c = none

/-- From `s` to `t` the next date has come, as the statement has it. -/
def State.newDateIn (s t : State) (first : List TimeCause) : Prop :=
  let sel := s.part.selectionFor (s.part.backup.day + 1)
  let midnight : CampusTime := ⟨s.part.backup.day + 1, 0⟩
  let quiet := sel.quiet || inWindow s.part.cal.quietStart s.part.cal.quietEnd 0
  (s.alone → State.reports s t []
    ((first.map fun c => .timeEvent c midnight .set) ++
      .timeEvent (.dayPlan (s.part.backup.day + 1) sel 0) midnight .set ::
      quietNotices s.part.cal.inside quiet s.part.cal.quietStart s.part.cal.quietEnd midnight .set)) ∧
  (State.sameOutside { s with marks := { s.marks with count := false, minute := true } } t ∧ t.part.layout = s.part.layout) ∧
  t.part.campus = ⟨s.part.backup.day + 1, 0⟩ ∧ t.part.cal.selection = sel ∧
  t.part.cal.inside = (sel.quiet || inWindow s.part.cal.quietStart s.part.cal.quietEnd 0) ∧
  Bells.builds s.part.bell t.part.bell (s.part.backup.day + 1) 0 sel.plan (sel.plan.elim [] s.part.plan)

/-- An event that moves campus time to the next date, says what comes first, and lets the date begin. -/
theorem counted_newDate {s : State} (hp : s.powered = true) {f : Part → Part} {q : Part} (first : List TimeCause)
    (hf : f s.part = q.newDate) (hcampus : q.campus = ⟨s.part.backup.day + 1, 0⟩) (hset : q.time.quality = .set)
    (hcal : q.cal = s.part.cal) (hbell : q.bell = s.part.bell) (hlayout : q.layout = s.part.layout)
    (hsays : s.part.says q (first.map fun c => .timeEvent c ⟨s.part.backup.day + 1, 0⟩ .set)) :
    s.newDateIn (counted f true s) first ∧ (counted f true s).part.time = q.time := by
  obtain ⟨hbackup, htime, hcal', hbuilds, hsays'⟩ := Part.newDate_brings hset
  have hpart := counted_part hp f true
  have hcore : (counted f true s).part.core = q.newDate.core := by
    rw [hpart, Part.core_with_outbox, Part.core_settle, hf]
  obtain ⟨-, tbackup, ttime, tcal, tbell, -⟩ := Part.core_fields hcore
  obtain ⟨hday, htod⟩ : q.backup.day = s.part.backup.day + 1 ∧ q.backup.tod = 0 := by
    simpa only [Part.campus, CampusTime.mk.injEq] using hcampus
  rw [Part.selectionFor_congr (p := s.part) (by rw [hcal]) (by rw [hcal]), hday, htod, hcampus, hset, hcal] at hsays'
  rw [Part.selectionFor_congr (p := s.part) (by rw [hcal]) (by rw [hcal]), hday, htod, hcal] at hcal'
  rw [Part.selectionFor_congr (p := s.part) (by rw [hcal]) (by rw [hcal]), Part.plan_congr (p := s.part) (by rw [hbell]), hday,
    htod, hbell] at hbuilds
  refine ⟨⟨fun ⟨hs, ho, _⟩ => ?_, ⟨counted_sameOutside f true s, ?_⟩, ?_, ?_, ?_, ?_⟩, ttime.trans htime⟩
  · exact counted_reports hp hs ho (hf ▸ hsays.trans hsays') true
  · rw [hpart, layout_outbox, Part.layout_settle, hf, Part.layout_newDate, hlayout]
  · rw [Part.campus, tbackup, hbackup]; exact hcampus
  · rw [tcal, hcal']
  · rw [tcal, hcal']
  · rw [tbell]; exact hbuilds

/-! ### The end of the range (R1, R2) -/

/-- From `s` to `t` campus time has become UNSET at the end of its range, as the statement has it. -/
def State.rangeEndIn (s t : State) (minute : Bool) : Prop :=
  (s.alone → State.reports s t []
    ([.timeEvent .unsetRangeEnd ⟨36524, 863999⟩ .unset,
      .timeEvent (.dayPlan 36524 ⟨none, .none, false⟩ 0) ⟨36524, 863999⟩ .unset] ++
      quietNotices s.part.cal.inside false s.part.cal.quietStart s.part.cal.quietEnd ⟨36524, 863999⟩ .unset)) ∧
  (State.sameOutside { s with marks := { s.marks with count := false, minute := minute } } t ∧
    t.part.layout = s.part.layout) ∧
  t.part.campus = ⟨36524, 863999⟩ ∧ t.part.time = ⟨.unset, 0, false⟩ ∧ t.part.backup.valid = false ∧
  t.part.cal.selection = ⟨none, .none, false⟩ ∧ t.part.cal.inside = false ∧ t.part.bell = s.part.bell

/-- Campus time UNSET, before the circuits hear of it. -/
def Part.unsetCalendar (p : Part) : Part :=
  (({ p with
      time := ⟨.unset, 0, false⟩
      backup := { p.backup with valid := false } }.noteTime .unsetRangeEnd).setSelection DaySelection.unset 0).evaluateQuiet

theorem Part.becomeUnset_eq (p : Part) : p.becomeUnset = p.unsetCalendar.circuitsUnset := rfl

theorem Part.core_unsetCalendar (p : Part) : p.unsetCalendar.core = { p with
    time := ⟨.unset, 0, false⟩
    backup := { p.backup with valid := false }
    cal := { p.cal with selection := DaySelection.unset, inside := false } }.core := by
  rw [Part.unsetCalendar, Part.core_evaluateQuiet, Part.quietNow_of_unset rfl]; rfl

theorem Part.says_unsetCalendar (p : Part) : p.says p.unsetCalendar
    ([.timeEvent .unsetRangeEnd p.campus .unset, .timeEvent (.dayPlan p.backup.day DaySelection.unset 0) p.campus .unset] ++
      quietNotices p.cal.inside false p.cal.quietStart p.cal.quietEnd p.campus .unset) := by
  refine (((Part.says_noteTime _ _).trans (Part.says_setSelection _ _ 0)).trans (Part.says_evaluateQuiet _)).of_silent_congr
    rfl rfl ?_
  rw [Part.quietNow_of_unset rfl]; rfl

/-- An event that leaves campus time at the end of the range. -/
theorem counted_rangeEnd {s : State} (hp : s.powered = true) {f : Part → Part} {q : Part} (m : Bool)
    (hf : f s.part = q.becomeUnset) (hcampus : q.campus = ⟨36524, 863999⟩) (hcal : q.cal = s.part.cal)
    (hbell : q.bell = s.part.bell) (hlayout : q.layout = s.part.layout) (hclk : q.clk = s.part.clk)
    (hann : q.ann = s.part.ann) (hout : q.outbox = s.part.outbox) : s.rangeEndIn (counted f m s) m := by
  have hpart := counted_part hp f m
  have hclock : (counted f m s).part.clock = q.unsetCalendar.clock := by
    rw [hpart, clock_outbox, Part.clock_settle, hf, Part.becomeUnset_eq, Part.clock_circuitsUnset]
  rw [Part.clock_of_core (Part.core_unsetCalendar q)] at hclock
  simp only [Part.clock, Prod.mk.injEq] at hclock
  obtain ⟨-, hday, htod, hvalid, htime, tcal, tbell⟩ := hclock
  refine ⟨fun ⟨hs, ho, hc⟩ => ?_, ⟨counted_sameOutside f m s, ?_⟩, ?_, htime, hvalid, ?_, ?_, tbell.trans hbell⟩
  · refine counted_reports hp hs ho ?_ m
    have hcirc : q.unsetCalendar.circuit = s.part.circuit := by
      have h := Part.core_unsetCalendar q
      simp only [Part.core, Prod.mk.injEq] at h
      obtain ⟨-, -, -, -, -, -, -, h, -⟩ := h
      exact Part.circuit_congr (h.trans (by rw [hclk]))
    have hday : q.backup.day = 36524 := congrArg CampusTime.day hcampus
    rw [hf, Part.becomeUnset_eq, Part.circuitsUnset_none (by rw [hcirc]; exact hc)]
    refine q.says_unsetCalendar.of_silent_congr hann hout ?_
    rw [hcampus, hcal, hday]; rfl
  · rw [hpart, layout_outbox, Part.layout_settle, hf, Part.layout_becomeUnset, hlayout]
  · rw [Part.campus, hday, htod]; exact hcampus
  · rw [tcal]; rfl
  · rw [tcal]

/-! ### A trimmed second (R5) -/

/-- The trim remainder after a trimmed second. -/
def Part.trimMovedOn (p : Part) : TimeKeeper := ⟨p.time.quality, p.time.trim - p.time.trim.sign, false⟩

/-- A second of a trim in progress is complete, with the remainder moved on and campus time at a new value. -/
def Part.trimmedTo (p : Part) (t : CampusTime) : Part :=
  { p with backup := { p.backup with day := t.day, tod := t.tod }, time := p.trimMovedOn }

theorem Part.trim_step {p : Part} (h : p.time.trim ≠ 0) :
    (if 0 < p.time.trim then p.time.trim - 1 else p.time.trim + 1) = p.time.trim - p.time.trim.sign := by
  rcases lt_trichotomy p.time.trim 0 with hneg | hzero | hpos
  · rw [if_neg (by omega), Int.sign_eq_neg_one_of_neg hneg]; omega
  · exact absurd hzero h
  · rw [if_pos hpos, Int.sign_eq_one_of_pos hpos]

/-- What the end of a trimmed second brings, by where it leads (R1, R2, R5). -/
theorem Part.trimSecond_eq {p : Part} (h : p.time.trim ≠ 0) : p.trimSecond =
    if p.trimmedCount < dayTenths then (p.trimmedTo ⟨p.backup.day, p.trimmedCount⟩).trimMoved
    else if p.backup.day < lastDay then (p.trimmedTo ⟨p.backup.day + 1, 0⟩).trimMoved.newDate
    else (p.trimmedTo ⟨p.backup.day, dayTenths - 1⟩).becomeUnset := by
  unfold Part.trimSecond; dsimp only; rw [Part.trim_step h]; rfl

/-- The last of a trim is reported (R5, R19). -/
theorem Part.trimMoved_eq (p : Part) : p.trimMoved = if p.time.trim = 0 then p.noteTime .trimDone else p := rfl

/-- A trimmed second is complete at its next tenth, by the direction of the trim (R5; log entry 6). -/
theorem Part.nextTenth_trim {p : Part} (h : (0 < p.time.trim ∧ p.backup.tod % 10 = 8) ∨
    (p.time.trim < 0 ∧ p.backup.tod % 10 = 9 ∧ p.time.held = true)) : p.nextTenth = .trim := by
  rcases h with ⟨h1, h2⟩ | ⟨h1, h2, h3⟩
  · simp [Part.nextTenth, h1, h2]
  · simp [Part.nextTenth, h1, h2, h3]

/-- The notices with which the trim is done. -/
def Part.trimCauses (p : Part) : List TimeCause := if p.trimMovedOn.trim = 0 then [.trimDone] else []

theorem Part.says_trimMoved {p : Part} (hset : p.time.quality = .set) (t : CampusTime) :
    p.says (p.trimmedTo t).trimMoved (p.trimCauses.map fun c => .timeEvent c t .set) := by
  rw [Part.trimMoved_eq, Part.trimCauses, show (p.trimmedTo t).time.trim = p.trimMovedOn.trim from rfl]
  split
  · refine (Part.says_noteTime _ _).of_silent_congr rfl rfl ?_
    simp [Part.trimmedTo, Part.trimMovedOn, Part.campus, hset]
  · exact Part.says_nil rfl rfl

/-- A message apart, the end of a trim changes nothing. -/
theorem Part.trimMoved_emptied {p : Part} : { p.trimMoved with outbox := [] } = { p with outbox := [] } := by
  unfold Part.trimMoved; split <;> rfl

theorem Part.trimMoved_fields (p : Part) : p.trimMoved.campus = p.campus ∧ p.trimMoved.time = p.time ∧ p.trimMoved.cal = p.cal ∧
    p.trimMoved.bell = p.bell := by
  unfold Part.trimMoved; split <;> exact ⟨rfl, rfl, rfl, rfl⟩

/-- The count that a trimmed second reaches is a whole minute at the end of a date. -/
theorem exec_trimSecond {s : State} (hp : s.powered = true) (hset : s.part.time.quality = .set)
    (h : s.part.nextTenth = .trim) :
    exec .trimSecond s = .next (counted Part.trimSecond (s.part.trimmedCount % 600 == 0) s) := by
  simp [exec, execTrimSecond, trimSecond, hp, Part.isSet_of_set hset, h]

theorem exec_dayStart {s : State} (hp : s.powered = true) (hset : s.part.time.quality = .set)
    (htod : s.part.backup.tod = 863999) (hday : s.part.backup.day ≠ 36524) :
    exec .dayStart s = .next (counted Part.dayStart true s) := by
  simp [exec, execDayStart, dayStart, hp, Part.atDateEnd, Part.isSet_of_set hset, htod, dayTenths, lastDay, hday]

theorem exec_rangeEnd {s : State} (hp : s.powered = true) (hset : s.part.time.quality = .set)
    (htod : s.part.backup.tod = 863999) (hday : s.part.backup.day = 36524) :
    exec .rangeEnd s = .next (counted Part.becomeUnset false s) := by
  simp [exec, execRangeEnd, rangeEnd, hp, Part.atDateEnd, Part.isSet_of_set hset, htod, dayTenths, lastDay, hday]

/-! ### A whole minute (R17, R112) -/

/-- A circuit's record after a change of that record. -/
theorem Part.circuit_modCircuit {p : Part} {c : Nat} {r : Circuit} (h : p.circuit c = some r) (f : Circuit → Circuit) :
    (p.modCircuit c f).circuit c = some (f r) := by
  have hc : c < 32 := by
    by_contra hc
    simp [Part.circuit, Tab.get, hc] at h
  have hm : p.modCircuit c f = p.setCircuit c (some (f r)) := by simp only [Part.modCircuit, h]
  rw [hm]
  simp [Part.setCircuit, Part.circuit, Tab.get, Tab.set, hc]

/-- A change of one circuit's record leaves the others. -/
theorem Part.circuit_modCircuit_ne (p : Part) {c d : Nat} (h : c ≠ d) (f : Circuit → Circuit) :
    (p.modCircuit c f).circuit d = p.circuit d := by
  unfold Part.modCircuit; split
  · simp [Part.setCircuit, Part.circuit, Tab.get, Tab.set, h]
  · rfl

@[simp] theorem Part.circuit_hand (p : Part) (c : LineCommand) (t : Option Nat) (w : Sender) :
    (p.hand c t w).circuit = p.circuit := rfl
@[simp] theorem Part.circuit_noteClock (p : Part) (c : Nat) (e : ClockEvent) : (p.noteClock c e).circuit = p.circuit := by
  unfold Part.noteClock; split <;> rfl

theorem Part.circuit_handImpulse_ne (p : Part) {c d : Nat} (h : c ≠ d) : (p.handImpulse c).circuit d = p.circuit d := by
  unfold Part.handImpulse
  (repeat' split)
  · exact (congrFun (Part.circuit_hand _ _ _ _) d).trans (p.circuit_modCircuit_ne h _)
  · rfl
  · rfl

theorem Part.circuit_callImpulse_ne (p : Part) {c d : Nat} (h : c ≠ d) : (p.callImpulse c).circuit d = p.circuit d := by
  unfold Part.callImpulse; dsimp only
  (repeat' split)
  · exact (Part.circuit_handImpulse_ne _ h).trans (p.circuit_modCircuit_ne h _)
  · exact p.circuit_modCircuit_ne h _
  · rfl

theorem Part.circuit_setCourse_ne (p : Part) {c d : Nat} (h : c ≠ d) (m : CircuitMode) (k : Course) (x y : Nat) :
    (p.setCourse c m k x y).circuit d = p.circuit d := by
  unfold Part.setCourse; dsimp only
  (repeat' split) <;> simp [p.circuit_modCircuit_ne h]

/-- The evaluation of one circuit leaves the others (R112). -/
theorem Part.circuit_evaluateCircuit_ne (p : Part) {c d : Nat} (h : c ≠ d) : (p.evaluateCircuit c).circuit d = p.circuit d := by
  unfold Part.evaluateCircuit; dsimp only
  (repeat' split) <;>
    simp [Part.circuit_callImpulse_ne _ h, Part.circuit_setCourse_ne _ h, Part.circuit_modCircuit_ne _ h]

/-- The impulse in flight is handed: it is marked so, and nothing else of the circuit changes (R113). -/
theorem Part.circuit_handImpulse {p : Part} {c : Nat} {r : Circuit} {i : Impulse} (h : p.circuit c = some r)
    (hi : r.flight = some i) : (p.handImpulse c).circuit c =
      some { r with flight := some { i with sentAt := none, handed := true, resendDue := false } } := by
  simp only [Part.handImpulse, h, hi, Part.circuit_hand]
  exact Part.circuit_modCircuit h _

theorem Part.circuit_handNew {p : Part} {c : Nat} {r : Circuit} (h : p.circuit c = some r) (i : Impulse) :
    ((p.modCircuit c fun r => { r with flight := some i }).handImpulse c).circuit c =
      some { r with flight := some { i with sentAt := none, handed := true, resendDue := false } } :=
  Part.circuit_handImpulse (r := { r with flight := some i }) (Part.circuit_modCircuit h _) rfl

/-- An evaluation that calls for an impulse puts one into flight, of the opposite polarity and not yet sent (R113). -/
theorem Part.circuit_callImpulse {p : Part} {c : Nat} {r : Circuit} (h : p.circuit c = some r) :
    ∃ i : Impulse, (p.callImpulse c).circuit c = some { r with flight := some i } ∧ i.polarity = r.polarity.flip ∧
      i.sends = 1 ∧ i.sentAt = none := by
  simp only [Part.callImpulse, h]
  split
  · refine ⟨_, Part.circuit_handNew h _, ?_, ?_, ?_⟩ <;> rfl
  · refine ⟨_, Part.circuit_modCircuit h _, ?_, ?_, ?_⟩ <;> rfl

/-- A circuit takes a mode and a course (R112). -/
theorem Part.circuit_setCourse {p : Part} {c : Nat} {r : Circuit} (h : p.circuit c = some r) (m : CircuitMode) (k : Course)
    (x y : Nat) : (p.setCourse c m k x y).circuit c = some { r with mode := m, course := k } := by
  have hm := Part.circuit_modCircuit h fun r => { r with mode := m, course := k }
  simp only [Part.setCourse, h]
  (repeat' split) <;> simp [hm]

/-- What an evaluation makes of a circuit that is to be in step with campus time (R112). -/
def Circuit.evaluatedTo (r r' : Circuit) (d target : Nat) : Prop :=
  let behind := (behindAhead target d).1
  let ahead := (behindAhead target d).2
  r'.definition = r.definition ∧ r'.dial = some d ∧ r'.polarity = r.polarity ∧
  (behind = 0 → r'.mode = .run ∧ r'.course = .inStep ∧ r'.flight = none) ∧
  (behind = 1 → r'.mode = .run ∧ r'.course = .inStep ∧
    ∃ i, r'.flight = some i ∧ i.polarity = r.polarity.flip ∧ i.sends = 1 ∧ i.sentAt = none) ∧
  (1 < behind → ahead ≤ r.definition.holdLimit → r'.mode = .hold ∧ r'.course = .holding ∧ r'.flight = none) ∧
  (1 < behind → r.definition.holdLimit < ahead → r'.mode = .advance ∧ r'.course = .advancing ∧
    ∃ i, r'.flight = some i ∧ i.polarity = r.polarity.flip ∧ i.sends = 1 ∧ i.sentAt = none)

/-- The evaluation of a circuit that has a dial and no impulse in flight, while campus time is SET (R112). -/
theorem Part.circuit_evaluateCircuit {p : Part} {c d : Nat} {r : Circuit} (hset : p.time.quality = .set)
    (h : p.circuit c = some r) (hd : r.dial = some d) (hf : r.flight = none)
    (hm : r.mode = .run ∨ r.mode = .advance ∨ r.mode = .hold) :
    ∃ r', (p.evaluateCircuit c).circuit c = some r' ∧ r.evaluatedTo r' d p.target := by
  have hs : (!p.isSet) = false := by simp [Part.isSet_of_set hset]
  simp only [Part.evaluateCircuit, h, hd, hf, hm, if_true, hs, Bool.false_eq_true, if_false]
  by_cases h0 : (behindAhead p.target d).1 = 0
  · rw [if_pos h0]
    refine ⟨_, Part.circuit_setCourse h _ _ _ _, rfl, hd, rfl, fun _ => ⟨rfl, rfl, hf⟩, ?_, ?_, ?_⟩ <;> omega
  by_cases h1 : (behindAhead p.target d).1 = 1
  · rw [if_neg h0, if_pos h1]
    obtain ⟨i, hi, hi'⟩ := Part.circuit_callImpulse (Part.circuit_setCourse h .run .inStep _ _)
    refine ⟨_, hi, rfl, hd, rfl, ?_, fun _ => ⟨rfl, rfl, i, rfl, hi'⟩, ?_, ?_⟩ <;> omega
  by_cases ha : (behindAhead p.target d).2 ≤ r.definition.holdLimit
  · rw [if_neg h0, if_neg h1, if_pos ha]
    refine ⟨_, Part.circuit_setCourse h _ _ _ _, rfl, hd, rfl, ?_, ?_, fun _ _ => ⟨rfl, rfl, hf⟩, ?_⟩ <;> omega
  · rw [if_neg h0, if_neg h1, if_neg ha]
    obtain ⟨i, hi, hi'⟩ := Part.circuit_callImpulse (Part.circuit_setCourse h .advance .advancing _ _)
    refine ⟨_, hi, rfl, hd, rfl, ?_, ?_, ?_, fun _ _ => ⟨rfl, rfl, i, rfl, hi'⟩⟩ <;> omega

/-- The evaluation of other circuits leaves a circuit. -/
theorem Part.circuit_each_ne {d : Nat} (l : List Nat) (h : d ∉ l) : ∀ p : Part,
    (p.each l Part.evaluateCircuit).circuit d = p.circuit d := by
  induction l with
  | nil => intro p; rfl
  | cons c l ih =>
    intro p
    simp only [List.mem_cons, not_or] at h
    exact (ih h.2 _).trans (p.circuit_evaluateCircuit_ne (Ne.symm h.1))

/-- The evaluation of every circuit evaluates each (R112). -/
theorem Part.circuit_evaluateCircuits {p : Part} {c d : Nat} {r : Circuit} (hset : p.time.quality = .set) (hc : c < 32)
    (h : p.circuit c = some r) (hd : r.dial = some d) (hf : r.flight = none)
    (hm : r.mode = .run ∨ r.mode = .advance ∨ r.mode = .hold) :
    ∃ r', p.evaluateCircuits.circuit c = some r' ∧ r.evaluatedTo r' d p.target := by
  obtain ⟨before, after, hl⟩ := List.append_of_mem (List.mem_range.mpr hc)
  have hnodup : (before ++ c :: after).Nodup := hl ▸ List.nodup_range
  rw [List.nodup_append] at hnodup
  obtain ⟨-, hafter, hbefore⟩ := hnodup
  have hb : c ∉ before := fun hb => hbefore c hb c (by simp) rfl
  have ha : c ∉ after := (List.nodup_cons.mp hafter).1
  let q := p.each before Part.evaluateCircuit
  have heach : p.evaluateCircuits = (q.evaluateCircuit c).each after Part.evaluateCircuit := by
    simp only [Part.evaluateCircuits, upTo, hl, Part.each, List.foldl_append, List.foldl_cons]
    rfl
  have hq : q.offCircuits = p.offCircuits := Part.offCircuits_each _ (fun q c => by simp) _ p
  simp only [Part.offCircuits, Prod.mk.injEq] at hq
  obtain ⟨-, hbackup, htime, -⟩ := hq
  obtain ⟨r', hr', hev⟩ := Part.circuit_evaluateCircuit (p := q) (htime ▸ hset) ((Part.circuit_each_ne before hb p).trans h)
    hd hf hm
  have htarget : q.target = p.target := by rw [Part.target, hbackup]; rfl
  exact ⟨r', by rw [heach, Part.circuit_each_ne after ha]; exact hr', htarget ▸ hev⟩

/-- What a whole minute reached by counting evaluates and reports (R17, R112). -/
theorem exec_minuteBoundary {s : State} (hset : s.part.time.quality = .set) (htod : s.part.backup.tod % 600 = 0) :
    ∃ f : Part → Part, exec .minuteBoundary s = .next (event f s) ∧ f s.part = s.part.evaluateQuiet.evaluateCircuits := by
  refine ⟨_, rfl, ?_⟩
  simp [Part.isSet_of_set hset, htod, Part.minuteBoundary]

/-! ### A time change (R15) -/

/-- The part with a record marked DONE. -/
def Part.changeMarked (p : Part) (c : TimeChange) : Part :=
  { p with cal := { p.cal with changes := p.cal.changes.map fun x => if x == c then { x with done := true } else x } }

/-- The campus time that a record's shift leads to (R15). -/
def Part.shifted (p : Part) (c : TimeChange) : CampusTime := campusOf ((p.campus.total : Int) + c.shift * 600).toNat

theorem Part.takeChange_eq {p : Part} {c : TimeChange} (h : p.reachedChange = some c) : p.takeChange =
    (p.changeMarked c).jumpTo (p.shifted c) fun _ _ marked => .change c.moment c.shift marked := by
  simp only [Part.takeChange, h]; rfl

@[simp] theorem campusOf_total (n : Nat) : (campusOf n).total = n := Nat.div_add_mod' n dayTenths

theorem Part.shifted_total {p : Part} {c : TimeChange} (h : 0 ≤ (p.campus.total : Int) + c.shift * 600) :
    ((p.shifted c).total : Int) = p.campus.total + c.shift * 600 := by
  rw [Part.shifted, campusOf_total, Int.toNat_of_nonneg h]

/-- The records after a jump (R15). -/
theorem Part.jumped_changes (p : Part) (new : CampusTime) : (p.jumped new).changes =
    passedChanges (fun m => decide (p.campus.total ≤ m) && decide (m ≤ new.total)) p.cal.changes := rfl

/-- The record that has been reached is one of the list, and is DONE after its jump. -/
theorem Part.changeMarked_mem {p : Part} {c : TimeChange} (h : p.reachedChange = some c) (f : Nat → Bool) :
    { c with done := true } ∈ passedChanges f (p.changeMarked c).cal.changes := by
  have hc : c ∈ p.cal.changes := by
    unfold Part.reachedChange at h
    split at h
    · exact List.mem_of_find?_eq_some h
    · simp at h
  simp only [passedChanges, Part.changeMarked, List.map_map, List.mem_map]
  exact ⟨c, hc, by simp⟩

/-- The records that a time change's jump passes, besides the one that has been reached. -/
theorem passed_changeMarked (l : List TimeChange) (c : TimeChange) (f : Nat → Bool) :
    ((l.map fun x => if x == c then { x with done := true } else x).filter fun x => !x.done && f x.moment.total).length =
      (l.filter fun x => x != c && !x.done && f x.moment.total).length := by
  rw [List.filter_map, List.length_map]
  congr 1
  refine List.filter_congr fun x _ => ?_
  by_cases hx : x = c
  · simp [hx]
  · simp [hx, bne_iff_ne.mpr hx]

/-- What a time change's jump reports where it stays within the date and no bell entry or drill waits (R15, R19). -/
theorem Part.says_takeChange {p : Part} {c : TimeChange} (hset : p.time.quality = .set) (hc : p.reachedChange = some c)
    (hcirc : ∀ d < 32, p.circuit d = none) (hday : (p.shifted c).day = p.backup.day)
    (hbell : ∀ e ∈ p.bell.timeline.entries, e.state ≠ .waiting) (hdrill : ∀ e ∈ p.drill.schedule, e.state ≠ .waiting) :
    p.says p.takeChange (.timeEvent (.change c.moment c.shift
      (p.cal.changes.filter fun x => x != c && !x.done &&
        (decide (p.campus.total ≤ x.moment.total) && decide (x.moment.total ≤ (p.shifted c).total))).length) (p.shifted c) .set ::
      quietNotices p.cal.inside (p.cal.selection.quiet || inWindow p.cal.quietStart p.cal.quietEnd (p.shifted c).tod)
        p.cal.quietStart p.cal.quietEnd (p.shifted c) .set) := by
  have h := Part.says_jumpTo (p := p.changeMarked c) hset (new := p.shifted c) hbell (fun hne => absurd hday.symm hne)
    (fun e he hw => absurd hw (hdrill e he)) hcirc fun _ _ marked => .change c.moment c.shift marked
  rw [← Part.takeChange_eq hc] at h
  have hday' : (p.changeMarked c).backup.day = (p.shifted c).day := hday.symm
  refine h.of_silent_congr rfl rfl ?_
  rw [Part.jumped, if_pos hday', if_pos hday', ← passed_changeMarked p.cal.changes c fun m =>
    decide (p.campus.total ≤ m) && decide (m ≤ (p.shifted c).total)]
  rfl

/-! ### The statement -/

section
variable {s : State}

/-- A trimmed second within its date moves the count and the remainder, and reports the last of the trim (R5). -/
theorem counted_trimSecond (hp : s.powered = true) (hset : s.part.time.quality = .set) (htrim : s.part.time.trim ≠ 0)
    (hs : s.part.settled) (ho : s.part.outbox = []) (hcount : s.part.trimmedCount < 864000) (m : Bool) :
    (counted Part.trimSecond m s).part = s.part.trimmedTo ⟨s.part.backup.day, s.part.trimmedCount⟩ ∧
    State.reports s (counted Part.trimSecond m s) []
      (s.part.trimCauses.map fun c => .timeEvent c ⟨s.part.backup.day, s.part.trimmedCount⟩ .set) := by
  have hf := Part.trimSecond_eq htrim
  rw [if_pos (show s.part.trimmedCount < dayTenths from hcount)] at hf
  have hsays := Part.says_trimMoved hset ⟨s.part.backup.day, s.part.trimmedCount⟩
  refine ⟨?_, counted_reports hp hs ho (hf ▸ hsays) m⟩
  rw [counted_part hp, hf, Part.settle_same hs hsays.1, Part.trimMoved_emptied]
  exact Part.empty_outbox ho

/-- A trimmed second that completes its date brings the next one (R1, R5). -/
theorem counted_trimSecond_date (hp : s.powered = true) (hset : s.part.time.quality = .set) (htrim : s.part.time.trim ≠ 0)
    (hcount : 864000 = s.part.trimmedCount) (hday : s.part.backup.day < 36524) :
    s.newDateIn (counted Part.trimSecond true s) s.part.trimCauses ∧
      (counted Part.trimSecond true s).part.time = s.part.trimMovedOn := by
  have hf := Part.trimSecond_eq htrim
  rw [if_neg (by rw [← hcount]; decide), if_pos (show s.part.backup.day < lastDay from hday)] at hf
  obtain ⟨hcampus, htime, hcal, hbell⟩ := Part.trimMoved_fields (s.part.trimmedTo ⟨s.part.backup.day + 1, 0⟩)
  have h := counted_newDate hp s.part.trimCauses hf hcampus (htime ▸ hset) hcal hbell (by simp; rfl)
    (Part.says_trimMoved hset _)
  exact ⟨h.1, h.2.trans htime⟩

/-- A trimmed second that completes the range brings its end (R1, R2, R5). -/
theorem counted_trimSecond_range (hp : s.powered = true) (htrim : s.part.time.trim ≠ 0)
    (hcount : 864000 = s.part.trimmedCount) (hday : s.part.backup.day = 36524) :
    s.rangeEndIn (counted Part.trimSecond true s) true := by
  have hf := Part.trimSecond_eq htrim
  rw [if_neg (by rw [← hcount]; decide), if_neg (by rw [hday]; decide), hday] at hf
  exact counted_rangeEnd hp true hf rfl rfl rfl rfl rfl rfl rfl

/-- What the evaluations of a whole minute leave, change and report (R17, R112). -/
theorem event_minuteBoundary {f : Part → Part} (hp : s.powered = true) (hset : s.part.time.quality = .set)
    (hf : f s.part = s.part.evaluateQuiet.evaluateCircuits) :
    let inside := s.part.cal.selection.quiet || inWindow s.part.cal.quietStart s.part.cal.quietEnd s.part.backup.tod
    (event f s).part.layout = s.part.layout ∧ (event f s).part.campus = s.part.campus ∧
    (event f s).part.time = s.part.time ∧ (event f s).part.bell = s.part.bell ∧
    (event f s).part.cal = { s.part.cal with inside := inside } ∧
    (s.alone → State.reports s (event f s) []
      (quietNotices s.part.cal.inside inside s.part.cal.quietStart s.part.cal.quietEnd s.part.campus .set)) ∧
    ∀ c < 32, ∀ (r : Circuit) (d : Nat), s.part.circuit c = some r → r.dial = some d → r.flight = none →
      (r.mode = .run ∨ r.mode = .advance ∨ r.mode = .hold) →
      ∃ r', (event f s).part.circuit c = some r' ∧ r.evaluatedTo r' d s.part.target := by
  intro inside
  have hnow : s.part.quietNow = inside := Part.quietNow_of_set hset
  have hpart : (event f s).part = { s.part.evaluateQuiet.evaluateCircuits.settle with outbox := [] } := by
    rw [event_part hp, hf]
  have hcirc : s.part.evaluateQuiet.circuit = s.part.circuit := by
    have h := s.part.core_evaluateQuiet
    simp only [Part.core, Prod.mk.injEq] at h
    obtain ⟨-, -, -, -, -, -, -, h, -⟩ := h
    exact Part.circuit_congr h
  have hclock : (event f s).part.clock = s.part.evaluateQuiet.clock := by
    rw [hpart, clock_outbox, Part.clock_settle, Part.clock_evaluateCircuits]
  simp only [Part.clock, Prod.mk.injEq, Part.evaluateQuiet_backup, Part.evaluateQuiet_time, Part.evaluateQuiet_cal,
    Part.evaluateQuiet_bell, hnow] at hclock
  obtain ⟨-, hday, htod, -, htime, hcal, hbell⟩ := hclock
  refine ⟨by rw [hpart, layout_outbox]; simp, by rw [Part.campus, hday, htod]; rfl, htime, hbell, hcal,
    fun ⟨hs, ho, hc⟩ => event_reports hp hs ho ?_, fun c hc r d hr hd hflight hm => ?_⟩
  · have hsays := s.part.says_evaluateQuiet
    rw [hnow, hset] at hsays
    rw [hf, Part.evaluateCircuits_none (by rw [hcirc]; exact hc)]
    exact hsays
  · obtain ⟨r', hr', hev⟩ := Part.circuit_evaluateCircuits (p := s.part.evaluateQuiet)
      ((Part.evaluateQuiet_time _).symm ▸ hset) hc (hcirc ▸ hr) hd hflight hm
    have htarget : s.part.evaluateQuiet.target = s.part.target := by rw [Part.target, Part.evaluateQuiet_backup]; rfl
    have hcore : (event f s).part.core = s.part.evaluateQuiet.evaluateCircuits.core := by
      rw [hpart, Part.core_with_outbox, Part.core_settle]
    simp only [Part.core, Prod.mk.injEq] at hcore
    obtain ⟨-, -, -, -, -, -, -, hcore, -⟩ := hcore
    exact ⟨r', (congrFun (Part.circuit_congr hcore) c).trans hr', htarget ▸ hev⟩

/-- What a time change leaves, changes and reports (R15). -/
theorem event_takeChange {c : TimeChange} (hp : s.powered = true) (hset : s.part.time.quality = .set)
    (hc : s.part.reachedChange = some c) :
    let t := event Part.takeChange s
    t.part.layout = s.part.layout ∧ t.part.campus = s.part.shifted c ∧ t.part.time = { s.part.time with held := false } ∧
    { c with done := true } ∈ t.part.cal.changes := by
  intro t
  have hpart : t.part = { s.part.takeChange.settle with outbox := [] } := event_part hp _
  have hwatch : t.part.watch = s.part.takeChange.watch := by
    rw [hpart]
    exact Part.watch_settle _
  rw [Part.takeChange_eq hc, Part.watch_jumpTo (p := s.part.changeMarked c) hset] at hwatch
  simp only [Part.watch, Prod.mk.injEq] at hwatch
  obtain ⟨-, hday, htod, -, htime, hcal⟩ := hwatch
  refine ⟨by rw [hpart, layout_outbox]; simp, by rw [Part.campus, hday, htod], htime, ?_⟩
  rw [hcal, Part.jumped_changes]
  exact Part.changeMarked_mem hc _

end

/-- Settles O47: the next date and the end of the range by what each brings, a whole minute by the evaluations, a time
change by its jump. -/
theorem campusTimeEvents : Obligations.CampusTimeEvents := by
  intro s hp hset
  refine ⟨fun htod hday => ?_, fun htod hday => ?_, fun htrim => ?_, fun htod => ?_, fun c hc hnonneg => ?_⟩
  · -- the end of a date
    obtain ⟨hdate, htime⟩ := counted_newDate hp (f := Part.dayStart) (q := s.part.moveTime ⟨s.part.backup.day + 1, 0⟩) []
      rfl rfl hset rfl rfl rfl (Part.says_nil rfl rfl)
    exact ⟨_, exec_dayStart hp hset htod hday, hdate, htime⟩
  · -- the end of the range
    exact ⟨_, exec_rangeEnd hp hset htod hday, counted_rangeEnd hp false rfl (by rw [Part.campus, hday, htod]) rfl rfl rfl rfl
      rfl rfl⟩
  · -- a trimmed second
    have hexec := exec_trimSecond hp hset (Part.nextTenth_trim htrim)
    have hne : s.part.time.trim ≠ 0 := by omega
    have hcount : s.part.backup.tod + (if 0 < s.part.time.trim then 2 else 1) = s.part.trimmedCount := by
      unfold Part.trimmedCount; split <;> rfl
    have htime : (⟨.set, s.part.time.trim - s.part.time.trim.sign, false⟩ : TimeKeeper) = s.part.trimMovedOn := by
      rw [Part.trimMovedOn, hset]
    dsimp only
    rw [hcount, hexec]
    refine ⟨fun hs ho hlt => ?_, fun hend hday => ?_, fun hend hday => ?_⟩
    · obtain ⟨hpart, hreports⟩ := counted_trimSecond hp hset hne hs ho hlt (s.part.trimmedCount % 600 == 0)
      obtain ⟨hmemory, hnodes, hpowered, hworld, hmarks, hpending, -⟩ :=
        counted_sameOutside Part.trimSecond (s.part.trimmedCount % 600 == 0) s
      exact ⟨_, rfl, hpart.trans (by rw [Part.trimmedTo, htime]), hmarks, hnodes, hmemory, hpending, hworld, hpowered.trans hp, hreports⟩
    · rw [← hend]
      obtain ⟨hdate, hmoved⟩ := counted_trimSecond_date hp hset hne hend hday
      exact ⟨_, rfl, hdate, hmoved.trans htime.symm⟩
    · rw [← hend]
      exact ⟨_, rfl, counted_trimSecond_range hp hne hend hday⟩
  · -- a whole minute
    obtain ⟨f, hexec, hf⟩ := exec_minuteBoundary hset htod
    obtain ⟨hlayout, hcampus, htime, hbell, hcal, hreports, hcirc⟩ := event_minuteBoundary hp hset hf
    exact ⟨_, hexec, event_sameOutside f s, hlayout, hcampus, htime, hbell, hcal, by rw [hcal]; exact hreports, hcirc⟩
  · -- a time change
    obtain ⟨hlayout, hcampus, htime, hdone⟩ := event_takeChange hp hset hc
    refine ⟨_, rfl, event_sameOutside _ s, hlayout, hcampus ▸ Part.shifted_total hnonneg, htime, hdone,
      fun ⟨hs, ho, hcirc⟩ hday hbell hdrill => ?_⟩
    have hdays : (s.part.shifted c).day = s.part.backup.day := (congrArg CampusTime.day hcampus).symm.trans hday
    have hsays := Part.says_takeChange hset hc hcirc hdays hbell hdrill
    refine event_reports hp hs ho (hsays.congr ?_)
    have htod : (event Part.takeChange s).part.backup.tod = (s.part.shifted c).tod := congrArg CampusTime.tod hcampus
    rw [htod, hcampus]
    simp only [Bool.decide_and]
    rfl

end Sys2Proof.Machine
end

section
/-! SUPPORT. What becomes of the timeline when entries are reached or skipped, and at a build (R26 to R34). -/

namespace Sys2Proof.Machine

/-! ### The timeline as a walk leaves it -/

/-- What no firing touches: the tables of the bell scheduler, the furthest date, and the timeline but for the states. -/
def Bells.frame (b : Bells) :=
  (b.groups, b.plans, b.grace, b.catchUp, b.furthest, b.timeline.date, b.timeline.plan, b.timeline.build,
    b.timeline.entries.map (·.entry))

/-- The fired record as long as it can become while the present timeline lasts: each WAITING entry may add one key. -/
def Bells.load (b : Bells) : Nat := b.fired.length + b.timeline.entries.countP (·.state == .waiting)

/-- An entry of the timeline takes a state and a posted count, with a fired record and a number of postings after it. -/
def Bells.marked (b : Bells) (i : Nat) (st : EntryState) (n : Option Nat) (fired : List FiredKey) (postings : Nat) : Bells :=
  { b with
    timeline := { b.timeline with entries := b.timeline.entries.modify i fun e => { e with state := st, posted := n } }
    fired := fired
    postings := postings }

theorem Bells.frame_marked (b : Bells) (i : Nat) (st : EntryState) (n : Option Nat) (l : List FiredKey) (k : Nat) :
    (b.marked i st n l k).frame = b.frame := by
  have h : (b.timeline.entries.modify i fun e => { e with state := st, posted := n }).map (·.entry) =
      b.timeline.entries.map (·.entry) := by
    refine List.ext_getElem? fun j => ?_
    simp only [List.getElem?_map, List.getElem?_modify]
    cases b.timeline.entries[j]? <;> simp [apply_ite TimelineEntry.entry]
  simp only [Bells.frame, Bells.marked, h]

/-- A marked entry is marked again. -/
theorem Bells.marked_marked (b : Bells) (i : Nat) (st st' : EntryState) (n n' : Option Nat) (l l' : List FiredKey) (k k' : Nat) :
    (b.marked i st n l k).marked i st' n' l' k' = b.marked i st' n' l' k' := by
  simp only [Bells.marked, List.modify_modify_eq, Function.comp_def]

theorem Bells.marked_entry {b : Bells} {i : Nat} {e : TimelineEntry} (he : b.timeline.entries[i]? = some e) (st : EntryState)
    (n : Option Nat) (l : List FiredKey) (k : Nat) :
    (b.marked i st n l k).timeline.entries[i]? = some { e with state := st, posted := n } := by
  simp [Bells.marked, he]

theorem Bells.marked_entry_ne (b : Bells) {i j : Nat} (h : i ≠ j) (st : EntryState) (n : Option Nat) (l : List FiredKey) (k : Nat) :
    (b.marked i st n l k).timeline.entries[j]? = b.timeline.entries[j]? := by
  simp [Bells.marked, h]

/-- A WAITING entry that is taken frees the place that its key takes. -/
theorem Bells.load_marked {b : Bells} {i : Nat} {e : TimelineEntry} (he : b.timeline.entries[i]? = some e)
    (hw : e.state = .waiting) {st : EntryState} (hst : st ≠ .waiting) (n : Option Nat) {l : List FiredKey}
    (hl : l.length ≤ b.fired.length + 1) (k : Nat) : (b.marked i st n l k).load ≤ b.load := by
  obtain ⟨hi, rfl⟩ := List.getElem?_eq_some_iff.mp he
  have hpos : 0 < b.timeline.entries.countP (·.state == .waiting) :=
    List.countP_pos_iff.mpr ⟨_, List.getElem_mem hi, by simp [hw]⟩
  have hst' : (st == .waiting) = false := by simpa using hst
  simp only [Bells.load, Bells.marked, List.modify_eq_set_get _ hi, List.countP_set hi, List.get_eq_getElem, hw, hst',
    beq_self_eq_true, if_true, Bool.false_eq_true, if_false]
  omega

/-! ### One entry fires -/

/-- What taking entry `i` makes of the scheduler: it waits no more, and at most one key has come into the fired record. -/
def Bells.takes (b c : Bells) (i : Nat) (st : EntryState) : Prop :=
  ∃ n l k, c = b.marked i st n l k ∧ st ≠ .waiting ∧ l.length ≤ b.fired.length + 1

theorem Part.bell_postBells (p : Part) (zs : List Nat) (c : BellClaim) : (p.postBells zs c).1.bell = p.bell := by
  unfold Part.postBells
  generalize (⟨0, 0, 0⟩ : Posted) = n
  induction zs generalizing p n with
  | nil => rfl
  | cons z zs ih =>
    obtain ⟨-, -, -, -, hbell, -⟩ := Part.core_fields (Part.core_postBell p z c)
    exact (ih _ _).trans hbell

/-- The drop of an entry's posting leaves the scheduler, or marks the entry MISSED, here and in the fired record (R30). -/
theorem Part.bell_takeDrop (p : Part) (plan i build : Nat) (d : Dropped) :
    (p.takeDrop (.entry plan i build) d).bell = p.bell ∨ ∃ n l, l.length = p.bell.fired.length ∧
      (p.takeDrop (.entry plan i build) d).bell = p.bell.marked i .missed n l p.bell.postings := by
  unfold Part.takeDrop; dsimp only
  split
  · exact .inl rfl
  · split
    · split
      · exact .inr ⟨_, _, List.length_map _, rfl⟩
      · exact .inl rfl
    · exact .inl rfl

/-- An entry is rung: it ends FIRED, or MISSED where its latest start comes at once (R29, R48). -/
theorem Part.bell_ring (p : Part) (zs : List Nat) (x y plan i build : Nat) {report : Part → Posted → Part}
    (hnow : ∀ q c, (report q c).now = q.now)
    (hbell : ∀ q c, ∃ n, (report q c).bell = q.bell.marked i .fired n q.bell.fired q.bell.postings) :
    ∃ st n l k, (p.ring zs x y (.entry plan i build) report).1.bell = p.bell.marked i st n l k ∧ st ≠ .waiting ∧
      l.length = p.bell.fired.length ∧ (0 < p.bell.grace → st = .fired) := by
  unfold Part.ring; dsimp only
  generalize hp' : ({ p with bell := { p.bell with postings := p.bell.postings + 1 } } : Part) = p'
  generalize (⟨.pending, x, y, none, _, _, false, _⟩ : BellClaim) = claim
  have hbell' := Part.bell_postBells p' zs claim
  have hnow' : (p'.postBells zs claim).1.now = p'.now := congrArg Prod.fst (Part.offBells_postBells p' zs claim)
  generalize p'.postBells zs claim = r at hbell' hnow' ⊢
  obtain ⟨n, hreport⟩ := hbell r.1 r.2
  subst hp'
  rw [hbell'] at hreport
  split
  next hlatest =>
    have hgrace : ¬ 0 < p.bell.grace := by
      rw [hnow, hnow'] at hlatest
      simp only [Part.inSeconds, unitsPerSecond] at hlatest
      omega
    obtain ⟨-, -, -, -, hdrop, -⟩ := Part.core_fields (Part.core_dropPosting (report r.1 r.2) p.bell.postings)
    rw [hreport] at hdrop
    unfold Part.reachLatest; dsimp only
    rcases Part.bell_takeDrop ((report r.1 r.2).dropPosting p.bell.postings).1 plan i build
      ((report r.1 r.2).dropPosting p.bell.postings).2 with h | ⟨m, l, hl, h⟩
    · exact ⟨.fired, _, _, _, h.trans hdrop, by decide, rfl, fun _ => rfl⟩
    · rw [hdrop] at h hl
      exact ⟨.missed, _, _, _, h.trans (Bells.marked_marked _ _ _ _ _ _ _ _ _ _), by decide, hl, fun h => absurd h hgrace⟩
  next => exact ⟨.fired, _, _, _, hreport, by decide, rfl, fun _ => rfl⟩

/-- An entry that is taken ends FIRED or MISSED; it ends FIRED where the grace leaves it time and the record has room (R27,
R29, R48). -/
theorem Part.takes_fireEntry {p : Part} {i : Nat} {e : TimelineEntry} (he : p.entryAt i = some e) (late : Bool) :
    ∃ st, p.bell.takes (p.fireEntry i late).1.bell i st ∧ (0 < p.bell.grace → p.bell.fired.length < 480 → st = .fired) := by
  unfold Part.fireEntry
  simp only [he]
  split
  next hfull =>
    exact ⟨.missed, ⟨none, p.bell.fired, p.bell.postings, rfl, by decide, by omega⟩, fun _ h => absurd hfull (by omega)⟩
  next =>
    obtain ⟨st, n, l, k, hbell, hst, hl, hgrace⟩ := Part.bell_ring
      { p with bell := { p.bell with fired := p.bell.fired ++ [FiredKey.mk e.entry.time e.entry.group false] } }
      (p.groupZones e.entry.group) e.entry.pattern e.entry.duration (p.bell.timeline.plan.getD 0) i p.bell.timeline.build
      (report := fun q c => (q.setEntry i .fired (some (c.sounding + c.pending))).note
          (.bellFired (if late then some q.campus else none) (p.bell.timeline.plan.getD 0) i p.bell.timeline.build e.entry
            c.sounding c.pending c.refused)) (fun _ _ => rfl) (fun _ _ => ⟨_, rfl⟩)
    exact ⟨st, ⟨n, l, k, hbell, hst, by simp [hl]⟩, fun h _ => hgrace h⟩

/-! ### Walks over entries -/

/-- What may become of a WAITING entry that is taken at a time of day: MISSED beyond the catch-up window, and within it FIRED
where the grace leaves it time and the record has room (R27, R29, R31, R32). -/
def Bells.outcome (b : Bells) (t : Nat) (e e' : TimelineEntry) : Prop :=
  (b.catchUp * 10 < t - e.entry.moment → e' = { e with state := .missed, posted := none }) ∧
  (t - e.entry.moment ≤ b.catchUp * 10 → 0 < b.grace → b.load ≤ 480 → e'.state = .fired)

/-- The fields of a frame that an outcome depends on. -/
theorem Bells.frame_fields {b c : Bells} (h : c.frame = b.frame) : c.plans = b.plans ∧ c.grace = b.grace ∧ c.catchUp = b.catchUp ∧
    c.furthest = b.furthest ∧ c.timeline.date = b.timeline.date ∧ c.timeline.plan = b.timeline.plan ∧
    c.timeline.build = b.timeline.build ∧ c.timeline.entries.map (·.entry) = b.timeline.entries.map (·.entry) := by
  simp only [Bells.frame, Prod.mk.injEq] at h
  obtain ⟨-, h1, h2, h3, h4, h5, h6, h7, h8⟩ := h
  exact ⟨h1, h2, h3, h4, h5, h6, h7, h8⟩

/-- An outcome that is allowed later in a walk is allowed at its beginning. -/
theorem Bells.outcome.mono {b c : Bells} {t : Nat} {e e' : TimelineEntry} (h : c.outcome t e e') (hframe : c.frame = b.frame)
    (hload : c.load ≤ b.load) : b.outcome t e e' := by
  obtain ⟨-, hgrace, hcatch, -⟩ := Bells.frame_fields hframe
  obtain ⟨hmissed, hfired⟩ := h
  rw [hcatch] at hmissed hfired
  rw [hgrace] at hfired
  exact ⟨hmissed, fun h1 h2 h3 => hfired h1 h2 (hload.trans h3)⟩

/-- From `b` to `c` the entries of a list of indices have been taken at a time of day, and no others. -/
def Bells.walkedOver (b c : Bells) (t : Nat) (l : List Nat) : Prop :=
  c.frame = b.frame ∧ c.load ≤ b.load ∧ (∀ i, i ∉ l → c.timeline.entries[i]? = b.timeline.entries[i]?) ∧
  ∀ i ∈ l, ∀ e, b.timeline.entries[i]? = some e → ∃ e', c.timeline.entries[i]? = some e' ∧ b.outcome t e e'

theorem Bells.walkedOver_refl (b : Bells) (t : Nat) : b.walkedOver b t [] :=
  ⟨rfl, le_rfl, fun _ _ => rfl, fun _ h => absurd h List.not_mem_nil⟩

/-- A walk that takes an entry and goes on over others. -/
theorem Bells.walkedOver_cons {b c d : Bells} {t i : Nat} {l : List Nat} (h : b.walkedOver c t [i])
    (h' : c.walkedOver d t l) (hi : i ∉ l) : b.walkedOver d t (i :: l) := by
  obtain ⟨hframe, hload, hsame, hout⟩ := h
  obtain ⟨hframe', hload', hsame', hout'⟩ := h'
  refine ⟨hframe'.trans hframe, hload'.trans hload, fun j hj => ?_, fun j hj e he => ?_⟩
  · simp only [List.mem_cons, not_or] at hj
    exact (hsame' j hj.2).trans (hsame j (by simp [hj.1]))
  · rcases List.mem_cons.mp hj with rfl | hj
    · rw [hsame' _ hi]
      exact hout j (by simp) e he
    · have hne : j ≠ i := fun heq => hi (heq ▸ hj)
      obtain ⟨e', he', ho⟩ := hout' j hj e ((hsame j (by simp [hne])).trans he)
      exact ⟨e', he', ho.mono hframe hload⟩

/-- Taking one WAITING entry is a walk over it. -/
theorem Bells.walkedOver_of_takes {b c : Bells} {i t : Nat} {e : TimelineEntry} {st : EntryState}
    (he : b.timeline.entries[i]? = some e) (hw : e.state = .waiting) (h : b.takes c i st)
    (hout : ∀ n, b.outcome t e { e with state := st, posted := n }) : b.walkedOver c t [i] := by
  obtain ⟨n, l, k, rfl, hst, hl⟩ := h
  refine ⟨b.frame_marked _ _ _ _ _, Bells.load_marked he hw hst _ hl _, fun j hj => ?_, fun j hj e' he' => ?_⟩
  · exact b.marked_entry_ne (fun h => hj (by simp [h])) _ _ _ _
  · obtain rfl := List.mem_singleton.mp hj
    obtain rfl := Option.some.inj (he.symm.trans he')
    exact ⟨_, Bells.marked_entry he _ _ _ _, hout n⟩

/-- A WAITING entry within the catch-up window fires, as far as grace and record allow. -/
theorem Part.walkedOver_fireEntry {p : Part} {i t : Nat} {e : TimelineEntry} (he : p.entryAt i = some e)
    (hw : e.state = .waiting) (ht : t - e.entry.moment ≤ p.bell.catchUp * 10) (late : Bool) :
    p.bell.walkedOver (p.fireEntry i late).1.bell t [i] := by
  obtain ⟨st, htakes, hfired⟩ := Part.takes_fireEntry he late
  refine Bells.walkedOver_of_takes he hw htakes fun n => ⟨fun h => absurd h (by omega), fun _ hgrace hload => ?_⟩
  refine hfired hgrace ?_
  have hpos : 0 < p.bell.timeline.entries.countP (·.state == .waiting) :=
    List.countP_pos_iff.mpr ⟨e, List.mem_of_getElem? he, by simp [hw]⟩
  unfold Bells.load at hload
  omega

/-- A WAITING entry beyond the catch-up window becomes MISSED. -/
theorem Part.walkedOver_setEntry {p : Part} {i t : Nat} {e : TimelineEntry} (he : p.entryAt i = some e)
    (hw : e.state = .waiting) (ht : ¬ t - e.entry.moment ≤ p.bell.catchUp * 10) :
    p.bell.walkedOver (p.setEntry i .missed none).bell t [i] :=
  ⟨p.bell.frame_marked i .missed none p.bell.fired p.bell.postings,
    Bells.load_marked (st := .missed) he hw (by decide) none (Nat.le_succ _) p.bell.postings,
    fun j hj => p.bell.marked_entry_ne (fun h => hj (by simp [h])) .missed none p.bell.fired p.bell.postings,
    fun j hj e' he' => by
      obtain rfl := List.mem_singleton.mp hj
      obtain rfl := Option.some.inj (he.symm.trans he')
      exact ⟨_, Bells.marked_entry he .missed none p.bell.fired p.bell.postings, fun _ => rfl, fun h => absurd h ht⟩⟩

/-- A walk whose steps each take a WAITING entry that `g` selects. -/
theorem Part.walkedOver_each {f : Part → Nat → Part} {g : Nat → Bool} {t : Nat}
    (hf : ∀ (p : Part) (i : Nat) (e : TimelineEntry), p.entryAt i = some e → e.state = .waiting → g e.entry.moment = true →
      p.bell.walkedOver (f p i).bell t [i]) (l : List Nat) : ∀ p : Part, l.Nodup →
    (∀ i ∈ l, ∃ e, p.entryAt i = some e ∧ e.state = .waiting ∧ g e.entry.moment = true) →
    p.bell.walkedOver (p.each l f).bell t l := by
  induction l with
  | nil => exact fun p _ _ => p.bell.walkedOver_refl t
  | cons i l ih =>
    intro p hnodup hsel
    obtain ⟨hi, hnodup⟩ := List.nodup_cons.mp hnodup
    obtain ⟨e, he, hw, hg⟩ := hsel i (by simp)
    have hstep := hf p i e he hw hg
    obtain ⟨-, -, hsame, -⟩ := hstep
    refine Bells.walkedOver_cons (hf p i e he hw hg) (ih (f p i) hnodup fun j hj => ?_) hi
    have hne : j ≠ i := fun heq => hi (heq ▸ hj)
    obtain ⟨e', he', hrest⟩ := hsel j (by simp [hj])
    exact ⟨e', (hsame j (by simp [hne])).trans he', hrest⟩

theorem Part.mem_waitingEntries {p : Part} {g : Nat → Bool} {i : Nat} : i ∈ p.waitingEntries g ↔
    ∃ e, p.entryAt i = some e ∧ e.state = .waiting ∧ g e.entry.moment = true := by
  simp only [Part.waitingEntries, upTo, List.mem_filter, List.mem_range, Option.any_eq_true, Bool.and_eq_true, beq_iff_eq]
  refine ⟨fun ⟨_, h⟩ => h, fun h => ⟨?_, h⟩⟩
  obtain ⟨e, he, -⟩ := h
  exact (List.getElem?_eq_some_iff.mp he).1

theorem Part.waitingEntries_nodup (p : Part) (g : Nat → Bool) : (p.waitingEntries g).Nodup := List.nodup_range.filter _

/-- From `b` to `c` the WAITING entries that `sel` selects have been taken at a time of day, and no others. -/
def Bells.walked (b c : Bells) (t : Nat) (sel : Nat → Prop) : Prop :=
  c.frame = b.frame ∧ c.load ≤ b.load ∧ ∀ (i : Nat) (e : TimelineEntry), b.timeline.entries[i]? = some e →
    ∃ e', c.timeline.entries[i]? = some e' ∧ e'.entry = e.entry ∧ (¬ (e.state = .waiting ∧ sel e.entry.moment) → e' = e) ∧
    (e.state = .waiting → sel e.entry.moment → b.outcome t e e')

theorem Bells.walked_refl (b : Bells) (t : Nat) : b.walked b t fun _ => False :=
  ⟨rfl, le_rfl, fun _ e he => ⟨e, he, rfl, fun _ => rfl, fun _ h => False.elim h⟩⟩

theorem Bells.walked.congr {b c : Bells} {t : Nat} {sel sel' : Nat → Prop} (h : b.walked c t sel) (hsel : ∀ m, sel m ↔ sel' m) :
    b.walked c t sel' := by
  obtain rfl : sel = sel' := funext fun m => propext (hsel m)
  exact h

/-- A walk over the WAITING entries that `g` selects. -/
theorem Part.walked_of_over {p : Part} {c : Bells} {t : Nat} {g : Nat → Bool}
    (h : p.bell.walkedOver c t (p.waitingEntries g)) : p.bell.walked c t fun m => g m = true := by
  obtain ⟨hframe, hload, hsame, hout⟩ := h
  refine ⟨hframe, hload, fun i e he => ?_⟩
  obtain ⟨-, -, -, -, -, -, -, hentries⟩ := Bells.frame_fields hframe
  have hmap := congrArg (fun l => l[i]?) hentries
  simp only [List.getElem?_map, he, Option.map_some, Option.map_eq_some_iff] at hmap
  obtain ⟨e', he', hentry⟩ := hmap
  refine ⟨e', he', hentry, fun hn => ?_, fun hw hg => ?_⟩
  · have hi : i ∉ p.waitingEntries g := fun hi => by
      obtain ⟨e₁, he₁, hsel⟩ := Part.mem_waitingEntries.mp hi
      obtain rfl := Option.some.inj (he.symm.trans he₁)
      exact hn hsel
    exact Option.some.inj (he'.symm.trans ((hsame i hi).trans he))
  · obtain ⟨e₁, he₁, ho⟩ := hout i (Part.mem_waitingEntries.mpr ⟨e, he, hw, hg⟩) e he
    obtain rfl := Option.some.inj (he'.symm.trans he₁)
    exact ho

/-- What reaching the present campus time makes of the timeline (R29). -/
theorem Part.walked_reachEntries (p : Part) : p.bell.walked p.reachEntries.bell p.backup.tod fun m =>
    p.isSet = true ∧ p.bell.timeline.date = some p.backup.day ∧ m = p.backup.tod := by
  unfold Part.reachEntries
  split
  next h =>
    simp only [Bool.and_eq_true, beq_iff_eq] at h
    refine (Part.walked_of_over (Part.walkedOver_each (fun q i e he hw hg => ?_) _ p (p.waitingEntries_nodup _)
      fun i hi => Part.mem_waitingEntries.mp hi)).congr fun m => by simp [h]
    exact Part.walkedOver_fireEntry he hw (by rw [beq_iff_eq.mp hg]; omega) false
  next h =>
    simp only [Bool.and_eq_true, beq_iff_eq] at h
    exact (p.bell.walked_refl _).congr fun m => ⟨False.elim, fun hm => h ⟨hm.1, hm.2.1⟩⟩

/-- One skipped entry is taken. -/
def Part.skipEntry (t : Nat) (p : Part) (i : Nat) : Part :=
  match p.entryAt i with
  | none => p
  | some e => if t - e.entry.moment ≤ p.bell.catchUp * 10 then (p.fireEntry i true).1 else p.setEntry i .missed none

theorem Part.skipEntries_eq (l : List Nat) (t : Nat) (p : Part) : (p.skipEntries l t).1 = p.each l (Part.skipEntry t) := by
  refine (List.foldl_hom (g₂ := Part.skipEntry t) (init := (p, 0, 0)) Prod.fst fun acc i => ?_).symm
  cases he : acc.1.entryAt i with
  | none => simp only [Part.skipEntry, he]
  | some e =>
    simp only [Part.skipEntry, he]
    split
    · split <;> rfl
    · rfl

/-- What skipping entries makes of the timeline (R31, R32). -/
theorem Part.walked_skipEntries (p : Part) (g : Nat → Bool) (t : Nat) :
    p.bell.walked (p.skipEntries (p.waitingEntries g) t).1.bell t fun m => g m = true := by
  rw [Part.skipEntries_eq]
  refine Part.walked_of_over (Part.walkedOver_each (fun q i e he hw _ => ?_) _ p (p.waitingEntries_nodup _)
    fun i hi => Part.mem_waitingEntries.mp hi)
  simp only [Part.skipEntry, he]
  split
  next h => exact Part.walkedOver_fireEntry he hw h true
  next h => exact Part.walkedOver_setEntry he hw h

end Sys2Proof.Machine
end

section
/-! SUPPORT. The timeline after a jump of campus time (R31 to R34). -/

namespace Sys2Proof.Machine

/-! ### The parts of a jump -/

/-- The build rule reads the furthest date, the fired record and the build number alone (R26). -/
theorem Bells.builds_congr {b b' c : Bells} (hfurthest : b'.furthest = b.furthest) (hfired : b'.fired = b.fired)
    (hbuild : b'.timeline.build = b.timeline.build) {day t : Nat} {plan : Option Nat} {es : List BellEntry}
    (h : b'.builds c day t plan es) : b.builds c day t plan es := by
  unfold Bells.builds at h ⊢
  rwa [hfurthest, hfired, hbuild] at h

/-- Entries marked leave the frame and the fired record. -/
theorem Part.frame_eachEntry (st : EntryState) (n : Option Nat) (l : List Nat) : ∀ p : Part,
    (p.each l fun q i => q.setEntry i st n).bell.frame = p.bell.frame ∧
    (p.each l fun q i => q.setEntry i st n).bell.fired = p.bell.fired := by
  induction l with
  | nil => exact fun p => ⟨rfl, rfl⟩
  | cons i l ih =>
    intro p
    obtain ⟨hframe, hfired⟩ := ih (p.setEntry i st n)
    exact ⟨hframe.trans (p.bell.frame_marked i st n p.bell.fired p.bell.postings), hfired⟩

/-- A timeline has been built that a jump goes on with (R26, R33, R34). -/
def Part.rebuilt (p q : Part) (day t : Nat) (plan : Option Nat) : Prop :=
  q.offBells = p.offBells ∧ q.bell.grace = p.bell.grace ∧ q.bell.catchUp = p.bell.catchUp ∧
  p.bell.builds q.bell day t plan (plan.elim [] p.plan)

theorem Part.rebuilt_buildTimeline (p : Part) (day t : Nat) (plan : Option Nat) :
    p.rebuilt (p.buildTimeline day plan t) day t plan := ⟨rfl, rfl, rfl, p.builds_buildTimeline day plan t⟩

/-- A build of a part whose entries have been marked. -/
theorem Part.rebuilt_marked {p p' q : Part} {day t : Nat} {plan : Option Nat} (hoff : p'.offBells = p.offBells)
    (hframe : p'.bell.frame = p.bell.frame) (hfired : p'.bell.fired = p.bell.fired) (h : p'.rebuilt q day t plan) :
    p.rebuilt q day t plan := by
  obtain ⟨hplans, hgrace, hcatch, hfurthest, -, -, hbuild, -⟩ := Bells.frame_fields hframe
  obtain ⟨qoff, qgrace, qcatch, hbuilds⟩ := h
  rw [Part.plan_congr hplans] at hbuilds
  exact ⟨qoff.trans hoff, qgrace.trans hgrace, qcatch.trans hcatch, Bells.builds_congr hfurthest hfired hbuild hbuilds⟩

/-- A jump within a date: the entries passed are skipped, then the one at the new time is reached (R31). -/
theorem Part.bellJump_same (p : Part) {old new : CampusTime} (hday : old.day = new.day) (plan : Option Nat) :
    ∃ q : Part, q.offBells = p.offBells ∧ p.bell.walked q.bell new.tod (fun m => old.tod < m ∧ m < new.tod) ∧
      p.bellJump old new plan = q.reachEntries := by
  unfold Part.bellJump; dsimp only
  rw [if_pos hday]
  by_cases htod : old.tod < new.tod
  · rw [if_pos htod]
    have hwalk := (p.walked_skipEntries (fun m => decide (old.tod < m) && decide (m < new.tod)) new.tod).congr
      (sel' := fun m => old.tod < m ∧ m < new.tod) fun m => by simp
    refine ⟨_, ?_, ?_, rfl⟩
    · split
      · simp
      · simp
    · split
      · exact hwalk
      · exact hwalk
  · rw [if_neg htod]
    exact ⟨p, rfl, (p.bell.walked_refl _).congr fun m => ⟨False.elim, fun h => htod (h.1.trans h.2)⟩, rfl⟩

/-- A jump to a date later than every other: the new timeline is built for the start of its date, the entries ahead of the
new time are skipped, then the one at the new time is reached (R33). -/
theorem Part.bellJump_later (p : Part) {old new : CampusTime} (hday : old.day < new.day)
    (hfresh : p.bell.furthest.all (· < new.day) = true) (plan : Option Nat) :
    ∃ q r : Part, p.rebuilt q new.day 0 plan ∧ r.offBells = p.offBells ∧ q.bell.walked r.bell new.tod (· < new.tod) ∧
      p.bellJump old new plan = r.reachEntries := by
  unfold Part.bellJump; dsimp only
  rw [if_neg (by omega), if_pos hday]
  obtain ⟨hframe, hfired⟩ := Part.frame_eachEntry .missed none (p.waitingEntries fun _ => true) p
  have hoff := p.offBells_eachEntry (p.waitingEntries fun _ => true) .missed none
  generalize (p.each (p.waitingEntries fun _ => true) fun q i => q.setEntry i .missed none) = p' at hframe hfired hoff ⊢
  have hfurthest : p'.bell.furthest = p.bell.furthest := by
    obtain ⟨-, -, -, h, -⟩ := Bells.frame_fields hframe
    exact h
  rw [hfurthest, if_pos hfresh]
  have hq := Part.rebuilt_marked hoff hframe hfired (p'.rebuilt_buildTimeline new.day 0 plan)
  have hwalk := ((p'.buildTimeline new.day plan 0).walked_skipEntries (fun m => decide (m < new.tod)) new.tod).congr
    (sel' := (· < new.tod)) fun m => by simp
  obtain ⟨qoff, -⟩ := id hq
  refine ⟨_, _, hq, ?_, ?_, rfl⟩
  · split
    · exact (Part.offBells_skipEntries _ _ _).trans qoff
    · exact (Part.offBells_skipEntries _ _ _).trans qoff
  · split
    · exact hwalk
    · exact hwalk

/-- Any other jump to another date: the new timeline is built for the new time, and the entry there is reached (R34). -/
theorem Part.bellJump_back (p : Part) {old new : CampusTime} (hday : old.day ≠ new.day)
    (hfresh : ¬ (old.day < new.day ∧ p.bell.furthest.all (· < new.day) = true)) (plan : Option Nat) :
    ∃ q : Part, p.rebuilt q new.day new.tod plan ∧ p.bellJump old new plan = q.reachEntries := by
  unfold Part.bellJump; dsimp only
  rw [if_neg hday]
  by_cases hlater : old.day < new.day
  · rw [if_pos hlater]
    obtain ⟨hframe, hfired⟩ := Part.frame_eachEntry .missed none (p.waitingEntries fun _ => true) p
    have hoff := p.offBells_eachEntry (p.waitingEntries fun _ => true) .missed none
    generalize (p.each (p.waitingEntries fun _ => true) fun q i => q.setEntry i .missed none) = p' at hframe hfired hoff ⊢
    have hfurthest : p'.bell.furthest = p.bell.furthest := by
      obtain ⟨-, -, -, h, -⟩ := Bells.frame_fields hframe
      exact h
    rw [hfurthest, if_neg fun h => hfresh ⟨hlater, h⟩]
    have hq := Part.rebuilt_marked hoff hframe hfired (p'.rebuilt_buildTimeline new.day new.tod plan)
    refine ⟨_, ?_, rfl⟩
    split
    · exact hq
    · exact hq
  · rw [if_neg hlater]
    exact ⟨_, p.rebuilt_buildTimeline new.day new.tod plan, rfl⟩

/-! ### The timeline after a jump -/

/-- What reaching a campus time makes of the timeline of its date (R29). -/
theorem Part.walked_reachAt {p : Part} {new : CampusTime} (hset : p.time.quality = .set) (hcampus : p.campus = new) :
    p.bell.walked p.reachEntries.bell new.tod fun m => p.bell.timeline.date = some new.day ∧ m = new.tod := by
  subst hcampus
  exact p.walked_reachEntries.congr fun m => by rw [Part.isSet_of_set hset]; exact ⟨fun h => h.2, fun h => ⟨rfl, h⟩⟩

/-- The bell scheduler's turn in a jump: the entries at the old time have been reached, and campus time has moved (R4). -/
theorem Part.bell_jumpTo {p : Part} (hset : p.time.quality = .set) (new : CampusTime)
    (cause : CampusTime → Int → Nat → TimeCause) : ∃ q : Part, q.bell = p.reachEntries.bell ∧ q.campus = new ∧
      q.time.quality = .set ∧
      (p.jumpTo new cause).bell = (q.bellJump p.campus new (p.jumped new).selection.plan).bell := by
  have hcore := Part.core_jumpCalendar hset new cause
  have hbell : p.arrive.bell = p.reachEntries.bell := by
    have h := Part.offDrill_reachScheduled p.reachEntries
    simp only [Part.offDrill, Prod.mk.injEq] at h
    obtain ⟨-, -, -, -, h, -⟩ := h
    exact h
  have hclock : (p.jumpTo new cause).clock =
      ((p.jumpCalendar new cause).bellJump p.campus new (p.jumpCalendar new cause).cal.selection.plan).clock := by
    rw [Part.jumpTo_eq, Part.clock_evaluateCircuits, Part.clock_scheduleJump]
  generalize p.jumpCalendar new cause = q at hcore hclock
  obtain ⟨-, qbackup, qtime, qcal, qbell, -⟩ := Part.core_fields hcore
  rw [qcal] at hclock
  simp only [Part.clock, Prod.mk.injEq] at hclock
  obtain ⟨-, -, -, -, -, -, hclock⟩ := hclock
  exact ⟨q, qbell.trans hbell, by rw [Part.campus, qbackup], by rw [qtime]; exact hset, hclock⟩

/-- What a part away from the bells' turn still knows of campus time. -/
theorem Part.campus_of_offBells {p q : Part} (h : q.offBells = p.offBells) : q.campus = p.campus ∧
    q.time.quality = p.time.quality := by
  obtain ⟨-, hcampus, -, htime, -⟩ := Part.watch_fields (Part.watch_of_offBells h)
  exact ⟨hcampus, by rw [htime]⟩

/-- An entry that a walk does not take stays. -/
theorem Bells.walked.entry {b c : Bells} {t : Nat} {sel : Nat → Prop} (h : b.walked c t sel) {i : Nat} {e : TimelineEntry}
    (he : b.timeline.entries[i]? = some e) : ∃ e', c.timeline.entries[i]? = some e' ∧ e'.entry = e.entry ∧
      (¬ (e.state = .waiting ∧ sel e.entry.moment) → e' = e) ∧
      (e.state = .waiting → sel e.entry.moment → b.outcome t e e') := h.2.2 i e he

/-- Each entry after a walk comes from one before it. -/
theorem Bells.walked.origin {b c : Bells} {t : Nat} {sel : Nat → Prop} (h : b.walked c t sel) {i : Nat} {x : TimelineEntry}
    (hx : c.timeline.entries[i]? = some x) : ∃ e, b.timeline.entries[i]? = some e ∧ x.entry = e.entry ∧
      (¬ (e.state = .waiting ∧ sel e.entry.moment) → x = e) ∧ (e.state = .waiting → sel e.entry.moment → b.outcome t e x) := by
  obtain ⟨hframe, -, hout⟩ := h
  obtain ⟨-, -, -, -, -, -, -, hentries⟩ := Bells.frame_fields hframe
  have hmap := congrArg (fun l => l[i]?) hentries
  simp only [List.getElem?_map, hx, Option.map_some] at hmap
  obtain ⟨e, he, -⟩ := Option.map_eq_some_iff.mp hmap.symm
  obtain ⟨e', he', hrest⟩ := hout i e he
  obtain rfl := Option.some.inj (he'.symm.trans hx)
  exact ⟨e, he, hrest⟩

theorem Bells.load_le (b : Bells) : b.load ≤ b.fired.length + b.timeline.entries.length :=
  Nat.add_le_add_left List.countP_le_length _

section
variable {p : Part} {new : CampusTime} (hset : p.time.quality = .set) (cause : CampusTime → Int → Nat → TimeCause)
include hset

/-- The walks of a jump within a date: the old time, the times passed, the new time. -/
theorem Part.jumpTo_walks (hday : p.backup.day = new.day) : ∃ b c : Bells,
    p.bell.walked b p.backup.tod (fun m => p.bell.timeline.date = some new.day ∧ m = p.backup.tod) ∧
    b.walked c new.tod (fun m => p.backup.tod < m ∧ m < new.tod) ∧
    c.walked (p.jumpTo new cause).bell new.tod (fun m => p.bell.timeline.date = some new.day ∧ m = new.tod) := by
  obtain ⟨q, qbell, qcampus, qset, hbell⟩ := Part.bell_jumpTo hset new cause
  obtain ⟨r, roff, hwalk, hjump⟩ := q.bellJump_same (old := p.campus) hday (p.jumped new).selection.plan
  obtain ⟨rcampus, rset⟩ := Part.campus_of_offBells roff
  have hfirst := Part.walked_reachAt hset (rfl : p.campus = p.campus)
  have hlast := Part.walked_reachAt (rset.trans qset) (rcampus.trans qcampus)
  rw [qbell] at hwalk
  rw [← hjump, ← hbell] at hlast
  obtain ⟨hframe, -⟩ := id hfirst
  obtain ⟨hframe', -⟩ := id hwalk
  obtain ⟨-, -, -, -, hdate, -⟩ := Bells.frame_fields (hframe'.trans hframe)
  rw [hdate] at hlast
  exact ⟨_, _, hday ▸ hfirst, hwalk, hlast⟩

/-- What a jump within a date makes of each entry (R29, R31, R32). -/
theorem Part.jumpTo_entries (hday : p.backup.day = new.day) (htod : p.backup.tod ≠ new.tod) {i : Nat} {e : TimelineEntry}
    (he : p.bell.timeline.entries[i]? = some e) :
    let m := e.entry.moment
    let room := 0 < p.bell.grace ∧ p.bell.fired.length + p.bell.timeline.entries.length ≤ 480
    ∃ e', (p.jumpTo new cause).bell.timeline.entries[i]? = some e' ∧ e'.entry = e.entry ∧
      (e.state ≠ .waiting ∨ (m ≠ p.backup.tod ∧ m ≠ new.tod ∧ (m < p.backup.tod ∨ new.tod < m)) → e' = e) ∧
      (e.state = .waiting → p.backup.tod < m → m < new.tod → p.bell.catchUp * 10 < new.tod - m →
        e' = { e with state := .missed, posted := none }) ∧
      (e.state = .waiting → p.backup.tod < m → m < new.tod → new.tod - m ≤ p.bell.catchUp * 10 → room → e'.state = .fired) ∧
      (e.state = .waiting → (m = p.backup.tod ∨ m = new.tod) → p.bell.timeline.date = some new.day → room →
        e'.state = .fired) := by
  intro m room
  obtain ⟨b, c, h1, h2, h3⟩ := Part.jumpTo_walks hset cause hday
  obtain ⟨e1, he1, hentry1, hsame1, hout1⟩ := h1.entry he
  obtain ⟨e2, he2, hentry2, hsame2, hout2⟩ := h2.entry he1
  obtain ⟨e3, he3, hentry3, hsame3, hout3⟩ := h3.entry he2
  have hm1 : e1.entry.moment = m := by rw [hentry1]
  have hm2 : e2.entry.moment = m := by rw [hentry2, hentry1]
  rw [hm1] at hsame2 hout2
  rw [hm2] at hsame3 hout3
  obtain ⟨hframe1, hload1, -⟩ := id h1
  obtain ⟨hframe2, hload2, -⟩ := id h2
  have hroom : room → 0 < p.bell.grace ∧ p.bell.load ≤ 480 := fun h => ⟨h.1, p.bell.load_le.trans h.2⟩
  have hpassed : e.state = .waiting → p.backup.tod < m → m < new.tod → p.bell.outcome new.tod e e3 := fun hw hlo hhi => by
    obtain rfl := hsame1 fun h => absurd h.2.2 (by omega)
    obtain rfl := hsame3 fun h => absurd h.2.2 (by omega)
    exact (hout2 hw ⟨hlo, hhi⟩).mono hframe1 hload1
  refine ⟨e3, he3, by rw [hentry3, hentry2, hentry1], fun h => ?_, fun hw hlo hhi hfar => (hpassed hw hlo hhi).1 hfar,
    fun hw hlo hhi hnear hr => (hpassed hw hlo hhi).2 hnear (hroom hr).1 (hroom hr).2, fun hw hm hdate hr => ?_⟩
  · have hno : e.state = .waiting → m ≠ p.backup.tod ∧ m ≠ new.tod ∧ ¬ (p.backup.tod < m ∧ m < new.tod) := fun hw => by
      rcases h with h | h
      · exact absurd hw h
      · omega
    obtain rfl := hsame1 fun h => (hno h.1).1 h.2.2
    obtain rfl := hsame2 fun h => (hno h.1).2.2 h.2
    exact hsame3 fun h => (hno h.1).2.1 h.2.2
  · rcases hm with hm | hm
    · have hfired : e1.state = .fired := (hout1 hw ⟨hdate, hm⟩).2 (by omega) (hroom hr).1 (hroom hr).2
      obtain rfl := hsame2 fun h => by simp [hfired] at h
      obtain rfl := hsame3 fun h => by simp [hfired] at h
      exact hfired
    · obtain rfl := hsame1 fun h => absurd h.2.2 (by omega)
      obtain rfl := hsame2 fun h => absurd h.2.2 (by omega)
      exact ((hout3 hw ⟨hdate, hm⟩).mono (hframe2.trans hframe1) (hload2.trans hload1)).2 (by omega) (hroom hr).1 (hroom hr).2

/-! ### Another date -/

/-- A jump to a date later than every other: a timeline built for the start of the date, a walk over what lies ahead of the
new time, and a walk over the new time (R33). -/
theorem Part.jumpTo_later (hday : p.backup.day < new.day) (hfresh : p.bell.furthest.all (· < new.day) = true) :
    ∃ b c : Bells, b.grace = p.bell.grace ∧ b.catchUp = p.bell.catchUp ∧
      p.reachEntries.bell.builds b new.day 0 (p.jumped new).selection.plan ((p.jumped new).selection.plan.elim [] p.plan) ∧
      b.walked c new.tod (· < new.tod) ∧ c.walked (p.jumpTo new cause).bell new.tod (· = new.tod) := by
  obtain ⟨q, qbell, qcampus, qset, hbell⟩ := Part.bell_jumpTo hset new cause
  obtain ⟨hframe, -⟩ := p.walked_reachEntries
  obtain ⟨hplans, hgrace, hcatch, hfurthest, -⟩ := Bells.frame_fields hframe
  rw [← qbell] at hplans hgrace hcatch hfurthest ⊢
  obtain ⟨r, r', ⟨roff, rgrace, rcatch, hbuilds⟩, roff', hwalk, hjump⟩ :=
    q.bellJump_later (old := p.campus) hday (by rw [hfurthest]; exact hfresh) (p.jumped new).selection.plan
  obtain ⟨rcampus, rset⟩ := Part.campus_of_offBells roff'
  have hlast := Part.walked_reachAt (rset.trans qset) (rcampus.trans qcampus)
  rw [← hjump, ← hbell] at hlast
  rw [Part.plan_congr hplans] at hbuilds
  obtain ⟨hdate, -⟩ := id hbuilds
  obtain ⟨hframe', -⟩ := id hwalk
  obtain ⟨-, -, -, -, hdate', -⟩ := Bells.frame_fields hframe'
  exact ⟨_, _, rgrace.trans hgrace, rcatch.trans hcatch, hbuilds, hwalk,
    hlast.congr fun m => ⟨fun h => h.2, fun h => ⟨hdate'.trans hdate, h⟩⟩⟩

/-- Any other jump to another date: a timeline built for the new time, whose entries there are then reached (R34). -/
theorem Part.jumpTo_back (hday : p.backup.day ≠ new.day)
    (hfresh : ¬ (p.backup.day < new.day ∧ p.bell.furthest.all (· < new.day) = true)) :
    ∃ q : Part, q.campus = new ∧ q.time.quality = .set ∧ q.bell.grace = p.bell.grace ∧ q.bell.catchUp = p.bell.catchUp ∧
      p.reachEntries.bell.builds q.bell new.day new.tod (p.jumped new).selection.plan
        ((p.jumped new).selection.plan.elim [] p.plan) ∧ (p.jumpTo new cause).bell = q.reachEntries.bell := by
  obtain ⟨q, qbell, qcampus, qset, hbell⟩ := Part.bell_jumpTo hset new cause
  obtain ⟨hframe, -⟩ := p.walked_reachEntries
  obtain ⟨hplans, hgrace, hcatch, hfurthest, -⟩ := Bells.frame_fields hframe
  rw [← qbell] at hplans hgrace hcatch hfurthest ⊢
  obtain ⟨r, ⟨roff, rgrace, rcatch, hbuilds⟩, hjump⟩ :=
    q.bellJump_back (old := p.campus) hday (by rw [hfurthest]; exact hfresh) (p.jumped new).selection.plan
  obtain ⟨rcampus, rset⟩ := Part.campus_of_offBells roff
  rw [Part.plan_congr hplans] at hbuilds
  exact ⟨r, rcampus.trans qcampus, rset.trans qset, rgrace.trans hgrace, rcatch.trans hcatch, hbuilds,
    hbell.trans (congrArg Part.bell hjump)⟩

/-- The timeline of the new date (R33, R34). -/
theorem Part.jumpTo_timeline (hday : p.backup.day ≠ new.day) :
    let t := (p.jumpTo new cause).bell.timeline
    let plan := (p.jumped new).selection.plan
    t.date = some new.day ∧ t.plan = plan ∧ t.build = (p.bell.timeline.build + 1) % 256 ∧
      t.entries.map (·.entry) = plan.elim [] p.plan := by
  intro t plan
  obtain ⟨hframe, -⟩ := p.walked_reachEntries
  obtain ⟨-, -, -, -, -, -, hbuild, -⟩ := Bells.frame_fields hframe
  have hbuilt : ∃ (b : Bells) (at' : Nat), p.reachEntries.bell.builds b new.day at' plan (plan.elim [] p.plan) ∧
      (p.jumpTo new cause).bell.frame = b.frame := by
    by_cases hlater : p.backup.day < new.day ∧ p.bell.furthest.all (· < new.day) = true
    · obtain ⟨b, c, -, -, hbuilds, ⟨hf1, -⟩, ⟨hf2, -⟩⟩ := Part.jumpTo_later hset cause hlater.1 hlater.2
      exact ⟨b, _, hbuilds, hf2.trans hf1⟩
    · obtain ⟨q, qcampus, qset, -, -, hbuilds, hbell⟩ := Part.jumpTo_back hset cause hday hlater
      obtain ⟨hf, -⟩ := Part.walked_reachAt qset qcampus
      exact ⟨q.bell, _, hbuilds, by rw [hbell]; exact hf⟩
  obtain ⟨b, at', ⟨h1, h2, h3, h4, -⟩, hf⟩ := hbuilt
  obtain ⟨-, -, -, -, f1, f2, f3, f4⟩ := Bells.frame_fields hf
  exact ⟨f1.trans h1, f2.trans h2, f3.trans (by rw [h3, hbuild]), f4.trans h4⟩

/-- The entries of a date later than every other (R33). -/
theorem Part.jumpTo_entries_later (hday : p.backup.day < new.day) (hfresh : p.bell.furthest.all (· < new.day) = true) :
    (p.jumpTo new cause).bell.furthest = some new.day ∧ ∀ x ∈ (p.jumpTo new cause).bell.timeline.entries,
      let m := x.entry.moment
      (new.tod < m → x.state = .waiting) ∧
      (m < new.tod → p.bell.catchUp * 10 < new.tod - m → x.state = .missed) ∧
      (m ≤ new.tod → new.tod - m ≤ p.bell.catchUp * 10 → 0 < p.bell.grace →
        (p.jumpTo new cause).bell.timeline.entries.length ≤ 480 → x.state = .fired) := by
  obtain ⟨b, c, hgrace, hcatch, hbuilds, h1, h2⟩ := Part.jumpTo_later hset cause hday hfresh
  obtain ⟨hframe, -⟩ := p.walked_reachEntries
  obtain ⟨-, -, -, hfurthest, -⟩ := Bells.frame_fields hframe
  rw [← hfurthest] at hfresh
  obtain ⟨-, -, -, -, hlater, -, hbuilt⟩ := hbuilds
  obtain ⟨bfurthest, bfired⟩ := hlater hfresh
  obtain ⟨hf1, hl1, -⟩ := id h1
  obtain ⟨hf2, -⟩ := id h2
  obtain ⟨-, -, -, ffurthest, -, -, -, fentries⟩ := Bells.frame_fields (hf2.trans hf1)
  refine ⟨ffurthest.trans bfurthest, fun x hx => ?_⟩
  obtain ⟨i, hx⟩ := List.getElem?_of_mem hx
  obtain ⟨e1, he1, hentry2, hsame2, hout2⟩ := h2.origin hx
  obtain ⟨e, he, hentry1, hsame1, hout1⟩ := h1.origin he1
  obtain ⟨-, hstate, -⟩ := hbuilt e (List.mem_of_getElem? he)
  have hw : e.state = .waiting := hstate hfresh
  have hm1 : e1.entry.moment = e.entry.moment := by rw [hentry1]
  have hm2 : x.entry.moment = e.entry.moment := by rw [hentry2, hentry1]
  rw [hm1] at hsame2 hout2
  rw [hm2]
  have hroom : (p.jumpTo new cause).bell.timeline.entries.length ≤ 480 → b.load ≤ 480 := fun hlen => by
    have hlen' := congrArg List.length fentries
    simp only [List.length_map] at hlen'
    have hle := b.load_le
    rw [bfired, ← hlen', List.length_nil, Nat.zero_add] at hle
    exact hle.trans hlen
  have hearlier : e.entry.moment < new.tod → b.outcome new.tod e x := fun hlt => by
    obtain rfl := hsame2 fun h => absurd h.2 (by omega)
    exact hout1 hw hlt
  refine ⟨fun hlt => ?_, fun hlt hfar => ?_, fun hle hnear hg hlen => ?_⟩
  · obtain rfl := hsame2 fun h => absurd h.2 (by omega)
    obtain rfl := hsame1 fun h => absurd h.2 (by omega)
    exact hw
  · rw [(hearlier hlt).1 (by rw [hcatch]; exact hfar)]
  · rcases Nat.lt_or_eq_of_le hle with hlt | heq
    · exact (hearlier hlt).2 (by rw [hcatch]; exact hnear) (hgrace ▸ hg) (hroom hlen)
    · obtain rfl := hsame1 fun h => absurd h.2 (by omega)
      exact ((hout2 hw heq).mono hf1 hl1).2 (by omega) (hgrace ▸ hg) (hroom hlen)

/-- The entries of a date that lies before the furthest one (R26, R34). -/
theorem Part.jumpTo_entries_before (hday : p.backup.day ≠ new.day) {f : Nat} (hfurthest : p.bell.furthest = some f)
    (hf : new.day < f) : (p.jumpTo new cause).bell.furthest = some f ∧
      ((∀ e ∈ p.bell.timeline.entries, e.state = .waiting → e.entry.moment ≠ p.backup.tod) →
        (p.jumpTo new cause).bell.fired = p.bell.fired) ∧
      ∀ x ∈ (p.jumpTo new cause).bell.timeline.entries, x.state = .passed := by
  have hold : ¬ p.bell.furthest.all (· < new.day) = true := by simpa [hfurthest] using Nat.le_of_lt hf
  obtain ⟨q, qcampus, qset, -, -, hbuilds, hbell⟩ := Part.jumpTo_back hset cause hday fun h => hold h.2
  obtain ⟨hframe, -⟩ := p.walked_reachEntries
  obtain ⟨-, -, -, hfurthest', -⟩ := Bells.frame_fields hframe
  obtain ⟨-, -, -, -, -, hearlier, hbuilt⟩ := hbuilds
  obtain ⟨bfurthest, bfired⟩ := hearlier (by rw [hfurthest']; simpa using hold)
  have hpassed : ∀ x ∈ q.bell.timeline.entries, x.state = .passed := fun x hx => by
    obtain ⟨-, -, -, hstate⟩ := hbuilt x hx
    exact hstate f (hfurthest'.trans hfurthest) hf
  have hreach : q.reachEntries = q := Part.reachEntries_none fun e he hw => by simp [hpassed e he] at hw
  rw [hbell, hreach]
  refine ⟨bfurthest.trans (hfurthest'.trans hfurthest), fun hnone => ?_, hpassed⟩
  rw [bfired, Part.reachEntries_none hnone]

/-- The entries of the furthest date itself (R26, R34). -/
theorem Part.jumpTo_entries_furthest (hday : p.backup.day ≠ new.day) (hfurthest : p.bell.furthest = some new.day)
    (hnone : ∀ e ∈ p.bell.timeline.entries, e.state = .waiting → e.entry.moment ≠ p.backup.tod) :
    (p.jumpTo new cause).bell.furthest = some new.day ∧ ∀ x ∈ (p.jumpTo new cause).bell.timeline.entries,
      let m := x.entry.moment
      let key := p.bell.fired.find? fun k => k.time == x.entry.time && k.group == x.entry.group
      (∀ k, key = some k → x.state = if k.missed then .missed else .fired) ∧
      (key = none → m < new.tod → x.state = .passed) ∧ (key = none → new.tod < m → x.state = .waiting) ∧
      (key = none → m = new.tod → 0 < p.bell.grace →
        p.bell.fired.length + (p.jumpTo new cause).bell.timeline.entries.length ≤ 480 → x.state = .fired) := by
  have hold : ¬ p.bell.furthest.all (· < new.day) = true := by simp [hfurthest]
  obtain ⟨q, qcampus, qset, hgrace, hcatch, hbuilds, hbell⟩ := Part.jumpTo_back hset cause hday fun h => hold h.2
  rw [Part.reachEntries_none hnone] at hbuilds
  obtain ⟨hdate, -, -, -, -, hearlier, hbuilt⟩ := hbuilds
  obtain ⟨bfurthest, bfired⟩ := hearlier (by simpa using hold)
  have hwalk := Part.walked_reachAt qset qcampus
  rw [← hbell] at hwalk
  obtain ⟨hframe, -⟩ := id hwalk
  obtain ⟨-, -, -, ffurthest, -, -, -, fentries⟩ := Bells.frame_fields hframe
  refine ⟨ffurthest.trans (bfurthest.trans hfurthest), fun x hx => ?_⟩
  obtain ⟨i, hx⟩ := List.getElem?_of_mem hx
  obtain ⟨e, he, hentry, hsame, hout⟩ := hwalk.origin hx
  obtain ⟨-, -, hstate, -⟩ := hbuilt e (List.mem_of_getElem? he)
  obtain ⟨hbyTime, hkey⟩ := hstate hfurthest
  rw [hentry]
  refine ⟨fun k hk => ?_, fun hk hlt => ?_, fun hk hlt => ?_, fun hk heq hg hlen => ?_⟩
  · have hs := hkey k hk
    obtain rfl := hsame fun h => by
      rw [hs] at h
      split at h <;> simp at h
    exact hs
  · obtain rfl := hsame fun h => absurd h.2.2 (by omega)
    exact (hbyTime hk).trans (if_pos hlt)
  · obtain rfl := hsame fun h => absurd h.2.2 (by omega)
    exact (hbyTime hk).trans (if_neg (Nat.not_lt.mpr (Nat.le_of_lt hlt)))
  · have hw : e.state = .waiting := (hbyTime hk).trans (if_neg (Nat.not_lt.mpr (Nat.le_of_eq heq.symm)))
    refine (hout hw ⟨hdate, heq⟩).2 (by omega) (hgrace ▸ hg) (q.bell.load_le.trans ?_)
    have hlen' := congrArg List.length fentries
    simp only [List.length_map] at hlen'
    rw [bfired, ← hlen']
    exact hlen

end

end Sys2Proof.Machine
end

section
/-! SUPPORT. TIME_SET (R3, R4). -/

namespace Sys2Proof.Machine

/-! ### Campus time set from UNSET -/

/-- The calendar when campus time is set (R4, R12, R15, R17). -/
def Part.calendarSet (p : Part) (new : CampusTime) : Calendar :=
  { p.cal with
    changes := passedChanges (fun m => decide (m ≤ new.total)) p.cal.changes
    selection := p.selectionFor new.day
    inside := (p.selectionFor new.day).quiet || inWindow p.cal.quietStart p.cal.quietEnd new.tod }

/-- The time-set event up to the bell scheduler's turn. -/
def Part.setCalendar (p : Part) (new : CampusTime) : Part :=
  let q := p.cancelTrim.moveTime new
  let q := { q with time := { q.time with quality := .set }, backup := { q.backup with valid := true } }
  let x := q.markDone fun m => m ≤ new.total
  ((x.1.noteTime (.set x.2)).selectDay 0).evaluateQuiet

theorem Part.setFromUnset_eq (p : Part) (new : CampusTime) : p.setFromUnset new =
    ((p.setCalendar new).bellTimeSet (p.setCalendar new).cal.selection.plan).scheduleSet.circuitsSet := rfl

theorem Part.core_setCalendar (p : Part) (new : CampusTime) : (p.setCalendar new).core =
    { p with
      backup := { p.backup with day := new.day, tod := new.tod, valid := true }
      time := ⟨.set, 0, false⟩
      cal := p.calendarSet new }.core := by
  unfold Part.setCalendar; dsimp only
  rw [Part.core_evaluateQuiet, Part.quietNow_of_set rfl, Part.markDone_eq]
  rfl

/-- What the calendar reports when campus time is set (R12, R17, R19). -/
theorem Part.says_setCalendar (p : Part) (new : CampusTime) : p.says (p.setCalendar new)
    ([.timeEvent (.set (p.cal.changes.filter fun c => !c.done && decide (c.moment.total ≤ new.total)).length) new .set,
      .timeEvent (.dayPlan new.day (p.selectionFor new.day) 0) new .set] ++
      quietNotices p.cal.inside (p.calendarSet new).inside p.cal.quietStart p.cal.quietEnd new .set) := by
  unfold Part.setCalendar; dsimp only
  rw [Part.markDone_eq]
  refine (((Part.says_noteTime _ _).trans (Part.says_selectDay _ 0)).trans (Part.says_evaluateQuiet _)).of_silent_congr rfl rfl ?_
  rw [Part.quietNow_of_set rfl]
  rfl

/-- The bell scheduler's build at a time-set event: a date other than the furthest starts afresh (R28). -/
theorem Part.builds_bellTimeSet (p : Part) (plan : Option Nat) :
    Bells.builds { p.bell with furthest := p.bell.furthest.filter (· == p.backup.day) } (p.bellTimeSet plan).bell
      p.backup.day p.backup.tod plan (plan.elim [] p.plan) := by
  unfold Part.bellTimeSet; dsimp only
  split
  next h =>
    have hfilter : p.bell.furthest.filter (· == p.backup.day) = p.bell.furthest := by
      rw [beq_iff_eq.mp h]
      simp
    rw [hfilter]
    exact p.builds_buildTimeline p.backup.day plan p.backup.tod
  next h =>
    have hfilter : p.bell.furthest.filter (· == p.backup.day) = none := by
      have hne : p.bell.furthest ≠ some p.backup.day := by simpa using h
      rw [Option.filter_eq_none_iff]
      intro f hf heq
      exact hne (by rw [hf, beq_iff_eq.mp heq])
    rw [hfilter]
    exact Part.builds_buildTimeline { p with bell := { p.bell with furthest := none } } p.backup.day plan p.backup.tod

/-- The scheduled drills that a condition on their moments selects become MISSED (R103). -/
def missedEntries (f : Nat → Bool) (l : List ScheduleEntry) : List ScheduleEntry :=
  l.map fun e => if e.state == .waiting && f e.moment.total then { e with state := .missed } else e

theorem missedEntries_eq (P : Nat → Prop) [DecidablePred P] (l : List ScheduleEntry) :
    missedEntries (fun m => decide (P m)) l =
      l.map fun e => if e.state = .waiting ∧ P e.moment.total then { e with state := .missed } else e := by
  simp [missedEntries]

theorem Part.schedule_missEntries (p : Part) (f : Nat → Bool) :
    (p.missEntries f).drill.schedule = missedEntries f p.drill.schedule := by
  unfold Part.missEntries; dsimp only
  split
  next h =>
    rw [List.isEmpty_iff, List.filter_eq_nil_iff] at h
    have hid : ∀ e ∈ p.drill.schedule,
        (if e.state == .waiting && f e.moment.total then { e with state := .missed } else e) = e :=
      fun e he => if_neg (h e he)
    rw [missedEntries, List.map_congr_left hid, List.map_id']
  next => rfl

/-! ### The scheduled drills -/

/-- The scheduled drills after a jump, where none was to be reached at the old time or at the new one (R103). -/
theorem Part.schedule_jumpTo {p : Part} (hset : p.time.quality = .set) (new : CampusTime)
    (cause : CampusTime → Int → Nat → TimeCause) (hnone : ∀ e ∈ p.drill.schedule, e.state = .waiting →
      e.moment.total ≠ p.campus.total ∧ e.moment.total ≠ new.total) : (p.jumpTo new cause).drill.schedule =
      missedEntries (fun m => decide (p.campus.total < m) && decide (m < new.total)) p.drill.schedule := by
  have hreach := Part.offBells_reachEntries p
  obtain ⟨rcampus, -⟩ := Part.campus_of_offBells hreach
  simp only [Part.offBells, Prod.mk.injEq] at hreach
  obtain ⟨-, -, -, -, rdrill, -⟩ := hreach
  have harrive : p.arrive = p.reachEntries := Part.reachScheduled_none fun e he hw heq => by
    rw [rdrill] at he
    exact (hnone e he hw).1 (by rw [heq, rcampus])
  have hcore := Part.core_jumpCalendar hset new cause
  rw [harrive] at hcore
  have hcirc := Part.offCircuits_evaluateCircuits (((p.jumpCalendar new cause).bellJump p.campus new
    (p.jumpCalendar new cause).cal.selection.plan).scheduleJump p.campus new)
  have hoff := Part.offBells_bellJump (p.jumpCalendar new cause) p.campus new (p.jumpCalendar new cause).cal.selection.plan
  rw [← Part.jumpTo_eq] at hcirc
  generalize (p.jumpCalendar new cause).bellJump p.campus new (p.jumpCalendar new cause).cal.selection.plan = q at hcirc hoff
  simp only [Part.offCircuits, Prod.mk.injEq] at hcirc
  obtain ⟨-, -, -, -, -, hdrill, -⟩ := hcirc
  have hoff' := hoff.trans (Part.offBells_of_core hcore)
  simp only [Part.offBells, Prod.mk.injEq] at hoff'
  obtain ⟨-, qbackup, -, -, qdrill, -⟩ := hoff'
  have hmiss := q.schedule_missEntries fun m => decide (p.campus.total < m) && decide (m < new.total)
  have hkeep := q.offDrill_missEntries fun m => decide (p.campus.total < m) && decide (m < new.total)
  simp only [Part.offDrill, Prod.mk.injEq] at hkeep
  obtain ⟨-, mbackup, -⟩ := hkeep
  rw [hdrill, Part.scheduleJump, Part.reachScheduled_none fun e he hw heq => ?_, hmiss, qdrill, rdrill]
  rw [hmiss, qdrill, rdrill] at he
  obtain ⟨e', he', rfl⟩ := List.mem_map.mp he
  split at hw
  next => simp at hw
  next h =>
    rw [if_neg h] at heq
    refine (hnone e' he' hw).2 ?_
    rw [heq, Part.campus, mbackup, qbackup]

/-! ### What setting campus time leaves -/

/-- What no motion of campus time touches: the buildings, and the chain builder but for its runtime records. -/
def Part.site (p : Part) : Vector Building 8 × Chain := (p.arb.buildings, p.chain.fixed)

theorem Part.site_of_core {p q : Part} (h : q.core = p.core) : q.site = p.site := by
  simp only [Part.core, Prod.mk.injEq] at h
  obtain ⟨-, -, -, -, -, -, h1, -, -, h2⟩ := h
  simp only [Part.site, h1, h2]
theorem Part.site_of_offBells {p q : Part} (h : q.offBells = p.offBells) : q.site = p.site := by
  simp only [Part.offBells, Prod.mk.injEq] at h
  obtain ⟨-, -, -, -, -, h1, -, -, h2⟩ := h
  simp only [Part.site, h1, h2]
theorem Part.site_of_offDrill {p q : Part} (h : q.offDrill = p.offDrill) : q.site = p.site := by
  simp only [Part.offDrill, Prod.mk.injEq] at h
  obtain ⟨-, -, -, -, -, h1, -, -, h2⟩ := h
  simp only [Part.site, h1, h2]
theorem Part.site_of_offCircuits {p q : Part} (h : q.offCircuits = p.offCircuits) : q.site = p.site := by
  simp only [Part.offCircuits, Prod.mk.injEq] at h
  obtain ⟨-, -, -, -, -, -, h1, -, h2⟩ := h
  simp only [Part.site, h1, h2]

theorem Part.site_jumpTo {p : Part} (hset : p.time.quality = .set) (new : CampusTime)
    (cause : CampusTime → Int → Nat → TimeCause) : (p.jumpTo new cause).site = p.site := by
  have harrive : p.arrive.site = p.site :=
    (Part.site_of_offDrill (Part.offDrill_reachScheduled _)).trans (Part.site_of_offBells (Part.offBells_reachEntries p))
  rw [Part.jumpTo_eq, Part.site_of_offCircuits (Part.offCircuits_evaluateCircuits _),
    Part.site_of_offDrill (Part.offDrill_scheduleJump _ _ _), Part.site_of_offBells (Part.offBells_bellJump _ _ _ _),
    Part.site_of_core (Part.core_jumpCalendar hset new cause)]
  exact harrive

/-- What a time-set event comes to (R4, R28, R103). -/
theorem Part.setFromUnset_brings (p : Part) (new : CampusTime) :
    let q := p.setFromUnset new
    let sel := p.selectionFor new.day
    q.watch = (p.now, new.day, new.tod, true, ⟨.set, 0, false⟩, p.calendarSet new) ∧ q.site = p.site ∧
    q.drill.schedule = missedEntries (fun m => decide (m ≤ new.total)) p.drill.schedule ∧
    Bells.builds { p.bell with furthest := p.bell.furthest.filter (· == new.day) } q.bell new.day new.tod sel.plan
      (sel.plan.elim [] p.plan) := by
  have hcore := p.core_setCalendar new
  rw [Part.setFromUnset_eq]
  generalize p.setCalendar new = r at hcore ⊢
  obtain ⟨-, rbackup, rtime, rcal, rbell, rdrill⟩ := Part.core_fields hcore
  have hoff := r.offBells_bellTimeSet r.cal.selection.plan
  have hclock := ((Part.clock_circuitsSet _).trans (Part.clock_scheduleSet _) :
    (r.bellTimeSet r.cal.selection.plan).scheduleSet.circuitsSet.clock = (r.bellTimeSet r.cal.selection.plan).clock)
  have hbuilds := r.builds_bellTimeSet r.cal.selection.plan
  obtain ⟨hcampus, hquality⟩ := Part.campus_of_offBells hoff
  have hcirc := Part.offCircuits_circuitsSet (r.bellTimeSet r.cal.selection.plan).scheduleSet
  have hsite : (r.bellTimeSet r.cal.selection.plan).scheduleSet.circuitsSet.site = p.site :=
    (Part.site_of_offCircuits hcirc).trans ((Part.site_of_offDrill (Part.offDrill_scheduleSet _)).trans
      ((Part.site_of_offBells hoff).trans ((Part.site_of_core hcore).trans rfl)))
  refine ⟨?_, hsite, ?_, ?_⟩
  · rw [Part.watch_of_clock hclock, Part.watch_of_offBells hoff, Part.watch_of_clock (Part.clock_of_core hcore)]
    rfl
  · simp only [Part.offCircuits, Prod.mk.injEq] at hcirc
    obtain ⟨-, -, -, -, -, hdrill, -⟩ := hcirc
    simp only [Part.offBells, Prod.mk.injEq] at hoff
    obtain ⟨-, -, -, -, bdrill, -⟩ := hoff
    rw [hdrill, Part.scheduleSet, if_pos (Part.isSet_of_set (hquality.trans (by rw [rtime]))), Part.schedule_missEntries, bdrill,
      rdrill, hcampus, Part.campus, rbackup]
  · simp only [Part.clock, Prod.mk.injEq] at hclock
    obtain ⟨-, -, -, -, -, -, hbell⟩ := hclock
    rw [rbell, rbackup, rcal, Part.plan_congr (p := p) (by rw [rbell])] at hbuilds
    rw [hbell, rcal]
    exact hbuilds

/-- What setting campus time from UNSET reports, where it passes no scheduled drill and there is no circuit (R4, R19). -/
theorem Part.says_setFromUnset {p : Part} {new : CampusTime} (hcirc : ∀ c < 32, p.circuit c = none)
    (hdrill : ∀ e ∈ p.drill.schedule, e.state = .waiting → new.total < e.moment.total) : p.says (p.setFromUnset new)
    ([.timeEvent (.set (p.cal.changes.filter fun c => !c.done && decide (c.moment.total ≤ new.total)).length) new .set,
      .timeEvent (.dayPlan new.day (p.selectionFor new.day) 0) new .set] ++
      quietNotices p.cal.inside (p.calendarSet new).inside p.cal.quietStart p.cal.quietEnd new .set) := by
  have hcore := p.core_setCalendar new
  have hsays := p.says_setCalendar new
  rw [Part.setFromUnset_eq]
  generalize p.setCalendar new = r at hcore hsays ⊢
  have hoff := (r.offBells_bellTimeSet r.cal.selection.plan).trans (Part.offBells_of_core hcore)
  have hsilent : (r.bellTimeSet r.cal.selection.plan).ann = r.ann ∧ (r.bellTimeSet r.cal.selection.plan).outbox = r.outbox := by
    unfold Part.bellTimeSet; dsimp only; split <;> exact ⟨rfl, rfl⟩
  generalize r.bellTimeSet r.cal.selection.plan = q at hoff hsilent ⊢
  simp only [Part.offBells, Prod.mk.injEq] at hoff
  obtain ⟨-, qbackup, qtime, -, qdrill, -, qcirc, -⟩ := hoff
  have hschedule : q.scheduleSet = q := by
    rw [Part.scheduleSet, if_pos (Part.isSet_of_set (by rw [qtime]))]
    refine Part.missEntries_none fun e he hw => ?_
    rw [qdrill] at he
    rw [Part.campus, qbackup]
    simpa using hdrill e he hw
  rw [hschedule, Part.circuitsSet_none (by rw [Part.circuit_congr qcirc]; exact hcirc)]
  exact hsays.silent hsilent.1 hsilent.2

/-! ### TIME_SET -/

theorem Part.cancelTrim_of_set {p : Part} (h : p.time.quality = .set) : p.cancelTrim = { p with time := ⟨.set, 0, false⟩ } := by
  simp [Part.cancelTrim, h]

/-- What TIME_SET does with a value that it takes (R3). -/
def Part.timeTaken (p : Part) (new : CampusTime) : Part :=
  if !p.isSet then p.setFromUnset new
  else if new = p.campus then p.cancelTrim
  else p.cancelTrim.jumpTo new TimeCause.jump

theorem Part.timeSet_taken {date : CalDate} {tod : Nat} (hdate : date.valid = true) (htod : tod ≤ 863999) (saving : Bool)
    (p : Part) : Part.timeSet date tod saving p = (p.timeTaken ⟨date.number, tod⟩, okOnly) :=
  checked_pass (by simp [firstFailure, hdate, htod]) p _

theorem Part.timeTaken_unset {p : Part} (h : p.time.quality = .unset) (new : CampusTime) :
    p.timeTaken new = p.setFromUnset new := by
  simp [Part.timeTaken, Part.isSet_of_unset h]
theorem Part.timeTaken_same {p : Part} (h : p.time.quality = .set) {new : CampusTime} (hnew : new = p.campus) :
    p.timeTaken new = p.cancelTrim := by
  simp [Part.timeTaken, Part.isSet_of_set h, hnew]
theorem Part.timeTaken_jump {p : Part} (h : p.time.quality = .set) {new : CampusTime} (hnew : new ≠ p.campus) :
    p.timeTaken new = p.cancelTrim.jumpTo new TimeCause.jump := by
  simp [Part.timeTaken, Part.isSet_of_set h, hnew]

/-- What TIME_SET leaves in the time keeper, and in the tables that it does not touch (R3). -/
theorem Part.timeTaken_keeps (p : Part) (new : CampusTime) : ∃ cal,
    (p.timeTaken new).watch = (p.now, new.day, new.tod, p.backup.valid || p.time.quality == .unset, ⟨.set, 0, false⟩, cal) ∧
    (p.timeTaken new).site = p.site := by
  cases hq : p.time.quality with
  | unset =>
    obtain ⟨hwatch, hsite, -⟩ := p.setFromUnset_brings new
    rw [Part.timeTaken_unset hq]
    exact ⟨_, by simpa using hwatch, hsite⟩
  | set =>
    have hset : p.cancelTrim.time.quality = .set := hq
    by_cases hnew : new = p.campus
    · rw [Part.timeTaken_same hq hnew, hnew]
      exact ⟨p.cal, by simp [Part.watch, Part.cancelTrim, Part.campus, hq], rfl⟩
    · rw [Part.timeTaken_jump hq hnew]
      refine ⟨p.cancelTrim.jumped new, ?_, Part.site_jumpTo hset _ _⟩
      rw [Part.watch_jumpTo hset]
      simp [Part.cancelTrim, hq]

theorem Part.layout_timeTaken {date : CalDate} {tod : Nat} (hdate : date.valid = true) (htod : tod ≤ 863999) (p : Part) :
    (p.timeTaken ⟨date.number, tod⟩).layout = p.layout := by
  have h := Part.layout_timeSet p date tod false
  rwa [Part.timeSet_taken hdate htod] at h

section
variable {s : State} {tag tod : Nat} {date : CalDate} (hr : s.ready tag) (hdate : date.valid = true) (htod : tod ≤ 863999)

/-- The machine after a TIME_SET. -/
def State.timeSetDone (s : State) (tag : Nat) (date : CalDate) (tod : Nat) : State :=
  request (.timeSet tag date tod) tag 0x03 (ofPart (Part.timeSet date tod)) s

include hr hdate htod

theorem timeSetDone_part : (s.timeSetDone tag date tod).part =
      { (s.part.timeTaken ⟨date.number, tod⟩).settle with outbox := [] } ∧
    State.answers s (s.timeSetDone tag date tod) tag 0x03 okOnly :=
  request_part hr _ _ _ (Part.timeSet_taken hdate htod _ _) (.inl rfl)

/-- The core after a TIME_SET is that of the part that has taken it. -/
theorem timeSetDone_core : (s.timeSetDone tag date tod).part.core = (s.part.timeTaken ⟨date.number, tod⟩).core := by
  rw [(timeSetDone_part hr hdate htod).1, Part.core_with_outbox, Part.core_settle]

theorem timeSetDone_layout : (s.timeSetDone tag date tod).part.layout = s.part.layout := by
  rw [(timeSetDone_part hr hdate htod).1, layout_outbox, Part.layout_settle, Part.layout_timeTaken hdate htod]

theorem timeSetDone_reports (hs : s.part.settled) {l : List Notice}
    (hsays : s.part.says (s.part.timeTaken ⟨date.number, tod⟩) l) :
    State.reports s (s.timeSetDone tag date tod) [replyOf tag 0x03 okOnly] l :=
  request_reports hr hs _ _ _ (Part.timeSet_taken hdate htod _ _) (.inl rfl) hsays

end

/-- Settles O16: from UNSET by what a time-set event brings, from SET by what a jump does to each receiver; an equal value
only cancels the trim, and any other operand fails the checks. -/
theorem timeSetSetsCampusTime : Obligations.TimeSetSetsCampusTime := by
  intro s tag tod date hr day new old room quiet timeEvent quietEvent passes alone reports
  refine ⟨fun hdate htod => ?_, fun hs hset hsame hdate htod => ?_, fun hbad => ?_⟩
  · -- a value that is taken
    obtain ⟨-, hans⟩ := timeSetDone_part hr hdate htod
    have hcore := timeSetDone_core hr hdate htod
    have hlayout := timeSetDone_layout hr hdate htod
    obtain ⟨-, -, -, tcal, tbell, tdrill⟩ := Part.core_fields hcore
    obtain ⟨cal, hwatch, hsite⟩ := s.part.timeTaken_keeps ⟨date.number, tod⟩
    rw [← Part.watch_of_clock (Part.clock_of_core hcore)] at hwatch
    rw [← Part.site_of_core hcore] at hsite
    simp only [Part.watch, Part.site, Prod.mk.injEq] at hwatch hsite
    obtain ⟨hnow, hday, htod', hvalid, htime, -⟩ := hwatch
    obtain ⟨hbuildings, hchain⟩ := hsite
    have hline : (s.timeSetDone tag date tod).part.chain.fixed.line = s.part.chain.fixed.line := by rw [hchain]
    simp only [Part.layout, Calendar.layout, Bells.layout, DrillTimer.layout, Chain.layout, Prod.mk.injEq] at hlayout
    obtain ⟨⟨hweek, hexc, hstart, hstop, -⟩, ⟨hgroups, hplans, hgrace, hcatch⟩, -, ⟨hprograms, -⟩, -, hroster, -⟩ :=
      hlayout
    refine ⟨s.timeSetDone tag date tod, rfl, hans, request_sameOutside hr _ _ _, by rw [Part.campus, hday, htod'],
      by rw [htime], by rw [htime], hvalid, hnow, hweek, hexc, hstart, hstop, hgroups, hplans, hgrace, hcatch, hprograms,
      hbuildings, hroster, hline, fun hunset => ?_, fun hset hne => ?_⟩
    · -- from UNSET
      rw [Part.timeTaken_unset hunset] at tcal tbell tdrill
      obtain ⟨hwatch, -, hdrill, hbuilds⟩ := s.part.setFromUnset_brings ⟨date.number, tod⟩
      simp only [Part.watch, Prod.mk.injEq] at hwatch
      obtain ⟨-, -, -, -, -, hcal⟩ := hwatch
      dsimp only
      rw [tcal, tbell, tdrill, hcal]
      refine ⟨rfl, rfl, rfl, hdrill.trans ?_, hbuilds, fun ⟨hs, hcirc⟩ hwait => ?_⟩
      · exact missedEntries_eq (fun m => m ≤ new) s.part.drill.schedule
      have hsays := Part.says_setFromUnset (new := ⟨date.number, tod⟩) hcirc hwait
      rw [← Part.timeTaken_unset hunset] at hsays
      refine timeSetDone_reports hr hdate htod hs (hsays.congr ?_)
      have hpasses : passes 0 new = (s.part.cal.changes.filter fun c => !c.done && decide (c.moment.total ≤ new)).length := by
        simp only [passes, Nat.zero_le, true_and]
        rfl
      rw [hpasses]
      rfl
    · -- from SET, by a jump
      have hnew : (⟨date.number, tod⟩ : CampusTime) ≠ s.part.campus := fun h => hne (congrArg CampusTime.total h).symm
      have hset' : s.part.cancelTrim.time.quality = .set := hset
      rw [Part.timeTaken_jump hset hnew] at tcal tbell tdrill
      have hwatch := Part.watch_jumpTo hset' ⟨date.number, tod⟩ TimeCause.jump
      simp only [Part.watch, Prod.mk.injEq] at hwatch
      obtain ⟨-, -, -, -, -, hcal⟩ := hwatch
      dsimp only
      rw [tcal, tbell, tdrill, hcal]
      have hpassed : ∀ lo hi m : Nat, (decide (lo ≤ m) && decide (m ≤ hi)) = decide (lo ≤ m ∧ m ≤ hi) := fun _ _ _ =>
        (Bool.decide_and _ _).symm
      refine ⟨rfl, rfl, ?_, fun hnone => ?_, fun heq i e he => ?_, fun hdays => ?_,
        fun ⟨hs, hcirc⟩ hwait hplan hdrill => ?_⟩
      · rw [Part.jumped_changes]
        simp only [passedChanges, hpassed]
        rfl
      · refine (Part.schedule_jumpTo hset' ⟨date.number, tod⟩ _ hnone).trans ?_
        simp only [← Bool.decide_and]
        exact missedEntries_eq (fun m => old < m ∧ m < new) _
      · exact Part.jumpTo_entries hset' (new := ⟨date.number, tod⟩) _ heq
          (fun h => hne (congrArg₂ (fun a b => a * 864000 + b) heq h)) he
      · obtain ⟨h1, h2, h3, h4⟩ := Part.jumpTo_timeline hset' (new := ⟨date.number, tod⟩) TimeCause.jump hdays
        exact ⟨h1, h2, h3, h4, fun hlt hfresh => Part.jumpTo_entries_later hset' (new := ⟨date.number, tod⟩) _ hlt hfresh,
          fun f hf hlt => Part.jumpTo_entries_before hset' (new := ⟨date.number, tod⟩) _ hdays hf hlt,
          fun hf hnone => Part.jumpTo_entries_furthest hset' (new := ⟨date.number, tod⟩) _ hdays hf hnone⟩
      · have hsays := Part.says_jumpTo hset' (new := ⟨date.number, tod⟩) hwait hplan hdrill hcirc TimeCause.jump
        rw [← Part.timeTaken_jump hset hnew] at hsays
        refine timeSetDone_reports hr hdate htod hs ((hsays.of_silent rfl rfl).congr ?_)
        simp only [hpassed]
        rfl
  · -- the present value
    have htaken := Part.timeSet_taken hdate htod s.port.saving.isSome s.part
    rw [Part.timeTaken_same hset hsame.symm, Part.cancelTrim_of_set hset] at htaken
    exact congrArg Host.Outcome.next (request_block hr hs _ _ _ htaken (.inl rfl) rfl hr.2.2.2.2)
  · -- an operand out of range
    refine congrArg Host.Outcome.next (request_refused hr _ _ _ ?_)
    have hbad' : (!date.valid || decide (863999 < tod)) = true := by simpa using hbad
    simp [ofPart, Part.timeSet, checked, firstFailure, hbad']

end Sys2Proof.Machine
end

section
/-! SUPPORT. BELL claims in zones: what posting one, ending one and walks of both make of each zone (R44 to R48). -/

namespace Sys2Proof.Machine

/-! ### Tables and zones by number -/

theorem Tab.get_modify {α : Type} {n i : Nat} (hi : i < n) (v : Vector α n) (f : α → α) (d : α) :
    Tab.get (Tab.modify v i f) i d = f (Tab.get v i d) := by
  simp [Tab.get, Tab.modify, hi]

theorem Tab.get_modify_ne {α : Type} {n i j : Nat} (h : i ≠ j) (v : Vector α n) (f : α → α) (d : α) :
    Tab.get (Tab.modify v i f) j d = Tab.get v j d := by
  unfold Tab.get Tab.modify
  split
  · simp [h]
  · rfl

/-- A change keeps of every record what it keeps of each. -/
theorem Tab.get_modify_keeps {α β : Type} {n : Nat} (v : Vector α n) (i j : Nat) (f : α → α) (d : α) (g : α → β)
    (h : ∀ a, v[i]? = some a → g (f a) = g a) : g (Tab.get (Tab.modify v i f) j d) = g (Tab.get v j d) := by
  have hmap := congrArg (fun w => w[j]?) (Tab.map_modify v i f g h)
  simp only [Vector.getElem?_map] at hmap
  have key : ∀ o : Option α, g (o.getD d) = (o.map g).getD (g d) := fun o => by cases o <;> rfl
  rw [Tab.get, Tab.get, key, key, hmap]

theorem Part.zone_of_arb {p q : Part} (h : q.arb = p.arb) (z : Nat) : q.zone z = p.zone z := by simp only [Part.zone, h]

theorem Part.zone_changeZone {z : Nat} (h : z < 64) (p : Part) (f : Zone → Zone) :
    (p.changeZone z f).zone z = (f (p.zone z)).evaluate (p.able z) (p.served z) p.now :=
  Tab.get_modify h _ _ _

theorem Part.zone_changeZone_ne {z y : Nat} (h : z ≠ y) (p : Part) (f : Zone → Zone) :
    (p.changeZone z f).zone y = p.zone y :=
  Tab.get_modify_ne h _ _ _

@[simp] theorem Part.arb_wake (p : Part) (pos : Nat) : (p.wake pos).arb = p.arb := by
  unfold Part.wake; (repeat' split) <;> simp [apply_ite Part.arb]

@[simp] theorem Part.arb_wakeFor (p : Part) (z : Nat) : (p.wakeFor z).arb = p.arb := by
  unfold Part.wakeFor; (repeat' split) <;> simp

/-- *Claims clear* may hand a command, and touches nothing else. -/
theorem Part.claimsClear_line (before p : Part) (z : Nat) :
    ∃ l, Part.claimsClear before p z = { p with line := l } := by
  unfold Part.claimsClear Part.quietIfInside Part.sendQuiet
  (repeat' split) <;> exact ⟨_, rfl⟩

/-! ### What the sounding rule asks of the part -/

/-- What the sounding rule and a posting ask of the part beside its zones (R44, R45, R59). -/
structure Part.sameSites (p q : Part) : Prop where
  now : q.now = p.now
  able : q.able = p.able
  served : q.served = p.served
  closedZone : q.closedZone = p.closedZone

theorem Part.sameSites.refl (p : Part) : p.sameSites p := ⟨rfl, rfl, rfl, rfl⟩

theorem Part.sameSites.trans {p q r : Part} (h : p.sameSites q) (h' : q.sameSites r) : p.sameSites r :=
  ⟨h'.now.trans h.now, h'.able.trans h.able, h'.served.trans h.served, h'.closedZone.trans h.closedZone⟩

/-- The core fixes owners and buildings, so that only the states of nodes are left. -/
theorem Part.sameSites_of_core {p q : Part} (h : q.core = p.core)
    (hn : ∀ pos, (q.node pos).isActive = (p.node pos).isActive ∧ (q.node pos).isServed = (p.node pos).isServed) :
    p.sameSites q := by
  simp only [Part.core, Prod.mk.injEq] at h
  obtain ⟨hnow, -, -, -, -, -, hbuildings, -, -, hchain⟩ := h
  have hroster : q.chain.roster = p.chain.roster := (congrArg Chain.roster hchain :)
  have hlength : q.chain.length = p.chain.length := (congrArg Chain.length hchain :)
  have howner : q.owner = p.owner := by funext z; simp only [Part.owner, Part.positions, Part.rosterAt, hroster, hlength]
  have hclear : q.buildingClear = p.buildingClear := by
    funext z; simp only [Part.buildingClear, Part.buildingOf, Part.building, hbuildings]
  refine ⟨hnow, ?_, ?_, ?_⟩ <;> funext z
  · simp only [Part.able, howner, hclear, (hn _).1]
  · simp only [Part.served, howner, (hn _).2]
  · simp only [Part.closedZone, howner, hclear]

theorem Part.sameSites_of_runtime {p q : Part} (h : q.core = p.core) (hr : q.chain.runtime = p.chain.runtime) : p.sameSites q :=
  Part.sameSites_of_core h fun pos => by simp only [Part.node, Part.runtime, hr, and_self]

/-- A change of a runtime record that keeps the state of its node keeps the state of every node. -/
theorem Part.node_modRuntime (p : Part) (pos : Nat) {f : Runtime → Runtime} (h : ∀ r, (f r).node = r.node) (n : Nat) :
    (p.modRuntime pos f).node n = p.node n :=
  Tab.get_modify_keeps _ _ _ _ _ (·.node) fun r _ => h r

/-- A wake may make a QUIET node WAKING, and changes no other state. -/
theorem Part.node_wake (p : Part) (pos n : Nat) :
    (p.wake pos).node n = p.node n ∨ p.node n = .ready .quiet ∧ (p.wake pos).node n = .ready .waking := by
  unfold Part.wake
  split
  case isFalse => exact .inl rfl
  case isTrue =>
    dsimp only
    generalize hq : (if p.waits .output (isPowerFor pos true) = true then _ else p : Part) = q
    have h1 : q.node = p.node := by
      funext n; subst hq; split
      · exact Part.node_modRuntime _ _ (by intro r; rfl) _
      · rfl
    generalize hr : (if q.powerInFlight pos true = true then _ else q : Part) = r
    have h2 : r.node = p.node := by
      funext n; subst hr; split
      · exact (Part.node_modRuntime _ _ (by intro r; rfl) _).trans (congrFun h1 n)
      · exact congrFun h1 n
    split
    case isFalse => exact .inl (congrFun h2 n)
    case isTrue hquiet =>
      by_cases hn : pos = n
      · subst hn
        by_cases h24 : pos < 24
        · refine .inr ⟨by rw [← h2]; simpa using hquiet, ?_⟩
          exact congrArg Runtime.node (Tab.get_modify h24 _ _ _)
        · exact .inl ((congrArg Runtime.node (by simp [Part.runtime, Tab.get, Tab.modify, h24])).trans (congrFun h2 pos))
      · exact .inl ((congrArg Runtime.node (Tab.get_modify_ne hn _ _ _)).trans (congrFun h2 n))

theorem Part.sameSites_wakeFor (p : Part) (z : Nat) : p.sameSites (p.wakeFor z) := by
  refine Part.sameSites_of_core (Part.core_wakeFor p z) fun pos => ?_
  unfold Part.wakeFor
  split
  · split
    · rcases p.node_wake _ pos with h | ⟨h, h'⟩
      · rw [h]; exact ⟨rfl, rfl⟩
      · rw [h, h']; exact ⟨rfl, rfl⟩
    · exact ⟨rfl, rfl⟩
  · exact ⟨rfl, rfl⟩

theorem Part.sameSites_changeZone (p : Part) (z : Nat) (f : Zone → Zone) : p.sameSites (p.changeZone z f) :=
  Part.sameSites_of_runtime rfl rfl

theorem Part.sameSites_claimsClear (before p : Part) (z : Nat) : p.sameSites (Part.claimsClear before p z) := by
  refine Part.sameSites_of_runtime (Part.core_claimsClear p before z) ?_
  obtain ⟨l, h⟩ := Part.claimsClear_line before p z
  rw [h]

/-! ### A zone re-evaluated -/

theorem Zone.bell_evaluate (able served : Bool) (now : Nat) (z : Zone) :
    (z.evaluate able served now).bell = z.bellAfter (z.select able now) now := by
  unfold Zone.evaluate Zone.command; dsimp only; (repeat' split) <;> rfl

theorem Zone.commanded_command (served : Bool) (now : Nat) (o : Output) (z : Zone) :
    (z.command served now o).commanded = o := by
  unfold Zone.command
  split
  next h => exact h.symm
  next => split <;> rfl

theorem Zone.commanded_evaluate (able served : Bool) (now : Nat) (z : Zone) :
    (z.evaluate able served now).commanded =
      { z with bell := z.bellAfter (z.select able now) now, ann := z.annAfter (z.select able now),
               drill := z.drillAfter (z.select able now) : Zone }.outputOf :=
  Zone.commanded_command _ _ _ _

/-- A claim as it begins to sound: an AUTO claim takes its end time (R47). -/
def BellClaim.begun (c : BellClaim) (now : Nat) : BellClaim :=
  { c with state := .sounding, sounded := true,
           endTime := if c.duration = 0 then none else some (now + c.duration * unitsPerTenth) }

theorem Zone.bellAfter_pending {z : Zone} {c : BellClaim} (h : z.bell = some c) (hc : c.state = .pending) (sel : Selected)
    (now : Nat) : z.bellAfter sel now = some (if sel = .bell then c.begun now else c) := by
  unfold Zone.bellAfter; rw [h]; dsimp only; rw [hc]
  cases sel <;> rfl

/-- A zone into which a claim is posted, as the sounding rule leaves it (R44, R45). -/
def Zone.posted (able served : Bool) (now : Nat) (c : BellClaim) (z : Zone) : Zone :=
  { z with bell := some c }.evaluate able served now

/-- Whether a claim that is posted, and not stale, sounds at once: the zone is able to sound, holds no higher claim that is
heard, and is not masked (R44). -/
def Zone.soundsBell (able : Bool) (z : Zone) : Bool :=
  able && z.drill.isNone && (z.ann.isNone || z.annMask) && !z.bellMask

section
variable {able : Bool} {now : Nat} {c : BellClaim}

theorem Zone.select_posted (z : Zone) (hnow : now ≤ c.latest) :
    { z with bell := some c : Zone }.select able now = .bell ↔ z.soundsBell able = true := by
  unfold Zone.select Zone.soundsBell
  cases able <;> cases z.drill <;> cases z.ann <;> cases z.annMask <;> cases z.bellMask <;> simp [hnow]

theorem Zone.bell_posted (served : Bool) (z : Zone) (hc : c.state = .pending) (hnow : now ≤ c.latest) :
    (z.posted able served now c).bell = some (if z.soundsBell able = true then c.begun now else c) := by
  rw [Zone.posted, Zone.bell_evaluate, Zone.bellAfter_pending rfl hc]
  simp only [Zone.select_posted z hnow]

/-- A claim that sounds commands its pattern (R59). -/
theorem Zone.commanded_posted (served : Bool) {z : Zone} (hc : c.state = .pending) (hnow : now ≤ c.latest)
    (hs : z.soundsBell able = true) (hann : z.ann = none) :
    (z.posted able served now c).commanded = .pattern c.pattern := by
  have hdrill : z.drill = none := by
    simp only [Zone.soundsBell, Bool.and_eq_true, Option.isNone_iff_eq_none] at hs
    exact hs.1.1.2
  rw [Zone.posted, Zone.commanded_evaluate, (Zone.select_posted z hnow).mpr hs, Zone.bellAfter_pending rfl hc]
  simp [Zone.annAfter, Zone.drillAfter, hann, hdrill, Zone.outputOf, BellClaim.begun]

end

/-! ### A claim is posted -/

/-- Whether a zone takes a BELL claim that is posted into it (R45). -/
def Part.takesBell (p : Part) (z : Nat) : Bool := (p.zone z).bellOn && !p.closedZone z

/-- A zone after the posting of a claim into it (R45). -/
def Part.afterPosting (p : Part) (c : BellClaim) (z : Nat) : Zone :=
  if p.takesBell z then (p.zone z).posted (p.able z) (p.served z) p.now c else p.zone z

/-- What a zone answers to the posting of a claim into it (R44, R45). -/
def Part.bellAnswer (p : Part) (c : BellClaim) (z : Nat) : Posting :=
  if p.takesBell z then
    if (p.afterPosting c z).bell.any (fun b => b.state == .sounding) then .sounding else .pending
  else .refused

theorem Part.not_takesBell (p : Part) (z : Nat) : (!(p.zone z).bellOn || p.closedZone z) = !p.takesBell z := by
  simp [Part.takesBell]

theorem Part.postBell_refused {p : Part} {z : Nat} (h : p.takesBell z = false) (c : BellClaim) :
    p.postBell z c = (p, .refused) := by
  refine if_pos ?_
  rw [Part.not_takesBell, h]; rfl

theorem Part.postBell_taken {p : Part} {z : Nat} (h : p.takesBell z = true) (c : BellClaim) :
    p.postBell z c =
      let q := (p.changeZone z fun zone => { zone with bell := some c }).wakeFor z
      (q, if (q.zone z).bell.any (fun b => b.state == .sounding) then .sounding else .pending) := by
  refine if_neg ?_
  rw [Part.not_takesBell, h]; decide

theorem Part.sameSites_postBell (p : Part) (z : Nat) (c : BellClaim) : p.sameSites (p.postBell z c).1 := by
  cases h : p.takesBell z with
  | false => rw [Part.postBell_refused h]; exact .refl p
  | true => rw [Part.postBell_taken h]; exact (p.sameSites_changeZone z _).trans (Part.sameSites_wakeFor _ z)

/-- A posting sends nothing, and leaves the announcements. -/
theorem Part.says_postBell (p : Part) (z : Nat) (c : BellClaim) : p.says (p.postBell z c).1 [] := by
  cases h : p.takesBell z with
  | false => rw [Part.postBell_refused h]; exact Part.says_nil rfl rfl
  | true =>
    rw [Part.postBell_taken h]
    dsimp only [Part.wakeFor]
    (repeat' split) <;> exact Part.says_nil (by simp) (by simp)

theorem Part.zone_postBell {z : Nat} (hz : z < 64) (p : Part) (c : BellClaim) :
    (p.postBell z c).1.zone z = p.afterPosting c z := by
  unfold Part.afterPosting
  cases h : p.takesBell z with
  | false => rw [Part.postBell_refused h]; rfl
  | true =>
    rw [Part.postBell_taken h, if_pos rfl]
    exact (Part.zone_of_arb (Part.arb_wakeFor _ z) z).trans (Part.zone_changeZone hz p _)

theorem Part.zone_postBell_ne {z y : Nat} (h : z ≠ y) (p : Part) (c : BellClaim) :
    (p.postBell z c).1.zone y = p.zone y := by
  cases ht : p.takesBell z with
  | false => rw [Part.postBell_refused ht]
  | true =>
    rw [Part.postBell_taken ht]
    exact (Part.zone_of_arb (Part.arb_wakeFor _ z) y).trans (Part.zone_changeZone_ne h p _)

theorem Part.postBell_answer {z : Nat} (hz : z < 64) (p : Part) (c : BellClaim) : (p.postBell z c).2 = p.bellAnswer c z := by
  have hzone := p.zone_postBell hz c
  unfold Part.bellAnswer
  cases h : p.takesBell z with
  | false => rw [Part.postBell_refused h]; rfl
  | true =>
    rw [Part.postBell_taken h] at hzone ⊢
    rw [if_pos rfl, ← hzone]

/-! ### A claim is posted into each zone of a list -/

/-- The postings depend on the zone and on what the sounding rule asks of the part. -/
theorem Part.afterPosting_congr {p q : Part} (h : p.sameSites q) {z : Nat} (hz : q.zone z = p.zone z) (c : BellClaim) :
    q.afterPosting c z = p.afterPosting c z ∧ q.bellAnswer c z = p.bellAnswer c z := by
  have htakes : q.takesBell z = p.takesBell z := by simp only [Part.takesBell, hz, h.closedZone]
  have hafter : q.afterPosting c z = p.afterPosting c z := by
    simp only [Part.afterPosting, htakes, hz, h.able, h.served, h.now]
  exact ⟨hafter, by simp only [Part.bellAnswer, htakes, hafter]⟩

/-- The counts of a posting to the zones of a list, when it has begun with the counts `n`. -/
def Part.answers (p : Part) (c : BellClaim) (zs : List Nat) (n : Posted) : Posted :=
  ⟨n.sounding + zs.countP (p.bellAnswer c · = .sounding), n.pending + zs.countP (p.bellAnswer c · = .pending),
   n.refused + zs.countP (p.bellAnswer c · = .refused)⟩

/-- One answer counted. -/
def Posted.count (n : Posted) : Posting → Posted
  | .sounding => { n with sounding := n.sounding + 1 }
  | .pending => { n with pending := n.pending + 1 }
  | .refused => { n with refused := n.refused + 1 }

theorem Part.answers_cons (p : Part) (c : BellClaim) (z : Nat) (zs : List Nat) (n : Posted) :
    p.answers c (z :: zs) n = p.answers c zs (n.count (p.bellAnswer c z)) := by
  cases h : p.bellAnswer c z <;> simp [Part.answers, h, Posted.count] <;> omega

theorem Part.answers_congr {p q : Part} {c : BellClaim} {zs : List Nat} (h : ∀ z ∈ zs, q.bellAnswer c z = p.bellAnswer c z)
    (n : Posted) : q.answers c zs n = p.answers c zs n := by
  have key : ∀ a, zs.countP (q.bellAnswer c · = a) = zs.countP (p.bellAnswer c · = a) := fun a =>
    List.countP_congr fun z hz => by rw [h z hz]
  simp only [Part.answers, key]

/-- Every zone answers once (R29, R35). -/
theorem Part.answers_sum (p : Part) (c : BellClaim) (zs : List Nat) :
    (p.answers c zs ⟨0, 0, 0⟩).sounding + (p.answers c zs ⟨0, 0, 0⟩).pending + (p.answers c zs ⟨0, 0, 0⟩).refused =
      zs.length := by
  induction zs with
  | nil => rfl
  | cons z zs ih =>
    simp only [Part.answers, List.countP_cons, List.length_cons] at ih ⊢
    cases p.bellAnswer c z <;> simp <;> omega

/-- What postings to the zones of a list make of the part and of their counts. -/
theorem Part.postBells_spec (c : BellClaim) {zs : List Nat} (hnodup : zs.Nodup) (hlt : ∀ z ∈ zs, z < 64) (p : Part) :
    p.sameSites (p.postBells zs c).1 ∧ p.says (p.postBells zs c).1 [] ∧ (p.postBells zs c).1.core = p.core ∧
    (p.postBells zs c).2 = p.answers c zs ⟨0, 0, 0⟩ ∧
    ∀ y, (p.postBells zs c).1.zone y = if y ∈ zs then p.afterPosting c y else p.zone y := by
  unfold Part.postBells
  generalize (⟨0, 0, 0⟩ : Posted) = n
  induction zs generalizing p n with
  | nil => exact ⟨.refl p, Part.says_nil rfl rfl, rfl, rfl, fun y => by simp⟩
  | cons z zs ih =>
    obtain ⟨hz, hnodup⟩ := List.nodup_cons.mp hnodup
    have hz64 := hlt z (by simp)
    obtain ⟨hsites, hsays, hcore, hcount, hzone⟩ := ih hnodup (fun y hy => hlt y (by simp [hy])) (p.postBell z c).1
      (n.count (p.postBell z c).2)
    have hfirst := p.sameSites_postBell z c
    have hrest : ∀ y ∈ zs, (p.postBell z c).1.zone y = p.zone y := fun y hy =>
      p.zone_postBell_ne ((by rintro rfl; exact hz hy)) c
    refine ⟨hfirst.trans hsites, (p.says_postBell z c).trans hsays, hcore.trans (Part.core_postBell p z c), ?_, fun y => ?_⟩
    · rw [Part.answers_cons, ← p.postBell_answer hz64 c]
      exact hcount.trans (Part.answers_congr (fun y hy => (Part.afterPosting_congr hfirst (hrest y hy) c).2) _)
    · refine (hzone y).trans ?_
      by_cases hy : y ∈ zs
      · rw [if_pos hy, if_pos (by simp [hy])]
        exact (Part.afterPosting_congr hfirst (hrest y hy) c).1
      · by_cases hyz : z = y
        · subst hyz
          rw [if_neg hy, if_pos (by simp), p.zone_postBell hz64]
        · rw [if_neg hy, if_neg (by simp [hy, Ne.symm hyz]), p.zone_postBell_ne hyz]

/-! ### A claim is ended -/

theorem Part.zone_endBell_eq (p : Part) (z y : Nat) :
    (p.endBell z).zone y = (p.changeZone z fun zone => { zone with bell := none }).zone y := by
  obtain ⟨l, h⟩ := Part.claimsClear_line p (p.changeZone z fun zone => { zone with bell := none }) z
  unfold Part.endBell
  rw [h]; rfl

theorem Part.bell_endBell {z : Nat} (hz : z < 64) (p : Part) : ((p.endBell z).zone z).bell = none := by
  rw [Part.zone_endBell_eq, Part.zone_changeZone hz, Zone.bell_evaluate]; rfl

theorem Part.zone_endBell_ne {z y : Nat} (h : z ≠ y) (p : Part) : (p.endBell z).zone y = p.zone y :=
  (p.zone_endBell_eq z y).trans (Part.zone_changeZone_ne h p _)

/-- The end of a claim sends nothing, and leaves the announcements. -/
theorem Part.says_endBell (p : Part) (z : Nat) : p.says (p.endBell z) [] := by
  obtain ⟨l, h⟩ := Part.claimsClear_line p (p.changeZone z fun zone => { zone with bell := none }) z
  unfold Part.endBell
  rw [h]
  exact Part.says_nil rfl rfl

/-- What ending the claims of the zones of a list makes of the part. -/
theorem Part.eachEndBell_spec {zs : List Nat} (hlt : ∀ z ∈ zs, z < 64) (p : Part) :
    p.says (p.each zs Part.endBell) [] ∧ (p.each zs Part.endBell).core = p.core ∧
    ∀ y, (y ∈ zs → ((p.each zs Part.endBell).zone y).bell = none) ∧
      (y ∉ zs → (p.each zs Part.endBell).zone y = p.zone y) := by
  induction zs generalizing p with
  | nil => exact ⟨Part.says_nil rfl rfl, rfl, fun y => ⟨by simp, fun _ => rfl⟩⟩
  | cons z zs ih =>
    obtain ⟨hsays, hcore, hzone⟩ := ih (fun y hy => hlt y (by simp [hy])) (p.endBell z)
    refine ⟨(p.says_endBell z).trans hsays, hcore.trans (Part.core_endBell p z), fun y => ⟨fun hy => ?_, fun hy => ?_⟩⟩
    · by_cases hmem : y ∈ zs
      · exact (hzone y).1 hmem
      · obtain rfl : y = z := by simpa [hmem] using hy
        exact (congrArg Zone.bell ((hzone y).2 hmem)).trans (p.bell_endBell (hlt y (by simp)))
    · rw [List.mem_cons, not_or] at hy
      exact ((hzone y).2 hy.2).trans (p.zone_endBell_ne (Ne.symm hy.1))

end Sys2Proof.Machine
end

section
/-! SUPPORT. A posting of BELL claims as a whole: its claims, its counts, its latest start (R29, R30, R35, R48). -/

namespace Sys2Proof.Machine

/-! ### The drop of a posting -/

/-- The number of PENDING claims of a posting that have never sounded (R48). -/
def Part.staleOf (p : Part) (posting : Nat) : Nat :=
  ((List.range 64).filter fun y => (p.zone y).bell.any fun c =>
    c.posting == posting && c.state == .pending && !c.sounded).length

/-- The number of PENDING claims of a posting. -/
def Part.awaiting (p : Part) (posting : Nat) : Nat := ((upTo 64).filter fun z => (p.zone z).awaits posting).length

/-- The claims that a drop ends are those that have never sounded and those that have. -/
theorem Part.dropped_counts (p : Part) (posting : Nat) :
    (p.dropPosting posting).2.stale = p.staleOf posting ∧
    (p.dropPosting posting).2.stale + (p.dropPosting posting).2.interrupted = p.awaiting posting := by
  have hsplit := List.length_eq_length_filter_add (l := (upTo 64).filter fun z => (p.zone z).awaits posting)
    fun z => (p.zone z).bell.any (·.sounded)
  have hstale : (((upTo 64).filter fun z => (p.zone z).awaits posting).filter fun z =>
      !(p.zone z).bell.any (·.sounded)).length = p.staleOf posting := by
    rw [List.filter_filter]
    refine congrArg List.length (List.filter_congr fun z _ => ?_)
    simp only [Zone.awaits]
    cases (p.zone z).bell with
    | none => rfl
    | some c => exact Bool.and_comm _ _
  simp only [Part.dropPosting, Part.awaiting]
  omega

/-- What the drop of a posting makes of the part: its PENDING claims end (R48). -/
theorem Part.dropPosting_spec (p : Part) (posting : Nat) :
    p.says (p.dropPosting posting).1 [] ∧ (p.dropPosting posting).1.core = p.core ∧
    ∀ y < 64, ((p.zone y).awaits posting = true → ((p.dropPosting posting).1.zone y).bell = none) ∧
      ((p.zone y).awaits posting = false → (p.dropPosting posting).1.zone y = p.zone y) := by
  obtain ⟨hsays, hcore, hzone⟩ := Part.eachEndBell_spec (zs := (upTo 64).filter fun z => (p.zone z).awaits posting)
    (fun z hz => List.mem_range.mp (List.mem_filter.mp hz).1) p
  have hmem : ∀ y < 64, (y ∈ (upTo 64).filter fun z => (p.zone z).awaits posting) ↔ (p.zone y).awaits posting = true :=
    fun y hy => by simp [upTo, hy]
  refine ⟨hsays, hcore, fun y hy => ⟨fun h => (hzone y).1 ((hmem y hy).mpr h), fun h => (hzone y).2 ?_⟩⟩
  rw [hmem y hy, h]; decide

/-! ### The bell scheduler takes a drop -/

/-- The entry of a drop becomes MISSED: it is of the present timeline, FIRED, and every claim that its posting placed has been
dropped without sounding (R30). -/
def Bells.misses (b : Bells) (plan k build stale : Nat) (e : TimelineEntry) : Prop :=
  b.timeline.build = build ∧ b.timeline.plan = some plan ∧ b.timeline.entries[k]? = some e ∧ e.state = .fired ∧
    e.posted = some stale

/-- An entry and its key become MISSED (R30). -/
def Bells.missed (b : Bells) (k : Nat) (e : TimelineEntry) : Bells :=
  { b with
    timeline := { b.timeline with entries := b.timeline.entries.modify k fun x => { x with state := .missed } }
    fired := b.fired.map fun x => if x.time = e.entry.time ∧ x.group = e.entry.group then { x with missed := true } else x }

section
variable {p : Part} {d : Dropped}

theorem Part.takeDrop_nothing (hs : d.stale = 0) (hi : d.interrupted = 0) (o : BellOrigin) : p.takeDrop o d = p := by
  simp [Part.takeDrop, hs, hi]

/-- The guard of a drop that has ended a claim. -/
theorem Dropped.ended (hd : 0 < d.stale + d.interrupted) : ¬(decide (d.stale = 0) && decide (d.interrupted = 0)) = true := by
  simp only [Bool.and_eq_true, decide_eq_true_eq]
  omega

theorem Part.takeDrop_manual (hd : 0 < d.stale + d.interrupted) :
    p.takeDrop .manual d = p.note (.bellsMissedStale .manual d.stale false) :=
  if_neg (Dropped.ended hd)

theorem Part.takeDrop_misses (hd : 0 < d.stale + d.interrupted) {plan k build : Nat} {e : TimelineEntry}
    (h : p.bell.misses plan k build d.stale e) :
    p.takeDrop (.entry plan k build) d =
      { p with bell := p.bell.missed k e }.note (.bellsMissedStale (.entry plan k build) d.stale true) := by
  obtain ⟨hbuild, hplan, he, hstate, hposted⟩ := h
  have hentries : p.bell.timeline.entries.modify k (fun x => { x with state := .missed, posted := e.posted }) =
      p.bell.timeline.entries.modify k fun x => { x with state := .missed } := by
    refine List.ext_getElem? fun j => ?_
    simp only [List.getElem?_modify]
    by_cases hj : k = j
    · subst hj; simp [he]
    · simp [hj]
  unfold Part.takeDrop
  rw [if_neg (Dropped.ended hd)]
  simp [Part.entryAt, hbuild, hplan, he, hstate, hposted, Part.setEntry, Part.modEntries, Bells.missed, ← hentries]

theorem Part.takeDrop_kept (hd : 0 < d.stale + d.interrupted) {plan k build : Nat}
    (h : ∀ e, ¬ p.bell.misses plan k build d.stale e) :
    p.takeDrop (.entry plan k build) d = p.note (.bellsMissedStale (.entry plan k build) d.stale false) := by
  unfold Part.takeDrop
  rw [if_neg (Dropped.ended hd)]
  dsimp only
  split
  next e he =>
    refine if_neg fun hc => h e ?_
    simp only [Bool.and_eq_true, beq_iff_eq] at hc
    exact ⟨hc.1.1.1, hc.1.1.2, he, hc.1.2, hc.2⟩
  next => rfl

/-- Taking a drop touches neither zones nor announcements. -/
theorem Part.takeDrop_leaves (p : Part) (o : BellOrigin) (d : Dropped) :
    (p.takeDrop o d).arb = p.arb ∧ (p.takeDrop o d).ann = p.ann := by
  unfold Part.takeDrop; dsimp only; (repeat' split) <;> exact ⟨rfl, rfl⟩

end

/-- What a latest start that has come makes of zones and announcements (R48). -/
theorem Part.reachLatest_zones (p : Part) (posting : Nat) (o : BellOrigin) :
    (p.reachLatest posting o).ann = p.ann ∧
    ∀ y < 64, ((p.zone y).awaits posting = true → ((p.reachLatest posting o).zone y).bell = none) ∧
      ((p.zone y).awaits posting = false → (p.reachLatest posting o).zone y = p.zone y) := by
  obtain ⟨⟨hann, -⟩, -, hzone⟩ := p.dropPosting_spec posting
  obtain ⟨harb, hann'⟩ := (p.dropPosting posting).1.takeDrop_leaves o (p.dropPosting posting).2
  refine ⟨hann'.trans hann, fun y hy => ?_⟩
  unfold Part.reachLatest
  rw [Part.zone_of_arb harb]
  exact hzone y hy

section
variable {p : Part} {posting : Nat}

/-- The latest start of a posting of which no claim waits ends nothing, and reports nothing. -/
theorem Part.reachLatest_nothing (h : p.awaiting posting = 0) (o : BellOrigin) :
    p.says (p.reachLatest posting o) [] ∧ (p.reachLatest posting o).bell = p.bell := by
  obtain ⟨hsays, hcore, -⟩ := p.dropPosting_spec posting
  obtain ⟨-, hended⟩ := p.dropped_counts posting
  obtain ⟨-, -, -, -, hbell, -⟩ := Part.core_fields hcore
  unfold Part.reachLatest
  dsimp only
  rw [Part.takeDrop_nothing (by omega) (by omega)]
  exact ⟨hsays, hbell⟩

/-- The latest start of a posting by hand is reported, and leaves the bell scheduler (R38). -/
theorem Part.reachLatest_manual (h : 0 < p.awaiting posting) :
    p.says (p.reachLatest posting .manual) [.bellsMissedStale .manual (p.staleOf posting) false] ∧
    (p.reachLatest posting .manual).bell = p.bell := by
  obtain ⟨hsays, hcore, -⟩ := p.dropPosting_spec posting
  obtain ⟨hstale, hended⟩ := p.dropped_counts posting
  obtain ⟨-, -, -, -, hbell, -⟩ := Part.core_fields hcore
  unfold Part.reachLatest
  dsimp only
  rw [Part.takeDrop_manual (by omega), hstale]
  exact ⟨hsays.trans (Part.says_note _ _), hbell⟩

/-- The latest start of an entry of which no claim has sounded makes it MISSED (R30). -/
theorem Part.reachLatest_misses (h : 0 < p.awaiting posting) {plan k build : Nat} {e : TimelineEntry}
    (hm : p.bell.misses plan k build (p.staleOf posting) e) :
    p.says (p.reachLatest posting (.entry plan k build))
      [.bellsMissedStale (.entry plan k build) (p.staleOf posting) true] ∧
    (p.reachLatest posting (.entry plan k build)).bell = p.bell.missed k e := by
  obtain ⟨hsays, hcore, -⟩ := p.dropPosting_spec posting
  obtain ⟨hstale, hended⟩ := p.dropped_counts posting
  obtain ⟨-, -, -, -, hbell, -⟩ := Part.core_fields hcore
  rw [← hstale, ← hbell] at hm
  unfold Part.reachLatest
  dsimp only
  rw [Part.takeDrop_misses (by omega) hm, hstale, hbell]
  exact ⟨(hsays.silent rfl rfl).trans (Part.says_note _ _), rfl⟩

/-- The latest start of an entry that is not missed leaves the bell scheduler (R30). -/
theorem Part.reachLatest_kept (h : 0 < p.awaiting posting) {plan k build : Nat}
    (hm : ∀ e, ¬ p.bell.misses plan k build (p.staleOf posting) e) :
    p.says (p.reachLatest posting (.entry plan k build))
      [.bellsMissedStale (.entry plan k build) (p.staleOf posting) false] ∧
    (p.reachLatest posting (.entry plan k build)).bell = p.bell := by
  obtain ⟨hsays, hcore, -⟩ := p.dropPosting_spec posting
  obtain ⟨hstale, hended⟩ := p.dropped_counts posting
  obtain ⟨-, -, -, -, hbell, -⟩ := Part.core_fields hcore
  rw [← hstale, ← hbell] at hm
  unfold Part.reachLatest
  dsimp only
  rw [Part.takeDrop_kept (by omega) hm, hstale]
  exact ⟨hsays.trans (Part.says_note _ _), hbell⟩

end

/-! ### A posting is rung -/

/-- The part with one more posting counted. -/
def Part.countPosting (p : Part) : Part := { p with bell := { p.bell with postings := p.bell.postings + 1 } }

/-- The claim that a posting places in every zone that takes it (R29, R35). -/
def Part.ringClaim (p : Part) (pattern duration : Nat) (origin : BellOrigin) : BellClaim :=
  { state := .pending, pattern := pattern, duration := duration, endTime := none, origin := origin,
    latest := p.inSeconds p.bell.grace, sounded := false, posting := p.bell.postings }

theorem Part.ringClaim_fresh (p : Part) (x y : Nat) (o : BellOrigin) : p.now ≤ (p.ringClaim x y o).latest := Nat.le_add_right _ _

/-- The claims of a posting placed, before its report and a latest start that comes at once. -/
def Part.ringPlaced (p : Part) (zs : List Nat) (x y : Nat) (o : BellOrigin) : Part :=
  (p.countPosting.postBells zs (p.ringClaim x y o)).1

/-- The counts of a posting. -/
def Part.ringCounts (p : Part) (zs : List Nat) (x y : Nat) (o : BellOrigin) : Posted :=
  p.answers (p.ringClaim x y o) zs ⟨0, 0, 0⟩

section
variable (p : Part) {zs : List Nat} (x y : Nat) (o : BellOrigin) {report : Part → Posted → Part}

/-- The claims that are placed: one in each zone of the list that takes it. -/
theorem Part.ringPlaced_spec (hnodup : zs.Nodup) (hlt : ∀ z ∈ zs, z < 64) :
    p.says (p.ringPlaced zs x y o) [] ∧ (p.ringPlaced zs x y o).core = p.countPosting.core ∧
    (p.countPosting.postBells zs (p.ringClaim x y o)).2 = p.ringCounts zs x y o ∧
    ∀ z, (p.ringPlaced zs x y o).zone z = if z ∈ zs then p.afterPosting (p.ringClaim x y o) z else p.zone z := by
  obtain ⟨-, hsays, hcore, hcount, hzone⟩ := Part.postBells_spec (p.ringClaim x y o) hnodup hlt p.countPosting
  exact ⟨hsays, hcore, hcount, hzone⟩

/-- With a grace the claims stay as they were placed. -/
theorem Part.ring_graced (hgrace : 0 < p.bell.grace) (hnodup : zs.Nodup) (hlt : ∀ z ∈ zs, z < 64)
    (hnow : ∀ q c, (report q c).now = q.now) :
    p.ring zs x y o report = (report (p.ringPlaced zs x y o) (p.ringCounts zs x y o), p.ringCounts zs x y o) := by
  obtain ⟨-, hcore, hcount, -⟩ := p.ringPlaced_spec x y o hnodup hlt
  rw [← hcount]
  refine Prod.ext (if_neg ?_) rfl
  change ¬ p.inSeconds p.bell.grace ≤ (report (p.ringPlaced zs x y o) _).now
  rw [hnow, (Part.core_fields hcore).1]
  simp only [Part.inSeconds, unitsPerSecond, Part.countPosting]
  omega

/-- Without a grace the latest start comes as the posting completes (R48). -/
theorem Part.ring_graceless (hgrace : p.bell.grace = 0) (hnodup : zs.Nodup) (hlt : ∀ z ∈ zs, z < 64)
    (hnow : ∀ q c, (report q c).now = q.now) :
    p.ring zs x y o report =
      ((report (p.ringPlaced zs x y o) (p.ringCounts zs x y o)).reachLatest p.bell.postings o, p.ringCounts zs x y o) := by
  obtain ⟨-, hcore, hcount, -⟩ := p.ringPlaced_spec x y o hnodup hlt
  rw [← hcount]
  refine Prod.ext (if_pos ?_) rfl
  change p.inSeconds p.bell.grace ≤ (report (p.ringPlaced zs x y o) _).now
  rw [hnow, (Part.core_fields hcore).1]
  simp [Part.inSeconds, Part.countPosting, hgrace]

/-- What a posting makes of the zones: a claim stays where its latest start leaves it (R29, R35, R48). -/
theorem Part.zone_ring (hnodup : zs.Nodup) (hlt : ∀ z ∈ zs, z < 64)
    (hreport : ∀ q c, (report q c).now = q.now ∧ (report q c).arb = q.arb) {z : Nat} (hz : z < 64) {placed : Zone}
    (hplaced : (if z ∈ zs then p.afterPosting (p.ringClaim x y o) z else p.zone z) = placed) :
    (0 < p.bell.grace ∨ placed.awaits p.bell.postings = false → (p.ring zs x y o report).1.zone z = placed) ∧
    (p.bell.grace = 0 → placed.awaits p.bell.postings = true → ((p.ring zs x y o report).1.zone z).bell = none) := by
  obtain ⟨-, -, -, hzone⟩ := p.ringPlaced_spec x y o hnodup hlt
  have hrep : (report (p.ringPlaced zs x y o) (p.ringCounts zs x y o)).zone z = placed :=
    ((Part.zone_of_arb (hreport _ _).2 z).trans (hzone z)).trans hplaced
  rcases Nat.eq_zero_or_pos p.bell.grace with hgrace | hgrace
  · rw [p.ring_graceless x y o hgrace hnodup hlt fun q c => (hreport q c).1]
    obtain ⟨-, hreached⟩ := (report (p.ringPlaced zs x y o) (p.ringCounts zs x y o)).reachLatest_zones p.bell.postings o
    obtain ⟨hends, hstays⟩ := hreached z hz
    rw [hrep] at hends hstays
    exact ⟨fun h => hstays (h.resolve_left (by omega)), fun _ => hends⟩
  · rw [p.ring_graced x y o hgrace hnodup hlt fun q c => (hreport q c).1]
    exact ⟨fun _ => hrep, fun h => absurd h (by omega)⟩

end

/-- A posting leaves the announcements when its report does. -/
theorem Part.ann_ring (p : Part) {zs : List Nat} (x y : Nat) (o : BellOrigin) {report : Part → Posted → Part}
    (hnodup : zs.Nodup) (hlt : ∀ z ∈ zs, z < 64) (hreport : ∀ q c, (report q c).now = q.now ∧ (report q c).ann = q.ann) :
    (p.ring zs x y o report).1.ann = p.ann := by
  obtain ⟨⟨hann, -⟩, -⟩ := p.ringPlaced_spec x y o hnodup hlt
  have hrep := (hreport (p.ringPlaced zs x y o) (p.ringCounts zs x y o)).2.trans hann
  rcases Nat.eq_zero_or_pos p.bell.grace with hgrace | hgrace
  · rw [p.ring_graceless x y o hgrace hnodup hlt fun q c => (hreport q c).1]
    exact (Part.reachLatest_zones _ _ _).1.trans hrep
  · rw [p.ring_graced x y o hgrace hnodup hlt fun q c => (hreport q c).1]
    exact hrep

/-! ### The claims of a posting in its zones -/

section
variable {p : Part} {c : BellClaim} {z : Nat}

theorem Part.afterPosting_refused (h : p.takesBell z = false) (c : BellClaim) :
    p.afterPosting c z = p.zone z ∧ p.bellAnswer c z = .refused := by
  simp [Part.afterPosting, Part.bellAnswer, h]

/-- A claim that is posted sounds, or it waits as it was posted (R44, R45). -/
theorem Part.afterPosting_taken (h : p.takesBell z = true) (hc : c.state = .pending) (hnow : p.now ≤ c.latest) :
    ((p.zone z).soundsBell (p.able z) = true →
      (p.afterPosting c z).bell = some (c.begun p.now) ∧ p.bellAnswer c z = .sounding) ∧
    ((p.zone z).soundsBell (p.able z) = false →
      (p.afterPosting c z).bell = some c ∧ p.bellAnswer c z = .pending) := by
  have hbell : (p.afterPosting c z).bell = some (if (p.zone z).soundsBell (p.able z) = true then c.begun p.now else c) := by
    rw [Part.afterPosting, if_pos h, Zone.bell_posted _ _ hc hnow]
  unfold Part.bellAnswer
  rw [if_pos h, hbell]
  exact ⟨fun hs => by simp [hs, BellClaim.begun], fun hs => by simp [hs, hc]⟩

theorem Part.closedZone_of_able (h : p.able z = true) : p.closedZone z = false := by
  simp only [Part.able, Bool.and_eq_true] at h
  obtain ⟨howner, hclear⟩ := h
  cases ho : p.owner z with
  | none => simp [ho] at howner
  | some pos => simp [Part.closedZone, ho, hclear]

/-- Without an announcement in the zone a claim sounds where the zone is able to, is not masked and holds no drill (R44). -/
theorem Zone.soundsBell_iff {able : Bool} {zone : Zone} (hann : zone.ann = none) :
    zone.soundsBell able = true ↔ zone.bellMask = false ∧ able = true ∧ zone.drill = none := by
  simp [Zone.soundsBell, hann, and_comm, and_left_comm]

/-- An enabled zone that is able to sound, unmasked and free of higher claims sounds the claim (R44, R45). -/
theorem Part.afterPosting_sounds (hc : c.state = .pending) (hnow : p.now ≤ c.latest) (hon : (p.zone z).bellOn = true)
    (hmask : (p.zone z).bellMask = false) (hable : p.able z = true) (hann : (p.zone z).ann = none)
    (hdrill : (p.zone z).drill = none) :
    (p.afterPosting c z).commanded = .pattern c.pattern ∧ (p.afterPosting c z).bell = some (c.begun p.now) := by
  have htakes : p.takesBell z = true := by simp [Part.takesBell, hon, Part.closedZone_of_able hable]
  have hsounds := (Zone.soundsBell_iff (able := p.able z) hann).mpr ⟨hmask, hable, hdrill⟩
  refine ⟨?_, ((Part.afterPosting_taken htakes hc hnow).1 hsounds).1⟩
  rw [Part.afterPosting, if_pos htakes]
  exact Zone.commanded_posted _ hc hnow hsounds hann

theorem Zone.awaits_of_bell {zone : Zone} (h : zone.bell = some c) (hc : c.state = .pending) : zone.awaits c.posting = true := by
  simp [Zone.awaits, h, hc]

/-- A zone whose claim is of another posting awaits none of this one. -/
theorem Zone.not_awaits {zone : Zone} {n : Nat} (h : ∀ b, zone.bell = some b → b.posting ≠ n) : zone.awaits n = false := by
  cases hb : zone.bell with
  | none => simp [Zone.awaits, hb]
  | some b => simp [Zone.awaits, hb, h b hb]

/-- A zone that sounds its claim awaits none. -/
theorem Zone.not_awaits_of_begun {zone : Zone} {now : Nat} (h : zone.bell = some (c.begun now)) (n : Nat) :
    zone.awaits n = false := by
  simp [Zone.awaits, h, BellClaim.begun]

/-- A zone without a claim of the posting awaits one exactly where it has answered PENDING, as it was posted. -/
theorem Part.awaits_afterPosting (hc : c.state = .pending) (hnow : p.now ≤ c.latest)
    (hfresh : (p.zone z).awaits c.posting = false) :
    (p.bellAnswer c z = .pending → (p.afterPosting c z).awaits c.posting = true ∧ (p.afterPosting c z).bell = some c) ∧
    (p.bellAnswer c z ≠ .pending → (p.afterPosting c z).awaits c.posting = false) := by
  cases ht : p.takesBell z with
  | false =>
    obtain ⟨hafter, hanswer⟩ := Part.afterPosting_refused ht c
    rw [hafter, hanswer]
    exact ⟨nofun, fun _ => hfresh⟩
  | true =>
    obtain ⟨hsounds, hwaits⟩ := Part.afterPosting_taken ht hc hnow
    cases hs : (p.zone z).soundsBell (p.able z) with
    | true =>
      obtain ⟨hbell, hanswer⟩ := hsounds hs
      rw [hanswer]
      exact ⟨nofun, fun _ => Zone.not_awaits_of_begun hbell _⟩
    | false =>
      obtain ⟨hbell, hanswer⟩ := hwaits hs
      rw [hanswer]
      exact ⟨fun _ => ⟨Zone.awaits_of_bell hbell hc, hbell⟩, fun h => absurd rfl h⟩

end

theorem selected_nodup (n : Nat) (rs : List Range) : (selected n rs).Nodup := List.nodup_range.filter _

theorem lt_of_mem_selected {n z : Nat} {rs : List Range} (h : z ∈ selected n rs) : z < n :=
  List.mem_range.mp (List.mem_filter.mp h).1

/-- Where no claim carried the number of a posting before, the claims of it that wait are those that have answered PENDING, and
none of them has sounded. -/
theorem Part.ringPlaced_awaiting (p : Part) (rs : List Range) (x y : Nat) (o : BellOrigin)
    (hfresh : ∀ z < 64, (p.zone z).awaits p.bell.postings = false) {q : Part}
    (hq : q.zone = (p.ringPlaced (selected 64 rs) x y o).zone) :
    q.awaiting p.bell.postings = (p.ringCounts (selected 64 rs) x y o).pending ∧
    q.staleOf p.bell.postings = (p.ringCounts (selected 64 rs) x y o).pending := by
  have hpending : (p.ringCounts (selected 64 rs) x y o).pending = ((List.range 64).filter fun z =>
      decide (p.bellAnswer (p.ringClaim x y o) z = .pending) && rs.any fun r => r.has z).length := by
    simp only [Part.ringCounts, Part.answers, Nat.zero_add, selected, upTo, List.countP_eq_length_filter, List.filter_filter]
  obtain ⟨-, -, -, hzone⟩ := p.ringPlaced_spec x y o (selected_nodup 64 rs) fun z => lt_of_mem_selected
  have key : ∀ z < 64, (decide (p.bellAnswer (p.ringClaim x y o) z = .pending) && rs.any fun r => r.has z) =
        (q.zone z).awaits p.bell.postings ∧
      ((q.zone z).awaits p.bell.postings = true → (q.zone z).bell = some (p.ringClaim x y o)) := by
    intro z hz
    have hmem : z ∈ selected 64 rs ↔ (rs.any fun r => r.has z) = true := by simp [selected, upTo, hz]
    rw [hq, hzone z]
    by_cases hin : z ∈ selected 64 rs
    · obtain ⟨hwaits, hnot⟩ := Part.awaits_afterPosting (c := p.ringClaim x y o) rfl (p.ringClaim_fresh x y o) (hfresh z hz)
      rw [if_pos hin, hmem.mp hin]
      by_cases ha : p.bellAnswer (p.ringClaim x y o) z = .pending
      · obtain ⟨haw, hbell⟩ := hwaits ha
        exact ⟨by rw [decide_eq_true ha]; exact haw.symm, fun _ => hbell⟩
      · have haw := hnot ha
        exact ⟨by rw [decide_eq_false ha]; exact haw.symm, fun h => absurd (haw.symm.trans h) (by decide)⟩
    · rw [if_neg hin, Bool.eq_false_iff.mpr fun h => hin (hmem.mpr h), hfresh z hz]
      exact ⟨by simp, nofun⟩
  rw [hpending]
  refine ⟨congrArg List.length (List.filter_congr fun z hz => ((key z (List.mem_range.mp hz)).1).symm),
    congrArg List.length (List.filter_congr fun z hz => ?_)⟩
  obtain ⟨hawaits, hbell⟩ := key z (List.mem_range.mp hz)
  rw [hawaits]
  cases haw : (q.zone z).awaits p.bell.postings with
  | true => rw [hbell haw]; simp [Part.ringClaim]
  | false =>
    simp only [Zone.awaits] at haw
    cases hb : (q.zone z).bell with
    | none => rfl
    | some b => simp only [hb, Option.any_some] at haw ⊢; simp [haw]

end Sys2Proof.Machine
end

section
/-! SUPPORT. BELL_ENTRY_REACHED, LATEST_START and CLAIM_END_TIME (R29, R30, R47, R48). -/

namespace Sys2Proof.Machine

/-! ### An event that leaves the announcements -/

/-- An event that leaves the announcements leads to its effect on the part. -/
theorem event_settled {s : State} (hp : s.powered = true) (hs : s.part.settled) {f : Part → Part} {q : Part}
    (hf : f s.part = q) (ha : q.ann = s.part.ann) : (event f s).part = { q with outbox := [] } := by
  rw [event_part hp, hf, Part.settle_same hs ha]

/-! ### An entry fires -/

/-- The key of an entry that fires stands in the fired record (R27). -/
def Part.keyed (p : Part) (e : TimelineEntry) : Part :=
  { p with bell := { p.bell with fired := p.bell.fired ++ [FiredKey.mk e.entry.time e.entry.group false] } }

/-- The posting of an entry is reported, and counted in the entry (R29). -/
def Part.reportFired (p : Part) (i : Nat) (e : TimelineEntry) (q : Part) (n : Posted) : Part :=
  (q.setEntry i .fired (some (n.sounding + n.pending))).note
    (.bellFired none (p.bell.timeline.plan.getD 0) i p.bell.timeline.build e.entry n.sounding n.pending n.refused)

/-- The origin of the claims of an entry (R42). -/
def Part.entryOrigin (p : Part) (i : Nat) : BellOrigin := .entry (p.bell.timeline.plan.getD 0) i p.bell.timeline.build

/-- The claim that an entry places. -/
def Part.entryClaim (p : Part) (i : Nat) (e : TimelineEntry) : BellClaim :=
  p.ringClaim e.entry.pattern e.entry.duration (p.entryOrigin i)

/-- The counts of an entry's posting. -/
def Part.entryCounts (p : Part) (i : Nat) (e : TimelineEntry) : Posted :=
  p.answers (p.entryClaim i e) (p.groupZones e.entry.group) ⟨0, 0, 0⟩

/-- The part in which an entry's claims stand, before its report. -/
def Part.entryPlaced (p : Part) (i : Nat) (e : TimelineEntry) : Part :=
  (p.keyed e).ringPlaced (p.groupZones e.entry.group) e.entry.pattern e.entry.duration (p.entryOrigin i)

theorem Part.afterPosting_keyed (p : Part) (e : TimelineEntry) (c : BellClaim) (z : Nat) :
    (p.keyed e).afterPosting c z = p.afterPosting c z :=
  (Part.afterPosting_congr (p := p) (q := p.keyed e) ⟨rfl, rfl, rfl, rfl⟩ rfl c).1

theorem Part.reportFired_leaves (p : Part) (i : Nat) (e : TimelineEntry) (q : Part) (n : Posted) :
    (p.reportFired i e q n).now = q.now ∧ (p.reportFired i e q n).arb = q.arb ∧ (p.reportFired i e q n).ann = q.ann :=
  ⟨rfl, rfl, rfl⟩

theorem Part.groupZones_nodup (p : Part) (g : Nat) : (p.groupZones g).Nodup := selected_nodup _ _

theorem Part.groupZones_lt (p : Part) (g : Nat) : ∀ z ∈ p.groupZones g, z < 64 := fun _ => lt_of_mem_selected

section
variable {p : Part} {i : Nat} {e : TimelineEntry} (he : p.bell.timeline.entries[i]? = some e)
include he

theorem Part.fireEntry_full (hfull : 480 ≤ p.bell.fired.length) : (p.fireEntry i false).1 =
    (p.setEntry i .missed none).note
      (.bellsMissedLimit (p.bell.timeline.plan.getD 0) i e.entry.time e.entry.group) := by
  simp [Part.fireEntry, Part.entryAt, he, hfull]

theorem Part.fireEntry_rings (hroom : p.bell.fired.length < 480) : (p.fireEntry i false).1 =
    ((p.keyed e).ring (p.groupZones e.entry.group) e.entry.pattern e.entry.duration (p.entryOrigin i) (p.reportFired i e)).1 := by
  simp only [Part.fireEntry, Part.entryAt, he, if_neg (Nat.not_le.mpr hroom)]
  rfl

/-- What a firing leaves of announcements and zones (R29, R45, R48). -/
theorem Part.fireEntry_zones (hroom : p.bell.fired.length < 480) : (p.fireEntry i false).1.ann = p.ann ∧
    ∀ z < 64, ∀ placed : Zone,
      (if z ∈ p.groupZones e.entry.group then p.afterPosting (p.entryClaim i e) z else p.zone z) = placed →
      (0 < p.bell.grace ∨ placed.awaits p.bell.postings = false → (p.fireEntry i false).1.zone z = placed) ∧
      (p.bell.grace = 0 → placed.awaits p.bell.postings = true → ((p.fireEntry i false).1.zone z).bell = none) := by
  rw [Part.fireEntry_rings he hroom]
  refine ⟨(p.keyed e).ann_ring _ _ _ (p.groupZones_nodup _) (p.groupZones_lt _) fun q n => ?_, fun z hz placed hplaced => ?_⟩
  · obtain ⟨hnow, -, hann⟩ := p.reportFired_leaves i e q n
    exact ⟨hnow, hann⟩
  · refine (p.keyed e).zone_ring _ _ _ (p.groupZones_nodup _) (p.groupZones_lt _) (fun q n => ?_) hz ?_
    · obtain ⟨hnow, harb, -⟩ := p.reportFired_leaves i e q n
      exact ⟨hnow, harb⟩
    · rw [p.afterPosting_keyed]
      exact hplaced

omit he in
/-- An entry's report: the notice, and what the bell scheduler holds after it. -/
theorem Part.reportFired_spec (p : Part) (i : Nat) (e : TimelineEntry) :
    p.says (p.reportFired i e (p.entryPlaced i e) (p.entryCounts i e))
      [.bellFired none (p.bell.timeline.plan.getD 0) i p.bell.timeline.build e.entry
        (p.entryCounts i e).sounding (p.entryCounts i e).pending (p.entryCounts i e).refused] ∧
    (p.reportFired i e (p.entryPlaced i e) (p.entryCounts i e)).bell = p.bell.marked i .fired
      (some ((p.entryCounts i e).sounding + (p.entryCounts i e).pending))
      (p.bell.fired ++ [FiredKey.mk e.entry.time e.entry.group false]) (p.bell.postings + 1) := by
  obtain ⟨hsays, hcore, -, -⟩ := (p.keyed e).ringPlaced_spec e.entry.pattern e.entry.duration (p.entryOrigin i)
    (p.groupZones_nodup e.entry.group) (p.groupZones_lt e.entry.group)
  obtain ⟨-, -, -, -, hbell, -⟩ := Part.core_fields hcore
  refine ⟨(hsays.of_silent rfl rfl).trans ⟨rfl, rfl⟩, ?_⟩
  have hmarked : (p.reportFired i e (p.entryPlaced i e) (p.entryCounts i e)).bell = (p.entryPlaced i e).bell.marked i .fired
      (some ((p.entryCounts i e).sounding + (p.entryCounts i e).pending)) (p.entryPlaced i e).bell.fired
      (p.entryPlaced i e).bell.postings := rfl
  rw [hmarked, show (p.entryPlaced i e).bell = _ from hbell]
  rfl

/-- A firing with a grace: its notice, and the entry FIRED (R29). -/
theorem Part.fireEntry_graced (hroom : p.bell.fired.length < 480) (hgrace : 0 < p.bell.grace) :
    p.says (p.fireEntry i false).1 [.bellFired none (p.bell.timeline.plan.getD 0) i p.bell.timeline.build e.entry
      (p.entryCounts i e).sounding (p.entryCounts i e).pending (p.entryCounts i e).refused] ∧
    (p.fireEntry i false).1.bell = p.bell.marked i .fired
      (some ((p.entryCounts i e).sounding + (p.entryCounts i e).pending))
      (p.bell.fired ++ [FiredKey.mk e.entry.time e.entry.group false]) (p.bell.postings + 1) := by
  rw [Part.fireEntry_rings he hroom, (p.keyed e).ring_graced _ _ _ hgrace (p.groupZones_nodup _) (p.groupZones_lt _)
    (report := p.reportFired i e) fun _ _ => rfl]
  exact p.reportFired_spec i e

/-- What the bell scheduler holds after a firing without a grace: the entry is MISSED, and its key with it, where none of its
claims sounds and some has been dropped (R30). -/
def Bells.firedAtOnce (b : Bells) (i : Nat) (e : TimelineEntry) (n : Posted) : Bells :=
  b.marked i (if n.sounding = 0 ∧ 0 < n.pending then .missed else .fired) (some (n.sounding + n.pending))
    ((b.fired ++ [FiredKey.mk e.entry.time e.entry.group false]).map fun k =>
      if (n.sounding = 0 ∧ 0 < n.pending) ∧ k.time = e.entry.time ∧ k.group = e.entry.group then { k with missed := true } else k)
    (b.postings + 1)

omit he in
/-- Where no entry is missed the firing stands as it was reported. -/
theorem Bells.firedAtOnce_kept (b : Bells) (i : Nat) (e : TimelineEntry) {n : Posted} (h : ¬(n.sounding = 0 ∧ 0 < n.pending)) :
    b.firedAtOnce i e n = b.marked i .fired (some (n.sounding + n.pending))
      (b.fired ++ [FiredKey.mk e.entry.time e.entry.group false]) (b.postings + 1) := by
  simp only [Bells.firedAtOnce, h, if_false, false_and, List.map_id']

omit he in
/-- The miss of an entry that has just fired. -/
theorem Bells.firedAtOnce_missed (b : Bells) (i : Nat) (e : TimelineEntry) {n : Posted} (h : n.sounding = 0 ∧ 0 < n.pending)
    (x : TimelineEntry) (hx : x.entry = e.entry) :
    b.firedAtOnce i e n = (b.marked i .fired (some (n.sounding + n.pending))
      (b.fired ++ [FiredKey.mk e.entry.time e.entry.group false]) (b.postings + 1)).missed i x := by
  simp only [Bells.firedAtOnce, h, and_self, if_true, true_and, Bells.missed, Bells.marked, hx, List.modify_modify_eq,
    Function.comp_def]

/-- A firing without a grace: the claims that cannot sound are dropped at once, and reported after the firing (R30, R48). -/
theorem Part.fireEntry_graceless (hroom : p.bell.fired.length < 480) (hgrace : p.bell.grace = 0) {plan : Nat}
    (hplan : p.bell.timeline.plan = some plan) (hfresh : ∀ z < 64, (p.zone z).awaits p.bell.postings = false) :
    let n := p.entryCounts i e
    p.says (p.fireEntry i false).1
      (.bellFired none plan i p.bell.timeline.build e.entry n.sounding n.pending n.refused ::
        if n.pending = 0 then [] else [.bellsMissedStale (.entry plan i p.bell.timeline.build) n.pending
          (decide (n.sounding = 0 ∧ 0 < n.pending))]) ∧
    (p.fireEntry i false).1.bell = p.bell.firedAtOnce i e n := by
  intro n
  obtain ⟨hsays, hbell⟩ := p.reportFired_spec i e
  rw [Part.fireEntry_rings he hroom, (p.keyed e).ring_graceless _ _ _ hgrace (p.groupZones_nodup _) (p.groupZones_lt _)
    (report := p.reportFired i e) fun _ _ => rfl]
  change p.says ((p.reportFired i e (p.entryPlaced i e) n).reachLatest p.bell.postings (p.entryOrigin i)) _ ∧
    ((p.reportFired i e (p.entryPlaced i e) n).reachLatest p.bell.postings (p.entryOrigin i)).bell = _
  have hcounts : (p.reportFired i e (p.entryPlaced i e) n).awaiting p.bell.postings = n.pending ∧
      (p.reportFired i e (p.entryPlaced i e) n).staleOf p.bell.postings = n.pending :=
    (p.keyed e).ringPlaced_awaiting _ _ _ _ hfresh rfl
  change p.says (p.reportFired i e (p.entryPlaced i e) n) _ at hsays
  change (p.reportFired i e (p.entryPlaced i e) n).bell = p.bell.marked i .fired (some (n.sounding + n.pending)) _ _ at hbell
  generalize p.reportFired i e (p.entryPlaced i e) n = q at hsays hbell hcounts ⊢
  obtain ⟨hawaiting, hstale⟩ := hcounts
  simp only [hplan, Option.getD_some] at hsays
  have horigin : p.entryOrigin i = .entry plan i p.bell.timeline.build := by simp [Part.entryOrigin, hplan]
  rw [horigin]
  have hentry : q.bell.timeline.entries[i]? = some { e with state := .fired, posted := some (n.sounding + n.pending) } := by
    rw [hbell, Bells.marked_entry he]
  have hbuild : q.bell.timeline.build = p.bell.timeline.build := by rw [hbell]; rfl
  have hplan' : q.bell.timeline.plan = some plan := by rw [hbell]; exact hplan
  rcases Nat.eq_zero_or_pos n.pending with hnone | hsome
  · -- every claim sounds, or is refused
    obtain ⟨hquiet, hkept⟩ := Part.reachLatest_nothing (hawaiting.trans hnone) (.entry plan i p.bell.timeline.build)
    rw [if_pos hnone, hkept, hbell, Bells.firedAtOnce_kept _ _ _ (by omega)]
    exact ⟨hsays.trans hquiet, rfl⟩
  rw [if_neg (by omega)]
  by_cases hsound : n.sounding = 0
  · -- no claim sounds, and some is dropped
    have hm : q.bell.misses plan i p.bell.timeline.build (q.staleOf p.bell.postings) _ :=
      ⟨hbuild, hplan', hentry, rfl, by rw [hstale, hsound, Nat.zero_add]⟩
    obtain ⟨hreport, hmissed⟩ := Part.reachLatest_misses (by omega) hm
    rw [hstale] at hreport
    rw [hmissed, hbell, decide_eq_true ⟨hsound, hsome⟩]
    exact ⟨hsays.trans hreport, (Bells.firedAtOnce_missed _ _ _ ⟨hsound, hsome⟩ _ rfl).symm⟩
  · -- some claim sounds, and some is dropped
    have hm : ∀ x, ¬ q.bell.misses plan i p.bell.timeline.build (q.staleOf p.bell.postings) x := by
      rintro x ⟨-, -, hx, -, hposted⟩
      obtain rfl := Option.some.inj (hentry.symm.trans hx)
      simp only [hstale, Option.some.injEq] at hposted
      omega
    obtain ⟨hreport, hkept⟩ := Part.reachLatest_kept (by omega) hm
    rw [hstale] at hreport
    rw [hkept, hbell, decide_eq_false (by omega), Bells.firedAtOnce_kept _ _ _ (by omega)]
    exact ⟨hsays.trans hreport, rfl⟩

/-- What a firing without a grace makes of a zone: a claim that does not sound is dropped (R45, R48). -/
theorem Part.fireEntry_graceless_zone (hroom : p.bell.fired.length < 480) (hgrace : p.bell.grace = 0) {z : Nat} (hz : z < 64)
    (hfresh : (p.zone z).awaits p.bell.postings = false) :
    (¬(z ∈ p.groupZones e.entry.group ∧ p.takesBell z = true) → (p.fireEntry i false).1.zone z = p.zone z) ∧
    (z ∈ p.groupZones e.entry.group → p.takesBell z = true →
      ((p.zone z).soundsBell (p.able z) = true →
        (p.fireEntry i false).1.zone z = p.afterPosting (p.entryClaim i e) z) ∧
      ((p.zone z).soundsBell (p.able z) = false → ((p.fireEntry i false).1.zone z).bell = none)) := by
  obtain ⟨-, hzones⟩ := Part.fireEntry_zones he hroom
  obtain ⟨hstays, hends⟩ := hzones z hz _ rfl
  refine ⟨fun hnot => ?_, fun hin htakes => ?_⟩
  · have hplaced : (if z ∈ p.groupZones e.entry.group then p.afterPosting (p.entryClaim i e) z else p.zone z) = p.zone z := by
      split
      next hin => exact (Part.afterPosting_refused (Bool.eq_false_iff.mpr fun h => hnot ⟨hin, h⟩) _).1
      next => rfl
    rw [hplaced] at hstays
    exact hstays (.inr hfresh)
  · rw [if_pos hin] at hstays hends
    obtain ⟨hsounds, hwaits⟩ := Part.afterPosting_taken (c := p.entryClaim i e) htakes rfl (p.ringClaim_fresh _ _ _)
    refine ⟨fun h => hstays (.inr (Zone.not_awaits_of_begun (hsounds h).1 _)),
      fun h => hends hgrace (Zone.awaits_of_bell (hwaits h).1 rfl)⟩

end

/-! ### A latest start and an end time -/

/-- A PENDING claim whose latest start has come: the posting is due, with the origin of one of its claims (R48). -/
theorem Part.latestStart_due {p : Part} {posting z : Nat} {b : BellClaim} (hz : z < 64) (hb : (p.zone z).bell = some b)
    (hposting : b.posting = posting) (hpending : b.state = .pending) (hlatest : b.latest ≤ p.now) :
    ∃ y < 64, ∃ c, (p.zone y).bell = some c ∧ c.posting = posting ∧ p.latestStart posting = p.reachLatest posting c.origin := by
  unfold Part.latestStart
  cases ho : p.postingDue posting with
  | none =>
    have := List.findSome?_eq_none_iff.mp ho z (List.mem_range.mpr hz)
    simp [hb, hposting, hpending, hlatest] at this
  | some o =>
    obtain ⟨y, hy, hc⟩ := List.exists_of_findSome?_eq_some ho
    simp only [Option.bind_eq_some_iff, Option.ite_none_right_eq_some, Bool.and_eq_true, beq_iff_eq, Option.some.injEq] at hc
    obtain ⟨c, hc, ⟨⟨hposting, -⟩, -⟩, rfl⟩ := hc
    exact ⟨y, List.mem_range.mp hy, c, hc, hposting, rfl⟩

theorem Part.awaiting_pos {p : Part} {posting z : Nat} (hz : z < 64) (h : (p.zone z).awaits posting = true) :
    0 < p.awaiting posting :=
  List.length_pos_of_mem (List.mem_filter.mpr ⟨List.mem_range.mpr hz, h⟩)

/-! ### The events -/

/-- The bell scheduler and the clock beside it. -/
theorem Part.clock_of_offBells {p q : Part} (h : q.offBells = p.offBells) : q.clock = { p with bell := q.bell }.clock := by
  have hw := Part.watch_of_offBells h
  simp only [Part.watch, Prod.mk.injEq] at hw
  obtain ⟨h1, h2, h3, h4, h5, h6⟩ := hw
  simp only [Part.clock, h1, h2, h3, h4, h5, h6]

theorem Part.entryDue_of {p : Part} {i : Nat} {e : TimelineEntry} (hset : p.time.quality = .set)
    (hdate : p.bell.timeline.date = some p.backup.day) (he : p.bell.timeline.entries[i]? = some e) (hw : e.state = .waiting)
    (htime : e.entry.time * 10 = p.backup.tod) : p.entryDue i = true := by
  simp [Part.entryDue, Part.isSet_of_set hset, hdate, Part.entryAt, he, hw, BellEntry.moment, htime]

/-- A reached entry fires, in one event (R29). -/
theorem exec_bellEntryReached {s : State} {i : Nat} (h : s.part.entryDue i = true) :
    ∃ f : Part → Part, exec (.bellEntryReached i) s = .next (event f s) ∧ f s.part = (s.part.fireEntry i false).1 :=
  ⟨_, rfl, if_pos h⟩

section
variable {s : State} (hp : s.powered = true) (hs : s.part.settled)
include hp hs

section
variable {i : Nat} {e : TimelineEntry} (hdue : s.part.entryDue i = true) (he : s.part.bell.timeline.entries[i]? = some e)
include hdue he

/-- A reached entry whose key finds room: what lies outside, the clock, and the zones (R29). -/
theorem entryReached_fires (hroom : s.part.bell.fired.length < 480) : ∃ t, exec (.bellEntryReached i) s = .next t ∧
    State.sameOutside s t ∧ t.part.bell = (s.part.fireEntry i false).1.bell ∧
    t.part.clock = { s.part with bell := t.part.bell }.clock ∧ t.part.zone = (s.part.fireEntry i false).1.zone ∧
    ∀ l, s.part.says (s.part.fireEntry i false).1 l → s.part.outbox = [] → State.reports s t [] l := by
  obtain ⟨f, hexec, hf⟩ := exec_bellEntryReached hdue
  have hpart := event_settled hp hs hf (Part.fireEntry_zones he hroom).1
  refine ⟨_, hexec, event_sameOutside f s, ?_, ?_, ?_, fun l hl ho => event_reports hp hs ho (hf.symm ▸ hl)⟩ <;> rw [hpart]
  · exact Part.clock_of_offBells (Part.offBells_fireEntry s.part i false)
  · rfl

end

/-- The latest start of a posting: its PENDING claims end, and no other zone changes (R48). -/
theorem latestStart_event {posting z : Nat} {b : BellClaim} (hz : z < 64) (hb : (s.part.zone z).bell = some b)
    (hposting : b.posting = posting) (hpending : b.state = .pending) (hlatest : b.latest ≤ s.part.now) :
    ∃ t, exec (.latestStart posting) s = .next t ∧ State.sameOutside s t ∧
      (∀ y < 64, ((s.part.zone y).awaits posting = true → (t.part.zone y).bell = none) ∧
        ((s.part.zone y).awaits posting = false → t.part.zone y = s.part.zone y)) ∧
      ((∀ y < 64, ∀ c, (s.part.zone y).bell = some c → c.posting = posting → c.origin = b.origin) →
        t.part.bell = (s.part.reachLatest posting b.origin).bell ∧
        ∀ l, s.part.says (s.part.reachLatest posting b.origin) l → s.part.outbox = [] → State.reports s t [] l) := by
  obtain ⟨y, hy, c, hc, hcp, hlate⟩ := Part.latestStart_due hz hb hposting hpending hlatest
  obtain ⟨hann, hzones⟩ := s.part.reachLatest_zones posting c.origin
  have hpart := event_settled hp hs hlate hann
  refine ⟨_, rfl, event_sameOutside _ s, fun y hy => ?_, fun horigin => ?_⟩
  · rw [hpart]; exact hzones y hy
  · rw [horigin y hy c hc hcp] at hlate hpart
    refine ⟨?_, fun l hl ho => event_reports hp hs ho (hlate.symm ▸ hl)⟩
    rw [hpart]

/-- The end time of a claim ends it, unreported (R47). -/
theorem claimEndTime_event {z e : Nat} {b : BellClaim} (hz : z < 64) (hb : (s.part.zone z).bell = some b)
    (hsounding : b.state = .sounding) (hend : b.endTime = some e) (hpast : e ≤ s.part.now) :
    ∃ t, exec (.claimEndTime z) s = .next t ∧ State.sameOutside s t ∧ t.part.core = s.part.core ∧
      (t.part.zone z).bell = none ∧ (∀ y < 64, y ≠ z → t.part.zone y = s.part.zone y) ∧
      (s.part.outbox = [] → State.reports s t [] []) := by
  have hdue : s.part.bellDue z = true := by simp [Part.bellDue, hb, hsounding, hend, hpast]
  have hf : Part.claimEndTime z s.part = s.part.endBell z := if_pos hdue
  have hsays := s.part.says_endBell z
  have hpart := event_settled hp hs hf hsays.1
  refine ⟨_, rfl, event_sameOutside _ s, ?_, ?_, fun y _ hy => ?_, fun ho => event_reports hp hs ho (hf.symm ▸ hsays)⟩ <;>
    rw [hpart]
  · exact Part.core_endBell s.part z
  · exact s.part.bell_endBell hz
  · exact s.part.zone_endBell_ne (Ne.symm hy)

end

/-- Settles O48: firings with room by whether there is a grace, a full fired record, latest starts and end times. -/
theorem bellEvents : Obligations.BellEvents := by
  intro s hp hs
  refine ⟨fun i e hset hdate he hw htime => ?_, fun posting z b hz hb hposting hpending hlatest => ?_,
    fun z e b hz hb hsounding hend hpast => claimEndTime_event hp hs hz hb hsounding hend hpast⟩
  · have hdue := Part.entryDue_of hset hdate he hw htime
    have hnow := s.part.ringClaim_fresh e.entry.pattern e.entry.duration (s.part.entryOrigin i)
    have hsum := s.part.answers_sum (s.part.entryClaim i e) (s.part.groupZones e.entry.group)
    refine ⟨fun hgrace hroom => ?_, fun plan hgrace hroom hplan hfresh => ?_, fun hfull => ?_⟩
    · -- with a grace
      obtain ⟨hsays, hbell⟩ := Part.fireEntry_graced he hroom hgrace
      obtain ⟨t, hexec, hout, htbell, hclock, hzone, hreports⟩ := entryReached_fires hp hs hdue he hroom
      obtain ⟨-, hzones⟩ := Part.fireEntry_zones he hroom
      rw [hbell] at htbell
      refine ⟨t, _, _, _, _, hexec, hout, fun k hk => ?_, hsum, rfl, hreports _ hsays, hclock, ?_, ?_, ?_, fun z hz hnot => ?_,
        fun z hin hon hmask hable hann hdrill => ?_⟩
      · rw [htbell, Bells.marked_entry_ne _ (Ne.symm hk)]
      · rw [htbell]; rfl
      · rw [htbell]; rfl
      · rw [htbell]; exact Bells.marked_entry he _ _ _ _
      · rw [hzone, (hzones z hz _ rfl).1 (.inl hgrace), if_neg hnot]
      · obtain ⟨hcommanded, hsounds⟩ := Part.afterPosting_sounds (c := s.part.entryClaim i e) rfl hnow hon hmask
            hable hann hdrill
        rw [hzone, (hzones z (s.part.groupZones_lt _ z hin) _ rfl).1 (.inl hgrace), if_pos hin]
        exact ⟨hcommanded, _, hsounds, rfl, rfl, rfl⟩
    · -- without one
      have hawaits : ∀ z < 64, (s.part.zone z).awaits s.part.bell.postings = false := fun z hz =>
        Zone.not_awaits (hfresh z hz)
      obtain ⟨hsays, hbell⟩ := Part.fireEntry_graceless he hroom hgrace hplan hawaits
      obtain ⟨t, hexec, hout, htbell, hclock, hzone, hreports⟩ := entryReached_fires hp hs hdue he hroom
      obtain ⟨-, hzones⟩ := Part.fireEntry_zones he hroom
      rw [hbell] at htbell
      refine ⟨t, _, _, _, hexec, hout, fun k hk => ?_, hsum, hreports _ hsays, hclock, ?_, ?_, ?_, fun z hz => ?_⟩
      · rw [htbell, Bells.firedAtOnce, Bells.marked_entry_ne _ (Ne.symm hk)]
      · rw [htbell]; rfl
      · rw [htbell]; rfl
      · rw [htbell]; exact Bells.marked_entry he _ _ _ _
      · obtain ⟨hnot, htakes⟩ := Part.fireEntry_graceless_zone he hroom hgrace hz (hawaits z hz)
        rw [hzone]
        refine ⟨fun h => hnot ?_, fun ⟨hin, hon, hopen⟩ => ⟨fun ⟨hmask, hable, hann, hdrill⟩ => ?_, fun hquiet hann => ?_⟩⟩
        · simpa [Part.takesBell] using h
        · obtain ⟨hcommanded, hsounds⟩ := Part.afterPosting_sounds (c := s.part.entryClaim i e) rfl hnow hon hmask
            hable hann hdrill
          rw [(htakes hin (by simp [Part.takesBell, hon, hopen])).1 ((Zone.soundsBell_iff hann).mpr ⟨hmask, hable, hdrill⟩)]
          exact ⟨hcommanded, _, hsounds, rfl, rfl⟩
        · refine (htakes hin (by simp [Part.takesBell, hon, hopen])).2 (Bool.eq_false_iff.mpr fun h => hquiet ?_)
          obtain ⟨hmask, hable, hdrill⟩ := (Zone.soundsBell_iff hann).mp h
          exact ⟨hmask, hable, hann, hdrill⟩
    · -- a full fired record
      obtain ⟨f, hexec, hf⟩ := exec_bellEntryReached hdue
      rw [Part.fireEntry_full he hfull] at hf
      have hpart := event_settled hp hs hf rfl
      refine ⟨_, hexec, event_sameOutside f s, fun k hk => ?_, ?_, ?_, ?_,
        fun ho => event_reports hp hs ho (hf.symm ▸ ⟨rfl, rfl⟩)⟩ <;> rw [hpart]
      · exact Bells.marked_entry_ne s.part.bell (Ne.symm hk) .missed none s.part.bell.fired s.part.bell.postings
      · rfl
      · rfl
      · exact Bells.marked_entry he .missed none s.part.bell.fired s.part.bell.postings
  · obtain ⟨t, hexec, hout, hzones, hrest⟩ := latestStart_event hp hs hz hb hposting hpending hlatest
    have hsome := Part.awaiting_pos hz (hposting ▸ Zone.awaits_of_bell hb hpending)
    refine ⟨t, hexec, hout, hzones, fun horigin => ⟨fun hmanual => ?_,
      fun plan k build hentry => ⟨fun hkept => ?_, fun x hm => ?_⟩⟩⟩
    all_goals obtain ⟨htbell, hreports⟩ := hrest horigin
    · rw [hmanual] at htbell hreports ⊢
      obtain ⟨hsays, hbell⟩ := Part.reachLatest_manual hsome
      exact ⟨htbell.trans hbell, hreports _ hsays⟩
    · rw [hentry] at htbell hreports ⊢
      obtain ⟨hsays, hbell⟩ := Part.reachLatest_kept hsome hkept
      exact ⟨htbell.trans hbell, hreports _ hsays⟩
    · rw [hentry] at htbell hreports ⊢
      obtain ⟨hsays, hbell⟩ := Part.reachLatest_misses hsome hm
      exact ⟨hreports _ hsays, htbell.trans hbell⟩

end Sys2Proof.Machine
end

section
/-! SUPPORT. BELL_RING and BELL_SILENCE (R35, R36). -/

namespace Sys2Proof.Machine

/-- The zones that a range within 0 to 63 selects are its numbers. -/
theorem zonesOf_eq_toList {r : Range} (h : r.last ≤ 63) : zonesOf r = r.toList := by
  have hzones : (zonesOf r).Pairwise (· < ·) := List.pairwise_lt_range.filter _
  have hnumbers : r.toList.Pairwise (· < ·) := List.pairwise_lt_range.map _ fun _ _ h => Nat.add_lt_add_right h _
  refine hzones.eq_of_mem_iff hnumbers fun z => ?_
  simp only [zonesOf, selected, upTo, Range.toList, Range.has, List.mem_filter, List.mem_range, List.any_cons, List.any_nil,
    Bool.or_false, Bool.and_eq_true, decide_eq_true_eq, List.mem_map]
  constructor
  · rintro ⟨-, hfirst, hlast⟩
    exact ⟨z - r.first, by omega, by omega⟩
  · rintro ⟨k, hk, rfl⟩
    omega

theorem mem_zonesOf {r : Range} {z : Nat} (hz : z < 64) : z ∈ zonesOf r ↔ r.has z = true := by
  simp [zonesOf, selected, upTo, hz]

/-! ### BELL_RING -/

theorem Part.selectorZones_nodup (p : Part) (sel : Selector) : (p.selectorZones sel).Nodup := by
  cases sel <;> simp only [Part.selectorZones] <;> split
  · exact .nil
  · exact selected_nodup _ _
  · exact .nil
  · exact selected_nodup _ _

theorem Part.selectorZones_lt (p : Part) (sel : Selector) : ∀ z ∈ p.selectorZones sel, z < 64 := by
  cases sel <;> simp only [Part.selectorZones] <;> split
  · nofun
  · exact fun _ => lt_of_mem_selected
  · nofun
  · exact fun _ => lt_of_mem_selected

theorem Part.selectorZones_group (p : Part) (g : Nat) :
    p.selectorZones (.group g) = if g ≤ 31 then p.groupZones g else [] := by
  simp only [Part.selectorZones]
  by_cases h : g ≤ 31
  · rw [if_pos h, if_neg (Nat.not_lt.mpr h)]
  · rw [if_neg h, if_pos (Nat.not_le.mp h)]

theorem Part.selectorZones_zones (p : Part) (r : Range) :
    p.selectorZones (.zones r) = if r.first ≤ 63 ∧ r.last ≤ 63 then r.toList else [] := by
  simp only [Part.selectorZones]
  by_cases h : r.first ≤ 63 ∧ r.last ≤ 63
  · rw [if_pos h, if_neg (by simp; omega), zonesOf_eq_toList h.2]
  · rw [if_neg h, if_pos (by simp; omega)]

/-- A bell rung by hand: the posting to the zones of its selector (R35). -/
def Part.rungByHand (p : Part) (sel : Selector) (pattern duration : Nat) : Part × Posted :=
  p.ring (p.selectorZones sel) pattern duration .manual fun q _ => q

section
variable {p : Part} {sel : Selector} {pattern duration : Nat}

theorem Part.bellRing_eq (hsel : p.selectorZones sel ≠ []) (hpattern : pattern ≤ 15)
    (hevacuation : isEvacuation pattern = false) (hduration : duration ≤ 600) (saving : Bool) :
    Part.bellRing sel pattern duration saving p = ((p.rungByHand sel pattern duration).1, okWith
      (.rung (p.rungByHand sel pattern duration).2.sounding (p.rungByHand sel pattern duration).2.pending
        (p.rungByHand sel pattern duration).2.refused)) := by
  refine checked_pass ?_ p _
  simp [firstFailure, hsel, hevacuation, Nat.not_lt.mpr hpattern, Nat.not_lt.mpr hduration]

/-- Taking the drop of a posting by hand reports it, and no more (R38). -/
theorem Part.core_takeDrop_manual (p : Part) (d : Dropped) : (p.takeDrop .manual d).core = p.core := by
  unfold Part.takeDrop; split <;> rfl

theorem Part.core_rungByHand (p : Part) (sel : Selector) (pattern duration : Nat) :
    (p.rungByHand sel pattern duration).1.core = p.countPosting.core := by
  obtain ⟨-, hcore, -, -⟩ := p.ringPlaced_spec pattern duration .manual (p.selectorZones_nodup sel) (p.selectorZones_lt sel)
  unfold Part.rungByHand
  rcases Nat.eq_zero_or_pos p.bell.grace with hgrace | hgrace
  · rw [p.ring_graceless _ _ _ hgrace (p.selectorZones_nodup sel) (p.selectorZones_lt sel) fun _ _ => rfl]
    exact ((Part.core_takeDrop_manual _ _).trans (Part.core_dropPosting _ _)).trans hcore
  · rw [p.ring_graced _ _ _ hgrace (p.selectorZones_nodup sel) (p.selectorZones_lt sel) fun _ _ => rfl]
    exact hcore

/-- The reply counts every zone of the selector once (R35). -/
theorem Part.rungByHand_sum (p : Part) (sel : Selector) (pattern duration : Nat) :
    (p.rungByHand sel pattern duration).2.sounding + (p.rungByHand sel pattern duration).2.pending +
      (p.rungByHand sel pattern duration).2.refused = (p.selectorZones sel).length := by
  obtain ⟨-, -, hcount, -⟩ := p.ringPlaced_spec pattern duration .manual (p.selectorZones_nodup sel) (p.selectorZones_lt sel)
  rw [show (p.rungByHand sel pattern duration).2 = _ from hcount]
  exact p.answers_sum _ _

/-- What a bell rung by hand makes of a zone. -/
theorem Part.zone_rungByHand (p : Part) (sel : Selector) (pattern duration : Nat) {z : Nat} (hz : z < 64) {placed : Zone}
    (hplaced : (if z ∈ p.selectorZones sel then p.afterPosting (p.ringClaim pattern duration .manual) z else p.zone z) = placed)
    (hstays : 0 < p.bell.grace ∨ placed.awaits p.bell.postings = false) :
    (p.rungByHand sel pattern duration).1.zone z = placed :=
  (p.zone_ring pattern duration .manual (p.selectorZones_nodup sel) (p.selectorZones_lt sel) (fun _ _ => ⟨rfl, rfl⟩) hz
    hplaced).1 hstays

end

theorem Part.bellOn_of_takesBell {p : Part} {z : Nat} (h : p.takesBell z = true) : (p.zone z).bellOn = true := by
  simp only [Part.takesBell, Bool.and_eq_true] at h
  exact h.1

theorem Part.refuses_eq (p : Part) (z : Nat) :
    (!(p.zone z).bellOn || (p.owner z).isNone || !p.buildingClear z) = !p.takesBell z := by
  rw [← Part.not_takesBell, Part.closedZone, Bool.or_assoc]

/-- A zone that is not able to sound, or holds a drill, sounds no bell (R44). -/
theorem Zone.not_soundsBell {able : Bool} {zone : Zone} (h : able = false ∨ zone.drill.isSome = true) :
    zone.soundsBell able = false := by
  rcases h with rfl | h
  · rfl
  · obtain ⟨d, hd⟩ := Option.isSome_iff_exists.mp h
    simp [Zone.soundsBell, hd]

/-- Settles O20: the posting of the zones of the selector, zone by zone. -/
theorem bellRingPostsClaims : Obligations.BellRingPostsClaims := by
  intro s tag pattern duration sel hr hs h15 h6 h7 h8 hduration zs hne
  have hzs : s.part.selectorZones sel = zs := by
    cases sel with
    | group g => exact s.part.selectorZones_group g
    | zones r => exact s.part.selectorZones_zones r
  have hevacuation : isEvacuation pattern = false := by simp [isEvacuation, h6, h7, h8]
  obtain ⟨hpart, hans⟩ := request_part hr (.bellRing tag sel pattern duration) 0x17 (Part.bellRing sel pattern duration)
    (Part.bellRing_eq (hzs ▸ hne) h15 hevacuation hduration _) (.inl rfl)
  have hann : (s.part.rungByHand sel pattern duration).1.ann = s.part.ann :=
    s.part.ann_ring _ _ _ (s.part.selectorZones_nodup sel) (s.part.selectorZones_lt sel) fun _ _ => ⟨rfl, rfl⟩
  rw [Part.settle_same hs hann] at hpart
  refine ⟨_, _, _, _, rfl, hans, hzs ▸ s.part.rungByHand_sum sel pattern duration, request_sameOutside hr _ _ _, ?_, ?_⟩
  · rw [hpart]; exact s.part.core_rungByHand sel pattern duration
  intro unmixed
  rw [hpart]
  have hfresh : ∀ z, unmixed z → 0 < s.part.bell.grace ∨ (s.part.zone z).awaits s.part.bell.postings = false :=
    fun z h => h.imp_right Zone.not_awaits
  have hclaim := s.part.ringClaim_fresh pattern duration .manual
  refine ⟨fun z hz hnot hun => ?_, fun z hin => ?_⟩
  · exact s.part.zone_rungByHand sel pattern duration hz (if_neg (hzs ▸ hnot)) (hfresh z hun)
  rw [← hzs] at hin
  have hz := s.part.selectorZones_lt sel z hin
  have hzone := fun placed => s.part.zone_rungByHand sel pattern duration hz (placed := placed)
  rw [if_pos hin] at hzone
  refine ⟨hz, ?_⟩
  intro old new refuses
  have hrefuses : refuses = !s.part.takesBell z := s.part.refuses_eq z
  refine ⟨fun hrefused hun => ?_, fun hopen hable hdrill hann hmask => ?_, fun hopen hgrace hnot => ?_⟩
  · have htakes : s.part.takesBell z = false := by simpa [hrefuses] using hrefused
    exact hzone _ (Part.afterPosting_refused htakes _).1 (hfresh z hun)
  · have htakes : s.part.takesBell z = true := by simpa [hrefuses] using hopen
    have hon : old.bellOn = true := Part.bellOn_of_takesBell htakes
    obtain ⟨hcommanded, hbell⟩ := Part.afterPosting_sounds (c := s.part.ringClaim pattern duration .manual) rfl hclaim hon hmask
      hable hann hdrill
    have hnew : new = _ := hzone _ rfl (.inr (Zone.not_awaits_of_begun hbell _))
    rw [hnew]
    exact ⟨hcommanded, _, hbell, rfl, rfl, rfl, rfl, rfl, rfl⟩
  · have htakes : s.part.takesBell z = true := by simpa [hrefuses] using hopen
    have hbell := ((Part.afterPosting_taken (c := s.part.ringClaim pattern duration .manual) htakes rfl hclaim).2
      (Zone.not_soundsBell hnot)).1
    have hnew : new = _ := hzone _ rfl (.inl hgrace)
    rw [hnew]
    exact ⟨_, hbell, rfl, rfl, rfl, rfl, rfl⟩

/-! ### BELL_SILENCE -/

/-- Settles O21: the claims of the range end one by one, and a range outside its bounds is refused. -/
theorem bellSilenceEndsClaims : Obligations.BellSilenceEndsClaims := by
  intro s tag r hr
  refine ⟨fun hs hle hlast => ?_, fun hbad => ?_⟩
  · have hzs := zonesOf_eq_toList hlast
    have heq : Part.bellSilence r s.port.saving.isSome s.part =
        (s.part.each (r.toList.filter fun z => (s.part.zone z).bell.isSome) Part.endBell,
          okWith (.count (r.toList.filter fun z => (s.part.zone z).bell.isSome).length)) := by
      rw [← hzs]
      refine checked_pass ?_ s.part _
      simp [firstFailure, zonesAllowed, Range.isEmpty, hle, Nat.lt_succ_of_le hlast]
    obtain ⟨hpart, hans⟩ := request_part hr (.bellSilence tag r) 0x18 (Part.bellSilence r) heq (.inl rfl)
    have hmem : ∀ z < 64, (z ∈ r.toList.filter fun z => (s.part.zone z).bell.isSome) ↔
        r.has z = true ∧ (s.part.zone z).bell.isSome = true := fun z hz => by
      rw [List.mem_filter, ← hzs, mem_zonesOf hz]
    obtain ⟨⟨hann, -⟩, hcore, hzone⟩ := Part.eachEndBell_spec (zs := r.toList.filter fun z => (s.part.zone z).bell.isSome)
      (fun z hz => lt_of_mem_selected (hzs ▸ (List.mem_filter.mp hz).1)) s.part
    rw [Part.settle_same hs hann] at hpart
    refine ⟨_, rfl, hans, request_sameOutside hr _ _ _, ?_, fun z hz => ?_⟩ <;> rw [hpart]
    · exact hcore
    obtain ⟨hends, hstays⟩ := hzone z
    rw [hmem z hz] at hends hstays
    refine ⟨fun hhas => ?_, fun hnot => hstays fun ⟨hhas, hsome⟩ => ?_⟩
    · cases hb : (s.part.zone z).bell with
      | none => exact (congrArg Zone.bell (hstays (by simp [hb]))).trans hb
      | some b => exact hends ⟨hhas, by simp [hb]⟩
    · rcases hnot with h | h <;> simp_all
  · refine congrArg Host.Outcome.next (request_refused hr _ _ _ ?_)
    have hbad' : zonesAllowed r = false := by
      simp only [zonesAllowed, Range.isEmpty, Bool.and_eq_false_iff, Bool.not_eq_false', decide_eq_true_eq, decide_eq_false_iff_not]
      omega
    simp [ofPart, Part.bellSilence, checked, firstFailure, hbad']

end Sys2Proof.Machine
end

section
/-! SUPPORT. PLAN_WRITE, PLAN_APPEND and PLAN_CLEAR (R22 to R24, R28). -/

namespace Sys2Proof.Machine

/-! ### Entries in order (R22) -/

/-- The key of an entry (R22). -/
def entryKey (e : BellEntry) : Nat × Nat := (e.time, e.group)

/-- Entries in order of time and group, no key twice. -/
def entriesOrdered (l : List BellEntry) : Prop :=
  l.Pairwise fun a b => a.time < b.time ∨ (a.time = b.time ∧ a.group < b.group)

theorem entryBefore_iff (a b : BellEntry) :
    a.before b = true ↔ a.time < b.time ∨ (a.time = b.time ∧ a.group < b.group) := by
  simp [BellEntry.before]

/-- Of two entries with different keys the one that does not stand before the other stands behind it. -/
theorem entryAfter_of_not_before {a b : BellEntry} (h : a.before b = false) (hne : entryKey a ≠ entryKey b) :
    b.time < a.time ∨ (b.time = a.time ∧ b.group < a.group) := by
  have hnot := mt (entryBefore_iff a b).mpr (by simp [h])
  simp only [entryKey, ne_eq, Prod.mk.injEq] at hne
  omega

theorem insertWhere_perm {α : Type} (f : α → Bool) (x : α) (l : List α) : (insertWhere f x l).Perm (x :: l) := by
  obtain ⟨before, after, hl, hi, -, -⟩ := insertWhere_split f x l
  rw [hi, hl]
  exact List.perm_middle

/-- An entry with a new key put into its place keeps the order (R22). -/
theorem entriesOrdered_insert {l : List BellEntry} (h : entriesOrdered l) {e : BellEntry}
    (hne : ∀ x ∈ l, entryKey e ≠ entryKey x) : entriesOrdered (insertWhere (fun x => e.before x) e l) := by
  obtain ⟨before, after, rfl, hi, hbefore, hafter⟩ := insertWhere_split (fun x => e.before x) e l
  obtain ⟨hb, ha, hba⟩ := List.pairwise_append.mp h
  have hbehind : ∀ x ∈ after, e.time < x.time ∨ (e.time = x.time ∧ e.group < x.group) := by
    cases after with
    | nil => nofun
    | cons y after =>
      have hy := (entryBefore_iff e y).mp (hafter y rfl)
      intro x hx
      rcases List.mem_cons.mp hx with rfl | hx
      · exact hy
      · have hyx := (List.pairwise_cons.mp ha).1 x hx
        omega
  have hahead : ∀ x ∈ before, x.time < e.time ∨ (x.time = e.time ∧ x.group < e.group) := fun x hx =>
    entryAfter_of_not_before (hbefore x hx) (hne x (List.mem_append_left _ hx))
  rw [hi]
  refine List.pairwise_append.mpr ⟨hb, List.pairwise_cons.mpr ⟨hbehind, ha⟩, fun x hx y hy => ?_⟩
  rcases List.mem_cons.mp hy with rfl | hy
  · exact hahead x hx
  · exact hba x hx y hy

theorem placeEntries_perm (new : List BellEntry) : ∀ l : List BellEntry, (placeEntries l new).Perm (l ++ new) := by
  induction new with
  | nil => intro l; simp [placeEntries]
  | cons e new ih =>
    intro l
    refine (ih (insertWhere (fun x => e.before x) e l)).trans ?_
    exact ((insertWhere_perm _ e l).append_right new).trans List.perm_middle.symm

/-- Entries with new keys placed one after another keep the order (R23, R24). -/
theorem entriesOrdered_place (new : List BellEntry) : ∀ l : List BellEntry, entriesOrdered l →
    ((l ++ new).map entryKey).Nodup → entriesOrdered (placeEntries l new) := by
  induction new with
  | nil => intro l h _; exact h
  | cons e new ih =>
    intro l h hnodup
    have hperm : (insertWhere (fun x => e.before x) e l ++ new).Perm (l ++ e :: new) :=
      ((insertWhere_perm _ e l).append_right new).trans List.perm_middle.symm
    refine ih _ (entriesOrdered_insert h fun x hx hkey => ?_) ((hperm.map entryKey).nodup_iff.mpr hnodup)
    rw [List.map_append, List.nodup_append] at hnodup
    exact hnodup.2.2 _ (List.mem_map_of_mem hx) _ (List.mem_map_of_mem (List.mem_cons_self ..)) hkey.symm

/-- The check for a key given twice (R23, R24). -/
theorem sharesKey_of_nodup {l : List BellEntry} (h : (l.map entryKey).Nodup) : sharesKey l = false := by
  induction l with
  | nil => rfl
  | cons e l ih =>
    obtain ⟨hnot, hnodup⟩ := List.nodup_cons.mp h
    have hany : (l.any fun x => x.time == e.time && x.group == e.group) = false := by
      simp only [List.any_eq_false, Bool.and_eq_true, beq_iff_eq]
      rintro x hx ⟨htime, hgroup⟩
      exact hnot (List.mem_map.mpr ⟨x, hx, by simp [entryKey, htime, hgroup]⟩)
    simp [sharesKey, hany, ih hnodup]

/-! ### A plan edited -/

theorem Part.plan_setPlan {n : Nat} (hn : n ≤ 15) (p : Part) (es : List BellEntry) : (p.setPlan n es).plan n = es := by
  simp [Part.plan, Tab.get, Tab.set, Nat.lt_succ_of_le hn]

theorem Part.plan_setPlan_ne {n m : Nat} (h : m ≠ n) (p : Part) (es : List BellEntry) : (p.setPlan n es).plan m = p.plan m := by
  simp [Part.plan, Tab.get, Tab.set, Ne.symm h]

/-- A plan with its entries replaced, and the timeline built where it is the active plan (R28). -/
def Part.planned (p : Part) (n : Nat) (es : List BellEntry) : Part := (p.setPlan n es).planEdited n

section
variable (p : Part) (n : Nat) (es : List BellEntry)

theorem Part.planned_active (hset : p.time.quality = .set) (hplan : p.cal.selection.plan = some n) :
    p.planned n es = (p.setPlan n es).buildNow (some n) :=
  if_pos (by simp [Part.isSet, hset, hplan])

theorem Part.planned_other (h : p.time.quality = .unset ∨ p.cal.selection.plan ≠ some n) : p.planned n es = p.setPlan n es := by
  refine if_neg ?_
  rcases h with h | h <;> simp [Part.isSet, h]

/-- An edit of a plan reaches the bell scheduler alone, of which it leaves groups, settings and postings. -/
theorem Part.planned_leaves : (p.planned n es).core = { p with bell := (p.planned n es).bell }.core ∧
    (p.planned n es).bell.plans = (p.setPlan n es).bell.plans ∧
    (p.planned n es).bell = { p.bell with
      plans := (p.planned n es).bell.plans, timeline := (p.planned n es).bell.timeline,
      furthest := (p.planned n es).bell.furthest, fired := (p.planned n es).bell.fired } := by
  unfold Part.planned Part.planEdited
  split <;> exact ⟨rfl, rfl, rfl⟩

end

/-- What follows from an edit of plan `n`, as the statement has it. -/
def State.planFollows (s : State) (n : Nat) (t : State) : Prop :=
  State.sameOutside s t ∧ t.part.core = { s.part with bell := t.part.bell }.core ∧
  t.part.bell = { s.part.bell with plans := t.part.bell.plans, timeline := t.part.bell.timeline,
                                   furthest := t.part.bell.furthest, fired := t.part.bell.fired } ∧
  (∀ m, m ≠ n → t.part.plan m = s.part.plan m) ∧
  (s.part.time.quality = .set → s.part.cal.selection.plan = some n →
    Bells.builds s.part.bell t.part.bell s.part.backup.day s.part.backup.tod (some n) (t.part.plan n)) ∧
  (s.part.time.quality = .unset ∨ s.part.cal.selection.plan ≠ some n →
    t.part.bell = { s.part.bell with plans := t.part.bell.plans })

/-- A request that replaces a plan's entries. -/
theorem request_planFollows {s : State} {tag n : Nat} (hr : s.ready tag) (hn : n ≤ 15) (i : Instr) (kind : Nat)
    {f : Bool → Part → Part × Answer} (es : List BellEntry) (body : ReplyBody)
    (hf : f s.port.saving.isSome s.part = (s.part.planned n es, okWith body)) :
    let t := request i tag kind (ofPart f) s
    State.answers s t tag kind ⟨.ok, body⟩ ∧ s.planFollows n t ∧ t.part.plan n = es ∧
      t.part.bell.plans = (s.part.planned n es).bell.plans := by
  intro t
  obtain ⟨hpart, hans⟩ := request_part hr i kind f hf (.inl rfl)
  have hcore : t.part.core = (s.part.planned n es).core := by
    rw [show t.part = _ from hpart, Part.core_with_outbox, Part.core_settle]
  obtain ⟨-, -, -, -, hbell, -⟩ := Part.core_fields hcore
  obtain ⟨hleaves, hplans, hbells⟩ := s.part.planned_leaves n es
  have hplan : t.part.plan = (s.part.setPlan n es).plan := Part.plan_congr (by rw [hbell, hplans])
  have hat : t.part.plan n = es := (congrFun hplan n).trans (s.part.plan_setPlan hn es)
  refine ⟨hans, ⟨request_sameOutside hr i kind f, ?_, ?_, fun m hm => ?_, fun hset hactive => ?_, fun hother => ?_⟩, hat,
    congrArg Bells.plans hbell⟩
  · rw [hcore, hleaves, hbell]
  · rw [hbell]; exact hbells
  · rw [hplan]; exact s.part.plan_setPlan_ne hm es
  · rw [hat, hbell, s.part.planned_active n es hset hactive]
    have hbuilds := (s.part.setPlan n es).builds_buildTimeline s.part.backup.day (some n) s.part.backup.tod
    rw [Option.elim_some, s.part.plan_setPlan hn es] at hbuilds
    exact hbuilds
  · rw [hbell, s.part.planned_other n es hother]; rfl

/-! ### The requests -/

section
variable {p : Part} {n : Nat} {es : List BellEntry} (hn : n ≤ 15)
include hn

theorem Part.plan_planned (p : Part) (es : List BellEntry) : (p.planned n es).plan n = es := by
  obtain ⟨-, hplans, -⟩ := p.planned_leaves n es
  exact (congrFun (Part.plan_congr hplans) n).trans (p.plan_setPlan hn es)

theorem Part.planWrite_eq (hlen : es.length ≤ 32) (hall : ∀ e ∈ es, e.allowed = true) (hkeys : (es.map entryKey).Nodup)
    (hroom : es.length ≤ p.poolFree + (p.plan n).length) : Part.planWrite n es false p =
      (p.planned n (placeEntries [] es),
       okWith (.planCounts es.length (p.planned n (placeEntries [] es)).poolFree)) := by
  have hcount : ((p.planned n (placeEntries [] es)).plan n).length = es.length := by
    rw [Part.plan_planned hn]; exact (placeEntries_perm es []).length_eq
  rw [← hcount]
  refine checked_pass ?_ p _
  simp [firstFailure, Nat.not_lt.mpr hn, Nat.not_lt.mpr hlen, List.all_eq_true.mpr hall, sharesKey_of_nodup hkeys,
    Nat.not_lt.mpr hroom]

theorem Part.planAppend_eq (hsome : 1 ≤ es.length) (hlen : es.length ≤ 32) (hall : ∀ e ∈ es, e.allowed = true)
    (hkeys : ((p.plan n ++ es).map entryKey).Nodup) (hroom : es.length ≤ p.poolFree) : Part.planAppend n es false p =
      (p.planned n (placeEntries (p.plan n) es),
       okWith (.planCounts ((p.plan n).length + es.length) (p.planned n (placeEntries (p.plan n) es)).poolFree)) := by
  have hcount : ((p.planned n (placeEntries (p.plan n) es)).plan n).length = (p.plan n).length + es.length := by
    rw [Part.plan_planned hn, (placeEntries_perm es (p.plan n)).length_eq, List.length_append]
  have hnew : (es.map entryKey).Nodup := by
    rw [List.map_append, List.nodup_append] at hkeys
    exact hkeys.2.1
  have hne : es ≠ [] := List.ne_nil_of_length_pos hsome
  rw [← hcount]
  refine checked_pass ?_ p _
  simp [firstFailure, Nat.not_lt.mpr hn, Nat.not_lt.mpr hlen, List.all_eq_true.mpr hall, hne, sharesKey_of_nodup hkeys,
    sharesKey_of_nodup hnew, Nat.not_lt.mpr hroom]

theorem Part.planClear_eq : Part.planClear n false p = (p.planned n [], okWith (.planFree (p.planned n []).poolFree)) := by
  refine checked_pass ?_ p _
  simp [firstFailure, Nat.not_lt.mpr hn]

end

theorem Part.poolFree_congr {p q : Part} (h : q.bell.plans = p.bell.plans) :
    p.poolFree = 480 - (q.bell.plans.toList.map List.length).sum := by
  rw [h]; rfl

/-- Settles O19: each edit replaces the plan's entries, through `request_planFollows`. -/
theorem planEdits : Obligations.PlanEdits := by
  intro s tag n es hr hsave hn
  have hsaving : s.port.saving.isSome = false := by simp [hsave]
  refine ⟨fun hlen hall hkeys hfits htotal => ?_, fun hsome hlen hall hkeys hfits => ?_, ?_⟩
  · have hroom : es.length ≤ s.part.poolFree + (s.part.plan n).length := by
      dsimp only at hfits htotal
      unfold Part.poolFree
      omega
    obtain ⟨hans, hfollows, hplan, hplans⟩ := request_planFollows hr hn (.planWrite tag n es) 0x12 (f := Part.planWrite n es) _ _
      (by rw [hsaving]; exact Part.planWrite_eq hn hlen hall hkeys hroom)
    rw [Part.poolFree_congr hplans] at hans
    refine ⟨_, rfl, hans, hfollows, ?_⟩
    rw [hplan]
    exact ⟨placeEntries_perm es [], entriesOrdered_place es [] .nil hkeys⟩
  · have hroom : es.length ≤ s.part.poolFree := by
      dsimp only at hfits
      unfold Part.poolFree
      omega
    obtain ⟨hans, hfollows, hplan, hplans⟩ := request_planFollows hr hn (.planAppend tag n es) 0x13 (f := Part.planAppend n es) _ _
      (by rw [hsaving]; exact Part.planAppend_eq hn hsome hlen hall hkeys hroom)
    rw [Part.poolFree_congr hplans] at hans
    refine ⟨_, rfl, hans, hfollows, ?_⟩
    rw [hplan]
    exact ⟨placeEntries_perm es _, fun h => entriesOrdered_place es _ h hkeys⟩
  · obtain ⟨hans, hfollows, hplan, hplans⟩ := request_planFollows hr hn (.planClear tag n) 0x14 (f := Part.planClear n) _ _
      (by rw [hsaving]; exact Part.planClear_eq hn)
    rw [Part.poolFree_congr hplans] at hans
    exact ⟨_, rfl, hans, hfollows, hplan⟩

end Sys2Proof.Machine
end

section
/-! SUPPORT. The reads of the calendar and of the bell scheduler (R9 to R19, R21, R24, R37, R38). -/

namespace Sys2Proof.Machine

/-- A request that reads and is ready is answered with what it reads. -/
theorem next_reader {s : State} {tag : Nat} (h : s.ready tag) (i : Instr) (kind : Nat) {f : Part → Answer} {a : Answer}
    (hf : f s.part = a) : (Host.Outcome.next (request i tag kind (ofReader f) s) : Result) = .next (s.replied tag kind a) :=
  congrArg _ ((request_reader h i kind f).trans (hf ▸ rfl))

/-- A read whose number is within its list answers what it reads. -/
theorem checkedRead_within {c : Bool} (h : c = false) (st : Status) (a : Answer) : checkedRead [(c, st)] a = a := by
  simp [checkedRead, firstFailure, h]

/-- A read whose number is above its list's is refused. -/
theorem checkedRead_above {c : Bool} (h : c = true) (st : Status) (a : Answer) : checkedRead [(c, st)] a = ⟨st, .none⟩ := by
  simp [checkedRead, firstFailure, h]

/-- Settles O12: each read by itself, within its list and above it. -/
theorem calendarAndBellReads : Obligations.CalendarAndBellReads := by
  refine ⟨fun s tag i hr => ⟨?_, fun hi => ?_, fun hi => ?_, ?_, ?_⟩,
    fun s tag n i hr => ⟨fun hn => ?_, fun hn => ?_, fun hn hi => ?_, fun h => ?_, fun hi => ?_, fun hi => ?_, ?_⟩⟩
  · exact next_reader hr _ _ rfl
  · exact next_reader hr _ _ (checkedRead_within (by simpa using hi) _ _)
  · exact next_reader hr _ _ (checkedRead_above (by simpa using hi) _ _)
  · exact next_reader hr _ _ rfl
  · exact next_reader hr _ _ rfl
  · exact next_reader hr _ _ (checkedRead_within (by simpa using hn) _ _)
  · exact next_reader hr _ _ (checkedRead_above (by simpa using hn) _ _)
  · exact next_reader hr _ _ (checkedRead_within (by simp [hn, hi]) _ _)
  · exact next_reader hr _ _ (checkedRead_above (by simpa using h) _ _)
  · exact next_reader hr _ _ (checkedRead_within (by simpa using hi) _ _)
  · exact next_reader hr _ _ (checkedRead_above (by simpa using hi) _ _)
  · exact next_reader hr _ _ rfl

end Sys2Proof.Machine
end

section
/-! SUPPORT. The reads of zones, buildings and announcements (R40, R62, R81). -/

namespace Sys2Proof.Machine

theorem Range.length_toList (r : Range) : r.toList.length = r.last + 1 - r.first := by simp [Range.toList]

/-- ZONE_READ takes 1 to 3 zones from 0 to 63 (R62). -/
theorem Part.zoneRead_within {r : Range} (hle : r.first ≤ r.last) (hlast : r.last ≤ 63) (hcount : r.last ≤ r.first + 2)
    (p : Part) : Part.zoneRead r p = okWith (.zones (r.toList.map p.zoneReport)) := by
  have hlength : (zonesOf r).length ≤ 3 := by rw [zonesOf_eq_toList hlast, Range.length_toList]; omega
  have hallowed : zonesAllowed r = true := by simp [zonesAllowed, Range.isEmpty, hle, Nat.lt_succ_of_le hlast]
  rw [Part.zoneRead, checkedRead_within (by simp [hallowed, hlength]), zonesOf_eq_toList hlast]

/-- Every other range is refused (R62). -/
theorem Part.zoneRead_refused {r : Range} (h : r.last < r.first ∨ 63 < r.last ∨ r.first + 2 < r.last) (p : Part) :
    Part.zoneRead r p = ⟨.badValue, .none⟩ := by
  refine checkedRead_above ?_ _ _
  by_cases hallowed : zonesAllowed r = true
  · have hrange : r.first ≤ r.last ∧ r.last < 64 := by simpa [zonesAllowed, Range.isEmpty] using hallowed
    have hlength : 3 < (zonesOf r).length := by
      rw [zonesOf_eq_toList (Nat.le_of_lt_succ hrange.2), Range.length_toList]; omega
    simp [hlength]
  · simp [hallowed]

section
variable {p : Part} {id i : Nat} (hi : i ≤ 63)
include hi

theorem Part.announceRead_found {a : Announcement} (ha : p.announcement id = some a) : Part.announceRead id i p =
    okWith (.announcement a (a.chimeEnd.map p.leftUntil) (a.limitTime.map p.leftUntil) a.joins.length
      ((a.joins.drop i).take 32)) := by
  rw [Part.announceRead, checkedRead_within (by simpa using hi), ha]

theorem Part.announceRead_absent (h : p.announcement id = none) : Part.announceRead id i p = ⟨.notFound, .none⟩ := by
  rw [Part.announceRead, checkedRead_within (by simpa using hi), h]

end

/-- Settles O13: each read by itself, within its bounds and outside them. -/
theorem zoneAndAnnounceReads : Obligations.ZoneAndAnnounceReads := by
  refine ⟨fun s tag r hr => ⟨fun hle hlast hcount => ?_, fun hbad => ?_, ?_⟩,
    fun s tag id i hr => ⟨?_, fun a hi ha => ?_, fun hi hnone => ?_, fun hi => ?_⟩⟩
  · exact next_reader hr _ _ (Part.zoneRead_within hle hlast hcount _)
  · exact next_reader hr _ _ (Part.zoneRead_refused hbad _)
  · exact next_reader hr _ _ rfl
  · exact next_reader hr _ _ rfl
  · exact next_reader hr _ _ (Part.announceRead_found hi ha)
  · exact next_reader hr _ _ (Part.announceRead_absent hi hnone)
  · exact next_reader hr _ _ (checkedRead_above (by simpa using hi) _ _)

end Sys2Proof.Machine
end

section
/-! SUPPORT. The sounding rule: what a zone that is re-evaluated selects, sounds and keeps (R44 to R47, R59). -/

namespace Sys2Proof.Machine

/-! ### Claims that are not selected -/

/-- What is left of a BELL claim when a higher claim is selected: SOUNDING, it is cut (R46). -/
def Zone.bellCut (z : Zone) : Option BellClaim := z.bell.bind fun b => if b.state = .sounding then none else some b

/-- What is left of an ANNOUNCE claim when a higher claim is selected (R46). -/
def Zone.annCut (z : Zone) : Option AnnounceClaim := z.ann.bind fun a => if a.state = .sounding then none else some a

/-- What is left of a BELL claim that is not selected, with no higher claim in its place (R47, R54). -/
def Zone.bellKept (z : Zone) : Option BellClaim := z.bell.bind fun b =>
  if b.state = .pending then some b
  else if z.bellOn = true then some { b with state := .pending, endTime := none } else none

/-- What is left of an ANNOUNCE claim that is not selected, with no higher claim in its place (R47, R54). -/
def Zone.annKept (z : Zone) : Option AnnounceClaim := z.ann.bind fun a =>
  if a.state = .pending ∨ z.annOn = true then some { a with state := .pending } else none

section
variable (z : Zone)

theorem Zone.bellAfter_cut {sel : Selected} (h : sel = .ann ∨ sel = .drill) (now : Nat) :
    z.bellAfter sel now = z.bellCut := by
  unfold Zone.bellAfter Zone.bellCut
  cases z.bell with
  | none => rfl
  | some b => rcases h with rfl | rfl <;> cases hb : b.state <;> simp [hb]

theorem Zone.bellAfter_kept (now : Nat) : z.bellAfter .none now = z.bellKept := by
  unfold Zone.bellAfter Zone.bellKept
  cases z.bell with
  | none => rfl
  | some b => cases hb : b.state <;> simp [hb]

theorem Zone.annAfter_cut : z.annAfter .drill = z.annCut := by
  unfold Zone.annAfter Zone.annCut
  cases z.ann with
  | none => rfl
  | some a => cases ha : a.state <;> simp [ha]

theorem Zone.annAfter_kept {sel : Selected} (h : sel = .none ∨ sel = .bell) : z.annAfter sel = z.annKept := by
  unfold Zone.annAfter Zone.annKept
  cases z.ann with
  | none => rfl
  | some a =>
    obtain ⟨state, output, id⟩ := a
    rcases h with rfl | rfl <;> cases state <;> simp

theorem Zone.annKept_pending {a : AnnounceClaim} (h : z.annKept = some a) : a.state = .pending := by
  simp only [Zone.annKept, Option.bind_eq_some_iff, Option.ite_none_right_eq_some, Option.some.injEq] at h
  obtain ⟨b, -, -, rfl⟩ := h
  rfl

theorem Zone.bellKept_pending {b : BellClaim} (h : z.bellKept = some b) : b.state = .pending := by
  simp only [Zone.bellKept, Option.bind_eq_some_iff] at h
  obtain ⟨c, -, h⟩ := h
  split at h
  next hc => exact Option.some.inj h ▸ hc
  next =>
    simp only [Option.ite_none_right_eq_some, Option.some.injEq] at h
    obtain ⟨-, rfl⟩ := h
    rfl

/-! ### A zone re-evaluated, field by field -/

theorem Zone.ann_evaluate (able served : Bool) (now : Nat) :
    (z.evaluate able served now).ann = z.annAfter (z.select able now) := by
  unfold Zone.evaluate Zone.command; dsimp only; (repeat' split) <;> rfl

theorem Zone.drill_evaluate (able served : Bool) (now : Nat) :
    (z.evaluate able served now).drill = z.drillAfter (z.select able now) := by
  unfold Zone.evaluate Zone.command; dsimp only; (repeat' split) <;> rfl

theorem Zone.offers_evaluate (able served : Bool) (now : Nat) : (z.evaluate able served now).offers = z.offers := by
  unfold Zone.evaluate Zone.command; dsimp only; (repeat' split) <;> rfl

theorem Zone.confirmed_evaluate (able served : Bool) (now : Nat) : (z.evaluate able served now).confirmed = z.confirmed := by
  unfold Zone.evaluate Zone.command; dsimp only; (repeat' split) <;> rfl

/-- A zone becomes dirty exactly when it takes another command while it is served (R59). -/
theorem Zone.dirty_command (served : Bool) (now : Nat) (o : Output) :
    (z.command served now o).dirty = if served = true ∧ o ≠ z.commanded then true else z.dirty := by
  unfold Zone.command
  by_cases ho : o = z.commanded
  · simp [ho]
  · cases served <;> simp [ho]

theorem Zone.dirty_evaluate (able served : Bool) (now : Nat) : (z.evaluate able served now).dirty =
    if served = true ∧ (z.evaluate able served now).commanded ≠ z.commanded then true else z.dirty := by
  rw [Zone.commanded_evaluate]
  exact Zone.dirty_command _ served now _

/-! ### The output of the claim that sounds -/

theorem Zone.outputOf_drill {d : DrillClaim} (h : z.drill = some d) (hd : d.state = .sounding) :
    z.outputOf = .pattern d.pattern := by
  obtain ⟨state, pattern, program⟩ := d
  obtain rfl : state = .sounding := hd
  unfold Zone.outputOf
  rw [h]

theorem Zone.outputOf_ann {a : AnnounceClaim} (hdrill : z.drill = none) (h : z.ann = some a) (ha : a.state = .sounding) :
    z.outputOf = a.output := by
  obtain ⟨state, output, id⟩ := a
  obtain rfl : state = .sounding := ha
  unfold Zone.outputOf
  rw [hdrill, h]

/-- With nothing higher that sounds, a zone's output is that of its BELL claim, or SILENT. -/
theorem Zone.outputOf_lower (hdrill : ∀ d, z.drill = some d → d.state = .pending)
    (hann : ∀ a, z.ann = some a → a.state = .pending) :
    z.outputOf = z.bell.elim .silent fun b => if b.state = .sounding then .pattern b.pattern else .silent := by
  unfold Zone.outputOf
  split
  · cases hdrill _ ‹_›
  · cases hann _ ‹_›
  all_goals simp [*]

end

/-! ### Which claim is selected -/

section
variable {z : Zone} {able : Bool} {now : Nat}

theorem Zone.select_unable (z : Zone) (now : Nat) : z.select false now = .none := rfl

theorem Zone.select_drill {d : DrillClaim} (h : z.drill = some d) : z.select true now = .drill := by simp [Zone.select, h]

theorem Zone.select_ann {a : AnnounceClaim} (hdrill : z.drill = none) (ha : z.ann = some a) (hmask : z.annMask = false) :
    z.select true now = .ann := by
  simp [Zone.select, hdrill, ha, hmask]

/-- With no drill and no announcement that is heard, the BELL claim is selected if it is heard and not stale (R44). -/
theorem Zone.select_lower (hdrill : z.drill = none) (hann : z.ann = none ∨ z.annMask = true) : z.select true now =
    if z.bell.any (fun b => b.state == .sounding || decide (now ≤ b.latest)) && !z.bellMask then .bell else .none := by
  rcases hann with h | h <;> simp [Zone.select, hdrill, h]

/-! ### What the selection comes to -/

variable (served : Bool)

/-- A zone that selects nothing is silent, and its claims wait (R44, R47). -/
theorem Zone.evaluate_none (h : z.select able now = .none) :
    (z.evaluate able served now).commanded = .silent ∧ (z.evaluate able served now).bell = z.bellKept ∧
    (z.evaluate able served now).ann = z.annKept ∧
    (z.evaluate able served now).drill = z.drill.map fun d => { d with state := .pending } := by
  have hdrill : z.drillAfter .none = z.drill.map fun d => { d with state := .pending } := rfl
  rw [Zone.commanded_evaluate, Zone.bell_evaluate, Zone.ann_evaluate, Zone.drill_evaluate, h, Zone.bellAfter_kept,
    Zone.annAfter_kept z (.inl rfl), hdrill]
  refine ⟨?_, rfl, rfl, rfl⟩
  rw [Zone.outputOf_lower]
  · cases hb : z.bellKept with
    | none => rfl
    | some b => simp [Zone.bellKept_pending z hb]
  · intro d hd
    obtain ⟨e, -, rfl⟩ := Option.map_eq_some_iff.mp hd
    rfl
  · exact fun a => Zone.annKept_pending z

/-- A zone that is able to sound sounds its drill, which cuts whatever sounds below it (R44, R46). -/
theorem Zone.evaluate_drill {d : DrillClaim} (h : z.drill = some d) :
    (z.evaluate true served now).commanded = .pattern d.pattern ∧
    (z.evaluate true served now).drill = some { d with state := .sounding } ∧
    (z.evaluate true served now).ann = z.annCut ∧ (z.evaluate true served now).bell = z.bellCut := by
  have hdrill : z.drillAfter .drill = some { d with state := .sounding } := by simp [Zone.drillAfter, h]
  rw [Zone.commanded_evaluate, Zone.bell_evaluate, Zone.ann_evaluate, Zone.drill_evaluate, Zone.select_drill h,
    Zone.bellAfter_cut z (.inr rfl), Zone.annAfter_cut, hdrill]
  exact ⟨Zone.outputOf_drill (d := { d with state := .sounding }) _ rfl rfl, rfl, rfl, rfl⟩

/-- A zone with no drill sounds its announcement if that is unmasked, which cuts its bell (R44, R46). -/
theorem Zone.evaluate_ann {a : AnnounceClaim} (hdrill : z.drill = none) (ha : z.ann = some a) (hmask : z.annMask = false) :
    (z.evaluate true served now).commanded = a.output ∧
    (z.evaluate true served now).ann = some { a with state := .sounding } ∧
    (z.evaluate true served now).bell = z.bellCut := by
  have hann : z.annAfter .ann = some { a with state := .sounding } := by simp [Zone.annAfter, ha]
  rw [Zone.commanded_evaluate, Zone.bell_evaluate, Zone.ann_evaluate, Zone.select_ann hdrill ha hmask,
    Zone.bellAfter_cut z (.inl rfl), hann]
  exact ⟨Zone.outputOf_ann (a := { a with state := .sounding }) _ (by simp [Zone.drillAfter, hdrill]) rfl rfl, rfl, rfl⟩

/-- A BELL claim as it sounds: one that sounds already goes on (R47). -/
def BellClaim.sounds (b : BellClaim) (now : Nat) : BellClaim := if b.state = .sounding then b else b.begun now

theorem BellClaim.sounds_sounding (b : BellClaim) (now : Nat) :
    (b.sounds now).state = .sounding ∧ (b.sounds now).pattern = b.pattern := by
  unfold BellClaim.sounds
  split
  next h => exact ⟨h, rfl⟩
  next => exact ⟨rfl, rfl⟩

theorem Zone.bellAfter_selected {b : BellClaim} (h : z.bell = some b) : z.bellAfter .bell now = some (b.sounds now) := by
  cases hb : b.state with
  | pending => rw [Zone.bellAfter_pending h hb, if_pos rfl, BellClaim.sounds, if_neg (by simp [hb])]
  | sounding => simp [Zone.bellAfter, h, hb, BellClaim.sounds]

/-- With nothing higher that is heard, a zone sounds its BELL claim if that is unmasked and not stale (R44). -/
theorem Zone.evaluate_bell {b : BellClaim} (hdrill : z.drill = none) (hann : z.ann = none ∨ z.annMask = true)
    (hb : z.bell = some b) (hmask : z.bellMask = false) (hfresh : b.state = .sounding ∨ now ≤ b.latest) :
    (z.evaluate true served now).commanded = .pattern b.pattern ∧ (z.evaluate true served now).ann = z.annKept ∧
    (z.evaluate true served now).bell = some (b.sounds now) := by
  have hsel : z.select true now = .bell := by simp [Zone.select_lower hdrill hann, hb, hmask, hfresh]
  obtain ⟨hsounding, hpattern⟩ := b.sounds_sounding now
  rw [Zone.commanded_evaluate, Zone.bell_evaluate, Zone.ann_evaluate, hsel, Zone.bellAfter_selected hb,
    Zone.annAfter_kept z (.inr rfl)]
  refine ⟨?_, rfl, rfl⟩
  rw [Zone.outputOf_lower]
  · simp [hsounding, hpattern]
  · intro d hd
    simp [Zone.drillAfter, hdrill] at hd
  · exact fun a => Zone.annKept_pending z

/-- With nothing that is heard, a zone selects nothing. -/
theorem Zone.select_silent (hdrill : z.drill = none) (hann : z.ann = none ∨ z.annMask = true)
    (hbell : ∀ b, z.bell = some b → z.bellMask = true ∨ (b.state = .pending ∧ b.latest < now)) :
    z.select true now = .none := by
  rw [Zone.select_lower hdrill hann]
  cases hb : z.bell with
  | none => rfl
  | some b => rcases hbell b hb with h | ⟨h, hstale⟩ <;> simp [*]

end

/-! ### A zone of the part -/

/-- The announcement whose claim ends with a change of a zone records the zone LOST (R46, R70). -/
theorem Part.reviseZone_lost {p : Part} {z : Nat} {f : Zone → Zone} {a : AnnounceClaim} (ha : (p.zone z).ann = some a)
    (h : ((p.changeZone z f).zone z).ann = none) :
    p.reviseZone z f = Part.claimsClear p ((p.changeZone z f).loseJoin a.id z .lost) z := by
  unfold Part.reviseZone; dsimp only
  rw [ha, h]

theorem Part.reviseZone_held {p : Part} {z : Nat} {f : Zone → Zone}
    (h : (p.zone z).ann = none ∨ ((p.changeZone z f).zone z).ann.isSome = true) :
    p.reviseZone z f = Part.claimsClear p (p.changeZone z f) z := by
  unfold Part.reviseZone; dsimp only
  rcases h with h | h
  · rw [h]
  · obtain ⟨c, hc⟩ := Option.isSome_iff_exists.mp h
    rw [hc]
    cases (p.zone z).ann <;> rfl

/-- Settles O24: the zone by the claim that it selects, and the part by whether the zone's announcement ends. -/
theorem soundingRule : Obligations.SoundingRule := by
  refine ⟨fun able served now z => ?_, fun p z f a ha => ⟨Part.reviseZone_lost ha, fun h => Part.reviseZone_held (.inr h)⟩⟩
  intro z' cutBell cutAnn keptBell keptAnn
  refine ⟨?_, ?_, fun h => ?_, ?_, ?_, ?_, ?_, z.offers_evaluate able served now, z.confirmed_evaluate able served now, ?_, ?_⟩
  · rintro rfl
    exact Zone.evaluate_none served (z.select_unable now)
  · rintro rfl d hd
    exact Zone.evaluate_drill served hd
  · rw [Zone.drill_evaluate, Zone.drillAfter, h]; rfl
  · rintro rfl hdrill a ha hmask
    exact Zone.evaluate_ann served hdrill ha hmask
  · rintro rfl hdrill hann b hb hmask hfresh
    exact Zone.evaluate_bell served hdrill hann hb hmask hfresh
  · rintro rfl hdrill hann hbell
    obtain ⟨hcommanded, hkept, hann, -⟩ := Zone.evaluate_none served (Zone.select_silent hdrill hann hbell)
    exact ⟨hcommanded, hann, hkept⟩
  · simp [z']
  · intro hserved hne
    rw [Zone.dirty_evaluate, if_pos ⟨hserved, hne⟩]
  · intro h
    rw [Zone.dirty_evaluate, if_neg]
    rintro ⟨hserved, hne⟩
    rcases h with h | h
    · simp [hserved] at h
    · exact hne h

end Sys2Proof.Machine
end

section
/-! SUPPORT. The zones of a building that is not CLEAR: what no operation on claims, announcements and drills makes of them
(R45, R51, R53, R56). -/

namespace Sys2Proof.Machine

/-! ### Zones without claims -/

/-- A zone that holds no claim and awaits none. -/
structure Zone.bare (z : Zone) : Prop where
  bell : z.bell = none
  ann : z.ann = none
  drill : z.drill = none
  offers : z.offers = []

/-- A zone that holds no claim, awaits none and is commanded SILENT. -/
structure Zone.emptied (z : Zone) : Prop extends toBare : Zone.bare z where
  silent : z.commanded = .silent

/-- A zone without claims that is re-evaluated is silent (R44, R59). -/
theorem Zone.emptied_evaluate {z : Zone} (h : z.bare) (able served : Bool) (now : Nat) :
    (z.evaluate able served now).emptied := by
  obtain ⟨hbell, hann, hdrill, hoffers⟩ := h
  have hnone : z.select able now = .none := by
    cases able with
    | false => exact z.select_unable now
    | true => exact Zone.select_silent hdrill (.inl hann) (by simp [hbell])
  obtain ⟨hcommanded, hb, ha, hd⟩ := Zone.evaluate_none served hnone
  refine ⟨⟨?_, ?_, ?_, ?_⟩, hcommanded⟩
  · rw [hb, Zone.bellKept, hbell]; rfl
  · rw [ha, Zone.annKept, hann]; rfl
  · rw [hd, hdrill]; rfl
  · rw [Zone.offers_evaluate, hoffers]

/-! ### The relation -/

/-- From `p` to `q` the buildings stand, an emptied zone of a building that is not CLEAR is emptied still, and messages to the
port are added behind those of `p`. -/
structure Part.keepsShut (p q : Part) : Prop where
  buildings : q.arb.buildings = p.arb.buildings
  zones : ∀ z < 64, p.buildingClear z = false → (p.zone z).emptied → (q.zone z).emptied
  sent : ∃ l, q.outbox = p.outbox ++ l

theorem Part.buildingClear_congr {p q : Part} (h : q.arb.buildings = p.arb.buildings) : q.buildingClear = p.buildingClear := by
  funext z; simp only [Part.buildingClear, Part.buildingOf, Part.building, h]

theorem Part.keepsShut.refl (p : Part) : p.keepsShut p := ⟨rfl, fun _ _ _ h => h, [], by simp⟩

theorem Part.keepsShut.trans {p q r : Part} (h : p.keepsShut q) (h' : q.keepsShut r) : p.keepsShut r := by
  obtain ⟨l, hl⟩ := h.sent
  obtain ⟨l', hl'⟩ := h'.sent
  refine ⟨h'.buildings.trans h.buildings, fun z hz hshut he => ?_, l ++ l', by rw [hl', hl, List.append_assoc]⟩
  exact h'.zones z hz ((congrFun (Part.buildingClear_congr h.buildings) z).trans hshut) (h.zones z hz hshut he)

theorem Part.keepsShut_of_arb {p q : Part} (ha : q.arb = p.arb) {l : List Message} (ho : q.outbox = p.outbox ++ l) :
    p.keepsShut q :=
  ⟨by rw [ha], fun z _ _ h => by rwa [Part.zone_of_arb ha], l, ho⟩

/-- What reaches neither zones nor buildings and sends nothing. -/
theorem Part.keepsShut_of_silent {p q : Part} (ha : q.arb = p.arb) (ho : q.outbox = p.outbox) : p.keepsShut q :=
  Part.keepsShut_of_arb (l := []) ha (by simp [ho])

theorem Part.keepsShut_each {α : Type} {f : Part → α → Part} (h : ∀ (q : Part) (a : α), q.keepsShut (f q a)) (l : List α)
    (p : Part) : p.keepsShut (p.each l f) :=
  List.foldlRecOn (motive := p.keepsShut) l f (.refl p) fun q hq a _ => hq.trans (h q a)

section
variable (p : Part)

theorem Part.keepsShut_note (n : Notice) : p.keepsShut (p.note n) := Part.keepsShut_of_arb rfl rfl

theorem Part.keepsShut_modAnn (id : Nat) (f : Announcement → Announcement) : p.keepsShut (p.modAnn id f) :=
  Part.keepsShut_of_silent rfl rfl

theorem Part.keepsShut_wake (pos : Nat) : p.keepsShut (p.wake pos) := Part.keepsShut_of_silent (by simp) (by simp)

theorem Part.keepsShut_wakeFor (z : Nat) : p.keepsShut (p.wakeFor z) := by
  unfold Part.wakeFor
  (repeat' split)
  · exact p.keepsShut_wake _
  all_goals exact .refl p

theorem Part.keepsShut_claimsClear (before : Part) (z : Nat) : p.keepsShut (Part.claimsClear before p z) := by
  obtain ⟨l, h⟩ := Part.claimsClear_line before p z
  rw [h]
  exact Part.keepsShut_of_silent rfl rfl

/-! ### Zones -/

/-- A change of one zone's record that is allowed where the zone is emptied and shut. -/
theorem Part.keepsShut_modZone (z : Nat) {f : Zone → Zone}
    (h : p.buildingClear z = false → ∀ x : Zone, x.emptied → (f x).emptied) : p.keepsShut (p.modZone z f) := by
  refine ⟨rfl, fun y hy hshut he => ?_, [], (List.append_nil _).symm⟩
  by_cases hzy : z = y
  · subst hzy
    rw [show (p.modZone z f).zone z = f (p.zone z) from Tab.get_modify hy _ _ _]
    exact h hshut _ he
  · rwa [show (p.modZone z f).zone y = p.zone y from Tab.get_modify_ne hzy _ _ _]

theorem Part.keepsShut_changeZone (z : Nat) {f : Zone → Zone}
    (h : p.buildingClear z = false → ∀ x : Zone, x.bare → (f x).bare) : p.keepsShut (p.changeZone z f) :=
  p.keepsShut_modZone z fun hshut x hx => Zone.emptied_evaluate (h hshut x hx.toBare) _ _ _

/-- A change that places a claim is no change of a zone whose building is not CLEAR. -/
theorem Part.keepsShut_changeZone_clear {z : Nat} (hclear : p.buildingClear z = true) (f : Zone → Zone) :
    p.keepsShut (p.changeZone z f) :=
  p.keepsShut_changeZone z fun hshut => absurd hclear (by simp [hshut])

/-! ### Announcements -/

theorem Part.keepsShut_noteAnn (id : Nat) (e : AnnounceEvent) : p.keepsShut (p.noteAnn id e) := by
  unfold Part.noteAnn
  split
  · exact p.keepsShut_note _
  · exact .refl p

theorem Part.keepsShut_removeAnn (id : Nat) (c : EndCause) : p.keepsShut (p.removeAnn id c) := by
  unfold Part.removeAnn
  split
  · exact Part.keepsShut_of_arb rfl rfl
  · exact .refl p

theorem Part.keepsShut_grant {z : Nat} (hclear : p.buildingClear z = true) (id : Nat) : p.keepsShut (p.grant id z) := by
  unfold Part.grant
  split
  · exact ((p.keepsShut_changeZone_clear hclear _).trans (Part.keepsShut_modAnn _ _ _)).trans (Part.keepsShut_wakeFor _ z)
  · exact .refl p

theorem Part.keepsShut_offerZone (z : Nat) : p.keepsShut (p.offerZone z) := by
  unfold Part.offerZone
  split
  next => exact .refl p
  next hopen =>
    have hclear : p.buildingClear z = true := by
      simp only [Bool.or_eq_true, Bool.not_eq_true', not_or, Bool.not_eq_false] at hopen
      exact hopen.2
    split
    · exact p.keepsShut_grant hclear _
    · exact .refl p

theorem Part.keepsShut_offerNode (pos : Nat) : p.keepsShut (p.offerNode pos) :=
  Part.keepsShut_each (fun q z => by
    split
    · exact .refl q
    · exact q.keepsShut_offerZone z) _ p

theorem Part.keepsShut_changeJoin (id z : Nat) (st : JoinState) : p.keepsShut (p.changeJoin id z st) := by
  have hjoin := p.keepsShut_modAnn id fun a => a.setJoin z st
  unfold Part.changeJoin
  split
  · exact hjoin
  · dsimp only
    split
    · exact hjoin.trans (Part.keepsShut_offerNode _ _)
    · exact hjoin

theorem Part.keepsShut_removeIfSettled (id : Nat) : p.keepsShut (p.removeIfSettled id) := by
  unfold Part.removeIfSettled
  (repeat' split)
  · exact p.keepsShut_removeAnn _ _
  all_goals exact .refl p

theorem Part.keepsShut_giveBack (id z : Nat) : p.keepsShut (p.giveBack id z) := by
  have hfree := p.keepsShut_changeZone z (f := fun x => { x with ann := none }) fun _ x hx =>
    ⟨hx.bell, rfl, hx.drill, hx.offers⟩
  exact ((hfree.trans (Part.keepsShut_offerZone _ z)).trans (Part.keepsShut_modAnn _ _ _)).trans
    ((Part.keepsShut_changeJoin _ id z .left).trans (Part.keepsShut_claimsClear _ p z))

theorem Part.keepsShut_withdrawEntry (id z : Nat) : p.keepsShut (p.withdrawEntry id z) :=
  (p.keepsShut_modZone z (f := fun x => { x with offers := x.offers.filter fun o => o.id != id }) fun _ x hx =>
    ⟨⟨hx.bell, hx.ann, hx.drill, by simp [hx.offers]⟩, hx.silent⟩).trans (Part.keepsShut_modAnn _ _ _)

theorem Part.keepsShut_enterEnding (id : Nat) (c : EndCause) : p.keepsShut (p.enterEnding id c) := by
  unfold Part.enterEnding
  split
  · exact .refl p
  · dsimp only
    refine .trans ?_ ((Part.keepsShut_noteAnn _ id _).trans (Part.keepsShut_removeIfSettled _ id))
    refine .trans ?_ (Part.keepsShut_modAnn _ _ _)
    refine .trans ?_ (Part.keepsShut_each (fun q z => q.keepsShut_giveBack id z) _ _)
    exact (Part.keepsShut_modAnn _ _ _).trans (Part.keepsShut_each (fun q z => q.keepsShut_withdrawEntry id z) _ _)

theorem Part.keepsShut_testDisplaced (id : Nat) : p.keepsShut (p.testDisplaced id) := by
  unfold Part.testDisplaced
  (repeat' split)
  · exact p.keepsShut_enterEnding _ _
  all_goals exact .refl p

theorem Part.keepsShut_loseJoin (id z : Nat) (st : JoinState) : p.keepsShut (p.loseJoin id z st) :=
  (p.keepsShut_changeJoin id z st).trans (Part.keepsShut_testDisplaced _ id)

theorem Part.keepsShut_loseOffers (z : Nat) (os : List Offer) (st : JoinState) : p.keepsShut (p.loseOffers z os st) :=
  Part.keepsShut_each (f := fun (q : Part) (o : Offer) => q.loseJoin o.id z st) (fun q o => q.keepsShut_loseJoin o.id z st) os p

theorem Part.keepsShut_loseHeld (z : Nat) (held : Option AnnounceClaim) : p.keepsShut (p.loseHeld z held) := by
  unfold Part.loseHeld
  split
  · exact p.keepsShut_loseJoin _ _ _
  · exact .refl p

/-- What follows the end of every claim of a zone. -/
theorem Part.keepsShut_lost (z : Nat) (held : Option AnnounceClaim) (os : List Offer) (st : JoinState) :
    p.keepsShut ((p.loseHeld z held).loseOffers z os st) :=
  (p.keepsShut_loseHeld z held).trans (Part.keepsShut_loseOffers _ z os st)

theorem Part.keepsShut_reviseZone (z : Nat) {f : Zone → Zone} (h : ∀ x : Zone, x.bare → (f x).bare) :
    p.keepsShut (p.reviseZone z f) := by
  have hchange := p.keepsShut_changeZone z fun _ => h
  unfold Part.reviseZone; dsimp only
  split
  · exact hchange.trans ((Part.keepsShut_loseJoin _ _ _ _).trans (Part.keepsShut_claimsClear _ p z))
  · exact hchange.trans (Part.keepsShut_claimsClear _ p z)

/-! ### DRILL claims -/

theorem Part.keepsShut_releaseDrill (z : Nat) : p.keepsShut (p.releaseDrill z) :=
  p.keepsShut_reviseZone z fun _ hx => ⟨hx.bell, hx.ann, rfl, hx.offers⟩

theorem Part.keepsShut_changeDrill (z pattern : Nat) : p.keepsShut (p.changeDrill z pattern) :=
  p.keepsShut_reviseZone z fun _ hx => ⟨hx.bell, hx.ann, by simp [hx.drill], hx.offers⟩

theorem Part.keepsShut_postDrill (z pattern program : Nat) : p.keepsShut (p.postDrill z pattern program).1 := by
  unfold Part.postDrill
  split
  next => exact .refl p
  next hopen =>
    have hclear : p.buildingClear z = true := by
      simp only [Part.closedZone, Bool.or_eq_true, Bool.not_eq_true', not_or, Bool.not_eq_false] at hopen
      exact hopen.2
    exact ((p.keepsShut_changeZone_clear hclear _).trans (Part.keepsShut_wakeFor _ z)).trans (Part.keepsShut_lost _ z _ _ _)

theorem Part.keepsShut_postDrills (r : DrillRun) (pattern : Nat) : p.keepsShut (p.postDrills r pattern).1 := by
  unfold Part.postDrills; dsimp only
  generalize List.flatMap _ _ = zs
  generalize ((0, 0) : Nat × Nat) = c
  induction zs generalizing p c with
  | nil => exact .refl p
  | cons z zs ih =>
    rw [List.foldl_cons]; dsimp only
    split <;> exact (p.keepsShut_postDrill z pattern r.program).trans (ih _ _)

theorem Part.keepsShut_releaseDrills : p.keepsShut p.releaseDrills := Part.keepsShut_each Part.keepsShut_releaseDrill _ p

end

end Sys2Proof.Machine
end

section
/-! SUPPORT. What the drill timer's operations make of a building that is not CLEAR (R90 to R101). -/

namespace Sys2Proof.Machine

section
variable (p : Part)

/-! ### Displays, nodes and the run record -/

theorem Part.keepsShut_with_drill (d : DrillTimer) : p.keepsShut { p with drill := d } := Part.keepsShut_of_silent rfl rfl

theorem Part.keepsShut_modRun (f : DrillRun → DrillRun) : p.keepsShut (p.modRun f) := p.keepsShut_with_drill _

theorem Part.keepsShut_displayList (on : Bool) (l : List Nat) : p.keepsShut (p.displayList on l) :=
  Part.keepsShut_each (f := fun q pos => q.changeDisplay pos fun d => { d with drill := on }) (fun q pos => by
    unfold Part.changeDisplay Part.keepDisplay; dsimp only
    (repeat' split) <;> exact Part.keepsShut_of_silent rfl rfl) l p

theorem Part.keepsShut_quietAfterDrill (scope : List Nat) : p.keepsShut (p.quietAfterDrill scope) :=
  Part.keepsShut_each (fun q pos => by
    unfold Part.quietIfInside Part.sendQuiet
    (repeat' split) <;> exact Part.keepsShut_of_silent rfl rfl) _ p

theorem Part.keepsShut_markEntry (m : CampusTime) (old new : ScheduleState) : p.keepsShut (p.markEntry m old new) :=
  p.keepsShut_with_drill _

theorem Part.keepsShut_depart (b : Nat) (st : TimerState) (elapsed : Nat) : p.keepsShut (p.depart b st elapsed) := by
  have hmod := p.keepsShut_modRun fun r => r.modTimer b fun t => { t with state := st, elapsed := elapsed }
  unfold Part.depart; dsimp only
  (repeat' split)
  · exact hmod.trans (Part.keepsShut_note _ _)
  all_goals exact hmod

theorem Part.keepsShut_unfinish (elapsed : Nat) : p.keepsShut (p.unfinish elapsed) := by
  unfold Part.unfinish
  split
  · exact Part.keepsShut_each (fun q b => q.keepsShut_depart b _ _) _ p
  · exact .refl p

/-! ### The end of a drill -/

theorem Part.keepsShut_endRun (r : DrillRun) : p.keepsShut (p.endRun r) :=
  (p.keepsShut_with_drill _).trans (Part.keepsShut_quietAfterDrill _ _)

theorem Part.keepsShut_closeDrill (c : DrillEnd) : p.keepsShut (p.closeDrill c) := by
  unfold Part.closeDrill
  split
  · refine (p.keepsShut_displayList false p.displayListed).trans ?_
    exact (Part.keepsShut_with_drill _ _).trans ((Part.keepsShut_note _ _).trans (Part.keepsShut_endRun _ _))
  · exact .refl p

theorem Part.keepsShut_enterAllclear : p.keepsShut p.enterAllclear := by
  have hphase := (p.keepsShut_modRun fun r => { r with phase := .allclear, phaseStart := p.now }).trans
    (Part.keepsShut_modRun _ fun r => { r with header := p.drillElapsed })
  unfold Part.enterAllclear; dsimp only
  split
  · exact hphase.trans ((Part.keepsShut_postDrills _ _ _).trans (Part.keepsShut_note _ _))
  · exact hphase

theorem Part.keepsShut_musterEnd : p.keepsShut p.musterEnd := by
  unfold Part.musterEnd
  (repeat' split)
  · exact p.keepsShut_enterAllclear
  · exact p.keepsShut_closeDrill _
  · exact .refl p

theorem Part.keepsShut_testMuster : p.keepsShut p.testMuster := by
  unfold Part.testMuster
  (repeat' split)
  · exact p.keepsShut_musterEnd
  · exact (p.keepsShut_unfinish _).trans (Part.keepsShut_musterEnd _)
  all_goals exact .refl p

theorem Part.keepsShut_enterMuster (early : Bool) : p.keepsShut (p.enterMuster early) := by
  have hphase := p.keepsShut_releaseDrills.trans (Part.keepsShut_modRun _ fun r =>
    { r with phase := .muster, phaseStart := p.releaseDrills.now })
  unfold Part.enterMuster; dsimp only
  split
  · exact hphase.trans ((Part.keepsShut_note _ _).trans (Part.keepsShut_testMuster _))
  · exact hphase

theorem Part.keepsShut_testTimers : p.keepsShut p.testTimers := by
  have hclose := p.keepsShut_releaseDrills.trans (Part.keepsShut_closeDrill _ .yielded)
  unfold Part.testTimers
  (repeat' split)
  · exact hclose
  · exact .refl p
  · exact hclose
  · exact p.keepsShut_enterMuster true
  · exact .refl p
  · exact hclose
  · exact p.keepsShut_testMuster
  all_goals exact .refl p

/-! ### The sounding phases -/

theorem Part.keepsShut_enterEvacuate (fromPrealert : Bool) : p.keepsShut (p.enterEvacuate fromPrealert) := by
  have hphase := (p.keepsShut_modRun fun r => { r with phase := .evacuate, phaseStart := p.now }).trans
    (Part.keepsShut_modRun _ fun r => { r with evacuation := some p.now })
  unfold Part.enterEvacuate; dsimp only
  split
  · refine hphase.trans (.trans ?_ ((Part.keepsShut_modRun _ _).trans
      ((Part.keepsShut_displayList _ true _).trans (Part.keepsShut_note _ _))))
    split
    · exact Part.keepsShut_each (fun q z => q.keepsShut_changeDrill z _) _ _
    · exact Part.keepsShut_postDrills _ _ _
  · exact hphase

theorem Part.keepsShut_enterSounding : p.keepsShut p.enterSounding := by
  unfold Part.enterSounding
  (repeat' split)
  · exact p.keepsShut_enterEvacuate false
  · exact (p.keepsShut_modRun _).trans ((Part.keepsShut_postDrills _ _ _).trans (Part.keepsShut_note _ _))
  · exact .refl p

/-! ### CHECKING -/

theorem Part.keepsShut_checkResult : p.keepsShut p.checkResult := by
  unfold Part.checkResult; dsimp only
  split
  next r _ =>
    split
    · exact (p.keepsShut_note _).trans (Part.keepsShut_closeDrill _ _)
    split
    · exact (p.keepsShut_note _).trans (Part.keepsShut_enterSounding _)
    split
    · exact (p.keepsShut_modRun _).trans ((Part.keepsShut_note _ _).trans (Part.keepsShut_enterSounding _))
    refine .trans ?_ ((Part.keepsShut_note _ _).trans (Part.keepsShut_endRun _ r))
    split
    · exact p.keepsShut_markEntry _ _ _
    · exact .refl p
  next => exact .refl p

theorem Part.keepsShut_testProbes : p.keepsShut p.testProbes := by
  unfold Part.testProbes
  (repeat' split)
  · exact p.keepsShut_checkResult
  all_goals exact .refl p

theorem Part.keepsShut_handProbe : p.keepsShut p.handProbe := by
  unfold Part.handProbe
  (repeat' split) <;> exact Part.keepsShut_of_silent rfl rfl

theorem Part.keepsShut_beginProbing : p.keepsShut p.beginProbing := by
  unfold Part.beginProbing
  split
  · exact ((p.keepsShut_with_drill _).trans (Part.keepsShut_modRun _ _)).trans
      ((Part.keepsShut_handProbe _).trans (Part.keepsShut_testProbes _))
  · exact .refl p

theorem Part.keepsShut_testWoken : p.keepsShut p.testWoken := by
  unfold Part.testWoken
  (repeat' split)
  · exact p.keepsShut_beginProbing
  all_goals exact .refl p

/-! ### Inputs and yields -/

/-- A yield as the drill timer takes it (R100). -/
theorem Part.keepsShut_drillYield (b : Nat) : p.keepsShut (p.drillYield b) := by
  unfold Part.drillYield
  split
  next =>
    split
    next => exact .refl p
    next t _ =>
      have hbarred := p.keepsShut_modRun fun r => { r with barred := b :: r.barred }
      dsimp only
      split
      · refine hbarred.trans (.trans ?_ ((Part.keepsShut_handProbe _).trans
          ((Part.keepsShut_testWoken _).trans (Part.keepsShut_testProbes _))))
        exact Part.keepsShut_of_silent rfl rfl
      · exact hbarred.trans ((Part.keepsShut_modRun _ _).trans (Part.keepsShut_testTimers _))
      · refine hbarred.trans (.trans ?_ (Part.keepsShut_testTimers _))
        split
        · exact Part.keepsShut_depart _ _ _ _
        · exact .refl _
      · refine hbarred.trans (.trans ?_ (Part.keepsShut_testTimers _))
        split
        · exact Part.keepsShut_depart _ _ _ _
        · exact .refl _
      · exact hbarred
  next => exact .refl p

theorem Part.keepsShut_clearEdge (b : Nat) : p.keepsShut (p.clearEdge b) := by
  unfold Part.clearEdge
  (repeat' split)
  · exact (p.keepsShut_depart _ _ _).trans (Part.keepsShut_testTimers _)
  all_goals exact .refl p

theorem Part.keepsShut_countEdges (b n : Nat) : p.keepsShut (p.countEdges b n) := by
  unfold Part.countEdges
  (repeat' split)
  · exact p.keepsShut_modRun _
  all_goals exact .refl p

end

end Sys2Proof.Machine
end

section
/-! SUPPORT. Yields of buildings: the trigger, its edges and levels, HELD and the release (R56 to R58). -/

namespace Sys2Proof.Machine

/-! ### Buildings and their zones -/

theorem Tab.modify_eq_set {α : Type} {n i : Nat} (hi : i < n) (v : Vector α n) (f : α → α) (d : α) :
    Tab.modify v i f = v.setIfInBounds i (f (Tab.get v i d)) := by
  simp [Tab.modify, Tab.get, hi]

theorem Range.meets_of_has {a b : Range} {z : Nat} (ha : a.has z = true) (hb : b.has z = true) : a.meets b = true := by
  simp only [Range.has, Range.meets, Range.isEmpty, Bool.and_eq_true, Bool.not_eq_true', decide_eq_true_eq,
    decide_eq_false_iff_not] at ha hb ⊢
  omega

theorem zonesOf_filter (r : Range) (f : Nat → Bool) :
    (zonesOf r).filter f = (List.range 64).filter fun z => r.has z && f z := by
  simp [zonesOf, selected, upTo, List.filter_filter, Bool.and_comm]

section
variable (p : Part)

theorem Part.building_modBuilding {b : Nat} (hb : b ≤ 7) (f : Building → Building) :
    (p.modBuilding b f).building b = f (p.building b) :=
  Tab.get_modify (Nat.lt_succ_of_le hb) _ _ _

theorem Part.building_modBuilding_ne {b c : Nat} (h : b ≠ c) (f : Building → Building) :
    (p.modBuilding b f).building c = p.building c :=
  Tab.get_modify_ne h _ _ _

theorem Part.buildings_modBuilding {b : Nat} (hb : b ≤ 7) (f : Building → Building) :
    (p.modBuilding b f).arb.buildings = p.arb.buildings.setIfInBounds b (f (p.building b)) :=
  Tab.modify_eq_set (Nat.lt_succ_of_le hb) _ _ _

theorem Part.zones_modBuilding (b c : Nat) {f : Building → Building} (h : ∀ x, (f x).zones = x.zones) :
    ((p.modBuilding b f).building c).zones = (p.building c).zones :=
  Tab.get_modify_keeps _ _ _ _ _ (·.zones) fun x _ => h x

theorem Part.building_of_buildings {q : Part} (h : q.arb.buildings = p.arb.buildings) (b : Nat) : q.building b = p.building b := by
  simp only [Part.building, h]

variable {p}

/-- No two buildings share a zone (R39). -/
theorem Part.buildingOf_has (hp : p.lawful) {b z : Nat} (hb : b ≤ 7) (h : (p.building b).zones.has z = true) :
    p.buildingOf z = some b := by
  obtain ⟨-, hapart, -⟩ := hp
  refine List.find?_range_eq_some.mpr ⟨h, List.mem_range.mpr (Nat.lt_succ_of_le hb), fun c hc => ?_⟩
  have hmeets := hapart c b (by omega) (by omega) (by omega)
  rw [Vector.getElem_map, Vector.getElem_map, ← tab_get_lt _ c (by omega) Building.reset,
    ← tab_get_lt _ b (by omega) Building.reset] at hmeets
  cases hhas : (p.building c).zones.has z with
  | false => rfl
  | true => exact absurd (hmeets.symm.trans (Range.meets_of_has hhas h)) (by decide)

end

/-! ### A zone's claims changed, where no announcement has a part in it -/

section
variable (p : Part) (z : Nat) (f : Zone → Zone)

theorem Part.says_changeZone : p.says (Part.claimsClear p (p.changeZone z f) z) [] := by
  obtain ⟨l, h⟩ := Part.claimsClear_line p (p.changeZone z f) z
  rw [h]
  exact Part.says_nil rfl rfl

theorem Part.zone_claimsClear (q : Part) (y : Nat) : (Part.claimsClear p q z).zone y = q.zone y := by
  obtain ⟨l, h⟩ := Part.claimsClear_line p q z
  rw [h]; rfl

end

/-- A walk over zones sends nothing and leaves the announcements, when its steps do so in every zone that is `good`, and keep
zones so. -/
theorem Part.says_eachZone {F : Part → Nat → Part} {good : Zone → Prop}
    (hsays : ∀ (q : Part) z, good (q.zone z) → q.says (F q z) [])
    (hgood : ∀ (q : Part) z, good (q.zone z) → ∀ y < 64, good (q.zone y) → good ((F q z).zone y)) (l : List Nat) :
    ∀ p : Part, (∀ z ∈ l, z < 64 ∧ good (p.zone z)) → p.says (p.each l F) [] := by
  induction l with
  | nil => exact fun p _ => Part.says_nil rfl rfl
  | cons z l ih =>
    intro p h
    have hz := (h z (by simp)).2
    refine (hsays p z hz).trans (ih (F p z) fun y hy => ?_)
    obtain ⟨hlt, hy⟩ := h y (by simp [hy])
    exact ⟨hlt, hgood p z hz y hlt hy⟩

/-! ### The claims of a zone end -/

theorem Part.keepsShut_endClaims (p : Part) (z : Nat) : p.keepsShut (p.endClaims z) :=
  (p.keepsShut_changeZone z fun _ _ _ => ⟨rfl, rfl, rfl, rfl⟩).trans
    ((Part.keepsShut_lost _ z _ _ _).trans (Part.keepsShut_claimsClear _ p z))

/-- A zone of a building that is not CLEAR is emptied by the end of its claims, whatever the freed capacity is offered. -/
theorem Part.emptied_endClaims {p : Part} {z : Nat} (hz : z < 64) (hshut : p.buildingClear z = false) :
    ((p.endClaims z).zone z).emptied := by
  refine ((Part.keepsShut_lost _ z _ _ _).trans (Part.keepsShut_claimsClear _ p z)).zones z hz
    ((congrFun (Part.buildingClear_congr rfl) z).trans hshut) ?_
  rw [Part.zone_changeZone hz]
  exact Zone.emptied_evaluate ⟨rfl, rfl, rfl, rfl⟩ _ _ _

theorem Part.emptied_eachEndClaims (l : List Nat) : ∀ p : Part, (∀ z ∈ l, z < 64 ∧ p.buildingClear z = false) →
    ∀ z ∈ l, ((p.each l Part.endClaims).zone z).emptied := by
  induction l with
  | nil => simp
  | cons y l ih =>
    intro p h z hz
    have hstep := p.keepsShut_endClaims y
    have hclear := Part.buildingClear_congr hstep.buildings
    obtain ⟨hy64, hy⟩ := h y (by simp)
    rcases List.mem_cons.mp hz with rfl | hz
    · exact (Part.keepsShut_each Part.keepsShut_endClaims l _).zones z hy64 (hclear ▸ hy) (Part.emptied_endClaims hy64 hy)
    · exact ih _ (fun x hx => ⟨(h x (by simp [hx])).1, hclear ▸ (h x (by simp [hx])).2⟩) z hz

/-- With no announcement in a zone and none waiting for it, the end of its claims concerns the zone alone. -/
theorem Part.endClaims_eq {p : Part} {z : Nat} (h : (p.zone z).ann = none ∧ (p.zone z).offers = []) : p.endClaims z =
    Part.claimsClear p (p.changeZone z fun x => { x with bell := none, ann := none, drill := none, offers := [] }) z := by
  obtain ⟨hann, hoffers⟩ := h
  unfold Part.endClaims; dsimp only
  rw [hann, hoffers]; rfl

theorem Part.says_eachEndClaims {l : List Nat} {p : Part}
    (h : ∀ z ∈ l, z < 64 ∧ (p.zone z).ann = none ∧ (p.zone z).offers = []) : p.says (p.each l Part.endClaims) [] := by
  refine Part.says_eachZone (good := fun x => x.ann = none ∧ x.offers = []) (fun q z hz => ?_) (fun q z hz y hy hgood => ?_)
    l p h
  · rw [Part.endClaims_eq hz]
    exact q.says_changeZone z _
  · rw [Part.endClaims_eq hz, Part.zone_claimsClear]
    by_cases hzy : z = y
    · subst hzy
      rw [Part.zone_changeZone hy]
      have hempty := Zone.emptied_evaluate (z := { q.zone z with bell := none, ann := none, drill := none, offers := [] })
        ⟨rfl, rfl, rfl, rfl⟩ (q.able z) (q.served z) q.now
      exact ⟨hempty.ann, hempty.offers⟩
    · rwa [Part.zone_changeZone_ne hzy]

/-! ### The trigger -/

/-- A building as a trigger leaves it. -/
def Part.markYielded (p : Part) (b pos input : Nat) : Part :=
  p.modBuilding b fun x => { x with yield := .yielded, origin := some (pos, input) }

/-- A building that has yielded, its zones' claims ended. -/
def Part.yieldEnded (p : Part) (b pos input : Nat) : Part :=
  (p.markYielded b pos input).each (zonesOf (p.building b).zones) Part.endClaims

/-- The YIELD_STATE notice of a trigger, with the numbers of claims that it ends (R58). -/
def Part.yieldNotice (p : Part) (b pos input : Nat) : Notice :=
  let count := fun (f : Zone → Bool) =>
    ((List.range 64).filter fun z => (p.building b).zones.has z && f (p.zone z)).length
  .yieldState b (p.building b).yield .yielded
    (.trigger pos input (count (·.bell.isSome)) (count (·.ann.isSome)) (count (·.drill.isSome)))

section
variable {p : Part} {b : Nat} (pos input : Nat)

theorem Part.yieldTrigger_again (h : (p.building b).yield = .yielded) : p.yieldTrigger b pos input = p :=
  if_pos (by rw [h]; rfl)

theorem Part.yieldTrigger_eq (h : (p.building b).yield ≠ .yielded) : p.yieldTrigger b pos input =
    ((p.yieldEnded b pos input).note (p.yieldNotice b pos input)).drillYield b := by
  refine (if_neg (by simpa using h)).trans ?_
  simp only [zonesOf_filter]
  rfl

/-- What a trigger does once the building is YIELDED opens no zone of it. -/
theorem Part.yieldEnded_keepsShut (p : Part) (b : Nat) :
    (p.markYielded b pos input).keepsShut (p.yieldEnded b pos input) :=
  Part.keepsShut_each Part.keepsShut_endClaims _ _

theorem Part.yieldTrigger_follows (h : (p.building b).yield ≠ .yielded) :
    ((p.yieldEnded b pos input).note (p.yieldNotice b pos input)).keepsShut (p.yieldTrigger b pos input) := by
  rw [Part.yieldTrigger_eq pos input h]
  exact Part.keepsShut_drillYield _ b

/-- A trigger changes the building's own record alone. -/
theorem Part.buildings_yieldTrigger (h : (p.building b).yield ≠ .yielded) :
    (p.yieldTrigger b pos input).arb.buildings = (p.markYielded b pos input).arb.buildings :=
  (Part.yieldTrigger_follows pos input h).buildings.trans (p.yieldEnded_keepsShut pos input b).buildings

theorem Part.yield_yieldTrigger (hb : b ≤ 7) (p : Part) : ((p.yieldTrigger b pos input).building b).yield = .yielded := by
  by_cases h : (p.building b).yield = .yielded
  · rwa [Part.yieldTrigger_again pos input h]
  · rw [Part.building_of_buildings _ (Part.buildings_yieldTrigger pos input h), Part.markYielded,
      Part.building_modBuilding p hb]

/-- A building that is YIELDED stays so at the triggers of every building. -/
theorem Part.yield_yieldTrigger_keeps (h : (p.building b).yield = .yielded) (c : Nat) :
    ((p.yieldTrigger c pos input).building b).yield = .yielded := by
  by_cases hc : (p.building c).yield = .yielded
  · rwa [Part.yieldTrigger_again pos input hc]
  · have hne : c ≠ b := by rintro rfl; exact hc h
    rwa [Part.building_of_buildings _ (Part.buildings_yieldTrigger pos input hc), Part.markYielded,
      Part.building_modBuilding_ne p hne]

/-- The zones of a building that has been marked are shut. -/
theorem Part.shut_markYielded (hp : p.lawful) (hb : b ≤ 7) {z : Nat} (h : (p.building b).zones.has z = true) :
    (p.markYielded b pos input).buildingClear z = false := by
  have hof : (p.markYielded b pos input).buildingOf z = some b := by
    refine Eq.trans ?_ (Part.buildingOf_has hp hb h)
    have hzones : ∀ c, ((p.markYielded b pos input).building c).zones = (p.building c).zones := fun c =>
      p.zones_modBuilding b c fun _ => rfl
    simp only [Part.buildingOf, hzones]
  have hyield : ((p.markYielded b pos input).building b).yield = .yielded := by
    rw [Part.markYielded, Part.building_modBuilding p hb]
  simp [Part.buildingClear, hof, hyield]

/-- The zones of a building are emptied by a trigger. -/
theorem Part.emptied_yieldTrigger (hp : p.lawful) (hb : b ≤ 7) (hy : (p.building b).yield ≠ .yielded) {z : Nat} (hz : z < 64)
    (h : (p.building b).zones.has z = true) : ((p.yieldTrigger b pos input).zone z).emptied := by
  have hshut : ∀ y, (p.building b).zones.has y = true → (p.markYielded b pos input).buildingClear y = false := fun y =>
    Part.shut_markYielded pos input hp hb
  have hended : ((p.yieldEnded b pos input).zone z).emptied :=
    Part.emptied_eachEndClaims _ _ (fun y hy => by
      have hy64 := lt_of_mem_selected hy
      exact ⟨hy64, hshut y ((mem_zonesOf hy64).mp hy)⟩) z ((mem_zonesOf hz).mpr h)
  refine (Part.yieldTrigger_follows pos input hy).zones z hz ?_ hended
  exact (congrFun (Part.buildingClear_congr (p.yieldEnded_keepsShut pos input b).buildings) z).trans (hshut z h)

theorem Part.notice_yieldTrigger (hy : (p.building b).yield ≠ .yielded) :
    .notice (p.yieldNotice b pos input) ∈ (p.yieldTrigger b pos input).outbox := by
  obtain ⟨l, hl⟩ := (Part.yieldTrigger_follows pos input hy).sent
  simp [hl]

/-- With no drill on, and no announcement in the building, a trigger reports the yield alone. -/
theorem Part.outbox_yieldTrigger (hy : (p.building b).yield ≠ .yielded) (hrun : p.drill.run = none)
    (h : ∀ z < 64, (p.building b).zones.has z = true → (p.zone z).ann = none ∧ (p.zone z).offers = []) :
    (p.yieldTrigger b pos input).outbox = p.outbox ++ [.notice (p.yieldNotice b pos input)] := by
  have hcore : (p.yieldEnded b pos input).core = (p.markYielded b pos input).core :=
    Part.core_each _ (fun q z => by simp) _ _
  obtain ⟨-, -, -, -, -, hdrill⟩ := Part.core_fields hcore
  have hidle : ((p.yieldEnded b pos input).note (p.yieldNotice b pos input)).drill.run = none := by
    rw [Part.note_drill, hdrill]
    exact hrun
  obtain ⟨-, hsent⟩ : (p.markYielded b pos input).says (p.yieldEnded b pos input) [] :=
    Part.says_eachEndClaims fun z hz => by
      have hz64 := lt_of_mem_selected hz
      exact ⟨hz64, h z hz64 ((mem_zonesOf hz64).mp hz)⟩
  rw [Part.yieldTrigger_eq pos input hy, Part.drillYield, hidle]
  dsimp only
  rw [Part.note_outbox, hsent]
  simp [Part.markYielded]

end

/-! ### Edges and levels -/

/-- A walk comes to what one of its steps brings about, when every step keeps what that step needs and what it brings. -/
theorem Part.each_brings {α : Type} {F : Part → α → Part} {needed brought : Part → Prop}
    (hneeded : ∀ q a, needed q → needed (F q a)) (hkept : ∀ q a, brought q → brought (F q a)) {a : α}
    (hstep : ∀ q, needed q → brought (F q a)) {l : List α} (ha : a ∈ l) : ∀ p : Part, needed p → brought (p.each l F) := by
  induction l with
  | nil => cases ha
  | cons x l ih =>
    intro p hp
    rcases List.mem_cons.mp ha with rfl | ha
    · exact List.foldlRecOn (motive := brought) l F (hstep p hp) fun q hq y _ => hkept q y hq
    · exact ih ha _ (hneeded p x hp)

theorem Part.rosterAt_of_layout {p q : Part} (h : q.layout = p.layout) (pos : Nat) : q.rosterAt pos = p.rosterAt pos := by
  simp only [Part.layout, Chain.layout, Prod.mk.injEq] at h
  obtain ⟨-, -, -, -, -, hroster, -⟩ := h
  simp only [Part.rosterAt, hroster]

theorem Part.mem_yieldInputs {p : Part} {pos b n : Nat} : n ∈ p.yieldInputs pos b ↔
    ∃ i : Fin 4, i.val = n ∧ (p.rosterAt pos).inputs[i].function = .yield ∧ (p.rosterAt pos).inputs[i].building = some b := by
  simp only [Part.yieldInputs, Part.inputDefs, List.mem_map, List.mem_filter, Bool.and_eq_true, beq_iff_eq, Prod.exists,
    exists_eq_right, List.mem_zipIdx_iff_getElem?, Vector.getElem?_toList, Vector.getElem?_eq_some_iff]
  constructor
  · rintro ⟨d, ⟨hn, hd⟩, hf, hb⟩
    exact ⟨⟨n, hn⟩, rfl, hd ▸ hf, hd ▸ hb⟩
  · rintro ⟨i, rfl, hf, hb⟩
    exact ⟨_, ⟨i.isLt, rfl⟩, hf, hb⟩

/-- A YIELD input is at its active level when it reads the level that its edge leads to. -/
theorem Part.atActiveLevel_iff {p : Part} {pos : Nat} (i : Fin 4) {inputs : List (Nat × Bool)} :
    p.atActiveLevel pos i inputs = true ↔
      ∃ x, inputs[i.val]? = some x ∧ x.2 = ((p.rosterAt pos).inputs[i].edge == .rising) := by
  have hd : ((p.rosterAt pos).inputs.toList)[i.val]? = some (p.rosterAt pos).inputs[i] := by simp
  have hlevel : ∀ e : Edge, e.activeLevel = (e == .rising) := by intro e; cases e <;> rfl
  unfold Part.atActiveLevel
  rw [hd]
  cases inputs[i.val]? with
  | none => simp
  | some x => simp [hlevel]

/-- The first YIELD input of a building that a record triggers, if there is one, makes it YIELDED (R56). -/
def Part.triggerFirst (p : Part) (pos : Nat) (active : Part → Nat → Bool) (b : Nat) : Part :=
  match (p.yieldInputs pos b).find? (active p) with
  | some i => p.yieldTrigger b pos i
  | none => p

section
variable {pos b : Nat} {active : Part → Nat → Bool}

@[simp] theorem Part.layout_triggerFirst (p : Part) (c : Nat) : (p.triggerFirst pos active c).layout = p.layout := by
  unfold Part.triggerFirst; split <;> simp

/-- A walk over buildings in which an input of one of them is active makes that one YIELDED. -/
theorem Part.yield_eachTrigger {p : Part} (hb : b ≤ 7) {i : Nat} (hi : i ∈ p.yieldInputs pos b)
    (hactive : ∀ q : Part, q.rosterAt pos = p.rosterAt pos → active q i = true) {l : List Nat} (hl : b ∈ l) :
    ((p.each l fun q c => q.triggerFirst pos active c).building b).yield = .yielded := by
  refine Part.each_brings (needed := fun q => q.rosterAt pos = p.rosterAt pos)
    (brought := fun q => (q.building b).yield = .yielded) (fun q c hq => ?_) (fun q c hq => ?_) (fun q hq => ?_) hl p rfl
  · exact (Part.rosterAt_of_layout (q.layout_triggerFirst c) pos).trans hq
  · unfold Part.triggerFirst
    split
    · exact Part.yield_yieldTrigger_keeps pos _ hq c
    · exact hq
  · have hin : i ∈ q.yieldInputs pos b := by simpa only [Part.yieldInputs, Part.inputDefs, hq] using hi
    unfold Part.triggerFirst
    split
    · exact Part.yield_yieldTrigger pos _ hb q
    next hnone => exact absurd (hactive q hq) (List.find?_eq_none.mp hnone i hin)

theorem Part.yield_yieldLevels {p : Part} (hb : b ≤ 7) (i : Fin 4) {inputs : List (Nat × Bool)} {x : Nat × Bool}
    (hi : i.val ∈ p.yieldInputs pos b) (hx : inputs[i.val]? = some x)
    (hlevel : x.2 = ((p.rosterAt pos).inputs[i].edge == .rising)) :
    ((p.yieldLevels pos inputs).building b).yield = .yielded := by
  refine Part.yield_eachTrigger (active := fun q n => q.atActiveLevel pos n inputs) hb hi (fun q hq => ?_) ?_
  · rw [Part.atActiveLevel_iff i, hq]
    exact ⟨x, hx, hlevel⟩
  · refine List.mem_filter.mpr ⟨List.mem_range.mpr (Nat.lt_succ_of_le hb), ?_⟩
    simpa using List.ne_nil_of_mem hi

theorem Part.yield_deliverEdges {p : Part} (hb : b ≤ 7) {i : Nat} {edges : List Nat} (hi : i ∈ p.yieldInputs pos b)
    (hedge : 0 < edges.getD i 0) : ((p.deliverEdges pos edges).building b).yield = .yielded := by
  have hsome : (edges.all (· == 0)) = false := by
    rw [List.getD_eq_getElem?_getD] at hedge
    cases he : edges[i]? with
    | none => simp [he] at hedge
    | some n =>
      refine List.all_eq_false.mpr ⟨n, List.mem_of_getElem? he, ?_⟩
      simp only [he, Option.getD_some] at hedge
      simp; omega
  unfold Part.deliverEdges
  rw [hsome]
  dsimp only
  generalize hr : Part.each (Part.each p _ _) _ _ = r
  have hlayout : r.layout = p.layout := by
    subst hr
    refine (Part.layout_each _ (fun q c => ?_) _ _).trans (Part.layout_each _ (fun q c => ?_) _ _) <;> split <;> simp
  refine Part.yield_eachTrigger (active := fun _ n => decide (0 < edges.getD n 0)) hb (i := i) ?_
    (fun _ _ => by simpa using hedge) (List.mem_range.mpr (Nat.lt_succ_of_le hb))
  simpa only [Part.yieldInputs, Part.inputDefs, Part.rosterAt_of_layout hlayout] using hi

end

/-! ### HELD -/

theorem Part.yieldInactive_reads {p : Part} {b : Nat} : p.yieldInactive b = true ↔
    ∀ pos < 24, (p.node pos).isServed = true → ∀ n ∈ p.yieldInputs pos b, ∀ r, (p.link pos).latest = some r →
      p.atActiveLevel pos n r.inputs = false := by
  simp only [Part.yieldInactive, upTo, List.all_eq_true, List.mem_range, Bool.or_eq_true, Bool.not_eq_true',
    ← Bool.not_eq_true (NodeState.isServed _), ← imp_iff_not_or]
  refine forall₅_congr fun pos _ _ n _ => ?_
  cases (p.link pos).latest <;> simp

/-- Whether every YIELD input of a building that is counted reads its inactive level, as the statements have it (R57). -/
theorem Part.yieldInactive_iff {p : Part} {b : Nat} : p.yieldInactive b = true ↔
    ∀ pos < 24, (p.node pos).isServed = true → ∀ i : Fin 4, (p.rosterAt pos).inputs[i].function = .yield →
      (p.rosterAt pos).inputs[i].building = some b → ∀ r x, (p.link pos).latest = some r → r.inputs[i.val]? = some x →
      x.2 ≠ ((p.rosterAt pos).inputs[i].edge == .rising) := by
  rw [Part.yieldInactive_reads]
  refine forall₃_congr fun pos _ _ => ⟨fun h i hf hb r x hr hx hlevel => ?_, fun h n hn r hr => ?_⟩
  · have hinactive := h i (Part.mem_yieldInputs.mpr ⟨i, rfl, hf, hb⟩) r hr
    exact absurd ((Part.atActiveLevel_iff i).mpr ⟨x, hx, hlevel⟩) (by simp [hinactive])
  · obtain ⟨i, rfl, hf, hb⟩ := Part.mem_yieldInputs.mp hn
    rw [← Bool.not_eq_true, Part.atActiveLevel_iff i]
    rintro ⟨x, hx, hlevel⟩
    exact h i hf hb r x hr hx hlevel

section
variable {p : Part} {b : Nat}

theorem Part.testHeld_active (h : p.yieldInactive b ≠ true) : p.testHeld b = p := by
  simp [Part.testHeld, h]

/-- A YIELDED building whose inputs read inactive is HELD, and reports it (R57, R58). -/
theorem Part.testHeld_inactive (hb : b ≤ 7) (hy : (p.building b).yield = .yielded) (h : p.yieldInactive b = true) :
    p.testHeld b = { p with
      arb := { p.arb with buildings := p.arb.buildings.setIfInBounds b { p.building b with yield := .held } },
      outbox := p.outbox ++ [.notice (.yieldState b .yielded .held .inputsInactive)] } := by
  rw [Part.testHeld, if_pos (by simp [hy, h]), ← p.buildings_modBuilding hb fun x => { x with yield := .held }]
  rfl

end

/-! ### The release -/

/-- A building as YIELD_RELEASE leaves it. -/
def Part.markClear (p : Part) (b : Nat) : Part := p.modBuilding b fun x => { x with yield := .clear }

/-- A building released, its zones re-evaluated. -/
def Part.reviewed (p : Part) (b : Nat) : Part :=
  (p.markClear b).each (zonesOf ((p.markClear b).building b).zones) Part.reviewZone

theorem Part.yieldRelease_held {p : Part} {b : Nat} (hb : b ≤ 7) (hy : (p.building b).yield = .held) (saving : Bool) :
    Part.yieldRelease b saving p = ((p.reviewed b).note (.yieldState b .held .clear .release), okOnly) :=
  checked_pass (by simp [firstFailure, hy, Nat.not_lt.mpr hb]) p _

theorem Part.core_reviewed (p : Part) (b : Nat) : (p.reviewed b).core = (p.markClear b).core :=
  Part.core_each _ (fun q z => by simp) _ _

/-- With no announcement in the building's zones their re-evaluation concerns the zones alone. -/
theorem Part.says_reviewed {p : Part} {b : Nat}
    (h : ∀ z < 64, (p.building b).zones.has z = true → (p.zone z).ann = none) : (p.markClear b).says (p.reviewed b) [] := by
  refine Part.says_eachZone (good := fun x => x.ann = none) (fun q z hz => ?_) (fun q z hz y hy hgood => ?_) _ _
    fun z hz => ?_
  · rw [Part.reviewZone, Part.reviseZone_held (.inl hz)]
    exact q.says_changeZone z _
  · rw [Part.reviewZone, Part.reviseZone_held (.inl hz), Part.zone_claimsClear]
    by_cases hzy : z = y
    · subst hzy
      rw [Part.zone_changeZone hy, id, Zone.ann_evaluate, Zone.annAfter, hz]
    · rwa [Part.zone_changeZone_ne hzy]
  · have hz64 := lt_of_mem_selected hz
    rw [Part.markClear, p.zones_modBuilding b b (f := fun x => { x with yield := .clear }) fun _ => rfl] at hz
    exact ⟨hz64, h z hz64 ((mem_zonesOf hz64).mp hz)⟩

theorem Part.says_release {p : Part} {b : Nat}
    (h : ∀ z < 64, (p.building b).zones.has z = true → (p.zone z).ann = none) :
    p.says ((p.reviewed b).note (.yieldState b .held .clear .release)) [.yieldState b .held .clear .release] :=
  (((Part.says_reviewed h).of_silent rfl rfl).trans (Part.says_note _ _)).congr (List.nil_append _)

/-- Settles O25: the release by its walk over the building's zones, the trigger by what it leaves of zones that are shut, edges
and levels by the walk over buildings, and HELD by its test. -/
theorem yieldRelease : Obligations.YieldRelease := by
  refine ⟨fun s tag b hr => ⟨fun hb hy => ?_, fun hb hy => ?_, fun hb => ?_⟩, fun p b pos input hb => ⟨?_, fun hy hp => ?_⟩,
    fun p pos b i hb => ?_, fun p b hb hy => ?_⟩
  · have heq := Part.yieldRelease_held hb hy s.port.saving.isSome
    obtain ⟨hpart, hans⟩ := request_part hr (.yieldRelease tag b) 0x26 (Part.yieldRelease b) heq (.inl rfl)
    refine ⟨_, rfl, hans, request_sameOutside hr _ _ _, ?_, fun hs hann => ?_⟩
    · rw [hpart, Part.core_with_outbox, Part.core_settle, Part.core_note, Part.core_reviewed]
      rfl
    · exact request_reports hr hs _ _ _ heq (.inl rfl) (Part.says_release hann)
  · refine congrArg Host.Outcome.next (request_refused hr _ _ _ ?_)
    simp [ofPart, Part.yieldRelease, checked, firstFailure, hy, Nat.not_lt.mpr hb]
  · refine congrArg Host.Outcome.next (request_refused hr _ _ _ ?_)
    simp [ofPart, Part.yieldRelease, checked, firstFailure, hb]
  · exact Part.yieldTrigger_again pos input
  · refine ⟨?_, Part.clock_yieldTrigger p b pos input, Part.layout_yieldTrigger p b pos input, fun z hz hhas => ?_,
      Part.notice_yieldTrigger pos input hy, Part.outbox_yieldTrigger pos input hy⟩
    · rw [Part.buildings_yieldTrigger pos input hy, Part.markYielded, p.buildings_modBuilding hb]
    · obtain ⟨⟨hbell, hann, hdrill, hoffers⟩, hsilent⟩ := Part.emptied_yieldTrigger pos input hp hb hy hz hhas
      exact ⟨by simp [Zone.hasClaim, hbell, hann, hdrill], hoffers, hsilent⟩
  · intro d hf hof
    have hin : i.val ∈ p.yieldInputs pos b := Part.mem_yieldInputs.mpr ⟨i, rfl, hf, hof⟩
    exact ⟨fun _ => Part.yield_deliverEdges hb hin, fun _ _ => Part.yield_yieldLevels hb i hin⟩
  · intro inactive
    have hiff : p.yieldInactive b = true ↔ inactive := Part.yieldInactive_iff
    exact ⟨fun h => Part.testHeld_inactive hb hy (hiff.mpr h), fun h => Part.testHeld_active (mt hiff.mp h)⟩

end Sys2Proof.Machine
end

section
/-! SUPPORT. The queues of the paging inputs, and steps that change announcements (R66, R67). -/

namespace Sys2Proof.Machine

/-! ### Queues -/

theorem queueFold_perm (l : List Announcement) : ∀ acc : List Announcement,
    (l.foldl (fun l a => insertWhere (fun b => a.before b) a l) acc).Perm (l ++ acc) := by
  induction l with
  | nil => exact fun acc => .refl acc
  | cons a l ih => exact fun acc => (ih _).trans (((insertWhere_perm _ a acc).append_left l).trans List.perm_middle)

section
variable {p : Part} {i : PagingInput}

/-- The queue of an input holds its QUEUED records. -/
theorem Part.queue_perm (p : Part) (i : PagingInput) :
    (p.queue i).Perm (p.ann.records.filter fun a => a.input == i && a.stage == .queued) :=
  (queueFold_perm _ []).trans (by simp)

theorem Part.mem_queue_iff {a : Announcement} :
    a ∈ p.queue i ↔ a ∈ p.ann.records ∧ a.input = i ∧ a.stage = .queued := by
  rw [(p.queue_perm i).mem_iff]; simp

theorem Part.served?_eq_none_iff : p.served? i = none ↔ ∀ a ∈ p.ann.records, a.input = i → a.stage = .queued := by
  simp [Part.served?]

/-- A part is settled when each record that waits has another before it at its input. -/
theorem Part.settled_iff : p.settled ↔ ∀ a ∈ p.ann.records, a.stage = .queued →
    ∃ b ∈ p.ann.records, b.input = a.input ∧ b.stage ≠ .queued := by
  constructor
  · intro h a ha hq
    by_contra hnone
    push Not at hnone
    have hfree : p.served? a.input = none := Part.served?_eq_none_iff.mpr hnone
    have hmem : a ∈ p.queue a.input := Part.mem_queue_iff.mpr ⟨ha, rfl, hq⟩
    rw [h _ hfree] at hmem
    cases hmem
  · intro h i hfree
    refine List.eq_nil_iff_forall_not_mem.mpr fun a ha => ?_
    obtain ⟨hmem, rfl, hq⟩ := Part.mem_queue_iff.mp ha
    obtain ⟨b, hb, hi, hs⟩ := h a hmem hq
    exact hs (Part.served?_eq_none_iff.mp hfree b hb hi)

/-- A part in which no record waits is settled. -/
theorem Part.settled_of_none_queued (h : ∀ a ∈ p.ann.records, a.stage ≠ .queued) : p.settled :=
  Part.settled_iff.mpr fun a ha hq => absurd hq (h a ha)

theorem Part.settle_eq (h : p.settled) : p.settle = p := Part.startQueued_settled h _

end

/-! ### Records by their id -/

section
variable {p : Part} {id : Nat} {a : Announcement}

theorem Part.mem_of_announcement (h : p.announcement id = some a) : a ∈ p.ann.records ∧ a.id = id :=
  ⟨List.mem_of_find?_eq_some h, by simpa using List.find?_some h⟩

theorem Part.removeAnn_found (h : p.announcement id = some a) (c : EndCause) : p.removeAnn id c =
    { p with ann := { p.ann with records := p.ann.records.filter fun b => b.id != id } }.note
      (.announceState id a.input a.rank (.removed c) none a.counts) := by
  unfold Part.removeAnn; rw [h]

theorem Part.noteAnn_found (h : p.announcement id = some a) (e : AnnounceEvent) :
    p.noteAnn id e = p.note (.announceState id a.input a.rank e (some a.stage) a.counts) := by
  unfold Part.noteAnn; rw [h]

theorem Part.announcement_removeAnn (p : Part) (id : Nat) (c : EndCause) : (p.removeAnn id c).announcement id = none := by
  cases h : p.announcement id with
  | none => simp [Part.removeAnn, h]
  | some a => rw [Part.removeAnn_found h]; simp [Part.announcement]

end

@[simp] theorem Part.ann_noteAnn (p : Part) (id : Nat) (e : AnnounceEvent) : (p.noteAnn id e).ann = p.ann := by
  unfold Part.noteAnn; split <;> rfl

@[simp] theorem Part.ann_wakeFor (p : Part) (z : Nat) : (p.wakeFor z).ann = p.ann := by
  unfold Part.wakeFor; (repeat' split) <;> simp

/-! ### Steps that leave no free input a record -/

/-- A request that is taken at once finds nothing on its way to the port. -/
theorem State.ready_outbox {s : State} {tag : Nat} (h : s.ready tag) : s.part.outbox = [] := by
  obtain ⟨-, -, -, -, ho⟩ := h; exact ho

/-- What the end of a step reports, when the blocks have left it settled. -/
theorem finish_reports_settled {s : State} {p : Part} {l : List Notice} (ho : s.part.outbox = []) (hp : p.settled)
    (hl : p.outbox = s.part.outbox ++ l.map .notice) (rs : List Reply) :
    State.reports s (finish { s with part := p.settle, port := { s.port with replies := s.port.replies ++ rs } }) rs l := by
  rw [Part.settle_eq hp]
  simp [State.reports, finish, Port.drain, hl, ho, Port.takes_notices]

theorem request_reports_settled {s : State} {tag : Nat} (h : s.ready tag) (i : Instr) (kind : Nat)
    (f : Bool → Part → Part × Answer) {p : Part} {a : Answer} {l : List Notice} (hf : f s.port.saving.isSome s.part = (p, a))
    (ha : a.status = .ok ∨ a.status = .accepted) (hp : p.settled) (hl : p.outbox = s.part.outbox ++ l.map .notice) :
    State.reports s (request i tag kind (ofPart f) s) [replyOf tag kind a] l := by
  rw [request_carried h]
  have hpart : ofPart f s = ({ s with part := p.settle }, a) := by simp only [ofPart, hf, if_pos ha]
  rw [hpart]
  exact finish_reports_settled (State.ready_outbox h) hp hl _

theorem event_reports_settled {s : State} (hpow : s.powered = true) (ho : s.part.outbox = []) {f : Part → Part}
    {l : List Notice} (hp : (f s.part).settled) (hl : (f s.part).outbox = s.part.outbox ++ l.map .notice) :
    State.reports s (event f s) [] l := by
  simpa [event, hpow] using finish_reports_settled ho hp hl []

/-- A request of a block that leaves it settled and sends nothing. -/
theorem request_settled {s : State} {tag : Nat} (h : s.ready tag) (i : Instr) (kind : Nat)
    (f : Bool → Part → Part × Answer) {p : Part} {a : Answer} (hf : f s.port.saving.isSome s.part = (p, a))
    (ha : a.status = .ok ∨ a.status = .accepted) (hp : p.settled) (ho : p.outbox = []) :
    request i tag kind (ofPart f) s = State.replied { s with part := p } tag kind a := by
  have hpart : ofPart f s = ({ s with part := p }, a) := by simp only [ofPart, hf, if_pos ha, Part.settle_eq hp]
  rw [request_carried h, hpart]
  exact finish_replied ho tag kind a

end Sys2Proof.Machine
end

section
/-! SUPPORT. What every operation on announcements makes of the records of one id: of those that have started, and of those
that have left the table (R70 to R79). -/

namespace Sys2Proof.Machine

/-! ### What lasts -/

/-- A record as it enters ENDING (R75). -/
def Announcement.ended (a : Announcement) (c : EndCause) : Announcement :=
  { a with stage := .ending, cause := some c, chimeEnd := none, limitTime := none }

/-- What is true of a record that has started, and stays true when its join states change and when it is displaced. -/
structure Lasting (P : Announcement → Prop) : Prop where
  started : ∀ a, P a → a.stage ≠ .queued
  joins : ∀ a (js : List Join), js.map (·.zone) = a.joins.map (·.zone) → P a → P { a with joins := js }
  displaced : ∀ a b, P a → a.started = true → P b → P (b.ended .displaced)

/-- The announcement manager with this last id and this arrival count, and every record of an id as `P` says. -/
structure Part.tracks (last arrivals id : Nat) (P : Announcement → Prop) (p : Part) : Prop where
  lastId : p.ann.lastId = last
  arrivals : p.ann.arrivals = arrivals
  records : ∀ a ∈ p.ann.records, a.id = id → P a

section
variable {last arrivals id : Nat} {P : Announcement → Prop} {p : Part}

theorem Part.tracks.of_ann {q : Part} (h : p.tracks last arrivals id P) (ha : q.ann = p.ann) : q.tracks last arrivals id P := by
  obtain ⟨hlast, harr, hrec⟩ := h
  exact ⟨by rw [ha]; exact hlast, by rw [ha]; exact harr, by rw [ha]; exact hrec⟩

theorem Part.tracks_modAnn (h : p.tracks last arrivals id P) (n : Nat) {f : Announcement → Announcement}
    (hid : ∀ a, (f a).id = a.id) (hf : n = id → ∀ a, P a → P (f a)) : (p.modAnn n f).tracks last arrivals id P := by
  refine ⟨h.lastId, h.arrivals, fun a ha haid => ?_⟩
  obtain ⟨b, hb, rfl⟩ := List.mem_map.mp ha
  by_cases hbn : b.id = n
  · simp only [hbn, beq_self_eq_true, if_true, hid] at haid ⊢
    exact hf haid b (h.records b hb (hbn.trans haid))
  · simp only [beq_eq_false_iff_ne.mpr hbn, Bool.false_eq_true, if_false] at haid ⊢
    exact h.records b hb haid

/-- A change of every record of the id brings about what it makes of each. -/
theorem Part.tracks_changed {Q : Announcement → Prop} (h : p.tracks last arrivals id P) {f : Announcement → Announcement}
    (hf : ∀ a, P a → Q (f a)) : (p.modAnn id f).tracks last arrivals id Q := by
  refine ⟨h.lastId, h.arrivals, fun a ha haid => ?_⟩
  obtain ⟨b, hmem, rfl⟩ := List.mem_map.mp ha
  by_cases hb : b.id = id
  · simp only [hb, beq_self_eq_true, if_true]
    exact hf b (h.records b hmem hb)
  · simp only [beq_eq_false_iff_ne.mpr hb, Bool.false_eq_true, if_false] at haid
    exact absurd haid hb

theorem Part.tracks_established (p : Part) (id : Nat) {f : Announcement → Announcement} (hf : ∀ a, P (f a)) :
    (p.modAnn id f).tracks p.ann.lastId p.ann.arrivals id P :=
  Part.tracks_changed (P := fun _ => True) ⟨rfl, rfl, fun _ _ _ => trivial⟩ fun a _ => hf a

theorem Part.tracks_each {α : Type} {F : Part → α → Part}
    (hF : ∀ (q : Part) (a : α), q.tracks last arrivals id P → (F q a).tracks last arrivals id P) (l : List α)
    (h : p.tracks last arrivals id P) : (p.each l F).tracks last arrivals id P :=
  List.foldlRecOn l F h fun q hq a _ => hF q a hq

theorem Part.tracks_removeAnn (h : p.tracks last arrivals id P) (n : Nat) (c : EndCause) :
    (p.removeAnn n c).tracks last arrivals id P := by
  unfold Part.removeAnn
  split
  · exact ⟨h.lastId, h.arrivals, fun a ha => h.records a (List.mem_of_mem_filter ha)⟩
  · exact h

theorem Part.tracks_removeIfSettled (h : p.tracks last arrivals id P) (n : Nat) :
    (p.removeIfSettled n).tracks last arrivals id P := by
  unfold Part.removeIfSettled
  (repeat' split)
  · exact Part.tracks_removeAnn h n _
  all_goals exact h

/-! ### Joins -/

variable (hP : Lasting P)
include hP

theorem Part.tracks_mapJoins (h : p.tracks last arrivals id P) (n : Nat) {f : Join → Join} (hf : ∀ j, (f j).zone = j.zone) :
    (p.modAnn n fun a => { a with joins := a.joins.map f }).tracks last arrivals id P :=
  Part.tracks_modAnn h n (fun _ => rfl) fun _ a ha => hP.joins a _ (by simp [hf]) ha

theorem Part.tracks_setJoin (h : p.tracks last arrivals id P) (n z : Nat) (st : JoinState) :
    (p.modAnn n fun a => a.setJoin z st).tracks last arrivals id P :=
  Part.tracks_mapJoins hP h n fun j => by split <;> rfl

theorem Part.tracks_grant (h : p.tracks last arrivals id P) (n z : Nat) : (p.grant n z).tracks last arrivals id P := by
  unfold Part.grant
  split
  · exact (Part.tracks_setJoin hP (h.of_ann rfl) n z .joined).of_ann (Part.ann_wakeFor _ z)
  · exact h

theorem Part.tracks_enlist (h : p.tracks last arrivals id P) (n z : Nat) : (p.enlist n z).tracks last arrivals id P := by
  unfold Part.enlist
  split
  · exact Part.tracks_setJoin hP (p := p.modZone z _) (h.of_ann rfl) n z .waiting
  · exact h

theorem Part.tracks_offerZone (h : p.tracks last arrivals id P) (z : Nat) : (p.offerZone z).tracks last arrivals id P := by
  unfold Part.offerZone
  (repeat' split)
  · exact h
  · exact Part.tracks_grant hP h _ z
  · exact h

theorem Part.tracks_offerNode (h : p.tracks last arrivals id P) (pos : Nat) : (p.offerNode pos).tracks last arrivals id P :=
  Part.tracks_each (fun q z hq => by
    split
    · exact hq
    · exact Part.tracks_offerZone hP hq z) _ h

theorem Part.tracks_changeJoin (h : p.tracks last arrivals id P) (n z : Nat) (st : JoinState) :
    (p.changeJoin n z st).tracks last arrivals id P := by
  have hjoin := Part.tracks_setJoin hP h n z st
  unfold Part.changeJoin
  split
  · exact hjoin
  · dsimp only
    split
    · exact Part.tracks_offerNode hP hjoin _
    · exact hjoin

/-! ### Endings -/

theorem Part.tracks_giveBack (h : p.tracks last arrivals id P) (n z : Nat) : (p.giveBack n z).tracks last arrivals id P := by
  have hoffered := Part.tracks_offerZone hP (p := p.changeZone z fun zone => { zone with ann := none }) (h.of_ann rfl) z
  have hmarked := Part.tracks_mapJoins hP hoffered n (f := fun j => if j.zone == z then
    { j with settled := (p.changeZone z fun zone => { zone with ann := none }).settledZone z } else j)
    fun j => by split <;> rfl
  exact (Part.tracks_changeJoin hP hmarked n z .left).of_ann (Part.claimsClear_ann _ _ z)

theorem Part.tracks_withdrawEntry (h : p.tracks last arrivals id P) (n z : Nat) :
    (p.withdrawEntry n z).tracks last arrivals id P :=
  Part.tracks_mapJoins hP (p := p.modZone z _) (h.of_ann rfl) n fun j => by split <;> rfl

theorem Part.tracks_settleEntries (h : p.tracks last arrivals id P) (n : Nat) :
    (p.settleEntries n).tracks last arrivals id P :=
  Part.tracks_mapJoins hP h n fun j => by split <;> rfl

end

/-- What a record that enters ENDING gives back, and its removal if nothing is left to settle (R75, R76). -/
def Part.windUp (p : Part) (a : Announcement) (id : Nat) (c : EndCause) : Part :=
  let p := p.each ((a.joins.filter fun j => j.state == .waiting).map (·.zone)) fun p z => p.withdrawEntry id z
  let p := p.each ((a.joins.filter fun j => j.state == .joined).map (·.zone)) fun p z => p.giveBack id z
  ((p.settleEntries id).noteAnn id (.ending c)).removeIfSettled id

/-- A join list takes an entry for a zone whose slot is requested (R69). -/
def Part.enrolled (p : Part) (id z : Nat) : Part :=
  p.modAnn id fun a => { a with joins := a.joins ++ [⟨z, .refused, false, false⟩] }

theorem Part.enterEnding_found {p : Part} {id : Nat} {a : Announcement} (h : p.announcement id = some a) (c : EndCause) :
    p.enterEnding id c = (p.modAnn id (·.ended c)).windUp a id c := by
  unfold Part.enterEnding; rw [h]; rfl

section
variable {last arrivals id : Nat} {P : Announcement → Prop} {p : Part} (hP : Lasting P)
include hP

theorem Part.tracks_windUp (h : p.tracks last arrivals id P) (a : Announcement) (n : Nat) (c : EndCause) :
    (p.windUp a n c).tracks last arrivals id P := by
  have hgone := Part.tracks_each (fun q z hq => Part.tracks_withdrawEntry hP hq n z)
    ((a.joins.filter fun j => j.state == .waiting).map (·.zone)) h
  have hback := Part.tracks_each (fun q z hq => Part.tracks_giveBack hP hq n z)
    ((a.joins.filter fun j => j.state == .joined).map (·.zone)) hgone
  exact Part.tracks_removeIfSettled ((Part.tracks_settleEntries hP hback n).of_ann (Part.ann_noteAnn _ _ _)) n

/-- The displacement of a record that holds nothing keeps what lasts of those of the id. -/
theorem Part.tracks_testDisplaced (h : p.tracks last arrivals id P) (n : Nat) :
    (p.testDisplaced n).tracks last arrivals id P := by
  unfold Part.testDisplaced
  split
  next a ha =>
    split
    next hstarted =>
      rw [Part.enterEnding_found ha]
      refine Part.tracks_windUp hP (Part.tracks_modAnn h n (f := (·.ended .displaced)) (fun _ => rfl) fun hn b hb => ?_) a n _
      obtain ⟨hmem, hid⟩ := Part.mem_of_announcement ha
      rw [Bool.and_eq_true] at hstarted
      exact hP.displaced a b (h.records a hmem (hid.trans hn)) hstarted.1 hb
    next => exact h
  next => exact h

theorem Part.tracks_loseJoin (h : p.tracks last arrivals id P) (n z : Nat) (st : JoinState) :
    (p.loseJoin n z st).tracks last arrivals id P :=
  Part.tracks_testDisplaced hP (Part.tracks_changeJoin hP h n z st) n

theorem Part.tracks_reviseZone (h : p.tracks last arrivals id P) (z : Nat) (f : Zone → Zone) :
    (p.reviseZone z f).tracks last arrivals id P := by
  unfold Part.reviseZone; dsimp only
  split
  · exact (Part.tracks_loseJoin hP (p := p.changeZone z f) (h.of_ann rfl) _ z .lost).of_ann (Part.claimsClear_ann _ _ z)
  · exact h.of_ann (Part.claimsClear_ann _ _ z)

/-! ### Starts -/

/-- What is left of a request for a zone's slot once its join entry stands. -/
theorem Part.tracks_requested (n z : Nat) (h : (p.enrolled n z).tracks last arrivals id P) :
    (p.requestSlot n z).tracks last arrivals id P := by
  unfold Part.requestSlot; dsimp only
  (repeat' split)
  · exact h
  · exact Part.tracks_grant hP h n z
  · exact Part.tracks_enlist hP h n z
  · exact Part.tracks_loseJoin hP (Part.tracks_grant hP h n z) _ z .lost
  · exact Part.tracks_enlist hP h n z

/-- The start of another record keeps what lasts of those of the id. -/
theorem Part.tracks_startAnn (h : p.tracks last arrivals id P) {n : Nat} (hn : n ≠ id) :
    (p.startAnn n).tracks last arrivals id P := by
  unfold Part.startAnn
  split
  next => exact h
  next a _ =>
    have hstarted := Part.tracks_modAnn h n (f := p.startRecord) (fun _ => rfl) fun hn' => absurd hn' hn
    have hrequested := Part.tracks_each (F := fun q z => q.requestSlot n z) (fun q z hq =>
      Part.tracks_requested hP n z (Part.tracks_modAnn hq n (fun _ => rfl) fun hn' => absurd hn' hn)) (selected 64 a.spec) hstarted
    exact Part.tracks_testDisplaced hP (hrequested.of_ann (Part.ann_noteAnn _ _ _)) n

/-- No record of the id waits, so that those which start at the end of a step are others. -/
theorem Part.tracks_startQueued (fuel : Nat) : ∀ p : Part, p.tracks last arrivals id P →
    (p.startQueued fuel).tracks last arrivals id P := by
  induction fuel with
  | zero => exact fun p h => h
  | succ fuel ih =>
    intro p h
    have start : ∀ {i a}, (if (p.served? i).isNone = true then (p.queue i).head? else none) = some a →
        (p.startAnn a.id).tracks last arrivals id P := by
      intro i a ha
      rw [Option.ite_none_right_eq_some] at ha
      obtain ⟨hmem, -, hq⟩ := Part.mem_queue_iff.mp (List.mem_of_mem_head? ha.2)
      exact Part.tracks_startAnn hP h fun hid => hP.started a (h.records a hmem hid) hq
    unfold Part.startQueued; dsimp only
    split
    next h1 => exact ih _ (start h1)
    next h2 => exact ih _ (start h2)
    next => exact h

theorem Part.tracks_settle (h : p.tracks last arrivals id P) : p.settle.tracks last arrivals id P :=
  Part.tracks_startQueued hP _ p h

end

/-! ### Records that are ENDING, and records that are gone -/

/-- ENDING with a cause. -/
def Announcement.isEnding (c : EndCause) (a : Announcement) : Prop := a.stage = .ending ∧ a.cause = some c

theorem lasting_isEnding (c : EndCause) : Lasting (Announcement.isEnding c) where
  started _ h := by rw [h.1]; decide
  joins _ _ _ h := h
  displaced a _ h hs := absurd hs (by simp [Announcement.started, h.1])

theorem lasting_gone : Lasting fun _ => False where
  started _ := False.elim
  joins _ _ _ := id
  displaced _ _ h := h.elim

theorem Part.tracks_enterEnding {p : Part} {id : Nat} {a : Announcement} (h : p.announcement id = some a) (c : EndCause) :
    (p.enterEnding id c).tracks p.ann.lastId p.ann.arrivals id (Announcement.isEnding c) := by
  rw [Part.enterEnding_found h]
  exact Part.tracks_windUp (lasting_isEnding c)
    (p.tracks_established id (f := (·.ended c)) fun _ => ⟨rfl, rfl⟩) a id c

theorem Part.tracks_removed {p : Part} {id : Nat} {a : Announcement} (h : p.announcement id = some a) (c : EndCause) :
    (p.removeAnn id c).tracks p.ann.lastId p.ann.arrivals id fun _ => False := by
  rw [Part.removeAnn_found h]
  exact ⟨rfl, rfl, fun b hb hid => by simp [hid] at hb⟩

/-- The part after an event, where `P` holds of the records of an id. -/
theorem event_tracks {s : State} (hpow : s.powered = true) {f : Part → Part} {last arrivals id : Nat}
    {P : Announcement → Prop} (hP : Lasting P) (h : (f s.part).tracks last arrivals id P) :
    (event f s).part.tracks last arrivals id P := by
  rw [event_part hpow]
  exact (Part.tracks_settle hP h).of_ann rfl

/-- What a request of the announcement manager leads to, where `P` holds of the records of an id. -/
theorem request_tracks {s : State} {tag : Nat} (h : s.ready tag) (i : Instr) (kind : Nat) (f : Bool → Part → Part × Answer)
    {p : Part} {a : Answer} (hf : f s.port.saving.isSome s.part = (p, a)) (ha : a.status = .ok ∨ a.status = .accepted)
    (hcore : p.core = s.part.core) {last arrivals id : Nat} {P : Announcement → Prop} (hP : Lasting P)
    (ht : p.tracks last arrivals id P) : let t := request i tag kind (ofPart f) s
    State.answers s t tag kind a ∧ State.sameOutside s t ∧ t.part.core = s.part.core ∧ t.part.tracks last arrivals id P := by
  obtain ⟨hpart, hans⟩ := request_part h i kind f hf ha
  refine ⟨hans, request_sameOutside h _ _ _, ?_, ?_⟩
  · rw [hpart, Part.core_with_outbox, Part.core_settle, hcore]
  · rw [hpart]
    exact (Part.tracks_settle hP ht).of_ann rfl

end Sys2Proof.Machine
end

section
/-! SUPPORT. ANNOUNCE_END and ANNOUNCE_CANCEL (R75 to R77). -/

namespace Sys2Proof.Machine

/-! ### A record that waits is taken out -/

section
variable {p : Part} {id : Nat} {a : Announcement}

theorem Part.stageOf_found (h : p.announcement id = some a) : p.stageOf id = some a.stage := by simp [Part.stageOf, h]

theorem Part.stageOf_absent (h : p.announcement id = none) : p.stageOf id = none := by simp [Part.stageOf, h]

theorem Part.announceEnd_queued (h : p.announcement id = some a) (hq : a.stage = .queued) (saving : Bool) :
    Part.announceEnd id saving p = (p.removeAnn id .cancelled, okWith (.announceStage none)) := by
  have hs := (Part.stageOf_found h).trans (congrArg some hq)
  refine (checked_pass (by simp [firstFailure, hs]) p _).trans ?_
  simp [hs, Part.stageOf_absent (p.announcement_removeAnn id .cancelled)]

theorem Part.announceCancel_queued (h : p.announcement id = some a) (hq : a.stage = .queued) (saving : Bool) :
    Part.announceCancel id saving p = (p.removeAnn id .cancelled, okOnly) := by
  have hs := (Part.stageOf_found h).trans (congrArg some hq)
  exact if_pos (by simp [hs])

/-- Taking waiting records out of the table frees no input. -/
theorem Part.settled_removeAnn (hp : p.settled) (h : p.announcement id = some a)
    (hq : ∀ b ∈ p.ann.records, b.id = id → b.stage = .queued) (c : EndCause) : (p.removeAnn id c).settled := by
  rw [Part.removeAnn_found h, Part.settled_iff]
  intro x hx hwaits
  obtain ⟨b, hb, hinput, hstage⟩ := Part.settled_iff.mp hp x (List.mem_of_mem_filter hx) hwaits
  exact ⟨b, List.mem_filter.mpr ⟨hb, by simpa using fun hid => hstage (hq b hb hid)⟩, hinput, hstage⟩

/-- ANNOUNCE_CANCEL of a record that does not wait is ANNOUNCE_END (R77). -/
theorem Part.announceCancel_eq_end (h : p.stageOf id ≠ some .queued) (saving : Bool) :
    Part.announceCancel id saving p = Part.announceEnd id saving p :=
  if_neg (by simpa using h)

/-! ### A record that has started is ended -/

theorem Part.announceEnd_started (h : p.announcement id = some a) (hs : a.stage = .chiming ∨ a.stage = .live) (saving : Bool) :
    Part.announceEnd id saving p =
      (p.enterEnding id .ended, okWith (.announceStage ((p.enterEnding id .ended).stageOf id))) := by
  have hstage := Part.stageOf_found h
  refine (checked_pass ?_ p _).trans ?_ <;> rcases hs with hs | hs <;> simp [firstFailure, hstage, hs]

/-- The state that the reply gives: ENDING, or the mark of a record that has left the table. -/
theorem Part.stageOf_enterEnding (h : p.announcement id = some a) (c : EndCause) :
    (p.enterEnding id c).stageOf id = none ∨ (p.enterEnding id c).stageOf id = some .ending := by
  cases hfound : (p.enterEnding id c).announcement id with
  | none => exact .inl (Part.stageOf_absent hfound)
  | some b =>
    obtain ⟨hmem, hid⟩ := Part.mem_of_announcement hfound
    exact .inr ((Part.stageOf_found hfound).trans (congrArg some ((Part.tracks_enterEnding h c).records b hmem hid).1))

/-! ### A request that is refused -/

theorem Part.announceEnd_absent (h : p.announcement id = none) (saving : Bool) :
    Part.announceEnd id saving p = (p, ⟨.notFound, .none⟩) := by
  simp [Part.announceEnd, checked, firstFailure, Part.stageOf_absent h]

theorem Part.announceEnd_ending (h : p.announcement id = some a) (hs : a.stage = .ending) (saving : Bool) :
    Part.announceEnd id saving p = (p, ⟨.wrongState, .none⟩) := by
  simp [Part.announceEnd, checked, firstFailure, Part.stageOf_found h, hs]

end

/-- A request of a block that leaves the part as it is and answers neither OK nor ACCEPTED. -/
theorem request_refused_part {s : State} {tag : Nat} (h : s.ready tag) (i : Instr) (kind : Nat)
    (f : Bool → Part → Part × Answer) {st : Status} (hf : f s.port.saving.isSome s.part = (s.part, ⟨st, .none⟩))
    (hst : st ≠ .ok ∧ st ≠ .accepted) : request i tag kind (ofPart f) s = s.replied tag kind ⟨st, .none⟩ :=
  request_refused h i kind _ (by simp [ofPart, hf, hst])

/-! ### The requests -/

section
variable {s : State} {tag id : Nat} {a : Announcement} (hr : s.ready tag) (i : Instr) (kind : Nat)
  {f : Bool → Part → Part × Answer}
include hr

/-- What a request leads to that takes a waiting record out of the table. -/
theorem request_takesOut (ha : s.part.announcement id = some a) {body : ReplyBody}
    (hf : f s.port.saving.isSome s.part = (s.part.removeAnn id .cancelled, okWith body)) :
    let t := request i tag kind (ofPart f) s
    State.answers s t tag kind ⟨.ok, body⟩ ∧ (State.sameOutside s t ∧ t.part.core = s.part.core) ∧
    (s.part.settled → (∀ b ∈ s.part.ann.records, b.id = id → b.stage = .queued) →
      State.reports s t [replyOf tag kind ⟨.ok, body⟩]
        [.announceState id a.input a.rank (.removed .cancelled) none a.counts]) ∧
    ∀ b ∈ t.part.ann.records, b.id ≠ id := by
  obtain ⟨hans, hout, hcore, htracks⟩ := request_tracks hr i kind f hf (.inl rfl) (Part.core_removeAnn _ id _) lasting_gone
    (Part.tracks_removed ha .cancelled)
  refine ⟨hans, ⟨hout, hcore⟩, fun hs hq => ?_, htracks.records⟩
  refine request_reports_settled hr i kind f hf (.inl rfl) (Part.settled_removeAnn hs ha hq _) ?_
  rw [Part.removeAnn_found ha]; rfl

/-- What a request leads to that ends a record that has started. -/
theorem request_ends (ha : s.part.announcement id = some a)
    (hf : f s.port.saving.isSome s.part =
      (s.part.enterEnding id .ended, okWith (.announceStage ((s.part.enterEnding id .ended).stageOf id)))) :
    ∃ stage, let t := request i tag kind (ofPart f) s
      State.answers s t tag kind ⟨.ok, .announceStage stage⟩ ∧ (State.sameOutside s t ∧ t.part.core = s.part.core) ∧
      (stage = none ∨ stage = some .ending) ∧
      ∀ b ∈ t.part.ann.records, b.id = id → b.stage = .ending ∧ b.cause = some .ended := by
  obtain ⟨hans, hout, hcore, htracks⟩ := request_tracks hr i kind f hf (.inl rfl) (Part.core_enterEnding _ id _)
    (lasting_isEnding .ended) (Part.tracks_enterEnding ha .ended)
  exact ⟨_, hans, ⟨hout, hcore⟩, Part.stageOf_enterEnding ha .ended, htracks.records⟩

end

/-- Settles O27: by the stage of the record, ANNOUNCE_CANCEL being ANNOUNCE_END for all that do not wait. -/
theorem announceEndAndCancel : Obligations.AnnounceEndAndCancel := by
  intro s tag id hr frame
  refine ⟨fun a ha hq => ⟨?_, ?_⟩, fun a ha hs => ?_, fun h => ?_, fun a ha hs => ?_⟩
  · exact ⟨_, rfl, request_takesOut hr _ _ ha (Part.announceEnd_queued ha hq _)⟩
  · exact ⟨_, rfl, request_takesOut hr _ _ ha (Part.announceCancel_queued ha hq _)⟩
  · have hend := Part.announceEnd_started ha hs s.port.saving.isSome
    have hnot : s.part.stageOf id ≠ some .queued := by
      rw [Part.stageOf_found ha]; rcases hs with hs | hs <;> simp [hs]
    obtain ⟨stage, h⟩ := request_ends hr (.announceEnd tag id) 0x29 ha hend
    obtain ⟨stage', h'⟩ := request_ends hr (.announceCancel tag id) 0x2A ha ((Part.announceCancel_eq_end hnot _).trans hend)
    exact ⟨⟨_, stage, rfl, h⟩, _, stage', rfl, h'⟩
  · have hend := Part.announceEnd_absent h s.port.saving.isSome
    have hnot : s.part.stageOf id ≠ some .queued := by rw [Part.stageOf_absent h]; nofun
    exact ⟨congrArg Host.Outcome.next (request_refused_part hr _ _ _ hend (by decide)),
      congrArg Host.Outcome.next
        (request_refused_part hr _ _ _ ((Part.announceCancel_eq_end hnot _).trans hend) (by decide))⟩
  · have hend := Part.announceEnd_ending ha hs s.port.saving.isSome
    have hnot : s.part.stageOf id ≠ some .queued := by rw [Part.stageOf_found ha, hs]; decide
    exact ⟨congrArg Host.Outcome.next (request_refused_part hr _ _ _ hend (by decide)),
      congrArg Host.Outcome.next
        (request_refused_part hr _ _ _ ((Part.announceCancel_eq_end hnot _).trans hend) (by decide))⟩

end Sys2Proof.Machine
end

section
/-! SUPPORT. CHIME_END and LIMIT_TIME (R71, R75, R76). -/

namespace Sys2Proof.Machine

/-! ### A claim takes another output -/

/-- A zone whose ANNOUNCE claim, if it holds one, takes another output (R71). -/
def Zone.retuned (o : Output) (z : Zone) : Zone := { z with ann := z.ann.map fun c => { c with output := o } }

/-- A zone whose ANNOUNCE claim is the highest that is heard (R44). -/
structure Zone.hearsAnn (z : Zone) : Prop where
  ann : z.ann.isSome = true
  drill : z.drill = none
  mask : z.annMask = false

/-- A zone that is able to sound its announcement takes the new output, and goes on hearing it (R44, R71). -/
theorem Zone.evaluate_retuned {z : Zone} (h : z.hearsAnn) (o : Output) (served : Bool) (now : Nat) :
    ((z.retuned o).evaluate true served now).hearsAnn ∧ ((z.retuned o).evaluate true served now).commanded = o := by
  obtain ⟨hann, hdrill, hmask⟩ := h
  obtain ⟨c, hc⟩ := Option.isSome_iff_exists.mp hann
  obtain ⟨hcommanded, hsounds, -⟩ := Zone.evaluate_ann (z := z.retuned o) (now := now) served hdrill
    (a := { c with output := o }) (by simp [Zone.retuned, hc]) hmask
  refine ⟨⟨by rw [hsounds]; rfl, ?_, (Zone.annMask_evaluate _ _ _ _).trans hmask⟩, hcommanded⟩
  rw [Zone.drill_evaluate, Zone.drillAfter, show (z.retuned o).drill = none from hdrill]; rfl

section
variable {p : Part} {z : Nat}

/-- Where the announcement is heard, its new output concerns the zone alone. -/
theorem Part.reviseZone_retuned (hz : z < 64) (hable : p.able z = true) (h : (p.zone z).hearsAnn) (o : Output) :
    p.reviseZone z (Zone.retuned o) = Part.claimsClear p (p.changeZone z (Zone.retuned o)) z ∧
    ((p.reviseZone z (Zone.retuned o)).zone z).hearsAnn ∧ ((p.reviseZone z (Zone.retuned o)).zone z).commanded = o := by
  have hzone := Part.zone_changeZone hz p (Zone.retuned o)
  rw [hable] at hzone
  have hheard := Zone.evaluate_retuned h o (p.served z) p.now
  rw [← hzone] at hheard
  have heq := Part.reviseZone_held (f := Zone.retuned o) (.inr hheard.1.ann)
  rw [heq, Part.zone_claimsClear]
  exact ⟨rfl, hheard⟩

/-- The zones of a list take the new output where each is able to sound its announcement: nothing is sent, and the
announcements stand. -/
theorem Part.says_eachRetuned (o : Output) (l : List Nat) : ∀ p : Part,
    (∀ z ∈ l, z < 64 ∧ p.able z = true ∧ (p.zone z).hearsAnn) →
      p.says (p.each l fun p z => p.reviseZone z (Zone.retuned o)) [] := by
  induction l with
  | nil => exact fun p _ => Part.says_nil rfl rfl
  | cons z l ih =>
    intro p h
    obtain ⟨hz, hable, hheard⟩ := h z (by simp)
    obtain ⟨heq, hstill, -⟩ := Part.reviseZone_retuned hz hable hheard o
    have hsites : p.sameSites (p.reviseZone z (Zone.retuned o)) := by
      rw [heq]; exact (p.sameSites_changeZone z _).trans (Part.sameSites_claimsClear _ _ z)
    refine (show p.says (p.reviseZone z (Zone.retuned o)) [] by rw [heq]; exact p.says_changeZone z _).trans
      (ih _ fun y hy => ?_)
    obtain ⟨hy64, hyable, hyheard⟩ := h y (by simp [hy])
    refine ⟨hy64, by rw [hsites.able]; exact hyable, ?_⟩
    by_cases hzy : z = y
    · exact hzy ▸ hstill
    · rw [heq, Part.zone_claimsClear, Part.zone_changeZone_ne hzy]
      exact hyheard

end

/-! ### A zone that the record keeps -/

/-- The table holds one record, LIVE, that is JOINED in a zone; the zone is able to sound, and is as `K` says. -/
structure Part.keepsZone (z : Nat) (K : Zone → Prop) (p : Part) : Prop where
  record : ∃ r, p.ann.records = [r] ∧ r.stage = .live ∧ ∃ j ∈ r.joins, j.zone = z ∧ j.state = .joined
  able : p.able z = true
  zone : K (p.zone z)

section
variable {z : Nat} {K : Zone → Prop} {p : Part}

theorem Part.keepsZone.of_sites {q : Part} (h : p.keepsZone z K) (hs : p.sameSites q) (ha : q.ann = p.ann)
    (hz : q.zone z = p.zone z) : q.keepsZone z K := by
  obtain ⟨hrec, hable, hzone⟩ := h
  exact ⟨by rw [ha]; exact hrec, by rw [hs.able]; exact hable, by rw [hz]; exact hzone⟩

theorem Part.keepsZone_changeZone (h : p.keepsZone z K) {y : Nat} (hy : y ≠ z) (f : Zone → Zone) :
    (p.changeZone y f).keepsZone z K :=
  h.of_sites (p.sameSites_changeZone y f) rfl (Part.zone_changeZone_ne hy p f)

theorem Part.keepsZone_claimsClear (h : p.keepsZone z K) (before : Part) (y : Nat) :
    (Part.claimsClear before p y).keepsZone z K :=
  h.of_sites (Part.sameSites_claimsClear before p y) (Part.claimsClear_ann before p y) (Part.zone_claimsClear before y p z)

/-- A join entry of another zone changes. -/
theorem Part.keepsZone_setJoin (h : p.keepsZone z K) {y : Nat} (hy : y ≠ z) (n : Nat) (st : JoinState) :
    (p.modAnn n fun a => a.setJoin y st).keepsZone z K := by
  obtain ⟨⟨r, hr, hlive, j, hj, hjz, hjs⟩, hable, hzone⟩ := h
  have hrecords : (p.modAnn n fun a => a.setJoin y st).ann.records = [if r.id == n then r.setJoin y st else r] := by
    simp [hr]
  refine ⟨⟨_, hrecords, ?_⟩, hable, hzone⟩
  split
  · refine ⟨hlive, j, List.mem_map.mpr ⟨j, hj, if_neg ?_⟩, hjz, hjs⟩
    rw [hjz]; simpa using Ne.symm hy
  · exact ⟨hlive, j, hj, hjz, hjs⟩

theorem Part.keepsZone_grant (h : p.keepsZone z K) {y : Nat} (hy : y ≠ z) (n : Nat) : (p.grant n y).keepsZone z K := by
  unfold Part.grant
  split
  · exact (Part.keepsZone_setJoin (Part.keepsZone_changeZone h hy _) hy n .joined).of_sites (Part.sameSites_wakeFor _ y)
      (Part.ann_wakeFor _ y) (Part.zone_of_arb (Part.arb_wakeFor _ y) z)
  · exact h

variable (hK : ∀ x : Zone, K x → x.ann.isSome = true)
include hK

/-- A free slot is another zone's. -/
theorem Part.keepsZone_offerZone (h : p.keepsZone z K) (y : Nat) : (p.offerZone y).keepsZone z K := by
  unfold Part.offerZone
  split
  next => exact h
  next hfree =>
    have hy : y ≠ z := by rintro rfl; exact hfree (by simp [hK _ h.zone])
    split
    · exact Part.keepsZone_grant h hy _
    · exact h

theorem Part.keepsZone_offerNode (h : p.keepsZone z K) (pos : Nat) : (p.offerNode pos).keepsZone z K :=
  List.foldlRecOn (motive := Part.keepsZone z K) _ _ h fun q hq y _ => by
    split
    · exact hq
    · exact Part.keepsZone_offerZone hK hq y

/-- A record that is JOINED in the zone is not displaced by the loss of another. -/
theorem Part.keepsZone_loseJoin (h : p.keepsZone z K) {y : Nat} (hy : y ≠ z) (n : Nat) (st : JoinState) :
    (p.loseJoin n y st).keepsZone z K := by
  have hchanged : (p.changeJoin n y st).keepsZone z K := by
    have hjoin := Part.keepsZone_setJoin h hy n st
    unfold Part.changeJoin
    split
    · exact hjoin
    · dsimp only
      split
      · exact Part.keepsZone_offerNode hK hjoin _
      · exact hjoin
  unfold Part.loseJoin Part.testDisplaced
  split
  next a ha =>
    rw [if_neg]
    · exact hchanged
    · obtain ⟨⟨r, hr, -, j, hj, -, hjs⟩, -, -⟩ := hchanged
      obtain ⟨hmem, -⟩ := Part.mem_of_announcement ha
      obtain rfl : a = r := by simpa [hr] using hmem
      simp only [Bool.and_eq_true, List.all_eq_true, not_and, not_forall]
      exact fun _ => ⟨j, hj, by simp [hjs]⟩
  next => exact hchanged

theorem Part.keepsZone_reviseZone (h : p.keepsZone z K) {y : Nat} (hy : y ≠ z) (f : Zone → Zone) :
    (p.reviseZone y f).keepsZone z K := by
  have hchanged := Part.keepsZone_changeZone h hy f
  unfold Part.reviseZone; dsimp only
  split
  · exact Part.keepsZone_claimsClear (Part.keepsZone_loseJoin hK hchanged hy _ _) p y
  · exact Part.keepsZone_claimsClear hchanged p y

end

/-- The zone itself takes the new output. -/
theorem Part.keepsZone_retuned {p : Part} {z : Nat} (hz : z < 64) (h : p.keepsZone z Zone.hearsAnn) (o : Output) :
    (p.reviseZone z (Zone.retuned o)).keepsZone z fun x => x.hearsAnn ∧ x.commanded = o := by
  obtain ⟨hrec, hable, hheard⟩ := h
  obtain ⟨heq, hafter⟩ := Part.reviseZone_retuned hz hable hheard o
  have hsites := (p.sameSites_changeZone z (Zone.retuned o)).trans (Part.sameSites_claimsClear p _ z)
  have hann := Part.claimsClear_ann p (p.changeZone z (Zone.retuned o)) z
  rw [← heq] at hsites hann
  exact ⟨by rw [hann]; exact hrec, by rw [hsites.able]; exact hable, hafter⟩

/-- When each zone of a list takes the new output, a zone of the list that the record keeps has taken it. -/
theorem Part.keepsZone_eachRetuned {p : Part} {z : Nat} (hz : z < 64) (h : p.keepsZone z Zone.hearsAnn) (o : Output)
    {l : List Nat} (hl : z ∈ l) :
    (p.each l fun p y => p.reviseZone y (Zone.retuned o)).keepsZone z fun x => x.hearsAnn ∧ x.commanded = o := by
  refine Part.each_brings (F := fun p y => p.reviseZone y (Zone.retuned o)) (needed := Part.keepsZone z Zone.hearsAnn)
    (fun q y hq => ?_) (fun q y hq => ?_) (fun q hq => Part.keepsZone_retuned hz hq o) hl p h
  · by_cases hy : y = z
    · subst hy
      obtain ⟨hrec, hable, hheard, -⟩ := Part.keepsZone_retuned hz hq o
      exact ⟨hrec, hable, hheard⟩
    · exact Part.keepsZone_reviseZone (fun x hx => hx.ann) hq hy _
  · by_cases hy : y = z
    · subst hy
      obtain ⟨hrec, hable, hheard, -⟩ := hq
      exact Part.keepsZone_retuned hz ⟨hrec, hable, hheard⟩ o
    · exact Part.keepsZone_reviseZone (fun x hx => hx.1.ann) hq hy _

/-! ### The chime end -/

/-- A record as its chime end leaves it (R71). -/
def Announcement.chimed (a : Announcement) : Announcement := { a with stage := .live, chimeEnd := none }

/-- The zones in which a record is JOINED. -/
def Announcement.joinedZones (a : Announcement) : List Nat := (a.joins.filter fun j => j.state == .joined).map (·.zone)

theorem Announcement.mem_joinedZones {a : Announcement} {z : Nat} :
    z ∈ a.joinedZones ↔ ∃ j ∈ a.joins, j.state = .joined ∧ j.zone = z := by
  simp [Announcement.joinedZones, and_assoc]

/-- A record LIVE, its zones with the audio of its lane, before its notice. -/
def Part.goesLive (p : Part) (id : Nat) (a : Announcement) : Part :=
  (p.modAnn id Announcement.chimed).each a.joinedZones fun p z => p.reviseZone z (Zone.retuned (.audio a.input.lane))

section
variable {p : Part} {id : Nat} {a : Announcement}

theorem Part.chimeEnd_due (h : p.announcement id = some a) (hs : a.stage = .chiming)
    (hdue : ∃ m, a.chimeEnd = some m ∧ m ≤ p.now) : Part.chimeEnd id p = (p.goesLive id a).noteAnn id .live := by
  obtain ⟨m, hm, hle⟩ := hdue
  unfold Part.chimeEnd
  rw [h]
  exact if_pos (by simp [hs, hm, hle])

@[simp] theorem Part.core_goesLive (p : Part) (id : Nat) (a : Announcement) : (p.goesLive id a).core = p.core :=
  (Part.core_each _ (fun q z => by simp) _ _).trans (Part.core_modAnn p id _)

@[simp] theorem Part.arb_noteAnn (p : Part) (id : Nat) (e : AnnounceEvent) : (p.noteAnn id e).arb = p.arb := by
  unfold Part.noteAnn; split <;> rfl

/-- LIVE or ENDING, without a chime end. -/
def Announcement.isChimed (a : Announcement) : Prop := a.chimeEnd = none ∧ (a.stage = .live ∨ a.stage = .ending)

theorem lasting_isChimed : Lasting Announcement.isChimed where
  started a h := by rcases h.2 with h | h <;> rw [h] <;> decide
  joins _ _ _ h := h
  displaced _ _ _ _ _ := ⟨rfl, .inr rfl⟩

theorem Part.tracks_goesLive (p : Part) (id : Nat) (a : Announcement) :
    (p.goesLive id a).tracks p.ann.lastId p.ann.arrivals id Announcement.isChimed :=
  Part.tracks_each (fun _ z hq => Part.tracks_reviseZone lasting_isChimed hq z _) _
    (p.tracks_established id (f := Announcement.chimed) fun _ => ⟨rfl, .inl rfl⟩)

theorem Part.records_chimed (hid : a.id = id) (h : p.ann.records = [a]) :
    (p.modAnn id Announcement.chimed).ann.records = [a.chimed] := by
  simp [h, hid]

/-- Where every zone of the only record sounds it, LIVE is its notice (R80). -/
theorem Part.goesLive_heard (hid : a.id = id) (h : p.ann.records = [a])
    (hzones : ∀ z ∈ a.joinedZones, z < 64 ∧ p.able z = true ∧ (p.zone z).hearsAnn) :
    ((p.goesLive id a).noteAnn id .live).ann.records = [a.chimed] ∧
    ((p.goesLive id a).noteAnn id .live).outbox =
      p.outbox ++ [.notice (.announceState id a.input a.rank .live (some .live) a.counts)] := by
  obtain ⟨hann, hsent⟩ := Part.says_eachRetuned (.audio a.input.lane) a.joinedZones (p.modAnn id Announcement.chimed) hzones
  have hrecords := (congrArg Announcer.records hann).trans (Part.records_chimed hid h)
  have hfound : (p.goesLive id a).announcement id = some a.chimed := by
    unfold Part.announcement
    rw [show (p.goesLive id a).ann.records = [a.chimed] from hrecords]
    simp [Announcement.chimed, hid]
  refine ⟨(congrArg Announcer.records (Part.ann_noteAnn _ _ _)).trans hrecords, ?_⟩
  rw [Part.noteAnn_found hfound]
  exact congrArg (· ++ _) (hsent.trans (List.append_nil _))

/-- A zone in which the only record is JOINED, and which is able to sound its claim, takes the audio of the lane (R71). -/
theorem Part.commanded_goesLive (hid : a.id = id) (h : p.ann.records = [a]) {z : Nat} (hz : z < 64)
    (hjoined : z ∈ a.joinedZones) (hable : p.able z = true) (hheard : (p.zone z).hearsAnn) :
    (∀ r ∈ (p.goesLive id a).ann.records, r.stage ≠ .queued) ∧
    ((p.goesLive id a).zone z).commanded = .audio a.input.lane := by
  obtain ⟨j, hj, hjs, hjz⟩ := Announcement.mem_joinedZones.mp hjoined
  have hkeeps : (p.modAnn id Announcement.chimed).keepsZone z Zone.hearsAnn :=
    ⟨⟨_, Part.records_chimed hid h, rfl, j, hj, hjz, hjs⟩, hable, hheard⟩
  obtain ⟨⟨r, hr, hlive, -⟩, -, -, hcommanded⟩ := Part.keepsZone_eachRetuned hz hkeeps (.audio a.input.lane) hjoined
  refine ⟨fun b hb => ?_, hcommanded⟩
  obtain rfl : b = r := by simpa [Part.goesLive, hr] using hb
  rw [hlive]; decide

/-! ### The limit time -/

theorem Part.limitTime_due (h : p.announcement id = some a) (hs : a.stage = .chiming ∨ a.stage = .live)
    (hdue : ∃ m, a.limitTime = some m ∧ m ≤ p.now) : Part.limitTime id p = p.enterEnding id .limit := by
  obtain ⟨m, hm, hle⟩ := hdue
  unfold Part.limitTime
  rw [h]
  exact if_pos (by rcases hs with hs | hs <;> simp [Announcement.started, hs, hm, hle])

/-- A record with nothing to give back and nothing to settle. -/
def Announcement.isIdle (a : Announcement) : Prop :=
  ∀ j ∈ a.joins, j.state ≠ .joined ∧ j.state ≠ .waiting ∧ (j.state = .left → j.settled = true)

theorem Announcement.isIdle.none_held (h : a.isIdle) {st : JoinState} (hst : st = .joined ∨ st = .waiting) :
    (a.joins.filter fun j => j.state == st) = [] := by
  refine List.filter_eq_nil_iff.mpr fun j hj => ?_
  obtain ⟨hjoined, hwaiting, -⟩ := h j hj
  rcases hst with rfl | rfl
  · simpa using hjoined
  · simpa using hwaiting

theorem Part.announcement_only (hid : a.id = id) (h : p.ann.records = [a]) : p.announcement id = some a := by
  simp [Part.announcement, h, hid]

theorem Part.modAnn_only (hid : a.id = id) (h : p.ann.records = [a]) (f : Announcement → Announcement) :
    p.modAnn id f = { p with ann := { p.ann with records := [f a] } } := by
  simp [Part.modAnn, h, hid]

/-- The entries of such a record are settled as they stand. -/
theorem Part.settleEntries_idle (hid : a.id = id) (h : p.ann.records = [a]) (hidle : a.isIdle) : p.settleEntries id = p := by
  have hjoins : (a.joins.map fun j =>
      if j.state == .left then { j with settled := j.settled || p.settledZone j.zone } else j) = a.joins := by
    refine (List.map_congr_left fun j hj => ?_).trans (List.map_id _)
    obtain ⟨-, -, hsettled⟩ := hidle j hj
    split
    next hleft =>
      have := hsettled (by simpa using hleft)
      obtain ⟨zone, state, ever, settled⟩ := j
      simp_all
    next => rfl
  unfold Part.settleEntries
  rw [Part.modAnn_only hid h, hjoins, ← h]

theorem Part.removeIfSettled_idle (hid : a.id = id) (h : p.ann.records = [a]) (hs : a.stage = .ending) (hidle : a.isIdle) :
    p.removeIfSettled id = p.removeAnn id (a.cause.getD .ended) := by
  have hall : (a.joins.all fun j => j.state != .left || j.settled) = true := by
    refine List.all_eq_true.mpr fun j hj => ?_
    obtain ⟨-, -, hsettled⟩ := hidle j hj
    by_cases hleft : j.state = .left <;> simp [hleft, hsettled]
  unfold Part.removeIfSettled
  rw [Part.announcement_only hid h]
  exact if_pos (by rw [hs, hall]; rfl)

/-- Such a record, the only one, is removed as it enters ENDING (R75, R76, R80). -/
theorem Part.enterEnding_idle (hid : a.id = id) (h : p.ann.records = [a]) (hidle : a.isIdle) (c : EndCause) :
    (p.enterEnding id c).ann.records = [] ∧ (p.enterEnding id c).outbox =
      p.outbox ++ [.notice (.announceState id a.input a.rank (.ending c) (some .ending) a.counts),
        .notice (.announceState id a.input a.rank (.removed c) none a.counts)] := by
  have hended := Part.modAnn_only hid h (·.ended c)
  generalize hq : p.modAnn id (·.ended c) = q at hended
  have hrecords : q.ann.records = [a.ended c] := by rw [hended]
  have hfound := Part.announcement_only (a := a.ended c) hid hrecords
  have hwound : p.enterEnding id c =
      (q.note (.announceState id a.input a.rank (.ending c) (some .ending) a.counts)).removeAnn id c := by
    rw [Part.enterEnding_found (Part.announcement_only hid h), hq, Part.windUp, hidle.none_held (.inl rfl),
      hidle.none_held (.inr rfl)]
    simp only [List.map_nil, Part.each, List.foldl_nil]
    rw [Part.settleEntries_idle (a := a.ended c) hid hrecords hidle, Part.noteAnn_found hfound]
    exact Part.removeIfSettled_idle (a := a.ended c) hid hrecords rfl hidle
  rw [hwound, Part.removeAnn_found (p := q.note _) (a := a.ended c) hfound, hended]
  refine ⟨?_, List.append_assoc _ _ _⟩
  simp [Announcement.ended, hid]

end

/-! ### The events -/

/-- Settles O49: the chime end by the walk over the JOINED zones, the limit time by what ENDING makes of the record. -/
theorem announceEvents : Obligations.AnnounceEvents := by
  intro s id a hpow ha
  obtain ⟨-, hid⟩ := Part.mem_of_announcement ha
  refine ⟨fun hs hdue => ?_, fun hs hdue => ?_⟩
  · have heq := Part.chimeEnd_due ha hs hdue
    have htracks := event_tracks hpow (f := Part.chimeEnd id) lasting_isChimed
      (by rw [heq]; exact (s.part.tracks_goesLive id a).of_ann (Part.ann_noteAnn _ _ _))
    refine ⟨_, rfl, event_sameOutside _ s, ?_, htracks.records, ?_, fun ho honly hzones => ?_⟩
    · rw [event_part hpow, heq, Part.core_with_outbox, Part.core_settle, Part.core_noteAnn, Part.core_goesLive]
    · intro honly j hj hz hjs c hc hdrill hmask hable
      obtain ⟨hstarted, hcommanded⟩ := Part.commanded_goesLive hid honly hz
        (Announcement.mem_joinedZones.mpr ⟨j, hj, hjs, rfl⟩) hable ⟨by rw [hc]; rfl, hdrill, hmask⟩
      have hsettled : ((s.part.goesLive id a).noteAnn id .live).settled :=
        Part.settled_of_none_queued (by rw [Part.ann_noteAnn]; exact hstarted)
      rw [event_part hpow, heq, Part.settle_eq hsettled]
      exact (congrArg Zone.commanded (Part.zone_of_arb (Part.arb_noteAnn _ _ _) _)).trans hcommanded
    · obtain ⟨hrecords, hsent⟩ := Part.goesLive_heard hid honly fun z hz => by
        obtain ⟨j, hj, hjs, rfl⟩ := Announcement.mem_joinedZones.mp hz
        obtain ⟨h64, hann, hdrill, hmask, hable⟩ := hzones j hj hjs
        exact ⟨h64, hable, hann, hdrill, hmask⟩
      rw [← heq] at hrecords hsent
      refine event_reports_settled hpow ho (Part.settled_of_none_queued fun b hb => ?_) hsent
      obtain rfl : b = a.chimed := by simpa [hrecords] using hb
      exact nofun
  · have heq := Part.limitTime_due ha hs hdue
    have htracks := event_tracks hpow (f := Part.limitTime id) (lasting_isEnding .limit)
      (by rw [heq]; exact Part.tracks_enterEnding ha .limit)
    refine ⟨_, rfl, event_sameOutside _ s, ?_, htracks.records, fun ho honly hidle => ?_⟩
    · rw [event_part hpow, heq, Part.core_with_outbox, Part.core_settle, Part.core_enterEnding]
    · obtain ⟨hrecords, hsent⟩ := Part.enterEnding_idle hid honly hidle .limit
      rw [← heq] at hrecords hsent
      have hsettled := Part.settled_nil hrecords
      refine ⟨?_, event_reports_settled hpow ho hsettled hsent⟩
      rw [event_part hpow, Part.settle_eq hsettled]
      exact hrecords

end Sys2Proof.Machine
end

section
/-! SUPPORT. ANNOUNCE_START: the next id, the place in the queue, and what a start makes of its record (R65 to R69). -/

namespace Sys2Proof.Machine

/-! ### The next id -/

/-- Fewer records than ids leave an id free. -/
theorem Announcer.some_id_free {a : Announcer} (h : a.records.length < 255) :
    ∃ k < 255, ∀ r ∈ a.records, r.id ≠ (a.lastId + k) % 255 + 1 := by
  by_contra hnone
  push Not at hnone
  have hnodup : ((List.range 255).map fun k => (a.lastId + k) % 255 + 1).Nodup := by
    refine List.nodup_range.map_on fun x hx y hy hxy => ?_
    rw [List.mem_range] at hx hy
    omega
  have hsubset : ((List.range 255).map fun k => (a.lastId + k) % 255 + 1) ⊆ a.records.map (·.id) := by
    intro n hn
    obtain ⟨k, hk, rfl⟩ := List.mem_map.mp hn
    obtain ⟨r, hr, hid⟩ := hnone k (List.mem_range.mp hk)
    exact List.mem_map.mpr ⟨r, hr, hid⟩
  have hle := (List.subperm_of_subset hnodup hsubset).length_le
  rw [List.length_map, List.length_map, List.length_range] at hle
  omega

/-- The next id is the first after the last id that no record holds (R65). -/
theorem Announcer.nextId_spec {a : Announcer} (h : a.records.length < 8) : (∀ r ∈ a.records, r.id ≠ a.nextId) ∧
    ∃ k < 255, a.nextId = (a.lastId + k) % 255 + 1 ∧ ∀ m < k, ∃ r ∈ a.records, r.id = (a.lastId + m) % 255 + 1 := by
  unfold Announcer.nextId upTo
  rw [List.find?_map]
  cases hfind : (List.range 255).find? _ with
  | none =>
    obtain ⟨k, hk, hfree⟩ := Announcer.some_id_free (a := a) (by omega)
    exact absurd (List.find?_eq_none.mp hfind k (List.mem_range.mpr hk)) (by simpa using hfree)
  | some k =>
    obtain ⟨hfree, hk, hheld⟩ := List.find?_range_eq_some.mp hfind
    refine ⟨by simpa using hfree, k, List.mem_range.mp hk, rfl, fun m hm => ?_⟩
    simpa using hheld m hm

/-! ### The place in the queue -/

/-- A queue stands in order of rank, highest first (R67). -/
def ranked (l : List Announcement) : Prop := l.Pairwise fun a b => b.rank ≤ a.rank

/-- Where a record is put in a queue: behind those of its rank or a higher, unless they have arrived later, and ahead of those
of its rank or a lower. -/
theorem ranked_split (a : Announcement) {l : List Announcement} (hl : ranked l) : ∃ before after, l = before ++ after ∧
    insertWhere (fun b => a.before b) a l = before ++ a :: after ∧ (∀ e ∈ before, a.rank ≤ e.rank) ∧
    (∀ e ∈ after, e.rank ≤ a.rank ∧ (e.rank = a.rank → ∃ x ∈ after, x.rank = a.rank ∧ a.arrival < x.arrival)) := by
  obtain ⟨before, after, rfl, hi, hbefore, hafter⟩ := insertWhere_split (fun b => a.before b) a l
  refine ⟨before, after, rfl, hi, fun e he => ?_, fun e he => ?_⟩
  · have := hbefore e he
    simp only [Announcement.before, Bool.or_eq_false_iff, decide_eq_false_iff_not] at this
    omega
  · cases after with
    | nil => cases he
    | cons x after =>
      have hx := hafter x rfl
      simp only [Announcement.before, Bool.or_eq_true, Bool.and_eq_true, decide_eq_true_eq, beq_iff_eq] at hx
      have hle : e.rank ≤ x.rank := by
        rcases List.mem_cons.mp he with rfl | he
        · exact Nat.le_refl _
        · exact List.rel_of_pairwise_cons (List.pairwise_append.mp hl).2.1 he
      refine ⟨by omega, fun heq => ⟨x, by simp, ?_⟩⟩
      omega

theorem ranked_insert (a : Announcement) {l : List Announcement} (hl : ranked l) :
    ranked (insertWhere (fun b => a.before b) a l) := by
  obtain ⟨before, after, rfl, hi, hbefore, hafter⟩ := ranked_split a hl
  obtain ⟨hb, ha, hcross⟩ := List.pairwise_append.mp hl
  rw [hi]
  refine List.pairwise_append.mpr ⟨hb, List.pairwise_cons.mpr ⟨fun e he => (hafter e he).1, ha⟩, fun x hx y hy => ?_⟩
  rcases List.mem_cons.mp hy with rfl | hy
  · exact hbefore x hx
  · exact hcross x hx y hy

theorem Part.ranked_queue (p : Part) (i : PagingInput) : ranked (p.queue i) :=
  List.foldlRecOn (motive := ranked) _ _ List.Pairwise.nil fun _ hl a _ => ranked_insert a hl

/-- The part with one more record, which waits (R66). -/
def Part.admitted (p : Part) (a : Announcement) : Part :=
  { p with ann := ⟨p.ann.records ++ [a], a.id, a.arrival⟩ }

section
variable {p : Part} {a : Announcement}

theorem Part.queue_admitted (hq : a.stage = .queued) (i : PagingInput) : (p.admitted a).queue i =
    if a.input = i then insertWhere (fun b => a.before b) a (p.queue i) else p.queue i := by
  unfold Part.queue Part.admitted
  by_cases hi : a.input = i <;> simp [List.filter_append, hq, hi]

theorem Part.served?_admitted (hq : a.stage = .queued) (i : PagingInput) : (p.admitted a).served? i = p.served? i := by
  simp [Part.served?, Part.admitted, List.find?_append, hq]

theorem Part.announcement_admitted (hfresh : ∀ r ∈ p.ann.records, r.id ≠ a.id) :
    (p.admitted a).announcement a.id = some a := by
  have hnone : (p.ann.records.find? fun r => r.id == a.id) = none := List.find?_eq_none.mpr (by simpa using hfresh)
  simp [Part.announcement, Part.admitted, List.find?_append, hnone]

/-- A record that has arrived last stands behind every queued record of its input of its rank or a higher (R66, R67). -/
theorem Part.placeOf_admitted (hq : a.stage = .queued) (hfresh : ∀ r ∈ p.ann.records, r.id ≠ a.id)
    (hlast : ∀ r ∈ p.ann.records, r.arrival < a.arrival) : (p.admitted a).placeOf a =
      (p.ann.records.filter fun r => r.input == a.input && r.stage == .queued && decide (a.rank ≤ r.rank)).length + 1 := by
  obtain ⟨before, after, hsplit, hi, hbefore, hafter⟩ := ranked_split a (p.ranked_queue a.input)
  have hmem : ∀ e ∈ before ++ after, e ∈ p.ann.records := fun e he => (Part.mem_queue_iff.mp (hsplit ▸ he)).1
  have hlower : ∀ e ∈ after, ¬ a.rank ≤ e.rank := by
    intro e he hle
    obtain ⟨hge, hsame⟩ := hafter e he
    obtain ⟨x, hx, -, hlate⟩ := hsame (Nat.le_antisymm hge hle)
    exact absurd (hlast x (hmem x (by simp [hx]))) (by omega)
  have hindex : ((p.admitted a).queue a.input).findIdx (fun b => b.id == a.id) = before.length := by
    have hother : ∀ e ∈ before, (e.id == a.id) = false := fun e he => by simpa using hfresh e (hmem e (by simp [he]))
    rw [Part.queue_admitted hq, if_pos rfl, hi, List.findIdx_append, List.findIdx_eq_length_of_false hother]
    simp [List.findIdx_cons]
  have hahead : (p.ann.records.filter fun r => r.input == a.input && r.stage == .queued && decide (a.rank ≤ r.rank)).length =
      before.length := by
    have hperm := (p.queue_perm a.input).filter fun r => decide (a.rank ≤ r.rank)
    rw [List.filter_filter] at hperm
    rw [hsplit, List.filter_append, List.filter_eq_self.mpr (by simpa using hbefore),
      List.filter_eq_nil_iff.mpr (by simpa using hlower), List.append_nil] at hperm
    rw [← hperm.symm.length_eq]
    simp only [Bool.and_comm, Bool.and_assoc]
  unfold Part.placeOf
  rw [if_pos (by simp [hq]), hindex, hahead]

/-! ### The request -/

/-- A record that comes behind another at its input frees none (R67). -/
theorem Part.settled_admitted (hp : p.settled) (hq : a.stage = .queued) (hbusy : (p.served? a.input).isSome = true) :
    (p.admitted a).settled := by
  intro i hi
  rw [Part.served?_admitted hq] at hi
  rw [Part.queue_admitted hq, if_neg (by rintro rfl; simp [hi] at hbusy)]
  exact hp i hi

/-- A record that finds its input free starts (R67). -/
theorem Part.startFree_admitted (hp : p.settled) (hq : a.stage = .queued) (hfree : p.served? a.input = none) :
    (p.admitted a).startFree = ((p.admitted a).startAnn a.id).startQueued p.ann.records.length := by
  have hready : ∀ i : PagingInput,
      (if ((p.admitted a).served? i).isNone = true then ((p.admitted a).queue i).head? else none) =
        if a.input = i then some a else none := by
    intro i
    rw [Part.served?_admitted hq, Part.queue_admitted hq]
    by_cases hi : a.input = i
    · subst hi
      simp [hfree, hp _ hfree, insertWhere]
    · cases hs : p.served? i with
      | some _ => simp [hi]
      | none => simp [hi, hp i hs]
  have hlen : (p.admitted a).ann.records.length = p.ann.records.length + 1 := List.length_append
  unfold Part.startFree
  rw [hlen, Part.startQueued]
  dsimp only
  rw [hready, hready]
  cases a.input <;> rfl

end

section
variable (p : Part) (input : PagingInput) (rank : Nat) (spec : List Range) (chime : Option Nat) (limit : Nat)

/-- The record that ANNOUNCE_START makes (R66). -/
def Part.newRecord : Announcement :=
  { id := p.ann.nextId, input := input, rank := rank, spec := spec, chime := chime,
    limit := if limit = 0 then 120 else limit, stage := .queued, arrival := p.ann.arrivals + 1, start := none,
    chimeEnd := none, limitTime := none, cause := none, joins := [] }

/-- The operands that ANNOUNCE_START takes (R66). -/
structure StartOperands : Prop where
  rank : rank ≤ 3
  some : 1 ≤ spec.length
  few : spec.length ≤ 4
  within : ∀ r ∈ spec, r.first ≤ 63 ∧ r.last ≤ 63
  zone : ∃ r ∈ spec, r.first ≤ r.last
  chime : ∀ c, chime = .some c → c ≤ 15 ∧ c ≠ 6 ∧ c ≠ 7 ∧ c ≠ 8
  limit : limit = 0 ∨ (5 ≤ limit ∧ limit ≤ 600)

variable {p input rank spec chime limit}

theorem announceAllowed_of (h : StartOperands rank spec chime limit) :
    announceAllowed (some input) rank spec chime limit = true := by
  obtain ⟨hrank, hsome, hfew, hwithin, hzone, hchime, hlimit⟩ := h
  have hspec : spec.isEmpty = false := by cases spec <;> simp_all
  have hall : spec.all (fun r => r.first ≤ 63 && r.last ≤ 63) = true := by simpa using hwithin
  have hempty : spec.all Range.isEmpty = false := by simpa [Range.isEmpty] using hzone
  have hpattern : chime.all (fun c => c ≤ 15 && !isEvacuation c) = true := by
    cases hc : chime with
    | none => rfl
    | some c =>
      obtain ⟨h15, h6, h7, h8⟩ := hchime c hc
      simp [isEvacuation, h15, h6, h7, h8]
  simp [announceAllowed, hrank, hspec, hfew, hall, hempty, hpattern, hlimit]

/-- What ANNOUNCE_START does with a record that it takes (R66). -/
theorem Part.announceStart_taken (h : StartOperands rank spec chime limit) (hroom : p.ann.records.length < 8) (saving : Bool) :
    Part.announceStart (some input) rank spec chime limit saving p =
      let q := (p.admitted (p.newRecord input rank spec chime limit)).startFree
      (q, okWith (.announceStarted p.ann.nextId (q.stageOf p.ann.nextId)
        (((q.announcement p.ann.nextId).map q.placeOf).getD 0))) := by
  refine (checked_pass (by simp [firstFailure, announceAllowed_of h, Nat.not_le.mpr hroom]) p _).trans ?_
  unfold Part.admitted Part.newRecord
  dsimp only [Option.getD_some]
  generalize Part.startFree _ = q
  cases h : q.announcement p.ann.nextId <;> simp [Part.stageOf, h]

end

end Sys2Proof.Machine
end

section
/-! SUPPORT. An announcement that starts as the only one: the zones that refuse it, that it waits for and that it joins, and
what STARTED reports (R51, R69, R72, R74, R80). -/

namespace Sys2Proof.Machine

/-! ### Owners and tap capacities -/

theorem Part.owner_of_core {p q : Part} (h : q.core = p.core) : q.owner = p.owner := by
  simp only [Part.core, Prod.mk.injEq] at h
  obtain ⟨-, -, -, -, -, -, -, -, -, hchain⟩ := h
  have hroster : q.chain.roster = p.chain.roster := (congrArg Chain.roster hchain :)
  have hlength : q.chain.length = p.chain.length := (congrArg Chain.length hchain :)
  funext z
  simp only [Part.owner, Part.positions, Part.rosterAt, hroster, hlength]

/-- A change of a runtime record that keeps what was read of its node keeps every tap capacity. -/
theorem Part.tapCapacity_modRuntime (p : Part) (pos : Nat) {f : Runtime → Runtime} (h : ∀ r, (f r).identity = r.identity) :
    (p.modRuntime pos f).tapCapacity = p.tapCapacity := by
  funext n
  have hidentity : ((p.modRuntime pos f).runtime n).identity = (p.runtime n).identity :=
    Tab.get_modify_keeps _ _ _ _ _ Runtime.identity fun r _ => h r
  unfold Part.tapCapacity
  rw [hidentity]; rfl

/-- A wake keeps every tap capacity. -/
theorem Part.tapCapacity_wake (p : Part) (pos : Nat) : (p.wake pos).tapCapacity = p.tapCapacity := by
  unfold Part.wake
  split
  next =>
    dsimp only
    generalize hq : (if p.waits .output (isPowerFor pos true) = true then _ else p : Part) = q
    have h1 : q.tapCapacity = p.tapCapacity := by
      subst hq; split
      · exact Part.tapCapacity_modRuntime _ _ (by intro r; rfl)
      · rfl
    generalize hr : (if q.powerInFlight pos true = true then _ else q : Part) = r
    have h2 : r.tapCapacity = p.tapCapacity := by
      subst hr; split
      · exact (Part.tapCapacity_modRuntime _ _ (by intro r; rfl)).trans h1
      · exact h1
    split
    · exact (Part.tapCapacity_modRuntime _ _ (by intro r; rfl)).trans h2
    · exact h2
  next => rfl

theorem Part.tapCapacity_wakeFor (p : Part) (z : Nat) : (p.wakeFor z).tapCapacity = p.tapCapacity := by
  unfold Part.wakeFor
  (repeat' split)
  · exact Part.tapCapacity_wake _ _
  all_goals rfl

@[simp] theorem Part.outbox_wakeFor (p : Part) (z : Nat) : (p.wakeFor z).outbox = p.outbox := by
  unfold Part.wakeFor; (repeat' split) <;> simp

/-- With one record on one lane, a join is within the capacity of a position that has any, when the record is JOINED at such
positions alone (R72). -/
theorem Part.withinCapacity_only {p : Part} {a : Announcement} (h : p.ann.records = [a])
    (hjoined : ∀ j ∈ a.joins, j.state = .joined → ∀ pos, p.owner j.zone = some pos → p.tapCapacity pos ≠ 0) (pos : Nat) :
    p.withinCapacity pos a.input.lane none = decide (p.tapCapacity pos ≠ 0) := by
  have htaps : ∀ lane, p.taps pos lane none =
      (a.input.lane == lane && a.joins.any fun j => j.state == .joined && p.owner j.zone == some pos) := by
    intro lane
    have hnot : ∀ x : Nat × Nat, ((none : Option (Nat × Nat)) != some x) = true := fun _ => rfl
    simp [Part.taps, h, hnot]
  have hlanes : p.lanesTapped pos none =
      if (a.joins.any fun j => j.state == .joined && p.owner j.zone == some pos) = true then [a.input.lane] else [] := by
    unfold Part.lanesTapped
    simp only [htaps]
    cases a.input <;> simp [PagingInput.lane, List.filter_cons]
  unfold Part.withinCapacity
  rw [hlanes]
  split
  next hany =>
    obtain ⟨j, hj, hpos⟩ := List.any_eq_true.mp hany
    simp only [Bool.and_eq_true, beq_iff_eq] at hpos
    simp [hjoined j hj hpos.1 pos hpos.2]
  next => simp [Nat.one_le_iff_ne_zero]

/-! ### What a zone answers -/

/-- Whether a zone refuses every announcement (R51). -/
def Part.refusesAnn (p : Part) (z : Nat) : Bool :=
  (p.zone z).kind == .sounder || !(p.zone z).annOn || p.closedZone z

/-- The join state in which a zone answers the request of the only announcement (R51, R72). -/
def Part.soloOutcome (p : Part) (z : Nat) : JoinState :=
  if p.refusesAnn z = true then .refused else if (p.owner z).elim 0 p.tapCapacity = 0 then .waiting else .joined

/-- The join entry of a zone that has answered so. -/
def Part.soloJoin (p : Part) (z : Nat) : Join := ⟨z, p.soloOutcome z, p.soloOutcome z == .joined, false⟩

/-- The entry of an offer list for a record (R50). -/
def Announcement.offer (a : Announcement) (now : Nat) : Offer := ⟨a.id, a.rank, a.start.getD now⟩

/-- What a zone is like once it has answered the request of a record: one that joins holds a claim with the record's output,
and sounds it where it can; one that waits has it in its offer list. -/
structure Part.soloAnswered (p : Part) (r : Announcement) (z : Nat) (x : Zone) : Prop where
  claim : p.soloOutcome z = .joined → x.ann.map (fun c => (c.id, c.output)) = some (r.id, r.output)
  sounds : p.soloOutcome z = .joined → p.able z = true → (p.zone z).drill = none → (p.zone z).annMask = false →
    x.commanded = r.output
  offer : p.soloOutcome z = .waiting → x.ann = none ∧ x.offers = [r.offer p.now]

/-- The claim of an announcement that is granted a zone outlives the zone's evaluation (R51). -/
theorem Zone.ann_evaluate_granted {z : Zone} {o : Output} {id : Nat} (h : z.ann = some ⟨.pending, o, id⟩)
    (able served : Bool) (now : Nat) :
    (z.evaluate able served now).ann.map (fun c => (c.id, c.output)) = some (id, o) := by
  rw [Zone.ann_evaluate, Zone.annAfter, h]
  cases z.select able now <;> rfl

/-! ### The requests of the zones -/

/-! ### The request for a slot -/

/-- A zone whose slot a record is granted (R51). -/
def Zone.granted (a : Announcement) (z : Zone) : Zone :=
  { z with ann := some ⟨.pending, a.output, a.id⟩, offers := z.offers.filter fun o => o.id != a.id }

/-- A zone that a record waits for (R50). -/
def Zone.awaited (o : Offer) (z : Zone) : Zone := { z with offers := insertWhere (fun b => o.precedes b) o z.offers }

theorem Part.grant_only {p : Part} {a : Announcement} (h : p.ann.records = [a]) (z : Nat) : p.grant a.id z =
    ((p.changeZone z (Zone.granted a)).modAnn a.id fun r => r.setJoin z .joined).wakeFor z := by
  unfold Part.grant; rw [Part.announcement_only rfl h]; rfl

theorem Part.enlist_only {p : Part} {a : Announcement} (h : p.ann.records = [a]) (z : Nat) : p.enlist a.id z =
    (p.modZone z (Zone.awaited (a.offer p.now))).modAnn a.id fun r => r.setJoin z .waiting := by
  unfold Part.enlist; rw [Part.announcement_only rfl h]; rfl

/-- The slot of a zone that no announcement holds is refused, granted or waited for (R51). -/
theorem Part.requestSlot_free {p : Part} {z : Nat} (hann : (p.zone z).ann = none) (id : Nat) : p.requestSlot id z =
    if p.refusesAnn z = true then p.enrolled id z
    else if (p.enrolled id z).mayJoin id z none = true then (p.enrolled id z).grant id z
    else (p.enrolled id z).enlist id z := by
  unfold Part.requestSlot
  change (if p.refusesAnn z = true then p.enrolled id z else _) = _
  split
  · rfl
  · dsimp only
    rw [show ((p.modAnn id _).zone z).ann = none from hann]
    exact Eq.refl (if (p.enrolled id z).mayJoin id z none = true then (p.enrolled id z).grant id z else _)

/-- From `p` to `q` the only record, which `r` is without its joins, has requested the slots of some zones. -/
structure Part.soloRequested (p : Part) (r : Announcement) (done : List Nat) (q : Part) : Prop where
  records : q.ann.records = [{ r with joins := done.map p.soloJoin }]
  sites : p.sameSites q
  owner : q.owner = p.owner
  capacity : q.tapCapacity = p.tapCapacity
  outbox : q.outbox = p.outbox
  others : ∀ z, z ∉ done → q.zone z = p.zone z
  answered : ∀ z ∈ done, p.soloAnswered r z (q.zone z)

section
variable {p q : Part} {r : Announcement} {done : List Nat} {z : Nat}

/-- A new entry of a join list takes its state, the others having other zones. -/
theorem Announcement.setJoin_last {js : List Join} (h : ∀ j ∈ js, j.zone ≠ z) (st : JoinState) :
    Announcement.setJoin { r with joins := js ++ [⟨z, .refused, false, false⟩] } z st =
      { r with joins := js ++ [⟨z, st, st == .joined, false⟩] } := by
  have hmap : (js.map fun j => if j.zone == z then { j with state := st, ever := j.ever || st == .joined } else j) = js :=
    (List.map_congr_left fun j hj => if_neg (by simpa using h j hj)).trans (List.map_id _)
  unfold Announcement.setJoin
  rw [List.map_append, hmap, List.map_singleton, if_pos (beq_self_eq_true z), Bool.false_or]

/-- The record with one more entry. -/
theorem Part.soloRequested_append (hz : z ∉ done) (st : JoinState) (hst : p.soloOutcome z = st) :
    Announcement.setJoin { r with joins := done.map p.soloJoin ++ [⟨z, .refused, false, false⟩] } z st =
      { r with joins := (done ++ [z]).map p.soloJoin } := by
  rw [Announcement.setJoin_last, List.map_append, List.map_singleton, Part.soloJoin, hst]
  intro j hj
  obtain ⟨y, hy, rfl⟩ := List.mem_map.mp hj
  rintro rfl
  exact hz hy

/-- One more zone has answered, and no other has changed. -/
theorem Part.soloRequested.extend (h : p.soloRequested r done q) {q' : Part}
    (hrecords : q'.ann.records = [{ r with joins := (done ++ [z]).map p.soloJoin }]) (hsites : q.sameSites q')
    (howner : q'.owner = q.owner) (hcapacity : q'.tapCapacity = q.tapCapacity) (houtbox : q'.outbox = q.outbox)
    (hothers : ∀ y, y ≠ z → q'.zone y = q.zone y) (hanswered : p.soloAnswered r z (q'.zone z)) :
    p.soloRequested r (done ++ [z]) q' where
  records := hrecords
  sites := h.sites.trans hsites
  owner := howner.trans h.owner
  capacity := hcapacity.trans h.capacity
  outbox := houtbox.trans h.outbox
  others y hy := by
    rw [List.mem_append, List.mem_singleton, not_or] at hy
    exact (hothers y hy.2).trans (h.others y hy.1)
  answered y hy := by
    by_cases hyz : y = z
    · exact hyz ▸ hanswered
    · rw [hothers y hyz]
      exact h.answered y (by simpa [hyz] using hy)

theorem Part.records_enrolled (h : p.soloRequested r done q) : (q.enrolled r.id z).ann.records =
    [{ r with joins := done.map p.soloJoin ++ [⟨z, .refused, false, false⟩] }] := by
  rw [Part.enrolled, Part.modAnn_only (a := { r with joins := done.map p.soloJoin }) rfl h.records]

theorem Part.capacity_of_joined (h : p.soloOutcome z = .joined) {pos : Nat} (hpos : p.owner z = some pos) :
    p.tapCapacity pos ≠ 0 := by
  unfold Part.soloOutcome at h
  rw [hpos] at h
  intro hcap
  simp only [Option.elim_some, hcap, if_true] at h
  split at h <;> cases h

/-- The only record may join where its zone's owner has any capacity (R72). -/
theorem Part.mayJoin_solo (h : p.soloRequested r done q) {pos : Nat} (hpos : p.owner z = some pos) :
    (q.enrolled r.id z).mayJoin r.id z none = decide (p.tapCapacity pos ≠ 0) := by
  have hrecords := Part.records_enrolled (z := z) h
  have howner : (q.enrolled r.id z).owner = p.owner := h.owner
  have hcapacity : (q.enrolled r.id z).tapCapacity = p.tapCapacity := h.capacity
  have hlane : (q.enrolled r.id z).laneOf r.id = r.input.lane := by
    rw [Part.laneOf, Part.announcement_only rfl hrecords]; rfl
  unfold Part.mayJoin
  rw [howner, hpos, hlane, ← hcapacity]
  refine Part.withinCapacity_only hrecords (fun j hj hs pos hpos => ?_) pos
  rw [howner] at hpos
  rw [hcapacity]
  rcases List.mem_append.mp hj with hj | hj
  · obtain ⟨y, -, rfl⟩ := List.mem_map.mp hj
    exact Part.capacity_of_joined hs hpos
  · rw [List.mem_singleton] at hj
    rw [hj] at hs
    cases hs

/-- A zone that refuses is entered so, and stays as it is. -/
theorem Part.soloRequested_refused (h : p.soloRequested r done q) (hst : p.soloOutcome z = .refused) :
    p.soloRequested r (done ++ [z]) (q.enrolled r.id z) := by
  refine h.extend ?_ (Part.sameSites_of_runtime rfl rfl) rfl rfl rfl (fun _ _ => rfl) ⟨?_, ?_, ?_⟩
  · rw [Part.records_enrolled h, List.map_append, List.map_singleton, Part.soloJoin, hst]; rfl
  all_goals rw [hst]; exact nofun

variable (h : p.soloRequested r done q) (hz : z ∉ done)
include h hz

/-- The record's entry for the zone takes its state. -/
theorem Part.records_joined {st : JoinState} (hst : p.soloOutcome z = st) {q' : Part}
    (hann : q'.ann = (q.enrolled r.id z).ann) :
    (q'.modAnn r.id fun a => a.setJoin z st).ann.records = [{ r with joins := (done ++ [z]).map p.soloJoin }] := by
  rw [Part.modAnn_only (a := { r with joins := done.map p.soloJoin ++ [⟨z, .refused, false, false⟩] }) rfl
    (by rw [hann]; exact Part.records_enrolled h), Part.soloRequested_append hz st hst]

variable (hz64 : z < 64)
include hz64

/-- The grant of a zone's slot to the only record (R51). -/
theorem Part.soloRequested_grant (hst : p.soloOutcome z = .joined) :
    p.soloRequested r (done ++ [z]) ((q.enrolled r.id z).grant r.id z) := by
  have hgrant : (q.enrolled r.id z).grant r.id z = (((q.enrolled r.id z).changeZone z (Zone.granted r)).modAnn r.id
    fun a => a.setJoin z .joined).wakeFor z := Part.grant_only (Part.records_enrolled h) z
  have hzone := Part.zone_changeZone hz64 (q.enrolled r.id z) (Zone.granted r)
  have hstands : ∀ y, ((((q.enrolled r.id z).changeZone z (Zone.granted r)).modAnn r.id
      fun a => a.setJoin z .joined).wakeFor z).zone y = ((q.enrolled r.id z).changeZone z (Zone.granted r)).zone y :=
    Part.zone_of_arb (Part.arb_wakeFor _ z)
  rw [hgrant]
  refine h.extend ?_ ?_ ?_ (Part.tapCapacity_wakeFor _ z) (Part.outbox_wakeFor _ z) (fun y hy => ?_) ?_
  · rw [Part.ann_wakeFor]
    exact Part.records_joined h hz hst rfl
  · exact Part.sameSites.trans (q := ((q.enrolled r.id z).changeZone z (Zone.granted r)).modAnn r.id
      fun a => a.setJoin z .joined) (Part.sameSites_of_runtime rfl rfl) (Part.sameSites_wakeFor _ z)
  · exact Part.owner_of_core (Part.core_wakeFor _ z)
  · exact (hstands y).trans (Part.zone_changeZone_ne (Ne.symm hy) _ _)
  · rw [hstands, hzone, show (q.enrolled r.id z).zone z = p.zone z from h.others z hz,
      show (q.enrolled r.id z).able z = p.able z from congrFun h.sites.able z]
    refine ⟨fun _ => Zone.ann_evaluate_granted rfl _ _ _, fun _ hable hdrill hmask => ?_, fun hwaits => ?_⟩
    · rw [hable]
      exact (Zone.evaluate_ann (z := (p.zone z).granted r) _ hdrill rfl hmask).1
    · rw [hst] at hwaits; cases hwaits

/-- The wait of the only record for a zone that no other waits for (R51). -/
theorem Part.soloRequested_enlist (hst : p.soloOutcome z = .waiting) (hann : (p.zone z).ann = none)
    (hoffers : (p.zone z).offers = []) : p.soloRequested r (done ++ [z]) ((q.enrolled r.id z).enlist r.id z) := by
  have henlist : (q.enrolled r.id z).enlist r.id z = ((q.enrolled r.id z).modZone z (Zone.awaited (r.offer q.now))).modAnn r.id
    fun a => a.setJoin z .waiting := Part.enlist_only (Part.records_enrolled h) z
  have hzone : ((q.enrolled r.id z).modZone z (Zone.awaited (r.offer q.now))).zone z =
    (q.zone z).awaited (r.offer q.now) := Tab.get_modify hz64 _ _ _
  rw [henlist]
  refine h.extend (Part.records_joined h hz hst rfl) (Part.sameSites_of_runtime rfl rfl) rfl rfl rfl
    (fun y hy => Tab.get_modify_ne (Ne.symm hy) _ _ _) ?_
  change p.soloAnswered r z (((q.enrolled r.id z).modZone z (Zone.awaited (r.offer q.now))).zone z)
  rw [hzone, h.others z hz, h.sites.now]
  refine ⟨fun hj => ?_, fun hj => ?_, fun _ => ⟨hann, ?_⟩⟩
  · rw [hst] at hj; cases hj
  · rw [hst] at hj; cases hj
  · simp [Zone.awaited, hoffers, insertWhere]

/-- The request of the only record for a zone's slot, by what the zone answers (R51, R72). -/
theorem Part.soloRequested_step (hann : (p.zone z).ann = none) (hoffers : (p.zone z).offers = []) :
    p.soloRequested r (done ++ [z]) (q.requestSlot r.id z) := by
  have hzone := h.others z hz
  have hrefuses : q.refusesAnn z = p.refusesAnn z := by simp only [Part.refusesAnn, hzone, h.sites.closedZone]
  rw [Part.requestSlot_free (by rw [hzone]; exact hann), hrefuses]
  cases hr : p.refusesAnn z with
  | true => exact Part.soloRequested_refused h (if_pos hr)
  | false =>
    obtain ⟨pos, hpos⟩ : ∃ pos, p.owner z = some pos := by
      rw [← Option.isSome_iff_exists]
      simp only [Part.refusesAnn, Part.closedZone, Bool.or_eq_false_iff] at hr
      simpa using hr.2.1
    have hmay := Part.mayJoin_solo h hpos
    have hst : p.soloOutcome z = if p.tapCapacity pos = 0 then .waiting else .joined := by
      simp [Part.soloOutcome, hr, hpos]
    rw [if_neg (by decide), hmay]
    by_cases hcap : p.tapCapacity pos = 0
    · rw [if_neg (by simpa using hcap)]
      exact Part.soloRequested_enlist h hz hz64 (hst.trans (if_pos hcap)) hann hoffers
    · rw [if_pos (by simpa using hcap)]
      exact Part.soloRequested_grant h hz hz64 (hst.trans (if_neg hcap))

end

/-- One zone after another requested: the record's join list is what each zone has answered (R51, R69, R72). -/
theorem Part.soloRequested_each {p : Part} {r : Announcement} (l : List Nat) : ∀ (done : List Nat) (q : Part),
    p.soloRequested r done q → (done ++ l).Nodup →
    (∀ z ∈ l, z < 64 ∧ (p.zone z).ann = none ∧ (p.zone z).offers = []) →
    p.soloRequested r (done ++ l) (q.each l fun q z => q.requestSlot r.id z) := by
  induction l with
  | nil => intro done q h _ _; rw [List.append_nil]; exact h
  | cons z l ih =>
    intro done q h hnodup hfree
    obtain ⟨hz64, hann, hoffers⟩ := hfree z (by simp)
    have hz : z ∉ done := fun hmem => (List.nodup_append.mp hnodup).2.2 z hmem z (by simp) rfl
    have hstep : p.soloRequested r (done ++ [z]) (q.requestSlot r.id z) := Part.soloRequested_step h hz hz64 hann hoffers
    have hrest := ih (done ++ [z]) _ hstep (by simpa using hnodup) fun y hy => hfree y (by simp [hy])
    rwa [List.append_assoc] at hrest

/-! ### The start -/

/-- The part when the only record has started and requested the slots of its zones, before STARTED. -/
def Part.soloStart (p : Part) (a : Announcement) : Part :=
  (p.modAnn a.id p.startRecord).each (selected 64 a.spec) fun q z => q.requestSlot a.id z

/-- The only record as it has started, with its join list (R69). -/
def Part.soloRecord (p : Part) (a : Announcement) : Announcement :=
  { p.startRecord a with joins := (selected 64 a.spec).map p.soloJoin }

/-- The counts of that join list (R80). -/
def Part.soloCounts (p : Part) (zs : List Nat) : JoinCounts :=
  let count := fun st => (zs.filter fun z => p.soloOutcome z == st).length
  ⟨zs.length, count .joined, count .joined, count .waiting, 0, count .refused, 0⟩

/-- A notice of the only record, with those counts. -/
def Part.soloNotice (p : Part) (a : Announcement) (e : AnnounceEvent) (st : Option AnnounceStage) : Notice :=
  .announceState a.id a.input a.rank e st (p.soloCounts (selected 64 a.spec))

theorem Part.soloOutcome_refused_iff {p : Part} {z : Nat} : p.soloOutcome z = .refused ↔ p.refusesAnn z = true := by
  unfold Part.soloOutcome
  split
  next h => simp [h]
  next h => split <;> simp [h]

theorem Part.soloOutcome_cases (p : Part) (z : Nat) :
    p.soloOutcome z = .refused ∨ p.soloOutcome z = .waiting ∨ p.soloOutcome z = .joined := by
  unfold Part.soloOutcome; (repeat' split) <;> simp

theorem Part.counts_soloRecord (p : Part) (a : Announcement) : (p.soloRecord a).counts = p.soloCounts (selected 64 a.spec) := by
  have hcount : ∀ f : Join → Bool, (((selected 64 a.spec).map p.soloJoin).filter f).length =
      ((selected 64 a.spec).filter fun z => f (p.soloJoin z)).length := by
    intro f; rw [List.filter_map, List.length_map]; rfl
  have hnone : ∀ st, st = .lost ∨ st = .left → ∀ z, (p.soloOutcome z == st) = false := by
    intro st hst z
    rcases hst with rfl | rfl <;> rcases p.soloOutcome_cases z with h | h | h <;> rw [h] <;> rfl
  unfold Announcement.counts Part.soloRecord Part.soloCounts
  simp [hcount, Part.soloJoin, hnone]

section
variable {p : Part} {a : Announcement} (h : p.ann.records = [a])
include h

theorem Part.startAnn_only : p.startAnn a.id =
    ((p.soloStart a).noteAnn a.id (.started (p.soloStart a).now)).testDisplaced a.id := by
  unfold Part.startAnn; rw [Part.announcement_only rfl h]; rfl

variable (hfree : ∀ z < 64, (p.zone z).ann = none ∧ (p.zone z).offers = [])
include hfree

theorem Part.soloRequested_start : p.soloRequested (p.startRecord a) (selected 64 a.spec) (p.soloStart a) := by
  have hbegun : p.soloRequested (p.startRecord a) [] (p.modAnn a.id p.startRecord) := by
    refine ⟨?_, Part.sameSites_of_runtime rfl rfl, rfl, rfl, rfl, fun _ _ => rfl, nofun⟩
    rw [Part.modAnn_only rfl h]; rfl
  exact Part.soloRequested_each (selected 64 a.spec) [] _ hbegun (selected_nodup 64 a.spec) fun z hz =>
    ⟨lt_of_mem_selected hz, hfree z (lt_of_mem_selected hz)⟩

/-- STARTED, with the counts of the join list (R80). -/
theorem Part.started_solo : (p.soloStart a).noteAnn a.id (.started (p.soloStart a).now) =
    (p.soloStart a).note (p.soloNotice a (.started p.now) (some (p.startRecord a).stage)) := by
  have hrequested := Part.soloRequested_start h hfree
  have hfound := Part.announcement_only (id := a.id) (a := p.soloRecord a) rfl hrequested.records
  rw [Part.noteAnn_found hfound, Part.counts_soloRecord, hrequested.sites.now]
  rfl

/-- A record that some zone does not refuse stays (R74). -/
theorem Part.startAnn_kept (hzone : ∃ z ∈ selected 64 a.spec, p.refusesAnn z = false) : p.startAnn a.id =
    (p.soloStart a).note (p.soloNotice a (.started p.now) (some (p.startRecord a).stage)) := by
  obtain ⟨z, hz, hnot⟩ := hzone
  have hrecords := (Part.soloRequested_start h hfree).records
  rw [Part.startAnn_only h, Part.started_solo h hfree]
  unfold Part.testDisplaced
  rw [show ((p.soloStart a).note _).announcement a.id = some (p.soloRecord a) from Part.announcement_only rfl hrecords]
  refine if_neg ?_
  have hmem : p.soloJoin z ∈ (p.soloRecord a).joins := List.mem_map.mpr ⟨z, hz, rfl⟩
  have hst : p.soloOutcome z = .waiting ∨ p.soloOutcome z = .joined :=
    (p.soloOutcome_cases z).resolve_left (mt Part.soloOutcome_refused_iff.mp (by simp [hnot]))
  simp only [Bool.and_eq_true, List.all_eq_true, not_and, not_forall]
  exact fun _ => ⟨_, hmem, by rcases hst with hst | hst <;> simp [Part.soloJoin, hst]⟩

theorem Part.startAnn_kept_zones (hzone : ∃ z ∈ selected 64 a.spec, p.refusesAnn z = false) :
    (p.startAnn a.id).ann.records = [p.soloRecord a] ∧
    (p.startAnn a.id).outbox =
      p.outbox ++ [p.soloNotice a (.started p.now) (some (p.startRecord a).stage)].map .notice ∧
    ∀ z ∈ selected 64 a.spec, p.soloAnswered (p.startRecord a) z ((p.startAnn a.id).zone z) := by
  have hrequested := Part.soloRequested_start h hfree
  rw [Part.startAnn_kept h hfree hzone]
  exact ⟨hrequested.records, by rw [Part.note_outbox, hrequested.outbox]; rfl, hrequested.answered⟩

/-- A record that every zone refuses is displaced and removed at once (R74, R76). -/
theorem Part.startAnn_displaced (hall : ∀ z ∈ selected 64 a.spec, p.refusesAnn z = true) :
    (p.startAnn a.id).ann.records = [] ∧
    (p.startAnn a.id).outbox = p.outbox ++ [p.soloNotice a (.started p.now) (some (p.startRecord a).stage),
      p.soloNotice a (.ending .displaced) (some .ending), p.soloNotice a (.removed .displaced) none].map .notice := by
  have hrequested := Part.soloRequested_start h hfree
  have hidle : (p.soloRecord a).isIdle := by
    intro j hj
    obtain ⟨z, hz, rfl⟩ := List.mem_map.mp hj
    simp [Part.soloJoin, Part.soloOutcome_refused_iff.mpr (hall z hz)]
  have hstarted : (p.soloRecord a).started = true := by
    unfold Announcement.started Part.soloRecord Part.startRecord
    dsimp only; split <;> rfl
  have hnothing : ((p.soloRecord a).joins.all fun j => j.state != .joined && j.state != .waiting) = true := by
    refine List.all_eq_true.mpr fun j hj => ?_
    obtain ⟨hjoined, hwaiting, -⟩ := hidle j hj
    simp [hjoined, hwaiting]
  obtain ⟨hnone, hsent⟩ := Part.enterEnding_idle (p := (p.soloStart a).note (p.soloNotice a (.started p.now)
    (some (p.startRecord a).stage))) (a := p.soloRecord a) rfl hrequested.records hidle .displaced
  rw [Part.startAnn_only h, Part.started_solo h hfree]
  unfold Part.testDisplaced
  rw [show ((p.soloStart a).note _).announcement a.id = some (p.soloRecord a) from
    Part.announcement_only rfl hrequested.records]
  dsimp only
  rw [if_pos (by rw [hstarted, hnothing]; rfl)]
  refine ⟨hnone, hsent.trans ?_⟩
  rw [Part.counts_soloRecord, Part.note_outbox, hrequested.outbox, List.append_assoc]
  rfl

end

end Sys2Proof.Machine
end

section
/-! SUPPORT. ANNOUNCE_START (R65 to R74). -/

namespace Sys2Proof.Machine

/-! ### What a start makes of its record -/

/-- A record that has started from `n` at a moment, with the zones of its join list: what the request gave stands, and the
chime end and the limit time are those of the start while they are awaited (R69, R71, R75). -/
structure Announcement.begun (n : Announcement) (now : Nat) (zs : List Nat) (a : Announcement) : Prop where
  stage : a.stage ≠ .queued
  start : a.start = some now
  input : a.input = n.input
  rank : a.rank = n.rank
  spec : a.spec = n.spec
  chime : a.chime = n.chime
  limit : a.limit = n.limit
  zones : a.joins.map (·.zone) = zs
  chiming : a.stage = .chiming → n.chime.isSome = true
  live : a.stage = .live → n.chime = none
  chimeEnd : a.stage = .chiming → a.chimeEnd = n.chime.map fun c => now + passLength c * 5
  limitTime : a.stage = .chiming ∨ a.stage = .live → a.limitTime = some (now + n.limit * 50)

section
variable {n : Announcement} {now : Nat} {zs : List Nat}

theorem lasting_begun : Lasting (n.begun now zs) where
  started _ h := h.stage
  joins _ _ hjs h := { h with zones := hjs.trans h.zones }
  displaced _ b _ _ h := { h with
    stage := nofun, chiming := nofun, live := nofun, chimeEnd := nofun, limitTime := by rintro (h | h) <;> cases h }

theorem Part.begun_startRecord (p : Part) (n : Announcement) : n.begun p.now [] (p.startRecord n) := by
  refine ⟨?_, rfl, rfl, rfl, rfl, rfl, rfl, rfl, ?_, ?_, fun _ => rfl, fun _ => rfl⟩ <;>
    unfold Part.startRecord <;> dsimp only <;> split <;> simp_all

variable {last arrivals id : Nat}

/-- Each zone of a list adds its entry to the record's join list. -/
theorem Part.tracks_requests (l : List Nat) : ∀ (zs : List Nat) (q : Part), q.tracks last arrivals id (n.begun now zs) →
    (q.each l fun q z => q.requestSlot id z).tracks last arrivals id (n.begun now (zs ++ l)) := by
  induction l with
  | nil => intro zs q h; rw [List.append_nil]; exact h
  | cons z l ih =>
    intro zs q h
    have henrolled : (q.enrolled id z).tracks last arrivals id (n.begun now (zs ++ [z])) :=
      Part.tracks_changed h fun a ha => { ha with zones := by simp [ha.zones] }
    have hrest := ih _ _ (Part.tracks_requested lasting_begun id z henrolled)
    rwa [List.append_assoc] at hrest

/-- The only record of its id starts (R69). -/
theorem Part.tracks_startAnn_begun {p : Part} (hfound : p.announcement id = some n) (h : p.tracks last arrivals id (· = n)) :
    (p.startAnn id).tracks last arrivals id (n.begun p.now (selected 64 n.spec)) := by
  have hstarted : (p.modAnn id p.startRecord).tracks last arrivals id (n.begun p.now []) :=
    Part.tracks_changed h fun a ha => ha ▸ p.begun_startRecord n
  have hrequested := Part.tracks_requests (selected 64 n.spec) [] _ hstarted
  unfold Part.startAnn
  rw [hfound]
  exact Part.tracks_testDisplaced lasting_begun (hrequested.of_ann (Part.ann_noteAnn _ _ _)) id

end

/-- A record that has started has no place in a queue. -/
theorem Part.place_of_begun {q : Part} {last arrivals id now : Nat} {zs : List Nat} {n : Announcement}
    (h : q.tracks last arrivals id (n.begun now zs)) : ((q.announcement id).map q.placeOf).getD 0 = 0 := by
  cases hfound : q.announcement id with
  | none => rfl
  | some r =>
    obtain ⟨hmem, hid⟩ := Part.mem_of_announcement hfound
    exact if_neg (by simpa using (h.records r hmem hid).stage)

theorem Part.stageOf_of_begun {q : Part} {last arrivals id now : Nat} {zs : List Nat} {n : Announcement}
    (h : q.tracks last arrivals id (n.begun now zs)) : q.stageOf id ≠ some .queued := by
  cases hfound : q.announcement id with
  | none => rw [Part.stageOf_absent hfound]; nofun
  | some r =>
    obtain ⟨hmem, hid⟩ := Part.mem_of_announcement hfound
    rw [Part.stageOf_found hfound]
    exact fun h' => (h.records r hmem hid).stage (Option.some.inj h')

/-- A record that finds its input free has started, whatever its start displaces and lets start (R67, R69). -/
theorem Part.tracks_startFree_admitted {p : Part} {a : Announcement} (hp : p.settled) (hq : a.stage = .queued)
    (hfresh : ∀ r ∈ p.ann.records, r.id ≠ a.id) (hfree : p.served? a.input = none) :
    (p.admitted a).startFree.tracks a.id a.arrival a.id (a.begun p.now (selected 64 a.spec)) := by
  have honly : (p.admitted a).tracks a.id a.arrival a.id (· = a) := by
    refine ⟨rfl, rfl, fun b hb hid => ?_⟩
    rcases List.mem_append.mp hb with hb | hb
    · exact absurd hid (hfresh b hb)
    · exact List.mem_singleton.mp hb
  rw [Part.startFree_admitted hp hq hfree]
  exact Part.tracks_startQueued lasting_begun _ _ (Part.tracks_startAnn_begun (Part.announcement_admitted hfresh) honly)

/-- The pass lengths of spec 03 section 3.3, as the statements list them. -/
theorem passLength_listed : ∀ c < 16,
    [10, 20, 20, 24, 10, 20, 30, 4, 40, 20, 30, 20, 25, 20, 20, 30].getD c 0 = passLength c := by decide

/-! ### The request -/

section
variable {p : Part} {input : PagingInput} {rank : Nat} {spec : List Range} {chime : Option Nat} {limit : Nat}

/-- With its input busy the record takes its place in the queue (R66). -/
theorem Part.announceStart_busy (hops : StartOperands rank spec chime limit) (hroom : p.ann.records.length < 8)
    (hp : p.settled) (hbusy : (p.served? input).isSome = true) (harr : ∀ a ∈ p.ann.records, a.arrival ≤ p.ann.arrivals)
    (saving : Bool) : (p.admitted (p.newRecord input rank spec chime limit)).settled ∧
      Part.announceStart (some input) rank spec chime limit saving p =
        (p.admitted (p.newRecord input rank spec chime limit), okWith (.announceStarted p.ann.nextId (some .queued)
          ((p.ann.records.filter fun a => a.input == input && a.stage == .queued && decide (rank ≤ a.rank)).length + 1))) := by
  obtain ⟨hfresh, -⟩ := Announcer.nextId_spec hroom
  generalize hnew : p.newRecord input rank spec chime limit = new
  have hsettled : (p.admitted new).settled := by subst hnew; exact Part.settled_admitted hp rfl hbusy
  have hfound : (p.admitted new).announcement p.ann.nextId = some new := by
    subst hnew; exact Part.announcement_admitted hfresh
  have hplace : (p.admitted new).placeOf new =
      (p.ann.records.filter fun a => a.input == input && a.stage == .queued && decide (rank ≤ a.rank)).length + 1 := by
    subst hnew; exact Part.placeOf_admitted rfl hfresh fun r hr => Nat.lt_succ_of_le (harr r hr)
  have hfree : (p.admitted new).startFree = p.admitted new := Part.settle_eq hsettled
  refine ⟨hsettled, (Part.announceStart_taken hops hroom saving).trans ?_⟩
  rw [hnew, hfree]
  dsimp only
  rw [Part.stageOf_found hfound, hfound, Option.map_some, Option.getD_some, hplace, ← hnew]
  rfl

/-- With its input free the record starts (R66, R67). -/
theorem Part.announceStart_free (hops : StartOperands rank spec chime limit) (hroom : p.ann.records.length < 8)
    (hp : p.settled) (hfree : p.served? input = none) (saving : Bool) :
    let q := (p.admitted (p.newRecord input rank spec chime limit)).startFree
    Part.announceStart (some input) rank spec chime limit saving p =
        (q, okWith (.announceStarted p.ann.nextId (q.stageOf p.ann.nextId) 0)) ∧
      q.tracks p.ann.nextId (p.ann.arrivals + 1) p.ann.nextId
        ((p.newRecord input rank spec chime limit).begun p.now (selected 64 spec)) := by
  obtain ⟨hfresh, -⟩ := Announcer.nextId_spec hroom
  have htracks : (p.admitted (p.newRecord input rank spec chime limit)).startFree.tracks p.ann.nextId (p.ann.arrivals + 1)
      p.ann.nextId ((p.newRecord input rank spec chime limit).begun p.now (selected 64 spec)) :=
    Part.tracks_startFree_admitted (a := p.newRecord input rank spec chime limit) hp rfl hfresh hfree
  refine ⟨(Part.announceStart_taken hops hroom saving).trans ?_, htracks⟩
  dsimp only
  rw [Part.place_of_begun htracks]

/-- With no other record in the table, nothing else starts in the same step (R67). -/
theorem Part.startFree_only {a : Announcement} (h : p.ann.records = []) (hq : a.stage = .queued) :
    (p.admitted a).startFree = (p.admitted a).startAnn a.id := by
  have hfree : p.served? a.input = none := by simp [Part.served?, h]
  rw [Part.startFree_admitted (Part.settled_nil h) hq hfree, h]
  rfl

end

/-- What ANNOUNCE_START leads to with its input free: the part as the start has left it, its reply and its notices. -/
theorem request_announceStart_free {s : State} {tag : Nat} {input : PagingInput} {rank : Nat} {spec : List Range}
    {chime : Option Nat} {limit : Nat} (hr : s.ready tag) (hops : StartOperands rank spec chime limit)
    (hroom : s.part.ann.records.length < 8) (hp : s.part.settled) (hfree : s.part.served? input = none) :
    let q := (s.part.admitted (s.part.newRecord input rank spec chime limit)).startFree
    let a : Answer := ⟨.ok, .announceStarted s.part.ann.nextId (q.stageOf s.part.ann.nextId) 0⟩
    ∃ t, exec (.announceStart tag (some input) rank spec chime limit) s = .next t ∧ t.part = { q with outbox := [] } ∧
      State.answers s t tag 0x28 a ∧ State.sameOutside s t ∧ t.part.core = s.part.core ∧
      q.tracks s.part.ann.nextId (s.part.ann.arrivals + 1) s.part.ann.nextId
        ((s.part.newRecord input rank spec chime limit).begun s.part.now (selected 64 spec)) ∧
      ∀ l : List Notice, q.outbox = s.part.outbox ++ l.map .notice → State.reports s t [replyOf tag 0x28 a] l := by
  intro q a
  obtain ⟨heq, htracks⟩ := Part.announceStart_free hops hroom hp hfree s.port.saving.isSome
  have hsettled : q.settled := Part.settled_settle _
  obtain ⟨hpart, hans⟩ := request_part hr (.announceStart tag (some input) rank spec chime limit) 0x28 _ heq (.inl rfl)
  have hpart' := hpart.trans (congrArg (fun q : Part => { q with outbox := [] }) (Part.settle_eq hsettled))
  refine ⟨_, rfl, hpart', hans, request_sameOutside hr _ _ _, ?_, htracks, fun l hl => ?_⟩
  · exact (congrArg Part.core hpart').trans (Part.core_startFree _)
  · exact request_reports_settled hr _ _ _ heq (.inl rfl) hsettled hl

/-- What the statement says of a record that has started. -/
theorem Announcement.begun_spelled {p : Part} {input : PagingInput} {rank : Nat} {spec : List Range} {chime : Option Nat}
    {limit : Nat} (hops : StartOperands rank spec chime limit) {a : Announcement}
    (h : (p.newRecord input rank spec chime limit).begun p.now (selected 64 spec) a) :
    a.stage ≠ .queued ∧ a.start = some p.now ∧ a.input = input ∧ a.rank = rank ∧ a.spec = spec ∧ a.chime = chime ∧
    a.limit = (if limit = 0 then 120 else limit) ∧
    a.joins.map (·.zone) = ((List.range 64).filter fun z => spec.any fun r => r.has z) ∧
    (a.stage = .chiming → chime.isSome = true) ∧ (a.stage = .live → chime = none) ∧
    (a.stage = .chiming → a.chimeEnd = chime.map fun c =>
      p.now + [10, 20, 20, 24, 10, 20, 30, 4, 40, 20, 30, 20, 25, 20, 20, 30].getD c 0 * 5) ∧
    ((a.stage = .chiming ∨ a.stage = .live) → a.limitTime = some (p.now + (if limit = 0 then 120 else limit) * 50)) := by
  refine ⟨h.stage, h.start, h.input, h.rank, h.spec, h.chime, h.limit, h.zones, h.chiming, h.live, fun hs => ?_, h.limitTime⟩
  refine (h.chimeEnd hs).trans ?_
  cases hc : chime with
  | none => rfl
  | some c =>
    obtain ⟨h15, -⟩ := hops.chime c hc
    rw [Option.map_some, passLength_listed c (by omega)]; rfl

/-- Settles O26: the id by the search for it, the queue by its order of rank, a start by what stays true of its record, and the
only record by the answers of its zones. -/
theorem announceStart : Obligations.AnnounceStart := by
  intro s tag rank limit input spec chime hr hp hrank hsome hfew hwithin hzone hchime hlimit hroom id seconds new zones refuses
    outcome present passLengths
  have hops : StartOperands rank spec chime limit := ⟨hrank, hsome, hfew, hwithin, hzone, hchime, hlimit⟩
  obtain ⟨hfresh, k, hk, hid, hheld⟩ := Announcer.nextId_spec hroom
  refine ⟨by omega, by omega, hfresh, ⟨k, hk, hid, hheld⟩, fun hbusy harr => ?_, fun hfree => ?_⟩
  · obtain ⟨hsettled, heq⟩ := Part.announceStart_busy hops hroom hp hbusy harr s.port.saving.isSome
    exact congrArg Host.Outcome.next
      (request_settled hr _ _ _ heq (.inl rfl) hsettled (State.ready_outbox hr))
  · obtain ⟨t, heq, hpart, hans, hout, hcore, htracks, hreports⟩ := request_announceStart_free hr hops hroom hp hfree
    refine ⟨t, _, heq, hans, hout, hcore, ?_, ?_, Part.stageOf_of_begun htracks, ?_, fun a ha haid => ?_,
      fun honly hempty => ?_⟩
    · rw [hpart]; exact htracks.lastId
    · rw [hpart]; exact htracks.arrivals
    · rw [hpart]; rfl
    · rw [hpart] at ha
      exact Announcement.begun_spelled hops (htracks.records a ha haid)
    · have hrefuses : refuses = s.part.refusesAnn := by
        funext z; simp only [refuses, Part.refusesAnn, Part.closedZone, Bool.or_assoc]
      have houtcome : outcome = s.part.soloOutcome := by
        funext z; simp only [outcome, hrefuses, Part.soloOutcome]
      have hpresent : present = ((s.part.admitted new).startRecord new).output := by
        cases chime with
        | some _ => rfl
        | none => cases input <;> rfl
      have hrecords : (s.part.admitted new).ann.records = [new] := by rw [Part.admitted, honly]; rfl
      have hstart : (s.part.admitted new).startFree = (s.part.admitted new).startAnn new.id := Part.startFree_only honly rfl
      intro count counts began event reports
      have hnotice : ∀ e st, (s.part.admitted new).soloNotice new e st = event e st := by
        intro e st; simp only [event, counts, count, houtcome]; rfl
      rw [hrefuses, houtcome, hpresent]
      refine ⟨fun hzone => ?_, fun hall => ?_⟩
      · obtain ⟨hrec, hsent, hanswered⟩ := Part.startAnn_kept_zones hrecords hempty hzone
        rw [← hstart] at hrec hsent hanswered
        rw [hnotice] at hsent
        refine ⟨Part.stageOf_found (Part.announcement_only (a := (s.part.admitted new).soloRecord new) rfl hrec),
          hreports _ hsent, ?_, fun z hz => ?_⟩
        · rw [hpart]
          exact congrArg (List.map _) hrec
        · rw [hpart]
          obtain ⟨hclaim, hsounds, hoffer⟩ := hanswered z hz
          exact ⟨fun hst => ⟨hclaim hst, hsounds hst⟩, hoffer⟩
      · obtain ⟨hrec, hsent⟩ := Part.startAnn_displaced hrecords hempty hall
        rw [← hstart] at hrec hsent
        simp only [hnotice] at hsent
        refine ⟨Part.stageOf_absent ?_, ?_, hreports _ hsent⟩
        · exact List.find?_eq_none.mpr (hrec ▸ nofun)
        · rw [hpart]
          exact hrec

end Sys2Proof.Machine
end

section
/-! SUPPORT. The reads of the drill timer (R83, R98, R102, R105). -/

namespace Sys2Proof.Machine

/-- DRILL_READ of a run gives it as it stands. -/
theorem Part.drillRead_run {p : Part} {r : DrillRun} (h : p.drill.run = some r) : p.drillRead = ⟨.ok,
    .drill (some r) (p.phaseLeft r) p.drillElapsed
      (r.timers.map fun t => if t.state.isRunning then { t with elapsed := p.drillTenths r } else t)
      (r.timers.map fun t => (t.building,
        ((zonesOf (p.building t.building).zones).filter fun z => (p.zone z).drill.isSome).length))
      (if r.phase == .checking then
        (p.positions.filter (p.inScope r.fields.scope)).map fun pos =>
          match r.probes.find? fun x => x.position == pos with
          | some x => (pos, some x.number, x.echoed)
          | none => (pos, none, false)
      else [])⟩ := by
  unfold Part.drillRead
  rw [h]
  rfl

theorem Part.drillRead_idle {p : Part} (h : p.drill.run = none) : p.drillRead = ⟨.ok, .drill none none none [] [] []⟩ := by
  unfold Part.drillRead
  rw [h]
  rfl

/-- Settles O14: each read by itself, within its list and above it, and DRILL_READ in IDLE and with a run. -/
theorem drillReads : Obligations.DrillReads := by
  intro s tag n hr
  refine ⟨fun hn => ?_, fun hn => ?_, fun hn => ?_, fun hn => ?_, ?_, fun hidle => ?_, fun r hrun => ?_⟩
  · exact next_reader hr _ _ (checkedRead_within (by simpa using hn) _ _)
  · exact next_reader hr _ _ (checkedRead_above (by simpa using hn) _ _)
  · exact next_reader hr _ _ (checkedRead_within (by simpa using hn) _ _)
  · exact next_reader hr _ _ (checkedRead_above (by simpa using hn) _ _)
  · exact next_reader hr _ _ rfl
  · exact next_reader hr _ _ (Part.drillRead_idle hidle)
  · refine (next_reader hr _ _ (Part.drillRead_run hrun)).trans ?_
    rfl

end Sys2Proof.Machine
end

section
/-! SUPPORT. What posting and releasing DRILL claims is made of: the losses of announcements, step by step (R46, R70 to R76). -/

namespace Sys2Proof.Machine

/-! ### The displacement of a record that holds nothing -/

/-- A record that is displaced holds no zone, so that it gives nothing back (R74 to R76). -/
theorem Part.testDisplaced_cases (p : Part) (id : Nat) : p.testDisplaced id = p ∨ p.testDisplaced id =
    (((p.modAnn id (·.ended .displaced)).settleEntries id).noteAnn id (.ending .displaced)).removeIfSettled id := by
  unfold Part.testDisplaced
  split
  next a ha =>
    split
    next h =>
      rw [Bool.and_eq_true, List.all_eq_true] at h
      obtain ⟨-, hnone⟩ := h
      refine .inr ((Part.enterEnding_found ha _).trans ?_)
      have hwaiting : (a.joins.filter fun j => j.state == .waiting) = [] :=
        List.filter_eq_nil_iff.mpr fun j hj => by have := hnone j hj; simp_all
      have hjoined : (a.joins.filter fun j => j.state == .joined) = [] :=
        List.filter_eq_nil_iff.mpr fun j hj => by have := hnone j hj; simp_all
      unfold Part.windUp
      rw [hwaiting, hjoined]
      rfl
    next => exact .inl rfl
  next => exact .inl rfl

/-! ### What every loss keeps -/

/-- A change of a record that can only lose it zones, or bring it into ENDING. -/
structure Announcement.sheds (f : Announcement → Announcement) : Prop where
  id : ∀ a, (f a).id = a.id
  stage : ∀ a, (f a).stage = a.stage ∨ (f a).stage = .ending
  joins : ∀ a, ∀ j' ∈ (f a).joins, ∃ j ∈ a.joins, j'.zone = j.zone ∧ (j'.state = j.state ∨ j'.state = .lost)

/-- What stays true when announcements lose zones and are displaced, and when the slots that this frees are offered. -/
structure Steady (I : Part → Prop) : Prop where
  records : ∀ p id f, Announcement.sheds f → I p → I (p.modAnn id f)
  granted : ∀ p id z, (p.zone z).ann = none → (∃ o ∈ (p.zone z).offers, o.id = id) → I p → I (p.grant id z)
  woken : ∀ p z, I p → I (p.wakeFor z)
  sent : ∀ p n, I p → I (p.note n)
  removed : ∀ (p : Part) id, I p → I { p with ann := { p.ann with records := p.ann.records.filter fun b => b.id != id } }

/-- A change of join states that loses zones only. -/
theorem Announcement.sheds_joins {f : Join → Join}
    (h : ∀ j, (f j).zone = j.zone ∧ ((f j).state = j.state ∨ (f j).state = .lost)) :
    Announcement.sheds fun a => { a with joins := a.joins.map f } where
  id _ := rfl
  stage _ := .inl rfl
  joins a j' hj' := by
    obtain ⟨j, hj, rfl⟩ := List.mem_map.mp hj'
    exact ⟨j, hj, h j⟩

theorem Announcement.sheds_lost (z : Nat) : Announcement.sheds fun a => a.setJoin z .lost :=
  Announcement.sheds_joins fun j => by split <;> simp

theorem Announcement.sheds_ended (c : EndCause) : Announcement.sheds fun a => a.ended c where
  id _ := rfl
  stage _ := .inr rfl
  joins _ j' hj' := ⟨j', hj', rfl, .inl rfl⟩

section
variable {I : Part → Prop} (hI : Steady I) {p : Part}
include hI

theorem Steady.offerZone (h : I p) (z : Nat) : I (p.offerZone z) := by
  unfold Part.offerZone
  split
  next => exact h
  next hfree =>
    split
    next o ho =>
      rw [Bool.or_eq_true, not_or] at hfree
      exact hI.granted p _ z (by simpa using hfree.1) ⟨o, List.mem_of_find?_eq_some ho, rfl⟩ h
    next => exact h

theorem Steady.offerNode (h : I p) (pos : Nat) : I (p.offerNode pos) :=
  List.foldlRecOn (motive := I) _ _ h fun q hq z _ => by
    split
    · exact hq
    · exact hI.offerZone hq z

theorem Steady.changeJoin (h : I p) (id z : Nat) : I (p.changeJoin id z .lost) := by
  have hjoin := hI.records p id _ (Announcement.sheds_lost z) h
  unfold Part.changeJoin
  split
  · exact hjoin
  · dsimp only
    split
    · exact hI.offerNode hjoin _
    · exact hjoin

theorem Steady.removeIfSettled (h : I p) (id : Nat) : I (p.removeIfSettled id) := by
  unfold Part.removeIfSettled Part.removeAnn
  (repeat' split)
  · exact hI.sent _ _ (hI.removed p id h)
  all_goals exact h

theorem Steady.testDisplaced (h : I p) (id : Nat) : I (p.testDisplaced id) := by
  rcases p.testDisplaced_cases id with heq | heq
  · rwa [heq]
  · rw [heq]
    refine hI.removeIfSettled ?_ id
    have hended := hI.records p id _ (Announcement.sheds_ended .displaced) h
    have hsettled : I ((p.modAnn id (·.ended .displaced)).settleEntries id) :=
      hI.records _ id _ (Announcement.sheds_joins fun j => by split <;> simp) hended
    unfold Part.noteAnn
    split
    · exact hI.sent _ _ hsettled
    · exact hsettled

/-- A zone is recorded LOST, and the record is displaced if it holds nothing more. -/
theorem Steady.loseJoin (h : I p) (id z : Nat) : I (p.loseJoin id z .lost) := hI.testDisplaced (hI.changeJoin h id z) id

theorem Steady.loseHeld (h : I p) (z : Nat) (held : Option AnnounceClaim) : I (p.loseHeld z held) := by
  unfold Part.loseHeld
  split
  · exact hI.loseJoin h _ z
  · exact h

theorem Steady.loseOffers (h : I p) (z : Nat) (os : List Offer) : I (p.loseOffers z os .lost) :=
  List.foldlRecOn (motive := I) os _ h fun _ hq o _ => hI.loseJoin hq o.id z

end

/-! ### Records that wait -/

/-- No record of the announcement table is QUEUED. -/
def Part.noneQueued (p : Part) : Prop := ∀ a ∈ p.ann.records, a.stage ≠ .queued

theorem Part.noneQueued_modAnn {p : Part} (h : p.noneQueued) (id : Nat) {f : Announcement → Announcement}
    (hf : ∀ a, (f a).stage = a.stage ∨ (f a).stage = .ending) : (p.modAnn id f).noneQueued := by
  intro a ha
  obtain ⟨b, hb, rfl⟩ := List.mem_map.mp ha
  split
  · rcases hf b with hs | hs <;> rw [hs]
    · exact h b hb
    · simp
  · exact h b hb

/-- The records of a part that grants a slot are those of before, or those with the zone JOINED. -/
theorem Part.ann_grant (p : Part) (id z : Nat) :
    (p.grant id z).ann = p.ann ∨ (p.grant id z).ann = (p.modAnn id fun a => a.setJoin z .joined).ann := by
  unfold Part.grant
  split
  · exact .inr (Part.ann_wakeFor _ z)
  · exact .inl rfl

theorem Part.noneQueued_grant {p : Part} (h : p.noneQueued) (id z : Nat) : (p.grant id z).noneQueued := by
  unfold Part.noneQueued
  rcases p.ann_grant id z with heq | heq <;> rw [heq]
  · exact h
  · exact Part.noneQueued_modAnn h id fun _ => .inl rfl

theorem steady_noneQueued : Steady Part.noneQueued where
  records _ id _ hf h := Part.noneQueued_modAnn h id hf.stage
  granted _ id z _ _ h := Part.noneQueued_grant h id z
  woken _ z h := by simpa [Part.noneQueued] using h
  sent _ _ h := h
  removed _ _ h := fun a ha => h a (List.mem_of_mem_filter ha)

/-! ### A zone that no announcement has or awaits -/

/-- No announcement has a zone, and none waits for it. -/
def Part.unannounced (z : Nat) (p : Part) : Prop := (p.zone z).ann = none ∧ (p.zone z).offers = []

theorem Part.zone_grant_ne {z y : Nat} (h : y ≠ z) (p : Part) (id : Nat) : (p.grant id y).zone z = p.zone z := by
  unfold Part.grant
  split
  · exact (Part.zone_of_arb (Part.arb_wakeFor _ y) z).trans (Part.zone_changeZone_ne h p _)
  · rfl

theorem steady_unannounced (z : Nat) : Steady (Part.unannounced z) where
  records _ _ _ _ h := h
  granted p id y _ hoffer h := by
    obtain ⟨o, ho, -⟩ := hoffer
    have hy : y ≠ z := by
      rintro rfl
      rw [h.2] at ho
      cases ho
    simpa only [Part.unannounced, Part.zone_grant_ne hy] using h
  woken _ y h := by simpa only [Part.unannounced, Part.zone_of_arb (Part.arb_wakeFor _ y)] using h
  sent _ _ h := h
  removed _ _ h := h

/-! ### A record that has a zone, awaits it, or has lost it -/

/-- An announcement has a zone or waits for it. -/
def Zone.concerns (x : Zone) (id : Nat) : Prop := (∃ c, x.ann = some c ∧ c.id = id) ∨ ∃ o ∈ x.offers, o.id = id

/-- Every record of an id has recorded a zone LOST. -/
def Part.recordedLost (z id : Nat) (p : Part) : Prop :=
  ∀ a ∈ p.ann.records, a.id = id → ∀ j ∈ a.joins, j.zone = z → j.state = .lost

theorem Part.recordedLost_modAnn {z id : Nat} {p : Part} (h : p.recordedLost z id) (n : Nat) {f : Announcement → Announcement}
    (hid : ∀ a, (f a).id = a.id)
    (hf : n = id → ∀ a, ∀ j' ∈ (f a).joins, j'.zone = z → j'.state = .lost ∨ ∃ j ∈ a.joins, j.zone = z ∧ j'.state = j.state) :
    (p.modAnn n f).recordedLost z id := by
  intro a ha haid j hj hjz
  obtain ⟨b, hb, rfl⟩ := List.mem_map.mp ha
  by_cases hbn : b.id = n
  · simp only [hbn, beq_self_eq_true, if_true, hid] at haid hj
    rcases hf haid b j hj hjz with hlost | ⟨j₀, hj₀, hz, hst⟩
    · exact hlost
    · rw [hst]; exact h b hb (hbn.trans haid) j₀ hj₀ hz
  · simp only [beq_eq_false_iff_ne.mpr hbn, Bool.false_eq_true, if_false] at haid hj
    exact h b hb haid j hj hjz

/-- A zone that is recorded LOST, for every record of the id. -/
theorem Part.recordedLost_setJoin (p : Part) (z id : Nat) : (p.modAnn id fun a => a.setJoin z .lost).recordedLost z id := by
  intro a ha haid j hj hjz
  obtain ⟨b, -, rfl⟩ := List.mem_map.mp ha
  by_cases hb : b.id = id
  · simp only [hb, beq_self_eq_true, if_true] at hj
    obtain ⟨j₀, -, rfl⟩ := List.mem_map.mp hj
    split
    · rfl
    next h => rw [if_neg h] at hjz; simp [hjz] at h
  · simp only [beq_eq_false_iff_ne.mpr hb, Bool.false_eq_true, if_false] at haid
    exact absurd haid hb

/-- A zone that is granted to one of those that wait for it concerns whom it concerned. -/
theorem Part.concerns_grant {p : Part} {z : Nat} (hz : z < 64) (hann : (p.zone z).ann = none) (id : Nat) {n : Nat}
    (h : (p.zone z).concerns n) : ((p.grant id z).zone z).concerns n := by
  unfold Part.grant
  split
  next a ha =>
    rw [Part.zone_of_arb (Part.arb_wakeFor _ z)]
    change (Part.zone (p.changeZone z _) z).concerns n
    rw [Part.zone_changeZone hz]
    obtain ⟨c, hc, -⟩ | ⟨o, ho, rfl⟩ := h
    · simp [hann] at hc
    · by_cases hid : o.id = id
      · have hgranted := Zone.ann_evaluate_granted (z := { p.zone z with
            ann := some ⟨.pending, a.output, id⟩, offers := (p.zone z).offers.filter fun o => o.id != id }) rfl
            (p.able z) (p.served z) p.now
        obtain ⟨c, hc, hpair⟩ := Option.map_eq_some_iff.mp hgranted
        exact .inl ⟨c, hc, (congrArg Prod.fst hpair).trans hid.symm⟩
      · refine .inr ⟨o, ?_, rfl⟩
        rw [Zone.offers_evaluate]
        exact List.mem_filter.mpr ⟨ho, by simpa using hid⟩
  next => exact h

/-- The records of an id have a zone, wait for it, or have recorded it LOST. -/
def Part.lostUnless (z id : Nat) (p : Part) : Prop := (p.zone z).concerns id ∨ p.recordedLost z id

theorem Part.recordedLost_grant {z id : Nat} {p : Part} (h : p.recordedLost z id) {n y : Nat} (hny : y ≠ z ∨ n ≠ id) :
    (p.grant n y).recordedLost z id := by
  unfold Part.recordedLost
  rcases p.ann_grant n y with heq | heq <;> rw [heq]
  · exact h
  · refine Part.recordedLost_modAnn h n (fun _ => rfl) fun hn a j' hj' hjz => ?_
    have hy : y ≠ z := hny.resolve_right (not_not.mpr hn)
    obtain ⟨j, hj, rfl⟩ := List.mem_map.mp hj'
    split at hjz
    next hjy => exact absurd hjz (by simpa [show j.zone = y by simpa using hjy] using hy)
    next hjy => exact .inr ⟨j, hj, hjz, by rw [if_neg hjy]⟩

theorem steady_lostUnless {z : Nat} (hz : z < 64) (id : Nat) : Steady (Part.lostUnless z id) where
  records p n f hf h := h.imp_right fun h => Part.recordedLost_modAnn h n hf.id fun _ a j' hj' hjz => by
    obtain ⟨j, hj, hzone, hst | hst⟩ := hf.joins a j' hj'
    · exact .inr ⟨j, hj, hzone.symm.trans hjz, hst⟩
    · exact .inl hst
  granted p n y hann hoffer h := by
    by_cases hy : y = z
    · subst hy
      rcases h with h | h
      · exact .inl (Part.concerns_grant hz hann n h)
      · by_cases hn : n = id
        · exact .inl (Part.concerns_grant hz hann n (.inr (hn ▸ hoffer)))
        · exact .inr (Part.recordedLost_grant h (.inr hn))
    · rcases h with h | h
      · exact .inl (by rwa [Part.zone_grant_ne hy])
      · exact .inr (Part.recordedLost_grant h (.inl hy))
  woken _ y h := by simpa only [Part.lostUnless, Part.recordedLost, Part.zone_of_arb (Part.arb_wakeFor _ y), Part.ann_wakeFor] using h
  sent _ _ h := h
  removed _ _ h := h.imp_right fun h a ha => h a (List.mem_of_mem_filter ha)

/-- Once an announcement has lost a zone, its records say so. -/
theorem Part.lostUnless_loseJoin {z : Nat} (hz : z < 64) (p : Part) (id : Nat) : (p.loseJoin id z .lost).lostUnless z id := by
  have hI := steady_lostUnless hz id
  have hjoin : (p.modAnn id fun a => a.setJoin z .lost).lostUnless z id := .inr (p.recordedLost_setJoin z id)
  refine hI.testDisplaced ?_ id
  unfold Part.changeJoin
  split
  · exact hjoin
  · dsimp only
    split
    · exact hI.offerNode hjoin _
    · exact hjoin

end Sys2Proof.Machine
end

section
/-! SUPPORT. DRILL claims in zones: what posting, changing and releasing them makes of each zone (R46, R47, R53, R89). -/

namespace Sys2Proof.Machine

/-! ### What every operation on announcements keeps -/

/-- What stays true whatever the announcement manager does: it changes records and offer lists, re-evaluates zones without
touching their DRILL slots, wakes nodes, hands commands and sends notices. -/
structure Firm (I : Part → Prop) : Prop where
  records : ∀ p id f, I p → I (p.modAnn id f)
  zones : ∀ (p : Part) z f, (∀ x : Zone, (f x).drill = x.drill) → I p → I (p.changeZone z f)
  offers : ∀ (p : Part) z (f : Zone → List Offer), I p → I (p.modZone z fun x => { x with offers := f x })
  woken : ∀ p z, I p → I (p.wakeFor z)
  line : ∀ (p : Part) l, I p → I { p with line := l }
  sent : ∀ p n, I p → I (p.note n)
  removed : ∀ (p : Part) id, I p → I { p with ann := { p.ann with records := p.ann.records.filter fun b => b.id != id } }

section
variable {I : Part → Prop} (hI : Firm I) {p : Part}
include hI

theorem Firm.grant (h : I p) (id z : Nat) : I (p.grant id z) := by
  unfold Part.grant
  split
  · exact hI.woken _ z (hI.records _ id _ (hI.zones p z _ (fun _ => rfl) h))
  · exact h

theorem Firm.enlist (h : I p) (id z : Nat) : I (p.enlist id z) := by
  unfold Part.enlist
  split
  · exact hI.records _ id _ (hI.offers p z _ h)
  · exact h

theorem Firm.claimsClear (before : Part) (h : I p) (z : Nat) : I (Part.claimsClear before p z) := by
  obtain ⟨l, heq⟩ := Part.claimsClear_line before p z
  rw [heq]
  exact hI.line p l h

theorem Firm.steady : Steady I where
  records p id f _ h := hI.records p id f h
  granted _ id z _ _ h := hI.grant h id z
  woken := hI.woken
  sent := hI.sent
  removed := hI.removed

/-- What holds once a zone is changed holds once it is revised. -/
theorem Firm.reviseZone {z : Nat} {f : Zone → Zone} (h : I (p.changeZone z f)) : I (p.reviseZone z f) := by
  unfold Part.reviseZone; dsimp only
  split
  · exact hI.claimsClear p (hI.steady.loseJoin h _ z) z
  · exact hI.claimsClear p h z

/-! ### Starts -/

theorem Firm.requestSlot (h : I p) (id z : Nat) : I (p.requestSlot id z) := by
  have hrolled : I (p.enrolled id z) := hI.records p id _ h
  unfold Part.requestSlot; dsimp only
  (repeat' split)
  · exact hrolled
  · exact hI.grant hrolled id z
  · exact hI.enlist hrolled id z
  · exact hI.steady.loseJoin (hI.grant hrolled id z) _ z
  · exact hI.enlist hrolled id z

theorem Firm.startAnn (h : I p) (id : Nat) : I (p.startAnn id) := by
  unfold Part.startAnn
  split
  next => exact h
  next a _ =>
    have hrequested : I ((p.modAnn id p.startRecord).each (selected 64 a.spec) fun p z => p.requestSlot id z) :=
      List.foldlRecOn (motive := I) _ _ (hI.records p id _ h) fun q hq z _ => hI.requestSlot hq id z
    refine hI.steady.testDisplaced ?_ id
    unfold Part.noteAnn
    split
    · exact hI.sent _ _ hrequested
    · exact hrequested

theorem Firm.startQueued (n : Nat) : ∀ {p : Part}, I p → I (p.startQueued n) := by
  induction n with
  | zero => exact fun h => h
  | succ n ih =>
    intro p h
    unfold Part.startQueued; dsimp only
    split
    · exact ih (hI.startAnn h _)
    · exact ih (hI.startAnn h _)
    · exact h

/-- The end of a step keeps what is firm. -/
theorem Firm.settle (h : I p) : I p.settle := hI.startQueued _ h

end

/-! ### Sites, displays and DRILL slots -/

theorem firm_sameSites (p₀ : Part) : Firm p₀.sameSites where
  records _ _ _ h := h.trans (Part.sameSites_of_runtime rfl rfl)
  zones _ z f _ h := h.trans (Part.sameSites_changeZone _ z f)
  offers _ _ _ h := h.trans (Part.sameSites_of_runtime rfl rfl)
  woken _ z h := h.trans (Part.sameSites_wakeFor _ z)
  line _ _ h := h.trans ⟨rfl, rfl, rfl, rfl⟩
  sent _ _ h := h.trans (Part.sameSites_of_runtime rfl rfl)
  removed _ _ h := h.trans (Part.sameSites_of_runtime rfl rfl)

@[simp] theorem Part.clk_wake (p : Part) (pos : Nat) : (p.wake pos).clk = p.clk := by
  unfold Part.wake; (repeat' split) <;> simp [apply_ite Part.clk]

@[simp] theorem Part.clk_wakeFor (p : Part) (z : Nat) : (p.wakeFor z).clk = p.clk := by
  unfold Part.wakeFor; (repeat' split) <;> simp

theorem firm_clk (c : ClockDriver) : Firm fun q => q.clk = c where
  records _ _ _ h := h
  zones _ _ _ _ h := h
  offers _ _ _ h := h
  woken _ z h := (Part.clk_wakeFor _ z).trans h
  line _ _ h := h
  sent _ _ h := h
  removed _ _ h := h

/-- What a DRILL claim was posted with. -/
def DrillClaim.asked (d : DrillClaim) : Nat × Nat := (d.pattern, d.program)

/-- What the DRILL claim of a zone was posted with. -/
def Zone.asked (x : Zone) : Option (Nat × Nat) := x.drill.map DrillClaim.asked

theorem Zone.asked_evaluate (x : Zone) (able served : Bool) (now : Nat) : (x.evaluate able served now).asked = x.asked := by
  rw [Zone.asked, Zone.drill_evaluate, Zone.drillAfter, Option.map_map]
  rfl

theorem Zone.drill_eq_none {x : Zone} : x.drill = none ↔ x.asked = none := by simp [Zone.asked]

theorem Zone.asked_pattern (x : Zone) : x.drill.map (·.pattern) = x.asked.map Prod.fst := by
  rw [Zone.asked, Option.map_map]; rfl

theorem Part.asked_changeZone {p : Part} {z y : Nat} (hz : z < 64) {f : Zone → Zone}
    (hf : y = z → (f (p.zone z)).asked = (p.zone z).asked) : ((p.changeZone y f).zone z).asked = (p.zone z).asked := by
  by_cases hy : y = z
  · subst hy
    rw [Part.zone_changeZone hz, Zone.asked_evaluate, hf rfl]
  · rw [Part.zone_changeZone_ne hy]

theorem Part.zone_setOffers (p : Part) (y z : Nat) (f : Zone → List Offer) :
    ((p.modZone y fun x => { x with offers := f x }).zone z).drill = (p.zone z).drill ∧
      ((p.modZone y fun x => { x with offers := f x }).zone z).commanded = (p.zone z).commanded :=
  ⟨Tab.get_modify_keeps _ _ _ _ _ Zone.drill fun _ _ => rfl, Tab.get_modify_keeps _ _ _ _ _ Zone.commanded fun _ _ => rfl⟩

theorem firm_asked {z : Nat} (hz : z < 64) (d : Option (Nat × Nat)) : Firm fun q => (q.zone z).asked = d where
  records _ _ _ h := h
  zones _ _ _ hf h := (Part.asked_changeZone hz fun _ => by rw [Zone.asked, hf]; rfl).trans h
  offers p y f h := by rw [Zone.asked, (p.zone_setOffers y z f).1]; exact h
  woken _ y h := by rw [Part.zone_of_arb (Part.arb_wakeFor _ y)]; exact h
  line _ _ h := h
  sent _ _ h := h
  removed _ _ h := h

/-- The DRILL claim of a zone, if it has one, sounds where the zone is able to sound, and waits elsewhere. -/
def Zone.ruled (able : Bool) (x : Zone) : Prop :=
  ∀ d, x.drill = some d → d.state = (if able then .sounding else .pending) ∧ (able = true → x.commanded = .pattern d.pattern)

theorem Zone.ruled_evaluate (x : Zone) (able served : Bool) (now : Nat) : (x.evaluate able served now).ruled able := by
  intro d hd
  cases hx : x.drill with
  | none => simp [Zone.drill_evaluate, Zone.drillAfter, hx] at hd
  | some e =>
    cases able with
    | true =>
      obtain ⟨hcommanded, hdrill, -⟩ := Zone.evaluate_drill (served := served) (now := now) hx
      obtain rfl : { e with state := .sounding } = d := Option.some.inj (hdrill.symm.trans hd)
      exact ⟨rfl, fun _ => hcommanded⟩
    | false =>
      rw [Zone.drill_evaluate, Zone.select_unable, Zone.drillAfter, hx] at hd
      obtain rfl : { e with state := .pending } = d := by simpa using hd
      exact ⟨rfl, by simp⟩

/-- The DRILL claim of a zone of the part is as the sounding rule has it. -/
def Part.drillRuled (z : Nat) (p : Part) : Prop := (p.zone z).ruled (p.able z)

theorem Part.drillRuled_changeZone {p : Part} {z : Nat} (hz : z < 64) (y : Nat) (f : Zone → Zone) (h : y = z ∨ p.drillRuled z) :
    (p.changeZone y f).drillRuled z := by
  unfold Part.drillRuled
  rw [(p.sameSites_changeZone y f).able]
  by_cases hy : y = z
  · subst hy
    rw [Part.zone_changeZone hz]
    exact Zone.ruled_evaluate _ _ _ _
  · rw [Part.zone_changeZone_ne hy]
    exact h.resolve_left hy

theorem firm_drillRuled {z : Nat} (hz : z < 64) : Firm (Part.drillRuled z) where
  records _ _ _ h := h
  zones _ y f _ h := Part.drillRuled_changeZone hz y f (.inr h)
  offers p y f h := by
    obtain ⟨hdrill, hcommanded⟩ := p.zone_setOffers y z f
    unfold Part.drillRuled Zone.ruled
    rw [hdrill, hcommanded]
    exact h
  woken p y h := by
    unfold Part.drillRuled
    rw [Part.zone_of_arb (Part.arb_wakeFor _ y), (p.sameSites_wakeFor y).able]
    exact h
  line _ _ h := h
  sent _ _ h := h
  removed _ _ h := h

/-! ### DRILL claims released -/

/-- No zone holds a DRILL claim. -/
def Part.noDrills (p : Part) : Prop := ∀ z < 64, (p.zone z).drill = none

theorem firm_noDrills : Firm Part.noDrills where
  records _ _ _ h := h
  zones _ y f hf h z hz := Zone.drill_eq_none.mpr ((firm_asked hz none).zones _ y f hf (Zone.drill_eq_none.mp (h z hz)))
  offers _ y f h z hz := Zone.drill_eq_none.mpr ((firm_asked hz none).offers _ y f (Zone.drill_eq_none.mp (h z hz)))
  woken _ y h z hz := by rw [Part.zone_of_arb (Part.arb_wakeFor _ y)]; exact h z hz
  line _ _ h := h
  sent _ _ h := h
  removed _ _ h := h

theorem Part.drill_releaseDrill {p : Part} {z : Nat} (hz : z < 64) (y : Nat) (h : y = z ∨ (p.zone z).drill = none) :
    ((p.releaseDrill y).zone z).drill = none := by
  refine Zone.drill_eq_none.mpr ((firm_asked hz none).reviseZone ?_)
  by_cases hy : y = z
  · subst hy
    rw [Part.zone_changeZone hz, Zone.asked_evaluate]; rfl
  · rw [Part.zone_changeZone_ne hy]
    exact Zone.drill_eq_none.mp (h.resolve_left hy)

/-- After the release no zone holds a DRILL claim. -/
theorem Part.noDrills_releaseDrills (p : Part) : p.releaseDrills.noDrills := by
  intro z hz
  by_cases hz' : z ∈ p.drillZones
  · exact Part.each_brings (needed := fun _ => True) (brought := fun q : Part => (q.zone z).drill = none) (fun _ _ _ => trivial)
      (fun q y h => Part.drill_releaseDrill hz y (.inr h)) (fun q _ => Part.drill_releaseDrill hz z (.inl rfl)) hz' p trivial
  · refine List.foldlRecOn (motive := fun q : Part => (q.zone z).drill = none) _ _ ?_ fun q h y _ => Part.drill_releaseDrill hz y (.inr h)
    simpa [Part.drillZones, upTo, hz] using hz'

/-- With no DRILL claim held there is nothing to release. -/
theorem Part.releaseDrills_none {p : Part} (h : p.noDrills) : p.releaseDrills = p := by
  have hnone : p.drillZones = [] := List.filter_eq_nil_iff.mpr fun z hz => by simp [h z (by simpa [upTo] using hz)]
  rw [Part.releaseDrills, hnone]; rfl

/-! ### The pattern of every DRILL claim changed -/

/-- A DRILL claim's pattern replaced. -/
def Zone.repatterned (n : Nat) (x : Zone) : Zone := { x with drill := x.drill.map fun d => { d with pattern := n } }

theorem Zone.asked_repatterned (x : Zone) (n : Nat) : (x.repatterned n).asked = x.asked.map fun a => (n, a.2) := by
  simp only [Zone.asked, Zone.repatterned, Option.map_map]; rfl

/-- The DRILL slots of every zone stand, but for the pattern, which is the new one in the zones of a list. -/
theorem Part.asked_changeDrills (n : Nat) {z : Nat} (hz : z < 64) (l : List Nat) (p : Part) :
    ((p.each l fun q y => q.changeDrill y n).zone z).asked =
      if z ∈ l then (p.zone z).asked.map fun a => (n, a.2) else (p.zone z).asked := by
  have step : ∀ (q : Part) y, ((q.changeDrill y n).zone z).asked =
      if y = z then (q.zone z).asked.map fun a => (n, a.2) else (q.zone z).asked := fun q y => by
    refine (firm_asked hz _).reviseZone ?_
    split
    next hy =>
      subst hy
      rw [Part.zone_changeZone hz, Zone.asked_evaluate]
      exact Zone.asked_repatterned _ n
    next hy => rw [Part.zone_changeZone_ne hy]
  induction l generalizing p with
  | nil => rfl
  | cons y l ih =>
    rw [show p.each (y :: l) (fun q y => q.changeDrill y n) = (p.changeDrill y n).each l fun q y => q.changeDrill y n from rfl,
      ih, step]
    by_cases hy : y = z
    · subst hy
      simp only [if_true, List.mem_cons, true_or]
      split
      · rw [Option.map_map]; rfl
      · rfl
    · simp [hy, Ne.symm hy]

/-- A change of pattern takes no slot from an announcement that waits there (R46, R47). -/
theorem Part.changeDrill_silent {p : Part} {z : Nat} (h : ∀ a, (p.zone z).ann = some a → a.state = .pending)
    (n : Nat) : p.changeDrill z n = Part.claimsClear p (p.changeZone z (Zone.repatterned n)) z := by
  have heq : p.changeDrill z n = p.reviseZone z (Zone.repatterned n) := rfl
  rw [heq]
  cases ha : (p.zone z).ann with
  | none => exact Part.reviseZone_held (.inl ha)
  | some a =>
    refine Part.reviseZone_held (.inr ?_)
    by_cases hz : z < 64
    · rw [Part.zone_changeZone hz, Zone.ann_evaluate, Zone.annAfter]
      simp only [Zone.repatterned, ha, h a ha]
      cases Zone.select _ _ _ <;> simp
    · simp [Part.zone, Tab.get, hz, Zone.reset] at ha

end Sys2Proof.Machine
end

section
/-! SUPPORT. The posting of DRILL claims to the zones of a list: which hold one, and what becomes of the announcements that had
them or waited for them (R46, R53, R89). -/

namespace Sys2Proof.Machine

/-! ### One zone -/

/-- A zone that takes a DRILL claim over every announcement. -/
def Zone.drilled (n g : Nat) (x : Zone) : Zone := { x with ann := none, drill := some ⟨.pending, n, g⟩, offers := [] }

/-- A DRILL claim posted into a zone. -/
def Part.post (n g : Nat) (p : Part) (z : Nat) : Part := (p.postDrill z n g).1

section
variable {p : Part} {z n g : Nat}

theorem Part.post_closed (h : p.closedZone z = true) : p.post n g z = p := by simp [Part.post, Part.postDrill, h]

theorem Part.post_open (h : p.closedZone z = false) : p.post n g z =
    (((p.changeZone z (Zone.drilled n g)).wakeFor z).loseHeld z (p.zone z).ann).loseOffers z (p.zone z).offers .lost := by
  simp only [Part.post, Part.postDrill, h]; rfl

theorem Part.postDrill_held (p : Part) (z n g : Nat) : (p.postDrill z n g).2 = !p.closedZone z := by
  unfold Part.postDrill; split <;> simp [*]

/-- What the announcements' losses keep holds after a posting if it holds once the zone is changed. -/
theorem Steady.post {I : Part → Prop} (hI : Steady I) (h : I p)
    (hchange : p.closedZone z = false → I (p.changeZone z (Zone.drilled n g))) : I (p.post n g z) := by
  cases hz : p.closedZone z with
  | true => rwa [Part.post_closed hz]
  | false =>
    rw [Part.post_open hz]
    exact hI.loseOffers (hI.loseHeld (hI.woken _ z (hchange hz)) z _) z _

theorem Part.sameSites_post (p : Part) (n g z : Nat) : p.sameSites (p.post n g z) :=
  (firm_sameSites p).steady.post (.refl p) fun _ => p.sameSites_changeZone z _

theorem Part.asked_post_ne {y : Nat} (hz : z < 64) (h : y ≠ z ∨ p.closedZone y = true) :
    ((p.post n g y).zone z).asked = (p.zone z).asked :=
  (firm_asked hz _).steady.post rfl fun hopen => by
    have hy : y ≠ z := h.resolve_right (by simp [hopen])
    rw [Part.zone_changeZone_ne hy]

/-- An open zone that is posted to holds the claim. -/
theorem Part.asked_post (hz : z < 64) (h : p.closedZone z = false) : ((p.post n g z).zone z).asked = some (n, g) := by
  have hI := (firm_asked hz (some (n, g))).steady
  rw [Part.post_open h]
  refine hI.loseOffers (hI.loseHeld (hI.woken _ z ?_) z _) z _
  rw [Part.zone_changeZone hz, Zone.asked_evaluate]
  rfl

theorem Part.drillRuled_post {y : Nat} (hz : z < 64) (h : p.drillRuled z) : (p.post n g y).drillRuled z :=
  (firm_drillRuled hz).steady.post h fun _ => Part.drillRuled_changeZone hz y _ (.inr h)

theorem Part.drillRuled_post_self (hz : z < 64) (h : p.closedZone z = false) : (p.post n g z).drillRuled z := by
  have hI := (firm_drillRuled hz).steady
  rw [Part.post_open h]
  exact hI.loseOffers (hI.loseHeld (hI.woken _ z (Part.drillRuled_changeZone hz z _ (.inl rfl))) z _) z _

theorem Part.noneQueued_post (h : p.noneQueued) : (p.post n g z).noneQueued := steady_noneQueued.post h fun _ => h

/-- The zone as it is changed has no announcement, and no other zone gains one. -/
theorem Part.unannounced_drilled {y : Nat} (hz : z < 64) (h : y = z ∨ p.unannounced z) :
    (p.changeZone y (Zone.drilled n g)).unannounced z := by
  unfold Part.unannounced
  by_cases hy : y = z
  · subst hy
    rw [Part.zone_changeZone hz, Zone.ann_evaluate, Zone.offers_evaluate]
    exact ⟨rfl, rfl⟩
  · rw [Part.zone_changeZone_ne hy]
    exact h.resolve_left hy

theorem Part.unannounced_post {y : Nat} (hz : z < 64) (h : p.unannounced z) : (p.post n g y).unannounced z :=
  (steady_unannounced z).post h fun _ => Part.unannounced_drilled hz (.inr h)

theorem Part.unannounced_post_self (hz : z < 64) (h : p.closedZone z = false) : (p.post n g z).unannounced z := by
  have hI := steady_unannounced z
  rw [Part.post_open h]
  exact hI.loseOffers (hI.loseHeld (hI.woken _ z (Part.unannounced_drilled hz (.inl rfl))) z _) z _

/-- Each announcement that waited for a zone and has lost it has recorded so. -/
theorem Part.lostUnless_loseOffers (hz : z < 64) (p : Part) {os : List Offer} {o : Offer} (ho : o ∈ os) :
    (p.loseOffers z os .lost).lostUnless z o.id := by
  have hstep : ∀ (q : Part) (o' : Offer), q.lostUnless z o.id → (q.loseJoin o'.id z .lost).lostUnless z o.id :=
    fun q o' hq => (steady_lostUnless hz o.id).loseJoin hq o'.id z
  exact Part.each_brings (needed := fun _ => True) (brought := Part.lostUnless z o.id) (fun _ _ _ => trivial) hstep
    (fun q _ => Part.lostUnless_loseJoin hz q o.id) ho p trivial

/-- The announcement that had a zone that is posted to, and those that waited for it, record it LOST. -/
theorem Part.lostUnless_post {y id : Nat} (hz : z < 64) (h : p.lostUnless z id) : (p.post n g y).lostUnless z id := by
  have hI := steady_lostUnless hz id
  cases hopen : p.closedZone y with
  | true => rwa [Part.post_closed hopen]
  | false =>
    have hlost : (p.changeZone y (Zone.drilled n g)).lostUnless z id → (p.post n g y).lostUnless z id :=
      fun h => hI.post ‹_› fun _ => h
    by_cases hy : y = z
    · subst hy
      rcases h with h | h
      · rw [Part.post_open hopen]
        obtain ⟨c, hc, rfl⟩ | ⟨o, ho, rfl⟩ := h
        · rw [hc]
          exact hI.loseOffers (Part.lostUnless_loseJoin hz _ c.id) y _
        · exact Part.lostUnless_loseOffers hz _ ho
      · exact hlost (.inr h)
    · refine hlost (h.imp_left fun h => ?_)
      rwa [Part.zone_changeZone_ne hy]

/-- A posting where no announcement has the zone or awaits it sends nothing. -/
theorem Part.post_unannounced (h : p.unannounced z) : p.post n g z =
    if p.closedZone z = true then p else (p.changeZone z (Zone.drilled n g)).wakeFor z := by
  obtain ⟨hann, hoffers⟩ := h
  cases hz : p.closedZone z with
  | true => rw [Part.post_closed hz]; rfl
  | false => rw [Part.post_open hz, hann, hoffers]; rfl

theorem Part.says_post (h : p.unannounced z) : p.says (p.post n g z) [] := by
  rw [Part.post_unannounced h]
  split
  · exact Part.says_nil rfl rfl
  · exact Part.says_nil (by simp) (by simp)

end

/-! ### The zones of a list -/

section
variable (n g : Nat) (zs : List Nat) (p : Part)

theorem Part.sameSites_posts : p.sameSites (p.each zs (Part.post n g)) :=
  List.foldlRecOn (motive := p.sameSites) zs _ (.refl p) fun q hq z _ => hq.trans (q.sameSites_post n g z)

theorem Part.core_posts : (p.each zs (Part.post n g)).core = p.core :=
  Part.core_each _ (fun q z => Part.core_postDrill q z n g) zs p

/-- Silent where none of the zones has or awaits an announcement. -/
theorem Part.says_posts (h : ∀ z ∈ zs, z < 64 ∧ p.unannounced z) : p.says (p.each zs (Part.post n g)) [] := by
  refine Part.says_eachZone (good := fun x => x.ann = none ∧ x.offers = []) (fun q z hz => Part.says_post hz)
    (fun q z _ y hy hgood => Part.unannounced_post hy hgood) zs p h

variable {p zs} {z : Nat} (hz : z < 64)
include hz

/-- A zone that is not posted to, or that refuses the claim, keeps what it had. -/
theorem Part.asked_posts_kept (h : ¬ (z ∈ zs ∧ p.closedZone z = false)) :
    ((p.each zs (Part.post n g)).zone z).asked = (p.zone z).asked := by
  have keeps := List.foldlRecOn (motive := fun q : Part => p.sameSites q ∧ (q.zone z).asked = (p.zone z).asked) zs (Part.post n g)
    ⟨.refl p, rfl⟩ fun q hq y hy => ?_
  · exact keeps.2
  · obtain ⟨hsites, hasked⟩ := hq
    refine ⟨hsites.trans (q.sameSites_post n g y), (Part.asked_post_ne hz ?_).trans hasked⟩
    by_cases hyz : y = z
    · subst hyz
      exact .inr (by rw [hsites.closedZone]; simpa [hy] using h)
    · exact .inl hyz

/-- An open zone of the list comes to hold the claim, as the sounding rule has it. -/
theorem Part.asked_posts (hmem : z ∈ zs) (hopen : p.closedZone z = false) :
    ((p.each zs (Part.post n g)).zone z).asked = some (n, g) ∧ (p.each zs (Part.post n g)).drillRuled z := by
  have hholds := Part.each_brings (F := Part.post n g) (needed := p.sameSites)
    (brought := fun q => p.sameSites q ∧ (q.zone z).asked = some (n, g) ∧ q.drillRuled z)
    (fun q y hq => hq.trans (q.sameSites_post n g y)) (fun q y hq => ?_) (fun q hq => ?_) hmem p (.refl p)
  · exact hholds.2
  · obtain ⟨hsites, hasked, hruled⟩ := hq
    refine ⟨hsites.trans (q.sameSites_post n g y), ?_, Part.drillRuled_post hz hruled⟩
    by_cases hy : y = z
    · subst hy
      exact Part.asked_post hz (by rw [hsites.closedZone]; exact hopen)
    · exact (Part.asked_post_ne hz (.inl hy)).trans hasked
  · have hopen' : q.closedZone z = false := by rw [hq.closedZone]; exact hopen
    exact ⟨hq.trans (q.sameSites_post n g z), Part.asked_post hz hopen', Part.drillRuled_post_self hz hopen'⟩

/-- No announcement has an open zone of the list any longer, or waits for it. -/
theorem Part.unannounced_posts (hmem : z ∈ zs) (hopen : p.closedZone z = false) :
    (p.each zs (Part.post n g)).unannounced z :=
  Part.each_brings (F := Part.post n g) (needed := p.sameSites) (brought := Part.unannounced z)
    (fun q y hq => hq.trans (q.sameSites_post n g y)) (fun q y hq => Part.unannounced_post hz hq)
    (fun q hq => Part.unannounced_post_self hz (by rw [hq.closedZone]; exact hopen)) hmem p (.refl p)

/-- The announcements that had an open zone of the list, or waited for it, have recorded it LOST. -/
theorem Part.recordedLost_posts (hmem : z ∈ zs) (hopen : p.closedZone z = false) {id : Nat} (h : (p.zone z).concerns id) :
    (p.each zs (Part.post n g)).recordedLost z id := by
  have hlost : (p.each zs (Part.post n g)).lostUnless z id :=
    List.foldlRecOn (motive := Part.lostUnless z id) zs _ (.inl h) fun q hq y _ => Part.lostUnless_post hz hq
  obtain ⟨hann, hoffers⟩ := Part.unannounced_posts n g hz hmem hopen
  refine hlost.resolve_left ?_
  rintro (⟨c, hc, -⟩ | ⟨o, ho, -⟩)
  · simp [hann] at hc
  · simp [hoffers] at ho

end

/-! ### A posting of the drill timer -/

/-- The drill timer's posting is one to each zone of its targets; the zones that are open are claimed, and the others refused. -/
theorem Part.postDrills_eq (p : Part) (r : DrillRun) (n : Nat) : p.postDrills r n =
    (p.each (p.drillTargets r) (Part.post n r.program), ((p.drillTargets r).filter fun z => !p.closedZone z).length,
      (p.drillTargets r).length - ((p.drillTargets r).filter fun z => !p.closedZone z).length) := by
  have htargets : (((r.timers.filter (p.postsTo r)).map (·.building)).flatMap fun b => zonesOf (p.building b).zones) =
      p.drillTargets r := by
    simp only [Part.drillTargets, List.flatMap_map, zonesOf, selected, upTo, List.any_cons, List.any_nil, Bool.or_false]
    rfl
  have walk : ∀ (zs : List Nat) (q : Part) (c : Nat × Nat), p.sameSites q →
      zs.foldl (fun acc z => let x := acc.1.postDrill z n r.program
        if x.2 then (x.1, acc.2.1 + 1, acc.2.2) else (x.1, acc.2.1, acc.2.2 + 1)) (q, c) =
      (q.each zs (Part.post n r.program), c.1 + (zs.filter fun z => !p.closedZone z).length,
        c.2 + (zs.length - (zs.filter fun z => !p.closedZone z).length)) := by
    intro zs
    induction zs with
    | nil => exact fun q c _ => rfl
    | cons z zs ih =>
      intro q c hq
      have hle := List.length_filter_le (fun z => !p.closedZone z) zs
      rw [List.foldl_cons]; dsimp only
      rw [Part.postDrill_held, hq.closedZone]
      cases hz : p.closedZone z <;>
        refine (ih (q.post n r.program z) _ (hq.trans (q.sameSites_post n _ z))).trans (Prod.ext rfl (Prod.ext ?_ ?_)) <;>
        simp [hz] <;> omega
  unfold Part.postDrills; dsimp only
  rw [htargets, walk _ p (0, 0) (.refl p), Nat.zero_add, Nat.zero_add]

theorem Part.drillTargets_lt {p : Part} {r : DrillRun} {z : Nat} (h : z ∈ p.drillTargets r) : z < 64 := by
  obtain ⟨_, -, hz⟩ := List.mem_flatMap.mp h
  exact List.mem_range.mp (List.mem_of_mem_filter hz)

/-- What a posting to the zones of a list makes of them stays, until the end of the step, while zones and records stand. -/
theorem Part.drillsPosted_settle {p q : Part} {n g : Nat} {zs : List Nat} (harb : q.arb = (p.each zs (Part.post n g)).arb)
    (hann : q.ann = (p.each zs (Part.post n g)).ann) (hsites : p.sameSites q) : p.drillsPosted q.settle zs n g := by
  intro z hz
  have hzone : q.zone z = (p.each zs (Part.post n g)).zone z := Part.zone_of_arb harb z
  dsimp only
  refine ⟨fun hkept => ?_, fun hposted => ?_⟩
  · rw [Zone.asked_pattern, Zone.asked_pattern]
    have hasked : (q.settle.zone z).asked = (p.zone z).asked :=
      (firm_asked hz _).settle (by rw [hzone]; exact Part.asked_posts_kept n g hz hkept)
    rw [hasked]
  · obtain ⟨hmem, hopen⟩ := hposted
    obtain ⟨hasked, hruled⟩ := Part.asked_posts n g hz hmem hopen
    have hasked' : (q.settle.zone z).asked = some (n, g) := (firm_asked hz _).settle (by rw [hzone]; exact hasked)
    have hruled' : q.settle.drillRuled z := (firm_drillRuled hz).settle (by
      unfold Part.drillRuled at hruled ⊢
      rw [hzone, hsites.able, ← (Part.sameSites_posts n g zs p).able]
      exact hruled)
    have hable : q.settle.able z = p.able z := congrFun ((firm_sameSites p).settle hsites).able z
    obtain ⟨d, hd, hdasked⟩ := Option.map_eq_some_iff.mp hasked'
    obtain ⟨hstate, hcommanded⟩ := hruled' d hd
    obtain ⟨state, pattern, program⟩ := d
    obtain ⟨rfl, rfl⟩ := Prod.mk.inj hdasked
    rw [hable] at hstate hcommanded
    refine ⟨by rw [hd]; exact congrArg _ (congrArg (DrillClaim.mk · _ _) hstate), hcommanded, fun hnone => ?_⟩
    have hnone' : q.noneQueued := by
      unfold Part.noneQueued
      rw [hann]
      exact List.foldlRecOn (motive := Part.noneQueued) zs _ hnone fun _ hq _ _ => Part.noneQueued_post hq
    rw [Part.settle_eq (Part.settled_of_none_queued hnone'), hzone, hann]
    obtain ⟨hfree, hempty⟩ := Part.unannounced_posts _ _ hz hmem hopen
    exact ⟨hfree, hempty, fun a ha hconcerns => Part.recordedLost_posts _ _ hz hmem hopen hconcerns a ha rfl⟩

end Sys2Proof.Machine
end

section
/-! SUPPORT. The run record: what each operation of the drill timer makes of it, of the drill records and of the displays, and
what it leaves (R84 to R99). -/

namespace Sys2Proof.Machine

/-! ### The drill timer and the rest of the core -/

/-- What leaves the core but for the drill timer leaves the core of the part with the timer that it comes to. -/
theorem Part.core_of_offDrill {p q : Part} (h : q.offDrill = p.offDrill) : q.core = { p with drill := q.drill }.core := by
  simp only [Part.offDrill, Prod.mk.injEq] at h
  obtain ⟨h1, h2, h3, h4, h5, h6, h7, h8, h9⟩ := h
  simp only [Part.core, h1, h2, h3, h4, h5, h6, h7, h8, h9]

theorem Part.drill_of_core {p q : Part} (h : q.core = p.core) : q.drill = p.drill := by
  obtain ⟨-, -, -, -, -, hdrill⟩ := Part.core_fields h; exact hdrill

theorem Part.now_of_core {p q : Part} (h : q.core = p.core) : q.now = p.now := by
  obtain ⟨hnow, -⟩ := Part.core_fields h; exact hnow

@[simp] theorem Part.drill_settle (p : Part) : p.settle.drill = p.drill := Part.drill_of_core p.core_settle

@[simp] theorem Part.core_releaseDrills (p : Part) : p.releaseDrills.core = p.core :=
  Part.core_each _ (fun q z => q.core_releaseDrill z) _ p

@[simp] theorem Part.drill_releaseDrills (p : Part) : p.releaseDrills.drill = p.drill := Part.drill_of_core p.core_releaseDrills

@[simp] theorem Part.now_releaseDrills (p : Part) : p.releaseDrills.now = p.now := Part.now_of_core p.core_releaseDrills

@[simp] theorem Part.offDrill_releaseDrills (p : Part) : p.releaseDrills.offDrill = p.offDrill :=
  Part.offDrill_of_core p.core_releaseDrills

/-! ### The run record -/

/-- The part with a run record in place. -/
def Part.withRun (p : Part) (r : DrillRun) : Part := { p with drill := { p.drill with run := some r } }

@[simp] theorem Part.run_withRun (p : Part) (r : DrillRun) : (p.withRun r).drill.run = some r := rfl

@[simp] theorem Part.offDrill_withRun (p : Part) (r : DrillRun) : (p.withRun r).offDrill = p.offDrill := rfl

theorem Part.modRun_eq {p : Part} {r : DrillRun} (h : p.drill.run = some r) (f : DrillRun → DrillRun) :
    p.modRun f = p.withRun (f r) := by simp [Part.modRun, Part.withRun, h]

theorem Part.withRun_self {p : Part} {r : DrillRun} (h : p.drill.run = some r) : p.withRun r = p := by
  simp [Part.withRun, ← h]

theorem Part.enterPhase_eq {p : Part} {r : DrillRun} (h : p.drill.run = some r) (ph : DrillPhase) :
    p.enterPhase ph = p.withRun { r with phase := ph, phaseStart := p.now } := Part.modRun_eq h _

/-! ### Displays -/

@[simp] theorem Part.display_keepDisplay (p : Part) (pos y : Nat) : (p.keepDisplay pos).display y = p.display y := by
  unfold Part.keepDisplay; dsimp only; split <;> rfl

theorem Part.display_modDisplay {pos : Nat} (h : pos < 24) (p : Part) (f : Display → Display) :
    (p.modDisplay pos f).display pos = f (p.display pos) := Tab.get_modify h _ _ _

theorem Part.display_modDisplay_ne {pos y : Nat} (h : pos ≠ y) (p : Part) (f : Display → Display) :
    (p.modDisplay pos f).display y = p.display y := Tab.get_modify_ne h _ _ _

/-- A display that is listed, or withdrawn, and every other one as it was. -/
theorem Part.drill_changeDisplay (p : Part) (on : Bool) (pos : Nat) {y : Nat} (hy : y < 24) :
    ((p.changeDisplay pos fun d => { d with drill := on }).display y).drill =
      if pos = y then on else (p.display y).drill := by
  have hmod : ((p.modDisplay pos fun d => { d with drill := on }).display y).drill =
      if pos = y then on else (p.display y).drill := by
    split
    next h => subst h; rw [Part.display_modDisplay hy]
    next h => rw [Part.display_modDisplay_ne h]
  unfold Part.changeDisplay; dsimp only
  split
  · rw [Part.display_keepDisplay, ← hmod]
    exact Tab.get_modify_keeps _ _ _ _ _ Display.drill fun _ _ => rfl
  · exact hmod

theorem Part.drill_displayList (on : Bool) {y : Nat} (hy : y < 24) (l : List Nat) : ∀ p : Part,
    ((p.displayList on l).display y).drill = if y ∈ l then on else (p.display y).drill := by
  induction l with
  | nil => exact fun p => rfl
  | cons pos l ih =>
    intro p
    refine (ih _).trans ?_
    rw [Part.drill_changeDisplay p on pos hy]
    by_cases h : pos = y
    · simp [h]
    · simp [h, Ne.symm h]

/-- The display list reaches displays and hands commands, and touches nothing else. -/
theorem Part.displayList_touches (on : Bool) (l : List Nat) (p : Part) :
    ∃ c e, p.displayList on l = { p with clk := c, line := e } := by
  refine List.foldlRecOn (motive := fun q => ∃ c e, q = { p with clk := c, line := e }) l _ ⟨p.clk, p.line, rfl⟩ fun q hq pos _ => ?_
  obtain ⟨c, e, rfl⟩ := hq
  unfold Part.changeDisplay Part.keepDisplay; dsimp only
  (repeat' split) <;> exact ⟨_, _, rfl⟩

/-- The nodes that may go quiet after a drill are handed commands, and nothing else is touched. -/
theorem Part.endRun_touches (p : Part) (r : DrillRun) :
    ∃ e, p.endRun r = { p with drill := { p.drill with run := none }, line := e } := by
  refine List.foldlRecOn (motive := fun q => ∃ e, q = { p with drill := { p.drill with run := none }, line := e }) _ _
    ⟨p.line, rfl⟩ fun q hq pos _ => ?_
  obtain ⟨e, rfl⟩ := hq
  unfold Part.quietIfInside Part.sendQuiet
  (repeat' split) <;> exact ⟨_, rfl⟩

/-! ### The end of a drill -/

/-- The drill timer with a record written, of which it keeps four, and no run (R97, R98). -/
def DrillTimer.closed (d : DrillTimer) (x : DrillRecord) : DrillTimer :=
  { d with run := none, records := (d.records ++ [x]).drop ((d.records ++ [x]).length - 4) }

theorem DrillTimer.records_closed_length (d : DrillTimer) (x : DrillRecord) : (d.closed x).records.length ≤ 4 := by
  simp only [DrillTimer.closed, List.length_drop]; omega

theorem DrillTimer.last_closed (d : DrillTimer) (x : DrillRecord) : (d.closed x).records.getLast? = some x := by
  rw [DrillTimer.closed, List.getLast?_drop, if_neg (by simp), List.getLast?_concat]

/-- A drill closes: no display shows it, its record is written and reported, and there is no run any longer. -/
theorem Part.closeDrill_eq {p : Part} {r : DrillRun} (h : p.drill.run = some r) (cause : DrillEnd) : ∃ c e,
    p.closeDrill cause = { p with
      clk := c, line := e, drill := p.drill.closed (r.record cause)
      outbox := p.outbox ++ [.notice (.drillResult (r.record cause))] } ∧
    ∀ pos < 24, ((p.closeDrill cause).display pos).drill = false := by
  obtain ⟨c, e, hlist⟩ := Part.displayList_touches false p.displayListed p
  have hdisplay : ∀ pos < 24, ((p.displayList false p.displayListed).display pos).drill = false := fun pos hpos => by
    rw [Part.drill_displayList false hpos]
    split
    · rfl
    next hnot => simpa [Part.displayListed, upTo, hpos] using hnot
  unfold Part.closeDrill
  rw [h]
  dsimp only
  rw [hlist] at hdisplay ⊢
  obtain ⟨e', hend⟩ := Part.endRun_touches (Part.note { p with clk := c, line := e, drill := { p.drill with
      records := (p.drill.records ++ [r.record cause]).drop ((p.drill.records ++ [r.record cause]).length - 4) } }
    (.drillResult (r.record cause))) r
  rw [hend]
  exact ⟨c, e', rfl, hdisplay⟩

/-! ### Timers that leave their running state -/

/-- A timer with another state and a fixed value. -/
def BuildingTimer.fixed (st : TimerState) (elapsed : Nat) (x : BuildingTimer) : BuildingTimer :=
  { x with state := st, elapsed := elapsed }

/-- The run with the timers of some buildings fixed. -/
def DrillRun.fixed (r : DrillRun) (bs : List Nat) (st : TimerState) (elapsed : Nat) : DrillRun :=
  { r with timers := r.timers.map fun x => if x.building ∈ bs then x.fixed st elapsed else x }

/-- The BUILDING notices of timers that are fixed, in the order of a list of buildings. -/
def DrillRun.fixedNotices (r : DrillRun) (bs : List Nat) (st : TimerState) (elapsed : Nat) : List Notice :=
  bs.filterMap fun b => (r.timer b).map fun x => .drillPhase r.head (.building (x.fixed st elapsed)) (some r.phase)

theorem DrillRun.modTimer_fixed (r : DrillRun) (b : Nat) (st : TimerState) (elapsed : Nat) :
    (r.modTimer b fun t => { t with state := st, elapsed := elapsed }) = r.fixed [b] st elapsed := by
  simp [DrillRun.modTimer, DrillRun.fixed, BuildingTimer.fixed]

/-- The timer of a building in a run whose timers have been changed. -/
theorem DrillRun.timer_map {r : DrillRun} {f : BuildingTimer → BuildingTimer} (hf : ∀ x, (f x).building = x.building) (b : Nat) :
    DrillRun.timer { r with timers := r.timers.map f } b = (r.timer b).map f := by
  have hcond : ((fun t : BuildingTimer => t.building == b) ∘ f) = fun t => t.building == b := by funext x; simp [hf]
  simp only [DrillRun.timer, List.find?_map, hcond]

theorem DrillRun.timer_building {r : DrillRun} {b : Nat} {x : BuildingTimer} (h : r.timer b = some x) : x.building = b := by
  simpa using List.find?_some h

theorem BuildingTimer.fixed_fixed (x : BuildingTimer) (st : TimerState) (n : Nat) : (x.fixed st n).fixed st n = x.fixed st n := rfl

theorem DrillRun.timer_fixed (r : DrillRun) (bs : List Nat) (st : TimerState) (n b : Nat) :
    (r.fixed bs st n).timer b = (r.timer b).map fun x => if b ∈ bs then x.fixed st n else x := by
  rw [DrillRun.fixed, DrillRun.timer_map fun x => by split <;> rfl]
  cases h : r.timer b with
  | none => rfl
  | some x => simp [DrillRun.timer_building h]

theorem DrillRun.fixed_fixed (r : DrillRun) (b : Nat) (bs : List Nat) (st : TimerState) (n : Nat) :
    (r.fixed [b] st n).fixed bs st n = r.fixed (b :: bs) st n := by
  simp only [DrillRun.fixed, List.map_map]
  congr 1
  refine List.map_congr_left fun x _ => ?_
  by_cases hb : x.building = b <;> by_cases hbs : x.building ∈ bs <;> simp [hb, hbs, BuildingTimer.fixed]

theorem DrillRun.fixedNotices_fixed (r : DrillRun) (b : Nat) (bs : List Nat) (st : TimerState) (n : Nat) :
    (r.fixed [b] st n).fixedNotices bs st n = r.fixedNotices bs st n := by
  unfold DrillRun.fixedNotices
  refine List.filterMap_congr fun c _ => ?_
  rw [DrillRun.timer_fixed, Option.map_map]
  cases r.timer c with
  | none => rfl
  | some x => simp only [Option.map_some, Function.comp]; split <;> rfl

/-- A timer leaves its running state, and BUILDING says so. -/
theorem Part.depart_eq {p : Part} {r : DrillRun} (h : p.drill.run = some r) (b : Nat) (st : TimerState) (n : Nat) :
    p.depart b st n = { p.withRun (r.fixed [b] st n) with
      outbox := p.outbox ++ (r.fixedNotices [b] st n).map .notice } := by
  unfold Part.depart; dsimp only
  rw [Part.modRun_eq h, Part.run_withRun, DrillRun.modTimer_fixed]
  dsimp only
  rw [DrillRun.timer_fixed, DrillRun.fixedNotices]
  cases hx : r.timer b with
  | none => simp [hx, Part.withRun]
  | some x => simp [hx]; rfl

theorem DrillRun.fixedNotices_cons (r : DrillRun) (b : Nat) (bs : List Nat) (st : TimerState) (n : Nat) :
    r.fixedNotices (b :: bs) st n = r.fixedNotices [b] st n ++ r.fixedNotices bs st n :=
  List.filterMap_append (l := [b]) (l' := bs)

theorem Part.eachDepart_eq (st : TimerState) (n : Nat) (bs : List Nat) : ∀ {p : Part} {r : DrillRun}, p.drill.run = some r →
    p.each bs (fun q b => q.depart b st n) = { p.withRun (r.fixed bs st n) with
      outbox := p.outbox ++ (r.fixedNotices bs st n).map .notice } := by
  induction bs with
  | nil =>
    intro p r h
    simp [Part.each, DrillRun.fixed, DrillRun.fixedNotices, Part.withRun_self h]
  | cons b bs ih =>
    intro p r h
    rw [show p.each (b :: bs) (fun q b => q.depart b st n) = (p.depart b st n).each bs fun q b => q.depart b st n from rfl,
      ih (r := r.fixed [b] st n) (by rw [Part.depart_eq h]; rfl), Part.depart_eq h, DrillRun.fixed_fixed,
      DrillRun.fixedNotices_fixed, DrillRun.fixedNotices_cons r b bs]
    simp only [Part.withRun, List.append_assoc, List.map_append]

/-- The buildings whose timers run, in the order of the timers. -/
def DrillRun.runners (r : DrillRun) : List Nat := (r.timers.filter (·.state.isRunning)).map (·.building)

/-- Every timer that runs becomes UNFINISHED. -/
theorem Part.unfinish_eq {p : Part} {r : DrillRun} (h : p.drill.run = some r) (n : Nat) :
    p.unfinish n = { p.withRun (r.fixed r.runners .unfinished n) with
      outbox := p.outbox ++ (r.fixedNotices r.runners .unfinished n).map .notice } := by
  unfold Part.unfinish
  rw [h]
  exact Part.eachDepart_eq .unfinished n r.runners h

/-- No timer runs any longer. -/
theorem DrillRun.fixed_runners {r : DrillRun} {n : Nat} {x : BuildingTimer} (h : x ∈ (r.fixed r.runners .unfinished n).timers) :
    x.state.isRunning = false := by
  obtain ⟨y, hy, rfl⟩ := List.mem_map.mp h
  split
  · rfl
  next hnot =>
    by_contra hrun
    exact hnot (List.mem_map.mpr ⟨y, List.mem_filter.mpr ⟨hy, by simpa using hrun⟩, rfl⟩)

section
variable {r : DrillRun} (hnodup : (r.timers.map (·.building)).Nodup)
include hnodup

theorem DrillRun.timer_of_mem {x : BuildingTimer} (h : x ∈ r.timers) : r.timer x.building = some x := by
  rw [DrillRun.timer, List.find?_eq_some_iff_getElem]
  obtain ⟨i, hi, rfl⟩ := List.mem_iff_getElem.mp h
  refine ⟨by simp, i, hi, rfl, fun j hj => ?_⟩
  have := List.nodup_iff_injective_getElem.mp hnodup
  simp only [Bool.not_eq_true', beq_eq_false_iff_ne]
  intro heq
  have := @this ⟨j, by simp; omega⟩ ⟨i, by simpa using hi⟩ (by simpa using heq)
  simp at this
  omega

/-- Where each building has one timer, those that ran are UNFINISHED and every other is as it was. -/
theorem DrillRun.timers_fixed_runners (n : Nat) : (r.fixed r.runners .unfinished n).timers = r.timers.map fun x =>
    if x.state = .running ∨ x.state = .partialRun then { x with state := .unfinished, elapsed := n } else x := by
  refine List.map_congr_left fun x hx => ?_
  have hrun : x.building ∈ r.runners ↔ x.state = .running ∨ x.state = .partialRun := by
    simp only [DrillRun.runners, List.mem_map, List.mem_filter]
    constructor
    · rintro ⟨y, ⟨hy, hstate⟩, hb⟩
      obtain rfl : y = x := by
        have := DrillRun.timer_of_mem hnodup hy
        rw [hb, DrillRun.timer_of_mem hnodup hx] at this
        exact (Option.some.inj this).symm
      simpa [TimerState.isRunning] using hstate
    · exact fun h => ⟨x, ⟨hx, by simpa [TimerState.isRunning] using h⟩, rfl⟩
  simp only [hrun]
  rfl

theorem DrillRun.fixedNotices_runners (n : Nat) : r.fixedNotices r.runners .unfinished n =
    (r.timers.filter (·.state.isRunning)).map fun x =>
      .drillPhase r.head (.building { x with state := .unfinished, elapsed := n }) (some r.phase) := by
  rw [DrillRun.fixedNotices, DrillRun.runners, List.filterMap_map, ← List.filterMap_eq_map]
  refine List.filterMap_congr fun x hx => ?_
  simp only [Function.comp, DrillRun.timer_of_mem hnodup (List.mem_of_mem_filter hx)]
  rfl

end

end Sys2Proof.Machine
end

section
/-! SUPPORT. The phases of a drill that sounds, each as an equation: what is posted, what becomes of the run, what is sent (R89 to
R97). -/

namespace Sys2Proof.Machine

/-- How many zones of a list a posting claims. -/
def Part.claimable (p : Part) (zs : List Nat) : Nat := (zs.filter fun z => !p.closedZone z).length

/-! ### The all-clear and the muster -/

/-- The run as it enters ALLCLEAR. -/
def DrillRun.cleared (r : DrillRun) (now : Nat) (header : Option Nat) : DrillRun :=
  { r with phase := .allclear, phaseStart := now, header := header }

section
variable {p : Part} {r : DrillRun} (h : p.drill.run = some r)
include h

/-- The all-clear is posted, and the notice counts the zones claimed and refused. -/
theorem Part.enterAllclear_eq : p.enterAllclear =
    ((p.withRun (r.cleared p.now p.drillElapsed)).each (p.drillTargets r) (Part.post r.fields.allclearPattern r.program)).note
      (.drillPhase r.head (.allclear (p.claimable (p.drillTargets r))
        ((p.drillTargets r).length - p.claimable (p.drillTargets r))) (some .allclear)) := by
  unfold Part.enterAllclear; dsimp only
  rw [Part.enterPhase_eq h, Part.modRun_eq rfl, Part.run_withRun]
  dsimp only
  rw [Part.postDrills_eq]
  rfl

theorem Part.musterEnd_eq : p.musterEnd = if 0 < r.fields.allclear then p.enterAllclear else p.closeDrill r.endCause := by
  unfold Part.musterEnd; rw [h]

theorem Part.testMuster_eq : p.testMuster =
    if r.noneRunning then p.musterEnd
    else if r.limitAt ≤ p.now then (p.unfinish (r.fields.muster * 10)).musterEnd else p := by
  unfold Part.testMuster; rw [h]

theorem Part.enterMuster_eq (early : Bool) : p.enterMuster early =
    ((p.releaseDrills.withRun { r with phase := .muster, phaseStart := p.now }).note
      (.drillPhase r.head (.muster early) (some .muster))).testMuster := by
  unfold Part.enterMuster; dsimp only
  rw [Part.enterPhase_eq (r := r) (by rw [Part.drill_releaseDrills, h]), Part.run_withRun, Part.now_releaseDrills]
  rfl

theorem Part.drill_enterAllclear : p.enterAllclear.drill = (p.withRun (r.cleared p.now p.drillElapsed)).drill := by
  rw [Part.enterAllclear_eq h]
  exact Part.drill_of_core (Part.core_posts _ _ _ _)

theorem Part.drill_closeDrill (c : DrillEnd) : (p.closeDrill c).drill = p.drill.closed (r.record c) := by
  obtain ⟨_, _, heq, -⟩ := Part.closeDrill_eq h c
  rw [heq]

theorem Part.drill_musterEnd : p.musterEnd.drill =
    if 0 < r.fields.allclear then (p.withRun (r.cleared p.now p.drillElapsed)).drill
    else p.drill.closed (r.record r.endCause) := by
  rw [Part.musterEnd_eq h]
  split
  · exact Part.drill_enterAllclear h
  · exact Part.drill_closeDrill h _

end

/-! ### What the drill timer keeps for its drills -/

/-- What no drill changes once it has started, beside the states of scheduled entries: the programs and the run counter. -/
def DrillTimer.standing (d : DrillTimer) : Vector (Option Program) 4 × List ScheduleEntry × Nat :=
  (d.programs, d.schedule, d.runCounter)

theorem DrillTimer.standing_fields {d e : DrillTimer} (h : e.standing = d.standing) :
    e.programs = d.programs ∧ e.schedule = d.schedule ∧ e.runCounter = d.runCounter := by
  simpa only [DrillTimer.standing, Prod.mk.injEq] using h

section
variable (p : Part)

@[simp] theorem Part.standing_modRun (f : DrillRun → DrillRun) : (p.modRun f).drill.standing = p.drill.standing := rfl
@[simp] theorem Part.standing_enterPhase (ph : DrillPhase) : (p.enterPhase ph).drill.standing = p.drill.standing := rfl
@[simp] theorem Part.standing_noteDrill (r : DrillRun) (e : DrillEvent) (ph : Option DrillPhase) :
    (p.noteDrill r e ph).drill.standing = p.drill.standing := rfl
@[simp] theorem Part.offDrill_unfinish (n : Nat) : (p.unfinish n).offDrill = p.offDrill := by
  cases h : p.drill.run with
  | none => simp [Part.unfinish, h]
  | some r => rw [Part.unfinish_eq h]; rfl
@[simp] theorem Part.standing_unfinish (n : Nat) : (p.unfinish n).drill.standing = p.drill.standing := by
  cases h : p.drill.run with
  | none => simp [Part.unfinish, h]
  | some r => rw [Part.unfinish_eq h]; rfl
@[simp] theorem Part.standing_closeDrill (c : DrillEnd) : (p.closeDrill c).drill.standing = p.drill.standing := by
  cases h : p.drill.run with
  | none => simp [Part.closeDrill, h]
  | some r => rw [Part.drill_closeDrill h]; rfl
@[simp] theorem Part.offDrill_enterAllclear : p.enterAllclear.offDrill = p.offDrill := by
  unfold Part.enterAllclear; dsimp only; split <;> simp
@[simp] theorem Part.standing_enterAllclear : p.enterAllclear.drill.standing = p.drill.standing := by
  cases h : p.drill.run with
  | none => simp [Part.enterAllclear, Part.enterPhase, h, Part.modRun, DrillTimer.standing]
  | some r => rw [Part.drill_enterAllclear h]; rfl
@[simp] theorem Part.offDrill_musterEnd : p.musterEnd.offDrill = p.offDrill := by
  unfold Part.musterEnd; (repeat' split) <;> simp
@[simp] theorem Part.standing_musterEnd : p.musterEnd.drill.standing = p.drill.standing := by
  unfold Part.musterEnd; (repeat' split) <;> simp
@[simp] theorem Part.offDrill_testMuster : p.testMuster.offDrill = p.offDrill := by
  unfold Part.testMuster; (repeat' split) <;> simp
@[simp] theorem Part.standing_testMuster : p.testMuster.drill.standing = p.drill.standing := by
  unfold Part.testMuster; (repeat' split) <;> simp
@[simp] theorem Part.offDrill_enterMuster (b : Bool) : (p.enterMuster b).offDrill = p.offDrill := by
  unfold Part.enterMuster; dsimp only; (repeat' split) <;> simp
@[simp] theorem Part.standing_enterMuster (b : Bool) : (p.enterMuster b).drill.standing = p.drill.standing := by
  unfold Part.enterMuster; dsimp only; (repeat' split) <;> simp

end

/-! ### The evacuation -/

/-- A timer as the evacuation starts it. -/
def BuildingTimer.begun (x : BuildingTimer) : BuildingTimer :=
  if x.state == .waiting then { x with state := if x.partialFlag then .partialRun else .running, elapsed := 0 } else x

theorem BuildingTimer.begun_eq (x : BuildingTimer) : x.begun = if x.state = .waiting then
    { x with state := if x.partialFlag then .partialRun else .running, elapsed := 0 } else x := by
  simp only [BuildingTimer.begun, beq_iff_eq]

/-- The run as it enters EVACUATE. -/
def DrillRun.evacuates (r : DrillRun) (now : Nat) : DrillRun := { r with phase := .evacuate, phaseStart := now, evacuation := some now }

/-- The zones as the evacuation makes them, with the zones claimed and refused: after a prealert every DRILL claim takes its
pattern, and otherwise it is posted. -/
def Part.evacuationSounds (p : Part) (r : DrillRun) (fromPrealert : Bool) : Part × Nat × Nat :=
  if fromPrealert then (p.each p.drillZones fun q z => q.changeDrill z r.fields.evacuation, p.drillZones.length, 0)
  else (p.each (p.drillTargets r) (Part.post r.fields.evacuation r.program), p.claimable (p.drillTargets r),
    (p.drillTargets r).length - p.claimable (p.drillTargets r))

theorem Part.core_evacuationSounds (p : Part) (r : DrillRun) (b : Bool) : (p.evacuationSounds r b).1.core = p.core := by
  unfold Part.evacuationSounds
  split
  · exact Part.core_each _ (fun q z => q.core_changeDrill z _) _ p
  · exact Part.core_posts _ _ _ _

/-- What is below the roster length and in scope is fixed by the core. -/
theorem Part.inScope_of_core {p q : Part} (h : q.core = p.core) : q.positions = p.positions ∧ q.inScope = p.inScope := by
  simp only [Part.core, Prod.mk.injEq] at h
  obtain ⟨-, -, -, -, -, -, -, -, -, hchain⟩ := h
  have hroster : q.chain.roster = p.chain.roster := (congrArg Chain.roster hchain :)
  have hlength : q.chain.length = p.chain.length := (congrArg Chain.length hchain :)
  refine ⟨by rw [Part.positions, hlength]; rfl, ?_⟩
  funext scope pos
  simp only [Part.inScope, Part.rosterAt, hroster, hlength]

/-- The part as the evacuation has made it sound, with the timers started. -/
def Part.evacuated (p : Part) (r : DrillRun) (fromPrealert : Bool) : Part :=
  ((p.withRun (r.evacuates p.now)).evacuationSounds r fromPrealert).1.withRun
    { r.evacuates p.now with timers := r.timers.map BuildingTimer.begun }

theorem Part.enterEvacuate_step {p : Part} {r : DrillRun} (h : p.drill.run = some r) (b : Bool) : p.enterEvacuate b =
    ((p.evacuated r b).displayList true ((p.evacuated r b).positions.filter ((p.evacuated r b).inScope r.fields.scope))).note
      (.drillPhase r.head (.evacuate ((p.withRun (r.evacuates p.now)).evacuationSounds r b).2.1
        ((p.withRun (r.evacuates p.now)).evacuationSounds r b).2.2) (some .evacuate)) := by
  have hstart : (p.enterPhase .evacuate).modRun (fun r => { r with evacuation := some p.now }) =
      p.withRun (r.evacuates p.now) := by
    rw [Part.enterPhase_eq h, Part.modRun_eq rfl]; rfl
  have hcore := Part.core_evacuationSounds (p.withRun (r.evacuates p.now)) r b
  have hrun : ((p.withRun (r.evacuates p.now)).evacuationSounds r b).1.drill.run = some (r.evacuates p.now) :=
    congrArg DrillTimer.run (Part.drill_of_core hcore)
  have hbegun : p.evacuated r b = ((p.withRun (r.evacuates p.now)).evacuationSounds r b).1.modRun fun r =>
      { r with timers := r.timers.map BuildingTimer.begun } := by rw [Part.modRun_eq hrun]; rfl
  rw [hbegun]
  unfold Part.enterEvacuate; dsimp only [Part.modRun_now, Part.enterPhase]
  rw [show p.modRun (fun r => { r with phase := .evacuate, phaseStart := p.now }) = p.enterPhase .evacuate from rfl, hstart,
    Part.run_withRun]
  cases b with
  | true => rfl
  | false =>
    unfold Part.evacuationSounds
    dsimp only
    rw [Part.postDrills_eq]
    rfl

/-- The evacuation sounds, starts the timers that wait and shows on the displays of the scope nodes. -/
theorem Part.enterEvacuate_eq {p : Part} {r : DrillRun} (h : p.drill.run = some r) (b : Bool) : ∃ c e,
    p.enterEvacuate b = { p.evacuated r b with
      clk := c, line := e
      outbox := (p.evacuated r b).outbox ++ [.notice (.drillPhase r.head
        (.evacuate ((p.withRun (r.evacuates p.now)).evacuationSounds r b).2.1
          ((p.withRun (r.evacuates p.now)).evacuationSounds r b).2.2) (some .evacuate))] } ∧
    ∀ pos < 24, p.inScope r.fields.scope pos = true → ((p.enterEvacuate b).display pos).drill = true := by
  obtain ⟨hpositions, hscope⟩ := Part.inScope_of_core (Part.core_evacuationSounds (p.withRun (r.evacuates p.now)) r b)
  obtain ⟨c, e, hlist⟩ := Part.displayList_touches true
    ((p.evacuated r b).positions.filter ((p.evacuated r b).inScope r.fields.scope)) (p.evacuated r b)
  rw [Part.enterEvacuate_step h]
  refine ⟨c, e, by rw [hlist]; rfl, fun pos hpos hin => ?_⟩
  refine (Part.drill_displayList true hpos _ _).trans (if_pos (List.mem_filter.mpr ⟨?_, ?_⟩))
  · have hlen : pos < p.chain.length := by
      simp only [Part.inScope, Bool.and_eq_true, decide_eq_true_eq] at hin
      exact hin.1
    rw [show (p.evacuated r b).positions = p.positions from hpositions]
    simp only [Part.positions, upTo, List.mem_range]
    exact Nat.lt_min.mpr ⟨hlen, hpos⟩
  · rw [show (p.evacuated r b).inScope = p.inScope from hscope]
    exact hin

/-- The sounding of a drill begins with its prealert, if that has a length, and with its evacuation otherwise. -/
theorem Part.enterSounding_eq {p : Part} {r : DrillRun} (h : p.drill.run = some r) : p.enterSounding =
    if r.fields.prealert = 0 then p.enterEvacuate false
    else ((p.withRun { r with phase := .prealert, phaseStart := p.now }).each (p.drillTargets r)
      (Part.post (r.fields.chime.getD 0) r.program)).note
        (.drillPhase r.head (.prealert (p.claimable (p.drillTargets r))
          ((p.drillTargets r).length - p.claimable (p.drillTargets r))) (some .prealert)) := by
  unfold Part.enterSounding
  rw [h]
  dsimp only
  split
  · rfl
  · rw [Part.enterPhase_eq h, Part.postDrills_eq]
    rfl

theorem Part.drill_enterEvacuate {p : Part} {r : DrillRun} (h : p.drill.run = some r) (b : Bool) : (p.enterEvacuate b).drill =
    (p.withRun { r.evacuates p.now with timers := r.timers.map BuildingTimer.begun }).drill := by
  obtain ⟨_, _, heq, -⟩ := Part.enterEvacuate_eq h b
  rw [heq]
  have hdrill := Part.drill_of_core ((p.withRun (r.evacuates p.now)).core_evacuationSounds r b)
  simp only [Part.evacuated, Part.withRun] at hdrill ⊢
  rw [hdrill]

end Sys2Proof.Machine
end

section
/-! SUPPORT. The end of a drill, and DRILL_ABORT (R97 to R99). -/

namespace Sys2Proof.Machine

/-! ### After the end of a drill -/

/-- What the end of a drill leaves: the record as the last of at most four, no run and no display that shows the drill. -/
structure Part.closedWith (p : Part) (x : DrillRecord) : Prop where
  run : p.drill.run = none
  few : p.drill.records.length ≤ 4
  last : p.drill.records.getLast? = some x
  displays : ∀ pos < 24, (p.display pos).drill = false

theorem Part.closedWith_closeDrill {p : Part} {r : DrillRun} (h : p.drill.run = some r) (c : DrillEnd) :
    (p.closeDrill c).closedWith (r.record c) := by
  obtain ⟨_, _, heq, hdisplays⟩ := Part.closeDrill_eq h c
  have hdrill := Part.drill_closeDrill h c
  exact ⟨by rw [hdrill]; rfl, by rw [hdrill]; exact DrillTimer.records_closed_length _ _,
    by rw [hdrill]; exact DrillTimer.last_closed _ _, hdisplays⟩

@[simp] theorem Part.clk_settle (p : Part) : p.settle.clk = p.clk := (firm_clk p.clk).settle rfl

theorem Part.display_settle (p : Part) (pos : Nat) : p.settle.display pos = p.display pos := by
  simp only [Part.display, Part.clk_settle]

theorem Part.closedWith_settle {p : Part} {x : DrillRecord} (h : p.closedWith x) : p.settle.closedWith x := by
  obtain ⟨hrun, hfew, hlast, hdisplays⟩ := h
  exact ⟨by rw [Part.drill_settle, hrun], by rw [Part.drill_settle]; exact hfew, by rw [Part.drill_settle, hlast],
    fun pos hpos => by rw [Part.display_settle]; exact hdisplays pos hpos⟩

theorem Part.arb_closeDrill (p : Part) (c : DrillEnd) : (p.closeDrill c).arb = p.arb := by
  cases h : p.drill.run with
  | none => simp [Part.closeDrill, h]
  | some r =>
    obtain ⟨_, _, heq, -⟩ := Part.closeDrill_eq h c
    rw [heq]

theorem Part.arb_unfinish (p : Part) (n : Nat) : (p.unfinish n).arb = p.arb := by
  cases h : p.drill.run with
  | none => simp [Part.unfinish, h]
  | some r => rw [Part.unfinish_eq h]; rfl

theorem Part.noDrills_of_arb {p q : Part} (h : p.noDrills) (harb : q.arb = p.arb) : q.noDrills := fun z hz => by
  rw [Part.zone_of_arb harb]; exact h z hz

/-! ### DRILL_ABORT -/

/-- The part in which a drill is aborted, its claims released and its timers fixed. -/
def Part.stopped (p : Part) (r : DrillRun) : Part :=
  (p.withdraw .urgent fun h => h.sender == .probe).releaseDrills.unfinish (p.drillTenths r)

section
variable {p : Part} {r : DrillRun} (h : p.drill.run = some r)
include h

theorem Part.drillAbort_run (saving : Bool) : p.drillAbort saving = ((p.stopped r).closeDrill .aborted, okOnly) := by
  have hidle : p.idle = false := by simp [Part.idle, h]
  refine (checked_pass (by simp [firstFailure, hidle]) _ _).trans ?_
  rw [h]
  dsimp only
  simp only [Part.stopped, Part.drillTenths, Part.now_releaseDrills, Part.withdraw_now]

theorem Part.run_stopped : (p.stopped r).drill = (p.withRun (r.fixed r.runners .unfinished (p.drillTenths r))).drill := by
  have hrun : (p.withdraw .urgent fun h => h.sender == .probe).releaseDrills.drill = p.drill := by simp
  rw [Part.stopped, Part.unfinish_eq (r := r) (by rw [hrun, h])]
  simp only [Part.withRun, hrun]

end

theorem Part.drillAbort_idle {p : Part} (h : p.drill.run = none) (saving : Bool) :
    p.drillAbort saving = (p, ⟨.wrongState, .none⟩) := by
  simp [Part.drillAbort, checked, firstFailure, Part.idle, h]

theorem Part.noDrills_stopped (p : Part) (r : DrillRun) : (p.stopped r).noDrills :=
  Part.noDrills_of_arb (Part.noDrills_releaseDrills _) (Part.arb_unfinish _ _)

theorem Part.offDrill_stopped (p : Part) (r : DrillRun) : (p.stopped r).offDrill = p.offDrill := by
  rw [Part.stopped, Part.offDrill_unfinish, Part.offDrill_releaseDrills]
  exact Part.offDrill_of_core (Part.core_withdraw _ _ _)

/-- Settles O29: the drill is stopped and closes; in IDLE the request is refused. -/
theorem drillAbort : Obligations.DrillAbort := by
  intro s tag hr
  refine ⟨fun r hrun => ?_, fun hidle => ?_⟩
  · have hf := Part.drillAbort_run hrun s.port.saving.isSome
    obtain ⟨hpart, hans⟩ := request_part hr (.drillAbort tag) 0x33 Part.drillAbort hf (.inl rfl)
    have hstop := Part.run_stopped hrun
    have hstopped : (s.part.stopped r).drill.run = some (r.fixed r.runners .unfinished (s.part.drillTenths r)) := by
      rw [hstop]; rfl
    have hdrill := Part.drill_closeDrill hstopped .aborted
    rw [hstop] at hdrill
    obtain ⟨hnone, hfew, hlast, hdisplays⟩ := Part.closedWith_settle (Part.closedWith_closeDrill hstopped .aborted)
    have hcore := Part.core_of_offDrill ((Part.offDrill_closeDrill (s.part.stopped r) .aborted).trans (s.part.offDrill_stopped r))
    refine ⟨_, rfl, hans, request_sameOutside hr _ _ _, ?_⟩
    have hstanding : (((s.part.stopped r).closeDrill .aborted).settle).drill.standing = s.part.drill.standing := by
      rw [Part.drill_settle, hdrill]; rfl
    obtain ⟨hprograms, hschedule, hcounter⟩ := DrillTimer.standing_fields hstanding
    rw [hpart]
    refine ⟨?_, hnone, ?_, ?_, ?_, ?_, hdisplays, hfew, _, hlast, rfl, rfl, rfl, fun x hx => ?_, fun hnodup => ?_⟩
    · refine (Part.core_settle _).trans (hcore.trans ?_)
      rw [← Part.drill_settle]
    · exact hcounter
    · exact hprograms
    · exact hschedule
    · exact firm_noDrills.settle (Part.noDrills_of_arb (s.part.noDrills_stopped r) (Part.arb_closeDrill _ _))
    · have hstill := DrillRun.fixed_runners hx
      constructor <;> intro hs <;> rw [hs] at hstill <;> cases hstill
    · exact DrillRun.timers_fixed_runners hnodup _
  · exact congrArg Host.Outcome.next (request_refused_part hr _ _ _ (Part.drillAbort_idle hidle _) (by simp))

end Sys2Proof.Machine
end

section
/-! SUPPORT. The timed ends of a drill that sounds (R89 to R97). -/

namespace Sys2Proof.Machine

/-! ### Events of the drill timer -/

section
variable {s : State} (hpow : s.powered = true) {f : Part → Part}
include hpow

/-- An event of the drill timer leaves everything but the timer as it was, and the programs and the schedule within it. -/
theorem event_drillFrame (hoff : (f s.part).offDrill = s.part.offDrill)
    (hstanding : (f s.part).drill.standing = s.part.drill.standing) : State.sameOutside s (event f s) ∧
    (event f s).part.core = { s.part with drill := (event f s).part.drill }.core ∧
    (event f s).part.drill.programs = s.part.drill.programs ∧ (event f s).part.drill.schedule = s.part.drill.schedule := by
  have hsettled : (f s.part).settle.drill.standing = s.part.drill.standing := by rw [Part.drill_settle, hstanding]
  obtain ⟨hprograms, hschedule, -⟩ := DrillTimer.standing_fields hsettled
  refine ⟨event_sameOutside f s, ?_⟩
  rw [event_part hpow]
  refine ⟨(Part.core_settle _).trans ((Part.core_of_offDrill hoff).trans ?_), hprograms, hschedule⟩
  rw [← Part.drill_settle]

theorem event_drill : (event f s).part.drill = (f s.part).drill := by
  rw [event_part hpow]; exact Part.drill_settle _

theorem event_display (pos : Nat) : (event f s).part.display pos = (f s.part).display pos := by
  rw [event_part hpow]; exact Part.display_settle _ pos

theorem event_noDrills (h : (f s.part).noDrills) : (event f s).part.noDrills := by
  rw [event_part hpow]; exact firm_noDrills.settle h

theorem event_closedWith {x : DrillRecord} (h : (f s.part).closedWith x) : (event f s).part.closedWith x := by
  obtain ⟨hrun, hfew, hlast, hdisplays⟩ := Part.closedWith_settle h
  rw [event_part hpow]
  exact ⟨hrun, hfew, hlast, hdisplays⟩

theorem event_asked {z : Nat} (hz : z < 64) : ((event f s).part.zone z).asked = ((f s.part).zone z).asked := by
  rw [event_part hpow]; exact (firm_asked hz _).settle rfl

/-- A posting to the zones of a list, as an event leaves it. -/
theorem event_drillsPosted {p : Part} {n g : Nat} {zs : List Nat} (harb : (f s.part).arb = (p.each zs (Part.post n g)).arb)
    (hann : (f s.part).ann = (p.each zs (Part.post n g)).ann) (hsites : p.sameSites (f s.part)) :
    p.drillsPosted (event f s).part zs n g := by
  rw [event_part hpow]; exact Part.drillsPosted_settle harb hann hsites

end

/-! ### The prealert's end -/

section
variable {p : Part} {r : DrillRun} (h : p.drill.run = some r)
include h

theorem Part.prealertEnd_due (hphase : r.phase = .prealert) (hdue : r.prealertAt ≤ p.now) :
    p.prealertEnd = p.enterEvacuate true := by
  simp [Part.prealertEnd, h, hphase, hdue]

theorem Part.arb_enterEvacuate (b : Bool) : (p.enterEvacuate b).arb =
    ((p.withRun (r.evacuates p.now)).evacuationSounds r b).1.arb := by
  obtain ⟨_, _, heq, -⟩ := Part.enterEvacuate_eq h b
  rw [heq]; rfl

/-- Every DRILL claim takes the evacuation's pattern. -/
theorem Part.pattern_enterEvacuate {z : Nat} (hz : z < 64) : ((p.enterEvacuate true).zone z).asked =
    (p.zone z).asked.map fun a => (r.fields.evacuation, a.2) := by
  rw [Part.zone_of_arb (Part.arb_enterEvacuate h true)]
  refine (Part.asked_changeDrills _ hz _ _).trans ?_
  split
  · rfl
  next hnot =>
    have hnone : ((p.withRun (r.evacuates p.now)).zone z).drill = none := by simpa [Part.drillZones, upTo, hz] using hnot
    have hasked : (p.zone z).asked = none := Zone.drill_eq_none.mp hnone
    exact hasked.trans (by rw [hasked]; rfl)

omit h in
/-- Where the announcement in each zone of a drill waits, the change of pattern is silent. -/
theorem Part.says_changeDrills (n : Nat)
    (hwaits : ∀ z < 64, (p.zone z).drill.isSome = true → ∀ a, (p.zone z).ann = some a → a.state = .pending) :
    p.says (p.each p.drillZones fun q z => q.changeDrill z n) [] := by
  refine Part.says_eachZone (good := fun x => x.drill.isSome = true ∧ ∀ a, x.ann = some a → a.state = .pending)
    (fun q z hz => ?_) (fun q z hz y hy hgood => ?_) _ p fun z hz => ?_
  · obtain ⟨-, hpending⟩ := hz
    rw [Part.changeDrill_silent hpending]
    exact q.says_changeZone z _
  · obtain ⟨-, hpending⟩ := hz
    rw [Part.changeDrill_silent hpending, Part.zone_claimsClear]
    by_cases hzy : z = y
    · subst hzy
      obtain ⟨hdrill, hpending⟩ := hgood
      obtain ⟨d, hd⟩ := Option.isSome_iff_exists.mp hdrill
      rw [Part.zone_changeZone hy]
      refine ⟨by simp [Zone.drill_evaluate, Zone.drillAfter, Zone.repatterned, hd], fun a ha => ?_⟩
      cases hannz : (q.zone z).ann with
      | none => simp [Zone.ann_evaluate, Zone.annAfter, Zone.repatterned, hannz] at ha
      | some b =>
        have hb := hpending b hannz
        have hsel : Zone.select (q.able z) q.now (Zone.repatterned n (q.zone z)) = if q.able z then .drill else .none := by
          cases q.able z with
          | false => rfl
          | true => exact Zone.select_drill (d := { d with pattern := n }) (by simp [Zone.repatterned, hd])
        rw [Zone.ann_evaluate, hsel, Zone.annAfter] at ha
        simp only [Zone.repatterned, hannz, hb] at ha
        cases hable : q.able z <;> rw [hable] at ha <;> exact Option.some.inj ha ▸ hb
    · rw [Part.zone_changeZone_ne hzy]
      exact hgood
  · obtain ⟨hlt, hdrill⟩ := List.mem_filter.mp hz
    have hlt : z < 64 := by simpa [upTo] using hlt
    exact ⟨hlt, hdrill, hwaits z hlt hdrill⟩

/-- EVACUATE is all that the evacuation sends, when its sounding sends nothing. -/
theorem Part.says_enterEvacuate {b : Bool}
    (hsounds : (p.withRun (r.evacuates p.now)).says ((p.withRun (r.evacuates p.now)).evacuationSounds r b).1 []) :
    p.says (p.enterEvacuate b) [.drillPhase r.head (.evacuate ((p.withRun (r.evacuates p.now)).evacuationSounds r b).2.1
      ((p.withRun (r.evacuates p.now)).evacuationSounds r b).2.2) (some .evacuate)] := by
  obtain ⟨_, _, heq, -⟩ := Part.enterEvacuate_eq h b
  obtain ⟨hann, hout⟩ := hsounds
  rw [heq]
  refine ⟨hann, ?_⟩
  change ((p.withRun (r.evacuates p.now)).evacuationSounds r b).1.outbox ++ _ = _
  rw [hout]
  simp [Part.withRun]

end

/-! ### A target reached -/

/-- A timer that has reached its target is marked, and the notice says so. -/
theorem Part.targetReached_due {p : Part} {r : DrillRun} {b : Nat} {x : BuildingTimer} (h : p.drill.run = some r)
    (hx : r.timer b = some x) (hdue : p.targetDue r x = true) : p.targetReached b =
      (p.withRun { r with timers := r.timers.map fun y => if y.building = b then { y with overdue := true } else y }).note
        (.drillOverdue r.head b (r.fields.target b) x.muster) := by
  unfold Part.targetReached
  rw [h]
  dsimp only
  rw [hx]
  dsimp only
  rw [if_pos hdue, Part.modRun_eq h, DrillRun.modTimer]
  simp only [beq_iff_eq]

/-! ### The tone's end -/

section
variable {p : Part} {r : DrillRun} (h : p.drill.run = some r)
include h

theorem Part.toneEnd_due (hphase : r.phase = .evacuate) (hdue : r.toneAt ≤ p.now) : p.toneEnd = p.enterMuster false := by
  simp [Part.toneEnd, h, hphase, hdue]

/-- A run that is still on after the test for the muster end is in MUSTER or ALLCLEAR. -/
theorem Part.run_testMuster (hphase : r.phase = .muster) {r' : DrillRun} (hr' : p.testMuster.drill.run = some r') :
    r'.number = r.number ∧ (r'.phase = .muster ∨ r'.phase = .allclear) := by
  have hend : ∀ {q : Part} {x : DrillRun}, q.drill.run = some x → q.musterEnd.drill.run = some r' →
      r'.number = x.number ∧ (r'.phase = .muster ∨ r'.phase = .allclear) := fun hq hr' => by
    rw [Part.drill_musterEnd hq] at hr'
    split at hr'
    · obtain rfl := Option.some.inj hr'
      exact ⟨rfl, .inr rfl⟩
    · cases hr'
  rw [Part.testMuster_eq h] at hr'
  split at hr'
  · exact hend h hr'
  split at hr'
  · exact hend (x := r.fixed r.runners .unfinished (r.fields.muster * 10)) (by rw [Part.unfinish_eq h]; rfl) hr'
  · obtain rfl := Option.some.inj (h.symm.trans hr')
    exact ⟨rfl, .inl hphase⟩

/-- While a timer runs and the limit has not come, the muster goes on. -/
theorem Part.testMuster_goesOn (hrun : ∃ x ∈ r.timers, x.state.isRunning = true) (hlimit : p.now < r.limitAt) :
    p.testMuster = p := by
  have hsome : r.noneRunning = false := by simpa [DrillRun.noneRunning] using hrun
  rw [Part.testMuster_eq h, if_neg (by simp [hsome]), if_neg (by omega)]

/-! ### The muster limit -/

/-- At the limit every timer that runs is UNFINISHED, and the muster ends. -/
theorem Part.musterLimit_due (hphase : r.phase = .muster) (hdue : r.limitAt ≤ p.now) :
    p.musterLimit = (p.unfinish (r.fields.muster * 10)).musterEnd := by
  have htest : p.musterLimit = p.testMuster := by simp [Part.musterLimit, h, hphase, hdue]
  rw [htest, Part.testMuster_eq h]
  split
  next hnone =>
    have hrunners : r.timers.filter (·.state.isRunning) = [] :=
      List.filter_eq_nil_iff.mpr (by simpa [DrillRun.noneRunning] using hnone)
    rw [show p.unfinish (r.fields.muster * 10) = p by unfold Part.unfinish; rw [h]; dsimp only; rw [hrunners]; rfl]
  next => rfl

omit h in
/-- What the drill timer posts to depends on which timers of which buildings are YIELDED. -/
theorem Part.drillTargets_map {q : Part} {x : DrillRun} {f : BuildingTimer → BuildingTimer} (harb : q.arb = p.arb)
    (htimers : x.timers = r.timers.map f) (hbarred : x.barred = r.barred)
    (hf : ∀ y, (f y).building = y.building ∧ ((f y).state = .yielded ↔ y.state = .yielded)) :
    q.drillTargets x = p.drillTargets r := by
  have hbuilding : q.building = p.building := by funext b; simp only [Part.building, harb]
  have hstate : ∀ y, ((f y).state != .yielded) = (y.state != .yielded) := fun y => by
    rw [Bool.eq_iff_iff]; simp [(hf y).2]
  simp only [Part.drillTargets, htimers, hbarred, hbuilding, List.filter_map, List.flatMap_map, Function.comp_def, (hf _).1,
    hstate]

end

/-- With one timer for each building, timers that become UNFINISHED change nothing of what is posted to. -/
theorem Part.drillTargets_unfinished {p q : Part} {r : DrillRun} (hnodup : (r.timers.map (·.building)).Nodup)
    (harb : q.arb = p.arb) (n : Nat) : q.drillTargets (r.fixed r.runners .unfinished n) = p.drillTargets r := by
  refine Part.drillTargets_map harb (DrillRun.timers_fixed_runners hnodup n) rfl fun y => ?_
  split
  next hrun => exact ⟨rfl, by rcases hrun with h | h <;> simp [h]⟩
  next => exact ⟨rfl, .rfl⟩

end Sys2Proof.Machine
end

section
/-! SUPPORT. What edges, yields and drop-outs do to the timers of a drill (R91 to R93, R95, R100, R101). -/

namespace Sys2Proof.Machine

/-! ### One timer changed -/

/-- The timers with those of a building changed. -/
def DrillRun.changed (r : DrillRun) (b : Nat) (f : BuildingTimer → BuildingTimer) : List BuildingTimer :=
  r.timers.map fun y => if y.building = b then f y else y

theorem DrillRun.modTimer_eq (r : DrillRun) (b : Nat) (f : BuildingTimer → BuildingTimer) :
    r.modTimer b f = { r with timers := r.changed b f } := by
  simp only [DrillRun.modTimer, DrillRun.changed, beq_iff_eq]

/-- The timers with the one of a building fixed. -/
def DrillRun.departs (r : DrillRun) (b : Nat) (st : TimerState) (n : Nat) : List BuildingTimer :=
  r.changed b fun y => { y with state := st, elapsed := n }

/-- A timer that runs leaves its state for another, and BUILDING says so. -/
theorem Part.depart_found {p : Part} {r : DrillRun} {b : Nat} {x : BuildingTimer} (h : p.drill.run = some r)
    (hx : r.timer b = some x) (st : TimerState) (n : Nat) : p.depart b st n =
      { p.withRun { r with timers := r.departs b st n } with
        outbox := p.outbox ++ [.notice (.drillPhase r.head (.building { x with state := st, elapsed := n }) (some r.phase))] } := by
  rw [Part.depart_eq h, ← DrillRun.modTimer_fixed, DrillRun.modTimer_eq]
  simp [DrillRun.fixedNotices, hx, DrillRun.departs, BuildingTimer.fixed]

/-- A run whose timer of a building has left its running state holds that timer. -/
theorem DrillRun.mem_departs {r : DrillRun} {b : Nat} {x : BuildingTimer} (hx : r.timer b = some x) (st : TimerState) (n : Nat) :
    { x with state := st, elapsed := n } ∈ r.departs b st n := by
  refine List.mem_map.mpr ⟨x, List.mem_of_find?_eq_some hx, ?_⟩
  rw [if_pos (DrillRun.timer_building hx)]

/-! ### What follows the departure of a timer -/

theorem DrillRun.noneRunning_false {r : DrillRun} : r.noneRunning = false ↔ ∃ x ∈ r.timers, x.state.isRunning = true := by
  simp [DrillRun.noneRunning]

theorem DrillRun.allYielded_iff {r : DrillRun} : r.allYielded = true ↔ ∀ x ∈ r.timers, x.state = .yielded := by
  simp [DrillRun.allYielded]

/-- A drill in which a timer runs has a building that has not yielded. -/
theorem DrillRun.not_allYielded {r : DrillRun} (h : ∃ x ∈ r.timers, x.state.isRunning = true) : r.allYielded = false := by
  obtain ⟨x, hx, hrun⟩ := h
  refine Bool.eq_false_iff.mpr fun hall => ?_
  rw [DrillRun.allYielded_iff.mp hall x hx] at hrun
  cases hrun

section
variable {p : Part} {r : DrillRun} (h : p.drill.run = some r)
include h

/-- While a timer runs, before the limit, the departure of another changes nothing of the phase. -/
theorem Part.testTimers_goesOn (hphase : r.phase = .evacuate ∨ r.phase = .muster)
    (hrun : ∃ x ∈ r.timers, x.state.isRunning = true) (hlimit : r.phase = .muster → p.now < r.limitAt) : p.testTimers = p := by
  have hyielded := DrillRun.not_allYielded hrun
  unfold Part.testTimers
  rw [h]
  dsimp only
  rcases hphase with hph | hph <;> rw [hph] <;> dsimp only <;> rw [if_neg (by simp [hyielded])]
  · rw [if_neg (by simp [DrillRun.noneRunning_false.mpr hrun])]
  · exact Part.testMuster_goesOn h hrun (hlimit hph)

/-- When every building has yielded the drill closes. -/
theorem Part.testTimers_yielded (hphase : r.phase = .prealert ∨ r.phase = .evacuate ∨ r.phase = .muster)
    (hall : r.allYielded = true) : p.testTimers = p.releaseDrills.closeDrill .yielded := by
  unfold Part.testTimers
  rw [h]
  dsimp only
  rcases hphase with hph | hph | hph <;> rw [hph] <;> dsimp only <;> rw [if_pos hall]

theorem Part.testTimers_prealert (hphase : r.phase = .prealert) (hall : r.allYielded = false) : p.testTimers = p := by
  unfold Part.testTimers
  rw [h]
  dsimp only
  rw [hphase]
  dsimp only
  rw [if_neg (by simp [hall])]

/-- The last timer to stop in EVACUATE brings the early stop. -/
theorem Part.testTimers_last (hphase : r.phase = .evacuate) (hall : r.allYielded = false) (hnone : r.noneRunning = true) :
    p.testTimers = p.enterMuster true := by
  unfold Part.testTimers
  rw [h]
  dsimp only
  rw [hphase]
  dsimp only
  rw [if_neg (by simp [hall]), if_pos hnone]

/-- The muster that no timer keeps going ends at once. -/
theorem Part.enterMuster_none (early : Bool) (hnone : r.noneRunning = true) : p.enterMuster early =
    ((p.releaseDrills.withRun { r with phase := .muster, phaseStart := p.now }).note
      (.drillPhase r.head (.muster early) (some .muster))).musterEnd := by
  rw [Part.enterMuster_eq h, Part.testMuster_eq (r := { r with phase := .muster, phaseStart := p.now }) rfl]
  exact if_pos hnone

/-- The early stop goes on to the all-clear, if that has a length. -/
theorem Part.earlyStop_allclear (hnone : r.noneRunning = true) (hlength : 0 < r.fields.allclear) :
    ∃ r', (p.enterMuster true).drill.run = some r' ∧ r'.phase = .allclear ∧ r'.phaseStart = p.now ∧ r'.timers = r.timers := by
  rw [Part.enterMuster_none h true hnone,
    Part.drill_musterEnd (r := { r with phase := .muster, phaseStart := p.now }) rfl, if_pos hlength]
  exact ⟨_, rfl, rfl, Part.now_releaseDrills p, rfl⟩

/-- The early stop closes the drill without an all-clear length: no claim is held, and the record has the timers. -/
theorem Part.earlyStop_closes (hnone : r.noneRunning = true) (hlength : r.fields.allclear = 0) :
    (p.enterMuster true).noDrills ∧
    (p.enterMuster true).closedWith (DrillRun.record { r with phase := .muster, phaseStart := p.now } r.endCause) ∧
    (p.noDrills → (p.enterMuster true).outbox = p.outbox ++ [
      .notice (.drillPhase r.head (.muster true) (some .muster)),
      .notice (.drillResult (DrillRun.record { r with phase := .muster, phaseStart := p.now } r.endCause))]) := by
  have hrun : ((p.releaseDrills.withRun { r with phase := .muster, phaseStart := p.now }).note
      (.drillPhase r.head (.muster true) (some .muster))).drill.run = some { r with phase := .muster, phaseStart := p.now } := rfl
  rw [Part.enterMuster_none h true hnone, Part.musterEnd_eq hrun, if_neg (by simp [hlength])]
  refine ⟨Part.noDrills_of_arb p.noDrills_releaseDrills (Part.arb_closeDrill _ _), Part.closedWith_closeDrill hrun _, fun hfree => ?_⟩
  obtain ⟨_, _, heq, -⟩ := Part.closeDrill_eq hrun r.endCause
  refine (congrArg Part.outbox heq).trans ?_
  rw [Part.releaseDrills_none hfree]
  simp [Part.withRun]

/-! ### Edges -/

theorem Part.clearEdge_stands {b : Nat} (hstands : ¬ (r.phase = .evacuate ∨ r.phase = .muster) ∨
    ∀ x, r.timer b = some x → x.state.isRunning = false) : p.clearEdge b = p := by
  unfold Part.clearEdge
  rw [h]
  refine if_neg fun hcond => ?_
  rw [Bool.and_eq_true, Bool.or_eq_true, beq_iff_eq, beq_iff_eq, Option.any_eq_true] at hcond
  obtain ⟨hphase, x, hx, hrun⟩ := hcond
  rcases hstands with hnot | hstill
  · exact hnot hphase
  · rw [hstill x hx] at hrun; cases hrun

theorem Part.clearEdge_runs {b : Nat} {x : BuildingTimer} (hphase : r.phase = .evacuate ∨ r.phase = .muster)
    (hx : r.timer b = some x) (hrun : x.state.isRunning = true) :
    p.clearEdge b = (p.depart b .cleared (p.drillTenths r)).testTimers := by
  unfold Part.clearEdge
  rw [h]
  refine if_pos ?_
  rw [Bool.and_eq_true, Bool.or_eq_true, beq_iff_eq, beq_iff_eq, hx]
  exact ⟨hphase, hrun⟩

theorem Part.countEdges_timed (hphase : r.phase = .evacuate ∨ r.phase = .muster) (b n : Nat) : p.countEdges b n =
    p.withRun { r with timers := r.changed b fun y => { y with muster := min (y.muster + n) 65535 } } := by
  unfold Part.countEdges
  rw [h]
  dsimp only
  rw [if_pos (by simpa using hphase), Part.modRun_eq h, DrillRun.modTimer_eq]
  rfl

theorem Part.countEdges_untimed (hphase : ¬ (r.phase = .evacuate ∨ r.phase = .muster)) (b n : Nat) : p.countEdges b n = p := by
  unfold Part.countEdges
  rw [h]
  exact if_neg (by simpa using hphase)

/-! ### Yields -/

theorem Part.drillYield_elsewhere {b : Nat} (hx : r.timer b = none) : p.drillYield b = p := by
  unfold Part.drillYield
  rw [h]
  dsimp only
  rw [hx]

section
variable {b : Nat} {x : BuildingTimer} (hx : r.timer b = some x)
include hx

theorem Part.drillYield_allclear (hphase : r.phase = .allclear) : p.drillYield b = p.withRun { r with barred := b :: r.barred } := by
  rw [← Part.modRun_eq h fun r => { r with barred := b :: r.barred }]
  unfold Part.drillYield
  rw [h]
  dsimp only
  rw [hx, hphase]

theorem Part.drillYield_prealert (hphase : r.phase = .prealert) : p.drillYield b =
    (p.withRun { r with timers := r.departs b .yielded 0, barred := b :: r.barred }).testTimers := by
  generalize hafter : Part.withRun _ _ = after
  unfold Part.drillYield
  rw [h]
  dsimp only
  rw [hx, hphase]
  dsimp only
  rw [Part.modRun_eq h, Part.modRun_eq rfl, DrillRun.modTimer_eq, ← hafter]
  rfl

theorem Part.drillYield_timed (hphase : r.phase = .evacuate ∨ r.phase = .muster) : p.drillYield b =
    (if x.state.isRunning then (p.withRun { r with barred := b :: r.barred }).depart b .yielded (p.drillTenths r)
      else p.withRun { r with barred := b :: r.barred }).testTimers := by
  unfold Part.drillYield
  rw [h]
  dsimp only
  rw [hx]
  dsimp only
  rw [Part.modRun_eq h]
  rcases hphase with hph | hph <;> rw [hph] <;> rfl

/-- The probes of a building that has yielded are not judged any more (R100). -/
def Part.spares (p : Part) (r : DrillRun) (b : Nat) : List Probe :=
  r.probes.map fun y => if (p.rosterAt y.position).building = some b
    then { y with judged := false, seen := if y.seen.isSome then y.seen else some 3 } else y

omit h hx in
theorem Probe.spared_eq (y : Probe) : y.spared = { y with judged := false, seen := if y.seen.isSome then y.seen else some 3 } := by
  cases hs : y.seen <;> simp [Probe.spared, hs]

omit h hx in
/-- Handing the next probe reaches the line alone. -/
theorem Part.handProbe_touches (p : Part) : ∃ e, p.handProbe = { p with line := e } := by
  unfold Part.handProbe
  (repeat' split) <;> exact ⟨_, rfl⟩

/-- In CHECKING, while a probe that is judged awaits its echo, the probing goes on. -/
theorem Part.drillYield_checking (hphase : r.phase = .checking) (hprobing : r.probing = true)
    (hawaited : ∃ y ∈ p.spares r b, y.judged = true ∧ y.echoed = false ∧ ∀ n, y.seen = some n → n < 3) :
    (p.drillYield b).drill = (p.withRun
      { r with timers := r.departs b .yielded 0, barred := b :: r.barred, probes := p.spares r b }).drill := by
  have hspares : (r.probes.map fun y => if (p.rosterAt y.position).building == some b then y.spared else y) = p.spares r b := by
    simp only [Part.spares, beq_iff_eq, Probe.spared_eq]
  have hwaits : DrillRun.probesDone { r with
      timers := r.departs b .yielded 0, barred := b :: r.barred, probes := p.spares r b } = false := by
    obtain ⟨y, hy, hjudged, hechoed, hseen⟩ := hawaited
    refine Bool.eq_false_iff.mpr fun hdone => ?_
    have := List.all_eq_true.mp hdone y hy
    simp only [hjudged, hechoed, Bool.not_true, Bool.or_self, Bool.false_or, Option.any_eq_true, decide_eq_true_eq] at this
    obtain ⟨n, hn, hle⟩ := this
    exact absurd (hseen n hn) (by omega)
  generalize hafter : Part.withRun p _ = after
  have hrun : after.drill.run = some { r with
      timers := r.departs b .yielded 0, barred := b :: r.barred, probes := p.spares r b } := by rw [← hafter]; rfl
  unfold Part.drillYield
  rw [h]
  dsimp only
  rw [hx, hphase]
  dsimp only
  rw [Part.modRun_eq h, Part.modRun_eq (r := { r with barred := b :: r.barred }) rfl, DrillRun.modTimer_eq]
  generalize hq : Part.withRun (Part.withdraw _ _ _) _ = q
  have hqrun : q.drill = after.drill := by rw [← hq, ← hafter, ← hspares]; rfl
  obtain ⟨e, he⟩ := q.handProbe_touches
  rw [he]
  have hwoken : Part.testWoken { q with line := e } = { q with line := e } := by
    unfold Part.testWoken
    rw [show ({ q with line := e } : Part).drill = _ from hqrun, hrun]
    exact if_neg (by simp [hprobing])
  have hprobes : Part.testProbes { q with line := e } = { q with line := e } := by
    unfold Part.testProbes
    rw [show ({ q with line := e } : Part).drill = _ from hqrun, hrun]
    exact if_neg (by simp [hwaits])
  rw [hwoken, hprobes]
  exact hqrun

end

/-! ### Drop-outs -/

omit h in
theorem Part.inScope_iff {scope : List Nat} {pos : Nat} : p.inScope scope pos = true ↔
    pos < p.chain.length ∧ ∃ b ∈ scope, (p.rosterAt pos).building = some b := by
  simp only [Part.inScope, Bool.and_eq_true, decide_eq_true_eq, Option.any_eq_true, List.contains_iff_mem]
  constructor
  · rintro ⟨hlen, b, hb, hmem⟩; exact ⟨hlen, b, hmem, hb⟩
  · rintro ⟨hlen, b, hmem, hb⟩; exact ⟨hlen, b, hb, hmem⟩

theorem Part.dropOut_outside {pos : Nat} (hout : p.inScope r.fields.scope pos = false) : p.dropOut pos = p := by
  unfold Part.dropOut
  rw [h]
  exact if_neg (by simp [hout])

/-- Whether every scope node is LOST or ABSENT. -/
def Part.scopeGone (p : Part) (r : DrillRun) : Bool :=
  (p.positions.filter (p.inScope r.fields.scope)).all fun q => p.node q == .lost || p.node q == .absent

/-- The timers after a scope node of a building has dropped out. -/
def DrillRun.droppedOut (r : DrillRun) (b : Option Nat) : List BuildingTimer :=
  r.timers.map fun y =>
    if (r.phase = .prealert ∨ r.phase = .evacuate ∨ r.phase = .muster) ∧ b = some y.building then
      { y with partialFlag := true, state := if y.state.isRunning = true then .partialRun else y.state } else y

omit h in
theorem Part.scopeGone_iff : p.scopeGone r = true ↔
    ∀ q < 24, (q < p.chain.length ∧ ∃ b ∈ r.fields.scope, (p.rosterAt q).building = some b) → p.node q = .lost ∨ p.node q = .absent := by
  simp only [Part.scopeGone, List.all_eq_true, List.mem_filter, Part.positions, upTo, List.mem_range, Part.inScope_iff,
    Bool.or_eq_true, beq_iff_eq, lt_min_iff]
  constructor
  · exact fun hall q hq hscope => hall q ⟨⟨hscope.1, hq⟩, hscope⟩
  · exact fun hall q hq => hall q hq.1.2 hq.2

theorem Part.dropOut_inside {pos : Nat} (hin : p.inScope r.fields.scope pos = true) : p.dropOut pos =
    p.withRun { r with
      allLost := r.allLost || p.scopeGone r
      timers := r.droppedOut (p.rosterAt pos).building } := by
  obtain ⟨-, b, -, hb⟩ := Part.inScope_iff.mp hin
  have hpartial : (if r.phase == .prealert || r.phase == .evacuate || r.phase == .muster then
      p.setPartial ((p.rosterAt pos).building.getD 8) else p) =
      p.withRun { r with timers := r.droppedOut (p.rosterAt pos).building } := by
    rw [hb]
    by_cases hphase : r.phase = .prealert ∨ r.phase = .evacuate ∨ r.phase = .muster
    · rw [if_pos (by simpa [or_assoc] using hphase), Part.setPartial, Part.modRun_eq h, DrillRun.modTimer_eq]
      simp only [Option.getD_some, DrillRun.changed, DrillRun.droppedOut, hphase, true_and, Option.some.injEq, eq_comm (a := b)]
    · rw [if_neg (by simpa [or_assoc] using hphase)]
      simp only [DrillRun.droppedOut, hphase, false_and, if_false, List.map_id']
      exact (Part.withRun_self h).symm
  unfold Part.dropOut
  rw [h]
  dsimp only
  rw [if_pos hin, hpartial]
  change (if p.scopeGone r = true then _ else _) = _
  cases hgone : p.scopeGone r with
  | true =>
    rw [if_pos rfl, Part.modRun_eq rfl, Bool.or_true]
    rfl
  | false =>
    rw [if_neg (by simp), Bool.or_false]

end

end Sys2Proof.Machine
end

section
/-! SUPPORT. The drill timer's timed ends as events, and O52 (R89 to R101). -/

namespace Sys2Proof.Machine

/-! ### What an event of the drill timer leaves -/

/-- Everything but the drill timer, and within it the programs and the schedule, is as it was but for zones, announcements,
displays and commands. -/
def State.drillOnly (s t : State) : Prop :=
  State.sameOutside s t ∧ t.part.core = { s.part with drill := t.part.drill }.core ∧
    t.part.drill.programs = s.part.drill.programs ∧ t.part.drill.schedule = s.part.drill.schedule

/-- A drill has left its record, with its number and a cause. -/
def Part.recorded (p : Part) (number : Nat) (cause : DrillEnd) : Prop :=
  p.drill.run = none ∧ p.drill.records.length ≤ 4 ∧ (∀ pos < 24, (p.display pos).drill = false) ∧
    ∃ last, p.drill.records.getLast? = some last ∧ last.number = number ∧ last.cause = cause

theorem Part.closedWith.recorded {p : Part} {x : DrillRecord} (h : p.closedWith x) : p.recorded x.number x.cause :=
  ⟨h.run, h.few, h.displays, x, h.last, rfl, rfl⟩

/-- What a posting makes of the zones does not depend on the rest of the part that it begins with. -/
theorem Part.drillsPosted_congr {p b q : Part} {n g : Nat} {zs : List Nat} (harb : b.arb = p.arb) (hann : b.ann = p.ann)
    (hsites : p.sameSites b) (h : b.drillsPosted q zs n g) : p.drillsPosted q zs n g := by
  intro z hz
  have := h z hz
  simpa only [Part.zone_of_arb harb, hann, hsites.closedZone, hsites.able] using this

section
variable {p : Part} {r : DrillRun} (h : p.drill.run = some r)
include h

theorem Part.standing_enterEvacuate (b : Bool) : (p.enterEvacuate b).drill.standing = p.drill.standing := by
  rw [Part.drill_enterEvacuate h]; rfl

/-- While a timer runs and the limit has not come, a muster that is entered goes on. -/
theorem Part.enterMuster_goesOn (early : Bool) (hruns : ∃ x ∈ r.timers, x.state.isRunning = true)
    (hlimit : p.now < r.limitAt) : p.enterMuster early =
      (p.releaseDrills.withRun { r with phase := .muster, phaseStart := p.now }).note
        (.drillPhase r.head (.muster early) (some .muster)) := by
  rw [Part.enterMuster_eq h]
  exact Part.testMuster_goesOn rfl hruns (lt_of_eq_of_lt p.now_releaseDrills hlimit)

/-! ### The muster limit -/

theorem Part.run_unfinish (n : Nat) : (p.unfinish n).drill.run = some (r.fixed r.runners .unfinished n) := by
  rw [Part.unfinish_eq h]; rfl

theorem Part.says_unfinish (n : Nat) : p.says (p.unfinish n) (r.fixedNotices r.runners .unfinished n) := by
  rw [Part.unfinish_eq h]; exact ⟨rfl, rfl⟩

theorem Part.sameSites_unfinish (n : Nat) : p.sameSites (p.unfinish n) := by
  rw [Part.unfinish_eq h]; exact ⟨rfl, rfl, rfl, rfl⟩

theorem Part.now_unfinish (n : Nat) : (p.unfinish n).now = p.now := by
  rw [Part.unfinish_eq h]; rfl

theorem Part.ann_unfinish (n : Nat) : (p.unfinish n).ann = p.ann := by
  rw [Part.unfinish_eq h]; rfl

/-- ALLCLEAR is all that the all-clear sends where no announcement has or awaits a zone that it is posted to. -/
theorem Part.says_enterAllclear (hfree : ∀ z ∈ p.drillTargets r, p.unannounced z) : p.says p.enterAllclear
    [.drillPhase r.head (.allclear (p.claimable (p.drillTargets r))
      ((p.drillTargets r).length - p.claimable (p.drillTargets r))) (some .allclear)] := by
  rw [Part.enterAllclear_eq h]
  have hposts := Part.says_posts r.fields.allclearPattern r.program (p.drillTargets r)
    (p.withRun (r.cleared p.now p.drillElapsed)) fun z hz => ⟨Part.drillTargets_lt hz, hfree z hz⟩
  exact (hposts.trans (Part.says_note _ _)).of_silent rfl rfl

/-! ### The all-clear's end -/

/-- The all-clear's end releases the claims, withdraws the displays and closes the drill. -/
theorem Part.allclearEnd_due (hphase : r.phase = .allclear) (hdue : r.allclearAt ≤ p.now) : p.allclearEnd =
    (p.releaseDrills.displayList false p.releaseDrills.displayListed).closeDrill r.endCause := by
  unfold Part.allclearEnd
  rw [h]
  exact if_pos (by simp [hphase, hdue])

theorem Part.run_released : (p.releaseDrills.displayList false p.releaseDrills.displayListed).drill.run = some r := by
  obtain ⟨_, _, heq⟩ := Part.displayList_touches false p.releaseDrills.displayListed p.releaseDrills
  rw [heq]
  exact (congrArg DrillTimer.run p.drill_releaseDrills).trans h

omit h in
theorem Part.noDrills_withdrawn (p : Part) :
    (p.releaseDrills.displayList false p.releaseDrills.displayListed).noDrills := by
  obtain ⟨_, _, heq⟩ := Part.displayList_touches false p.releaseDrills.displayListed p.releaseDrills
  rw [heq]
  exact p.noDrills_releaseDrills

end

/-! ### The events -/

section
variable {s : State} {r : DrillRun} (hpow : s.powered = true) (hrun : s.part.drill.run = some r)
include hpow hrun

/-- The prealert's end: the evacuation starts, in the zones that hold the drill's claims. -/
theorem prealertEnd_evacuates (hphase : r.phase = .prealert) (hdue : r.prealertAt ≤ s.part.now) :
    ∃ t, exec .prealertEnd s = .next t ∧ State.drillOnly s t ∧
      t.part.drill.run = some { r.evacuates s.part.now with timers := r.timers.map BuildingTimer.begun } ∧
      (∀ z < 64, (t.part.zone z).drill.map (·.pattern) = (s.part.zone z).drill.map fun _ => r.fields.evacuation) ∧
      (∀ pos < 24, s.part.inScope r.fields.scope pos = true → (t.part.display pos).drill = true) ∧
      (s.part.settled → s.part.outbox = [] →
        (∀ z < 64, (s.part.zone z).drill.isSome = true → ∀ a, (s.part.zone z).ann = some a → a.state = .pending) →
        State.reports s t [] [.drillPhase r.head (.evacuate s.part.drillZones.length 0) (some .evacuate)]) := by
  have hf := Part.prealertEnd_due hrun hphase hdue
  obtain ⟨_, _, -, hdisplays⟩ := Part.enterEvacuate_eq hrun true
  refine ⟨_, rfl, event_drillFrame hpow (by rw [hf, Part.offDrill_enterEvacuate])
    (by rw [hf, Part.standing_enterEvacuate hrun]), ?_, fun z hz => ?_, fun pos hpos hin => ?_, fun hsettled hout hwaits => ?_⟩
  · rw [event_drill hpow, hf, Part.drill_enterEvacuate hrun]; rfl
  · rw [Zone.asked_pattern, event_asked hpow hz, hf, Part.pattern_enterEvacuate hrun hz, Zone.asked, Option.map_map,
      Option.map_map]
    rfl
  · rw [event_display hpow, hf]; exact hdisplays pos hpos hin
  · refine event_reports hpow hsettled hout ?_
    rw [hf]
    exact Part.says_enterEvacuate hrun (Part.says_changeDrills _ hwaits)

/-- A target reached: the timer is marked, and reported. -/
theorem targetReached_marks {b : Nat} {x : BuildingTimer} (hx : r.timer b = some x) (hdue : s.part.targetDue r x = true)
    (hsettled : s.part.settled) (hout : s.part.outbox = []) :
    ∃ t, exec (.targetReached b) s = .next t ∧ State.sameOutside s t ∧
      t.part = s.part.withRun { r with timers := r.timers.map fun y => if y.building = b then { y with overdue := true } else y } ∧
      State.reports s t [] [.drillOverdue r.head b (r.fields.target b) x.muster] := by
  have hf := Part.targetReached_due hrun hx hdue
  refine ⟨_, rfl, event_sameOutside _ s, ?_, event_reports hpow hsettled hout ?_⟩
  · rw [event_settled (f := fun p => p.targetReached b) hpow hsettled hf rfl]
    rw [← hout]
    rfl
  · rw [hf]
    exact (Part.says_note _ _).of_silent rfl rfl

/-- The tone's end: the run enters MUSTER, whose end is tested at once. -/
theorem toneEnd_musters (hphase : r.phase = .evacuate) (hdue : r.toneAt ≤ s.part.now) :
    ∃ t, exec .toneEnd s = .next t ∧ State.drillOnly s t ∧
      ((∃ x ∈ r.timers, x.state.isRunning = true) → s.part.now < r.limitAt →
        t.part.noDrills ∧ t.part.drill.run = some { r with phase := .muster, phaseStart := s.part.now }) ∧
      ∀ r', t.part.drill.run = some r' → r'.number = r.number ∧ (r'.phase = .muster ∨ r'.phase = .allclear) := by
  have hf := Part.toneEnd_due hrun hphase hdue
  have henter := Part.enterMuster_eq hrun false
  refine ⟨_, rfl, event_drillFrame hpow (by rw [hf, Part.offDrill_enterMuster]) (by rw [hf, Part.standing_enterMuster]),
    fun hruns hlimit => ?_, fun r' hr' => ?_⟩
  · have hstays := Part.enterMuster_goesOn hrun false hruns hlimit
    refine ⟨event_noDrills hpow ?_, ?_⟩
    · rw [hf, hstays]; exact Part.noDrills_releaseDrills _
    · rw [event_drill hpow, hf, hstays]; rfl
  · rw [event_drill hpow, hf, henter] at hr'
    exact Part.run_testMuster (r := { r with phase := .muster, phaseStart := s.part.now }) rfl rfl hr'

/-- The muster limit with an all-clear length: the timers that ran are UNFINISHED, and the all-clear is posted. -/
theorem musterLimit_clears (hphase : r.phase = .muster) (hdue : r.limitAt ≤ s.part.now) (hlength : 0 < r.fields.allclear) :
    ∃ header, (event Part.musterLimit s).part.drill.run =
        some ((r.fixed r.runners .unfinished (r.fields.muster * 10)).cleared s.part.now header) ∧
      ((r.timers.map (·.building)).Nodup →
        s.part.drillsPosted (event Part.musterLimit s).part (s.part.drillTargets r) r.fields.allclearPattern r.program ∧
        (s.part.settled → s.part.outbox = [] → (∀ z ∈ s.part.drillTargets r, s.part.unannounced z) →
          State.reports s (event Part.musterLimit s) [] (r.fixedNotices r.runners .unfinished (r.fields.muster * 10) ++
            [.drillPhase r.head (.allclear (s.part.claimable (s.part.drillTargets r))
              ((s.part.drillTargets r).length - s.part.claimable (s.part.drillTargets r))) (some .allclear)]))) := by
  have hrun' := Part.run_unfinish hrun (r.fields.muster * 10)
  have hsites := Part.sameSites_unfinish hrun (r.fields.muster * 10)
  have hann := Part.ann_unfinish hrun (r.fields.muster * 10)
  have harb := s.part.arb_unfinish (r.fields.muster * 10)
  have hf : s.part.musterLimit = (s.part.unfinish (r.fields.muster * 10)).enterAllclear := by
    rw [Part.musterLimit_due hrun hphase hdue, Part.musterEnd_eq hrun']
    exact if_pos hlength
  refine ⟨(s.part.unfinish (r.fields.muster * 10)).drillElapsed, ?_, fun hnodup => ?_⟩
  · rw [event_drill hpow, hf, Part.drill_enterAllclear hrun', Part.run_withRun, Part.now_unfinish hrun]
  · have htargets := Part.drillTargets_unfinished hnodup harb (r.fields.muster * 10)
    have hclear := Part.enterAllclear_eq hrun'
    rw [htargets] at hclear
    refine ⟨Part.drillsPosted_congr (b := (s.part.unfinish (r.fields.muster * 10)).withRun _) harb hann
      (hsites.trans ⟨rfl, rfl, rfl, rfl⟩) (event_drillsPosted hpow (by rw [hf, hclear]; rfl)
        (by rw [hf, hclear]; rfl) ?_), fun hsettled hout hfree => event_reports hpow hsettled hout ?_⟩
    · rw [hf, hclear]
      exact (Part.sameSites_posts _ _ _ _).trans ⟨rfl, rfl, rfl, rfl⟩
    · have hsays := Part.says_enterAllclear hrun' (by
        rw [htargets]
        intro z hz
        unfold Part.unannounced
        rw [Part.zone_of_arb harb]
        exact hfree z hz)
      have hcount : (s.part.unfinish (r.fields.muster * 10)).claimable (s.part.drillTargets r) =
          s.part.claimable (s.part.drillTargets r) := by simp only [Part.claimable, hsites.closedZone]
      rw [htargets, hcount] at hsays
      rw [hf]
      exact (Part.says_unfinish hrun _).trans hsays

/-- The muster limit without an all-clear length: the drill closes, the timers that ran being UNFINISHED. -/
theorem musterLimit_closes (hphase : r.phase = .muster) (hdue : r.limitAt ≤ s.part.now) (hlength : r.fields.allclear = 0) :
    (event Part.musterLimit s).part.closedWith
      ((r.fixed r.runners .unfinished (r.fields.muster * 10)).record r.endCause) := by
  refine event_closedWith hpow ?_
  have hrun' := Part.run_unfinish hrun (r.fields.muster * 10)
  rw [Part.musterLimit_due hrun hphase hdue, Part.musterEnd_eq hrun', if_neg]
  · exact Part.closedWith_closeDrill hrun' _
  · exact Nat.not_lt.mpr (le_of_eq hlength)

theorem musterLimit_drillOnly (hphase : r.phase = .muster) (hdue : r.limitAt ≤ s.part.now) :
    State.drillOnly s (event Part.musterLimit s) := by
  have hf := Part.musterLimit_due hrun hphase hdue
  exact event_drillFrame hpow (by rw [hf]; simp) (by rw [hf]; simp)

/-- The all-clear's end: no claim is left, and the drill has its record. -/
theorem allclearEnd_closes (hphase : r.phase = .allclear) (hdue : r.allclearAt ≤ s.part.now) :
    ∃ t, exec .allclearEnd s = .next t ∧ State.drillOnly s t ∧ t.part.noDrills ∧ t.part.recorded r.number r.endCause := by
  have hf := Part.allclearEnd_due hrun hphase hdue
  have hrun' := Part.run_released hrun
  refine ⟨_, rfl, event_drillFrame hpow (by rw [hf]; simp) ?_, event_noDrills hpow ?_,
    (event_closedWith (f := Part.allclearEnd) hpow (by rw [hf]; exact Part.closedWith_closeDrill hrun' r.endCause)).recorded⟩
  · obtain ⟨_, _, heq⟩ := Part.displayList_touches false s.part.releaseDrills.displayListed s.part.releaseDrills
    rw [hf, Part.standing_closeDrill, heq]
    exact congrArg DrillTimer.standing s.part.drill_releaseDrills
  · rw [hf]
    exact Part.noDrills_of_arb s.part.noDrills_withdrawn (Part.arb_closeDrill _ _)

end

end Sys2Proof.Machine
end

section
/-! SUPPORT. Departures and yields in a drill that sounds, and O52 (R91 to R100). -/

namespace Sys2Proof.Machine

/-! ### What an edge or a yield comes to -/

/-- A drill has closed with a cause, its record holding these timers. -/
def Part.closes (q : Part) (number : Nat) (cause : DrillEnd) (l : List BuildingTimer) : Prop :=
  q.drill.run = none ∧
    ∃ last, q.drill.records.getLast? = some last ∧ last.number = number ∧ last.cause = cause ∧ last.timers = l

theorem Part.closedWith.closes {p : Part} {x : DrillRecord} (h : p.closedWith x) : p.closes x.number x.cause x.timers :=
  ⟨h.run, x, h.last, rfl, rfl, rfl⟩

section
variable {p : Part} {r : DrillRun} (h : p.drill.run = some r)
include h

/-- When every building has yielded the drill closes with cause YIELDED. -/
theorem Part.testTimers_closes (hphase : r.phase = .prealert ∨ r.phase = .evacuate ∨ r.phase = .muster)
    (hall : ∀ y ∈ r.timers, y.state = .yielded) : p.testTimers.closes r.number .yielded r.timers := by
  rw [Part.testTimers_yielded h hphase (DrillRun.allYielded_iff.mpr hall)]
  exact (Part.closedWith_closeDrill (by rw [Part.drill_releaseDrills, h]) _).closes

section
variable {b : Nat} {x : BuildingTimer} (hx : r.timer b = some x) (hphase : r.phase = .evacuate ∨ r.phase = .muster)
  (hstate : x.state.isRunning = true)
include hx hphase hstate

/-- The CLEAR edge of a building, while another timer runs. -/
theorem Part.clearEdge_goesOn (hruns : ∃ y ∈ r.departs b .cleared (p.drillTenths r), y.state.isRunning = true)
    (hlimit : r.phase = .muster → p.now < r.limitAt) : p.clearEdge b =
      (p.withRun { r with timers := r.departs b .cleared (p.drillTenths r) }).note
        (.drillPhase r.head (.building { x with state := .cleared, elapsed := p.drillTenths r }) (some r.phase)) := by
  rw [Part.clearEdge_runs h hphase hx hstate, Part.depart_found h hx]
  exact Part.testTimers_goesOn rfl hphase hruns hlimit

/-- The CLEAR edge of the last building to stop in EVACUATE brings the early stop: the all-clear, if it has a length, and the
end of the drill otherwise. -/
theorem Part.clearEdge_last (hevacuate : r.phase = .evacuate)
    (hnone : ¬ ∃ y ∈ r.departs b .cleared (p.drillTenths r), y.state.isRunning = true) :
    (0 < r.fields.allclear → ∃ r', (p.clearEdge b).drill.run = some r' ∧ r'.phase = .allclear ∧ r'.phaseStart = p.now ∧
      r'.timers = r.departs b .cleared (p.drillTenths r)) ∧
    (r.fields.allclear = 0 → (p.clearEdge b).noDrills ∧
      (p.clearEdge b).closes r.number r.endCause (r.departs b .cleared (p.drillTenths r)) ∧
      (p.noDrills → ∃ record, (p.clearEdge b).outbox = p.outbox ++ [
        .notice (.drillPhase r.head (.building { x with state := .cleared, elapsed := p.drillTenths r }) (some r.phase)),
        .notice (.drillPhase r.head (.muster true) (some .muster)), .notice (.drillResult record)])) := by
  have hstill : DrillRun.noneRunning { r with timers := r.departs b .cleared (p.drillTenths r) } = true :=
    Bool.not_eq_false _ ▸ fun hrunning => hnone (DrillRun.noneRunning_false.mp hrunning)
  have hsome : DrillRun.allYielded { r with timers := r.departs b .cleared (p.drillTenths r) } = false :=
    Bool.eq_false_iff.mpr fun hall => by
      cases DrillRun.allYielded_iff.mp hall _ (DrillRun.mem_departs hx .cleared (p.drillTenths r))
  generalize hq : (p.withRun { r with timers := r.departs b .cleared (p.drillTenths r) }).note
    (.drillPhase r.head (.building { x with state := .cleared, elapsed := p.drillTenths r }) (some r.phase)) = q
  have hrun : q.drill.run = some { r with timers := r.departs b .cleared (p.drillTenths r) } := by rw [← hq]; rfl
  have hlast : p.clearEdge b = q.enterMuster true := by
    rw [Part.clearEdge_runs h hphase hx hstate, Part.depart_found h hx]
    exact (congrArg Part.testTimers hq).trans (Part.testTimers_last hrun hevacuate hsome hstill)
  rw [hlast]
  refine ⟨fun hlength => ?_, fun hlength => ?_⟩
  · obtain ⟨r', hr', hphase', hstart, htimers⟩ := Part.earlyStop_allclear hrun hstill hlength
    exact ⟨r', hr', hphase', by rw [hstart, ← hq]; rfl, htimers⟩
  · obtain ⟨hreleased, hclosed, hsent⟩ := Part.earlyStop_closes hrun hstill hlength
    subst hq
    exact ⟨hreleased, hclosed.closes, fun hfree => ⟨_, (hsent hfree).trans (List.append_assoc ..)⟩⟩

theorem Part.drillYield_runs : p.drillYield b =
    ((p.withRun { r with timers := r.departs b .yielded (p.drillTenths r), barred := b :: r.barred }).note
      (.drillPhase r.head (.building { x with state := .yielded, elapsed := p.drillTenths r }) (some r.phase))).testTimers := by
  rw [Part.drillYield_timed h hx hphase, if_pos hstate,
    Part.depart_found (r := { r with barred := b :: r.barred }) (p.run_withRun _) hx]
  rfl

end

/-- A yield of a building whose timer no longer runs. -/
theorem Part.drillYield_stopped {b : Nat} {x : BuildingTimer} (hx : r.timer b = some x)
    (hphase : r.phase = .evacuate ∨ r.phase = .muster) (hstate : x.state.isRunning = false)
    (hruns : ∃ y ∈ r.timers, y.state.isRunning = true) (hlimit : r.phase = .muster → p.now < r.limitAt) :
    p.drillYield b = p.withRun { r with barred := b :: r.barred } := by
  rw [Part.drillYield_timed h hx hphase, if_neg (by simp [hstate])]
  exact Part.testTimers_goesOn (p.run_withRun _) hphase hruns hlimit

end

/-! ### O52 -/

/-- Settles O52: each timed end by the equation of its event, and each edge, yield and drop-out by what the test of the timers
that follows it finds. -/
theorem drillTimedEnds : Obligations.DrillTimedEnds := by
  refine ⟨fun s r hpow hrun => ⟨fun hphase hdue => ?_, fun b e x hsettled hout hphase he hx hstate hoverdue htarget => ?_,
    fun e hphase he hdue => ?_, fun e hphase he hdue => ?_, fun hphase hdue => allclearEnd_closes hpow hrun hphase hdue⟩,
    fun p r hrun => ⟨fun b x hx => ⟨fun hstands => ?_, fun htimed hstate => ⟨fun hruns hlimit => ?_, fun hnone hphase => ?_⟩,
      fun htimed n => Part.countEdges_timed hrun htimed b n, fun hphase => Part.drillYield_allclear hrun hx hphase,
      fun hphase => ?_, fun htimed hstate => ?_,
      fun htimed hstate hruns hlimit => Part.drillYield_stopped hrun hx htimed hstate hruns hlimit,
      fun hphase hprobing hawaited => Part.drillYield_checking hrun hx hphase hprobing hawaited⟩,
      fun b n htimed => ⟨Part.clearEdge_stands hrun (.inl htimed), Part.countEdges_untimed hrun htimed b n⟩,
      fun b hx => Part.drillYield_elsewhere hrun hx, fun pos => ⟨fun hout => ?_, fun hin => ?_⟩⟩⟩
  case refine_1 =>
    obtain ⟨t, hexec, hframe, hrun', hpatterns, hdisplays, hreports⟩ := prealertEnd_evacuates hpow hrun hphase hdue
    refine ⟨t, _, hexec, hframe, hrun', rfl, rfl, rfl, rfl, ?_, hpatterns, hdisplays, hreports⟩
    exact List.map_congr_left fun y _ => y.begun_eq
  case refine_2 =>
    refine targetReached_marks hpow hrun hx ?_ hsettled hout
    simp only [Part.targetDue, Part.drillTenths, he, hstate, hoverdue, DrillRun.timer_building hx]
    simpa [hphase, unitsPerTenth] using htarget
  case refine_3 =>
    obtain ⟨t, hexec, hframe, hgoes, hphases⟩ := toneEnd_musters hpow hrun hphase (by rw [DrillRun.toneAt, he]; exact hdue)
    exact ⟨t, hexec, hframe, fun hruns hlimit => hgoes hruns (by rw [DrillRun.limitAt, he]; exact hlimit), hphases⟩
  case refine_4 =>
    have hlimit : r.limitAt ≤ s.part.now := by rw [DrillRun.limitAt, he]; exact hdue
    refine ⟨_, rfl, musterLimit_drillOnly hpow hrun hphase hlimit, fun hlength => ?_, fun hlength => ?_⟩
    · obtain ⟨header, hrun', hposted⟩ := musterLimit_clears hpow hrun hphase hlimit hlength
      refine ⟨_, hrun', rfl, rfl, rfl, ⟨fun y hy => DrillRun.fixed_runners hy, fun hnodup => DrillRun.timers_fixed_runners hnodup _⟩,
        fun hnodup => ?_⟩
      rw [DrillRun.fixedNotices_runners hnodup, hphase] at hposted
      exact hposted hnodup
    · have hclosed := musterLimit_closes hpow hrun hphase hlimit hlength
      refine ⟨hclosed.recorded, fun last hlast => ?_⟩
      obtain rfl : _ = last := Option.some.inj (hclosed.last.symm.trans hlast)
      exact ⟨fun y hy => DrillRun.fixed_runners hy, fun hnodup => DrillRun.timers_fixed_runners hnodup _⟩
  case refine_5 =>
    refine Part.clearEdge_stands hrun (hstands.imp_right fun hstate y hy => ?_)
    obtain rfl : x = y := Option.some.inj (hx.symm.trans hy)
    exact hstate
  case refine_6 => exact Part.clearEdge_goesOn hrun hx htimed hstate hruns hlimit
  case refine_7 =>
    obtain ⟨hclears, hcloses⟩ := Part.clearEdge_last hrun hx htimed hstate hphase hnone
    refine ⟨fun z hz => ?_, hclears, fun hlength => ?_⟩
    · rcases Nat.eq_zero_or_pos r.fields.allclear with hlength | hlength
      · obtain ⟨hreleased, -⟩ := hcloses hlength
        exact .inr (hreleased z hz)
      · exact .inl hlength
    · obtain ⟨-, hended⟩ := hcloses hlength
      exact hended
  case refine_8 =>
    rw [Part.drillYield_prealert hrun hx hphase]
    refine ⟨fun hsome => ?_, fun hall => Part.testTimers_closes (p.run_withRun _) (.inl hphase) hall⟩
    exact Part.testTimers_prealert rfl hphase (Bool.eq_false_iff.mpr fun hall => hsome (DrillRun.allYielded_iff.mp hall))
  case refine_9 =>
    rw [Part.drillYield_runs hrun hx htimed hstate]
    exact ⟨fun hruns hlimit => Part.testTimers_goesOn rfl htimed hruns hlimit,
      fun hall => Part.testTimers_closes
        (r := { r with timers := r.departs b .yielded (p.drillTenths r), barred := b :: r.barred }) rfl (.inr htimed) hall⟩
  case refine_10 =>
    refine Part.dropOut_outside hrun (Bool.eq_false_iff.mpr fun hin => hout (Part.inScope_iff.mp hin))
  case refine_11 =>
    refine ⟨_, Part.dropOut_inside hrun (Part.inScope_iff.mpr hin), ?_, rfl⟩
    rw [Bool.or_eq_true, Part.scopeGone_iff]

end Sys2Proof.Machine
end

section
/-! SUPPORT. The readiness check: what it finds and what it comes to (R86 to R90). -/

namespace Sys2Proof.Machine

/-! ### The sounding begins -/

/-- The pattern that a drill begins to sound with: the evacuation's, or the chime before it. -/
def DrillRun.opening (r : DrillRun) : Nat := if r.fields.prealert = 0 then r.fields.evacuation else r.fields.chime.getD 0

/-- The phase that a drill begins to sound in. -/
def DrillRun.openingPhase (r : DrillRun) : DrillPhase := if r.fields.prealert = 0 then .evacuate else .prealert

/-- The run as it begins to sound, before its timers start. -/
def DrillRun.opened (r : DrillRun) (now : Nat) : DrillRun :=
  if r.fields.prealert = 0 then r.evacuates now else { r with phase := .prealert, phaseStart := now }

/-- The run as it sounds. -/
def DrillRun.sounded (r : DrillRun) (now : Nat) : DrillRun :=
  if r.fields.prealert = 0 then { r.evacuates now with timers := r.timers.map BuildingTimer.begun }
  else { r with phase := .prealert, phaseStart := now }

/-- The event that reports the sounding, with the zones claimed and refused. -/
def DrillRun.openingEvent (r : DrillRun) (claimed refused : Nat) : DrillEvent :=
  if r.fields.prealert = 0 then .evacuate claimed refused else .prealert claimed refused

/-- A part whose drill timer another part has as well, with a run in place. -/
theorem Part.withRun_of_drill {p q : Part} {r : DrillRun} (h : q.drill = (p.withRun r).drill) (x : DrillRun) :
    q.withRun x = { q with drill := (p.withRun x).drill } := by
  simp only [Part.withRun, h]

theorem Part.evacuated_posts (p : Part) (r : DrillRun) : p.evacuated r false =
    { (p.withRun (r.evacuates p.now)).each (p.drillTargets r) (Part.post r.fields.evacuation r.program) with
      drill := (p.withRun { r.evacuates p.now with timers := r.timers.map BuildingTimer.begun }).drill } :=
  Part.withRun_of_drill (Part.drill_of_core (Part.core_posts _ _ _ _)) _

section
variable {p : Part} {r : DrillRun} (h : p.drill.run = some r)
include h

/-- The drill begins to sound by a posting; after it only displays, the drill timer and the line change. -/
theorem Part.enterSounding_posts : ∃ c e, p.enterSounding =
    { (p.withRun (r.opened p.now)).each (p.drillTargets r) (Part.post r.opening r.program) with
      drill := (p.withRun (r.sounded p.now)).drill
      clk := c
      line := e
      outbox := ((p.withRun (r.opened p.now)).each (p.drillTargets r) (Part.post r.opening r.program)).outbox ++
        [.notice (.drillPhase r.head (r.openingEvent (p.claimable (p.drillTargets r))
          ((p.drillTargets r).length - p.claimable (p.drillTargets r))) (some r.openingPhase))] } := by
  rw [Part.enterSounding_eq h]
  simp only [DrillRun.opening, DrillRun.opened, DrillRun.sounded, DrillRun.openingEvent, DrillRun.openingPhase]
  by_cases hzero : r.fields.prealert = 0
  · obtain ⟨c, e, heq, -⟩ := Part.enterEvacuate_eq h false
    simp only [if_pos hzero, heq, p.evacuated_posts r]
    exact ⟨c, e, rfl⟩
  · have hcore := Part.drill_of_core (Part.core_posts (r.fields.chime.getD 0) r.program (p.drillTargets r)
      (p.withRun { r with phase := .prealert, phaseStart := p.now }))
    simp only [if_neg hzero]
    exact ⟨_, _, by rw [← hcore]; rfl⟩

theorem Part.drill_enterSounding : p.enterSounding.drill = (p.withRun (r.sounded p.now)).drill := by
  obtain ⟨_, _, heq⟩ := Part.enterSounding_posts h
  rw [heq]

theorem Part.display_enterSounding (hzero : r.fields.prealert = 0) {pos : Nat} (hpos : pos < 24)
    (hin : p.inScope r.fields.scope pos = true) : (p.enterSounding.display pos).drill = true := by
  obtain ⟨_, _, -, hdisplays⟩ := Part.enterEvacuate_eq h false
  rw [Part.enterSounding_eq h, if_pos hzero]
  exact hdisplays pos hpos hin

/-- The sounding's notice is all that it sends where no announcement has or awaits a zone that it is posted to. -/
theorem Part.says_enterSounding (hfree : ∀ z ∈ p.drillTargets r, p.unannounced z) : p.says p.enterSounding
    [.drillPhase r.head (r.openingEvent (p.claimable (p.drillTargets r))
      ((p.drillTargets r).length - p.claimable (p.drillTargets r))) (some r.openingPhase)] := by
  obtain ⟨hann, hout⟩ := Part.says_posts r.opening r.program (p.drillTargets r) (p.withRun (r.opened p.now))
    fun z hz => ⟨Part.drillTargets_lt hz, hfree z hz⟩
  obtain ⟨_, _, heq⟩ := Part.enterSounding_posts h
  rw [heq]
  refine ⟨hann, ?_⟩
  change Part.outbox (Part.each _ _ _) ++ _ = _
  rw [hout]
  simp [Part.withRun]

end

/-! ### The result -/

/-- The run with the timers of the buildings that are not ready marked partial. -/
def DrillRun.marked (r : DrillRun) (short : List Nat) : DrillRun :=
  { r with timers := r.timers.map fun y => { y with partialFlag := y.partialFlag || short.contains y.building } }

theorem DrillRun.marked_nil (r : DrillRun) : r.marked [] = r := by
  simp [DrillRun.marked]

/-- The scheduled entries after a run that an entry started has not been ready. -/
def DrillTimer.unready (d : DrillTimer) (o : DrillOrigin) : List ScheduleEntry :=
  match o with
  | .scheduled m => d.schedule.map fun e =>
      if minuteMoment e.day e.minute == m && e.state == .started then { e with state := .notReady } else e
  | .request => d.schedule

section
variable {p : Part} {r : DrillRun} (h : p.drill.run = some r)
include h

theorem Part.checkResult_yielded (hall : r.allYielded = true) : p.checkResult =
    (p.note (.drillPhase r.head (.ready (p.readiness r)) none)).closeDrill .yielded := by
  unfold Part.checkResult
  rw [h]
  exact if_pos hall

/-- A check that every building has passed, or that is forced, starts the sounding. -/
theorem Part.checkResult_sounds (hsome : r.allYielded = false)
    (hgoes : (p.readiness r).notReady = [] ∨ r.forced = true) : p.checkResult =
      ((p.withRun (r.marked (p.readiness r).notReady)).note (.drillPhase r.head
        (if (p.readiness r).notReady = [] then .ready (p.readiness r) else .notReady (p.readiness r))
        (some r.openingPhase))).enterSounding := by
  have hmark : p.modRun (fun r' => { r' with timers := r.timers.map fun t =>
      { t with partialFlag := t.partialFlag || (p.readiness r).notReady.any fun b => b == t.building } }) =
      p.withRun (r.marked (p.readiness r).notReady) := by
    rw [Part.modRun_eq h]
    simp only [DrillRun.marked, List.any_beq']
  unfold Part.checkResult
  rw [h]
  dsimp only
  rw [if_neg (by simp [hsome])]
  by_cases hshort : (p.readiness r).notReady = []
  · rw [if_pos (by simp [hshort]), if_pos hshort, hshort, DrillRun.marked_nil, Part.withRun_self h]
    rfl
  · rw [if_neg (by simpa using hshort), if_neg hshort, if_pos (hgoes.resolve_left hshort), ← hmark]
    simp only [Part.modRun, h]
    rfl

/-- A run that is not ready and not forced ends without a record. -/
theorem Part.checkResult_ends (hsome : r.allYielded = false) (hshort : (p.readiness r).notReady ≠ [])
    (hforced : r.forced = false) : p.checkResult =
      ((p.setSchedule (p.drill.unready r.origin)).note (.drillPhase r.head (.notReady (p.readiness r)) none)).endRun r := by
  unfold Part.checkResult
  rw [h]
  dsimp only
  rw [if_neg (by simp [hsome]), if_neg (by simpa using hshort), if_neg (by simp [hforced])]
  cases ho : r.origin <;> rfl

end

end Sys2Proof.Machine
end

section
/-! SUPPORT. What becomes of a drill in CHECKING: the result of the check, and the probing before it (R86 to R88). -/

namespace Sys2Proof.Machine

/-! ### The drill timer after the check -/

section
variable {p : Part} {r : DrillRun} (h : p.drill.run = some r)
include h

theorem Part.drill_checkResult_yielded (hall : r.allYielded = true) :
    p.checkResult.drill = p.drill.closed (r.record .yielded) := by
  rw [Part.checkResult_yielded h hall]
  exact Part.drill_closeDrill (p := p.note _) h _

theorem Part.drill_checkResult_sounds (hsome : r.allYielded = false)
    (hgoes : (p.readiness r).notReady = [] ∨ r.forced = true) :
    p.checkResult.drill = (p.withRun ((r.marked (p.readiness r).notReady).sounded p.now)).drill := by
  rw [Part.checkResult_sounds h hsome hgoes]
  exact Part.drill_enterSounding (p := Part.note _ _) rfl

theorem Part.drill_checkResult_ends (hsome : r.allYielded = false) (hshort : (p.readiness r).notReady ≠ [])
    (hforced : r.forced = false) :
    p.checkResult.drill = { p.drill with run := none, schedule := p.drill.unready r.origin } := by
  obtain ⟨_, heq⟩ := Part.endRun_touches
    ((p.setSchedule (p.drill.unready r.origin)).note (.drillPhase r.head (.notReady (p.readiness r)) none)) r
  rw [Part.checkResult_ends h hsome hshort hforced, heq]
  rfl

theorem Part.says_checkResult_yielded (hall : r.allYielded = true) : p.says p.checkResult
    [.drillPhase r.head (.ready (p.readiness r)) none, .drillResult (r.record .yielded)] := by
  obtain ⟨_, _, heq, -⟩ := Part.closeDrill_eq (p := p.note (.drillPhase r.head (.ready (p.readiness r)) none)) h .yielded
  rw [Part.checkResult_yielded h hall, heq]
  exact ⟨rfl, by simp⟩

theorem Part.says_checkResult_ends (hsome : r.allYielded = false) (hshort : (p.readiness r).notReady ≠ [])
    (hforced : r.forced = false) : p.says p.checkResult [.drillPhase r.head (.notReady (p.readiness r)) none] := by
  obtain ⟨_, heq⟩ := Part.endRun_touches
    ((p.setSchedule (p.drill.unready r.origin)).note (.drillPhase r.head (.notReady (p.readiness r)) none)) r
  rw [Part.checkResult_ends h hsome hshort hforced, heq]
  exact ⟨rfl, rfl⟩

end

/-! ### What a run in CHECKING keeps -/

/-- What a run has from its start to its end. -/
def DrillRun.identity (r : DrillRun) : Nat × Nat × Program × Bool × DrillOrigin × Nat × Option CampusTime :=
  (r.number, r.program, r.fields, r.forced, r.origin, r.accepted, r.startTime)

/-- From `d` to `e` a run has been checked: it is the same run if it is still there, and an entry that started it is NOT_READY
only if it is not. -/
structure DrillTimer.checks (d e : DrillTimer) (r : DrillRun) : Prop where
  run : ∀ r', e.run = some r' → r'.identity = r.identity
  programs : e.programs = d.programs
  runCounter : e.runCounter = d.runCounter
  schedule : e.schedule = d.schedule ∨ (e.run = none ∧ e.schedule = d.unready r.origin)

/-- A timer that holds a run of the same identity, and whose programs, schedule and counter stand. -/
theorem DrillTimer.checks_of_standing {d e : DrillTimer} {r : DrillRun} (h : e.standing = d.standing)
    (hrun : ∀ r', e.run = some r' → r'.identity = r.identity) : d.checks e r := by
  obtain ⟨hprograms, hschedule, hcounter⟩ := DrillTimer.standing_fields h
  exact ⟨hrun, hprograms, hcounter, .inl hschedule⟩

theorem DrillRun.identity_sounded (r : DrillRun) (now : Nat) : (r.sounded now).identity = r.identity := by
  unfold DrillRun.sounded; split <;> rfl

theorem DrillRun.identity_fields {r r' : DrillRun} (h : r'.identity = r.identity) : r'.number = r.number ∧
    r'.program = r.program ∧ r'.fields = r.fields ∧ r'.forced = r.forced ∧ r'.origin = r.origin ∧
    r'.accepted = r.accepted ∧ r'.startTime = r.startTime := by
  simpa only [DrillRun.identity, Prod.mk.injEq] using h

theorem Part.checks_checkResult {p : Part} {r : DrillRun} (h : p.drill.run = some r) : p.drill.checks p.checkResult.drill r := by
  cases hall : r.allYielded with
  | true =>
    rw [Part.drill_checkResult_yielded h hall]
    exact DrillTimer.checks_of_standing rfl fun r' hr' => by cases hr'
  | false =>
    by_cases hgoes : (p.readiness r).notReady = [] ∨ r.forced = true
    · rw [Part.drill_checkResult_sounds h hall hgoes]
      refine DrillTimer.checks_of_standing rfl fun r' hr' => ?_
      obtain rfl := Option.some.inj hr'
      exact DrillRun.identity_sounded _ _
    · obtain ⟨hshort, hforced⟩ := not_or.mp hgoes
      rw [Part.drill_checkResult_ends h hall hshort (by simpa using hforced)]
      exact ⟨fun r' hr' => (by cases hr'), rfl, rfl, .inr ⟨rfl, rfl⟩⟩

/-! ### The probing -/

/-- The buildings that a check judges. -/
def DrillRun.judged (r : DrillRun) : List Nat := (r.timers.filter fun x => x.state != .yielded).map (·.building)

/-- The nodes that a check probes. -/
def Part.probedNodes (p : Part) (r : DrillRun) : List Nat :=
  p.positions.filter fun pos => (p.rosterAt pos).building.any r.judged.contains && (p.node pos).isActive

/-- The probes of nodes, numbered on from a counter. -/
def freshProbes (counter : Nat) (nodes : List Nat) : List Probe :=
  nodes.mapIdx fun k pos => ⟨pos, (counter + k) % 255 + 1, none, false, true⟩

/-- The run as its probing begins. -/
def DrillRun.probed (r : DrillRun) (probes : List Probe) : DrillRun := { r with probing := true, probes := probes }

/-- The part as its probes are numbered. -/
def Part.numbered (p : Part) (r : DrillRun) (nodes : List Nat) : Part :=
  let probes := freshProbes p.drill.probeCounter nodes
  { p with drill := { p.drill with
    probeCounter := if probes.isEmpty then p.drill.probeCounter else (p.drill.probeCounter + probes.length - 1) % 255 + 1
    run := some (r.probed probes) } }

theorem DrillRun.probesDone_fresh {r : DrillRun} {counter : Nat} {nodes : List Nat} (h : nodes ≠ []) :
    (r.probed (freshProbes counter nodes)).probesDone = false := by
  obtain ⟨pos, nodes, rfl⟩ := List.exists_cons_of_ne_nil h
  simp [DrillRun.probesDone, DrillRun.probed, freshProbes, List.mapIdx_cons]

theorem Part.testProbes_waits {p : Part} {r : DrillRun} (h : p.drill.run = some r) (hwaits : r.probesDone = false) :
    p.testProbes = p := by
  unfold Part.testProbes
  rw [h]
  exact if_neg (by simp [hwaits])

theorem Part.testProbes_done {p : Part} {r : DrillRun} (h : p.drill.run = some r) (hphase : r.phase = .checking)
    (hprobing : r.probing = true) (hdone : r.probesDone = true) : p.testProbes = p.checkResult := by
  unfold Part.testProbes
  rw [h]
  exact if_pos (by simp [hphase, hprobing, hdone])

section
variable {p : Part} {r : DrillRun} (h : p.drill.run = some r)
include h

theorem Part.beginProbing_eq : p.beginProbing =
    (p.numbered r (p.probedNodes r)).handProbe.testProbes := by
  unfold Part.beginProbing
  rw [h]
  simp only [Part.modRun, h]
  rfl

/-- With nodes to probe the probing begins: the run holds the probes, and the first is handed. -/
theorem Part.beginProbing_some (hnodes : p.probedNodes r ≠ []) :
    ∃ e, p.beginProbing = { p.numbered r (p.probedNodes r) with line := e } := by
  obtain ⟨e, he⟩ := Part.handProbe_touches (p.numbered r (p.probedNodes r))
  refine ⟨e, ?_⟩
  rw [Part.beginProbing_eq h, he]
  exact Part.testProbes_waits rfl (DrillRun.probesDone_fresh hnodes)

/-- With no node to probe the check has its result at once. -/
theorem Part.beginProbing_none (hphase : r.phase = .checking) (hnodes : p.probedNodes r = []) :
    p.beginProbing = (p.withRun (r.probed [])).checkResult := by
  rw [Part.beginProbing_eq h, hnodes, show (p.numbered r []).handProbe = p.withRun (r.probed []) from rfl]
  exact Part.testProbes_done rfl hphase rfl rfl

theorem Part.checks_beginProbing (hphase : r.phase = .checking) : p.drill.checks p.beginProbing.drill r := by
  by_cases hnodes : p.probedNodes r = []
  · rw [Part.beginProbing_none h hphase hnodes]
    obtain ⟨hrun, hprograms, hcounter, hschedule⟩ := Part.checks_checkResult (p.run_withRun (r.probed []))
    exact ⟨hrun, hprograms, hcounter, hschedule⟩
  · obtain ⟨_, heq⟩ := Part.beginProbing_some h hnodes
    rw [heq]
    refine DrillTimer.checks_of_standing rfl fun r' hr' => ?_
    obtain rfl := Option.some.inj hr'
    rfl

theorem Part.testWoken_begins (hphase : r.phase = .checking) (hprobing : r.probing = false)
    (hready : r.allYielded = true ∨ r.woken = []) : p.testWoken = p.beginProbing := by
  unfold Part.testWoken
  rw [h]
  refine if_pos ?_
  rcases hready with hall | hwoken
  · simp [hphase, hprobing, hall]
  · simp [hphase, hprobing, hwoken]

/-- While a woken node is not yet ACTIVE the check waits. -/
theorem Part.testWoken_waits (hsome : r.allYielded = false) (hwaits : ∃ pos ∈ r.woken, (p.node pos).isActive = false) :
    p.testWoken = p := by
  unfold Part.testWoken
  rw [h]
  obtain ⟨pos, hpos, hactive⟩ := hwaits
  refine if_neg fun hcond => ?_
  simp only [hsome, Bool.false_or, Bool.and_eq_true, List.all_eq_true] at hcond
  obtain ⟨-, hall⟩ := hcond
  rw [hall pos hpos] at hactive
  cases hactive

theorem Part.checks_testWoken (hphase : r.phase = .checking) : p.drill.checks p.testWoken.drill r := by
  unfold Part.testWoken
  rw [h]
  dsimp only
  split
  · exact Part.checks_beginProbing h hphase
  · refine DrillTimer.checks_of_standing rfl fun r' hr' => ?_
    obtain rfl := Option.some.inj (h.symm.trans hr')
    rfl

end

/-! ### What the check judges by -/

theorem DrillRun.mem_judged {r : DrillRun} {b : Nat} :
    b ∈ r.judged ↔ ∃ y ∈ r.timers, y.building = b ∧ y.state ≠ .yielded := by
  simp only [DrillRun.judged, List.mem_map, List.mem_filter, bne_iff_ne]
  exact ⟨fun ⟨y, ⟨hy, hst⟩, hb⟩ => ⟨y, hy, hb, hst⟩, fun ⟨y, hy, hb, hst⟩ => ⟨y, ⟨hy, hst⟩, hb⟩⟩

section
variable (p : Part) (r : DrillRun)

/-- A node of a building below the roster length fails the check: it is not READY and ACTIVE, or has not echoed its probe. -/
def Part.fails (b pos : Nat) : Prop := pos < p.chain.length ∧ (p.rosterAt pos).building = some b ∧
  ¬ (p.node pos = .ready .active ∧ ∃ x ∈ r.probes, x.position = pos ∧ x.echoed = true)

/-- The reason for a failure that the notice gives. -/
def Part.failure (pos : Nat) : ProbeFailure :=
  if (p.node pos).isReady = false then .notReady else if p.node pos ≠ .ready .active then .notActive else .noEcho

theorem Part.probeFailure_eq (pos : Nat) : p.probeFailure r pos =
    if p.node pos = .ready .active ∧ ∃ x ∈ r.probes, x.position = pos ∧ x.echoed = true then none
    else some (p.failure pos) := by
  have hecho : (r.probes.any fun x => x.position == pos && x.echoed) = true ↔
      ∃ x ∈ r.probes, x.position = pos ∧ x.echoed = true := by simp
  unfold Part.probeFailure Part.failure
  by_cases hready : (p.node pos).isReady = true
  · by_cases hactive : p.node pos = .ready .active
    · simp only [hactive, NodeState.isReady, NodeState.isActive, ← hecho]
      cases r.probes.any fun x => x.position == pos && x.echoed <;> rfl
    · simp [hready, hactive, NodeState.isActive]
  · have hactive : p.node pos ≠ .ready .active := fun heq => hready (by rw [heq]; rfl)
    simp [hready, hactive]

theorem Part.mem_positions {pos : Nat} : pos ∈ p.positions ↔ pos < 24 ∧ pos < p.chain.length := by
  simp only [Part.positions, upTo, List.mem_range]
  omega

/-- A building fails when one of its nodes does. -/
theorem Part.buildingFails_iff (b : Nat) : ((p.buildingNodes b).any fun pos => (p.probeFailure r pos).isSome) = true ↔
    ∃ pos < 24, p.fails r b pos := by
  simp only [List.any_eq_true, Part.buildingNodes, List.mem_filter, Part.mem_positions, beq_iff_eq, Part.probeFailure_eq]
  constructor
  · rintro ⟨pos, ⟨⟨hpos, hlen⟩, hb⟩, hfail⟩
    refine ⟨pos, hpos, hlen, hb, fun hpass => ?_⟩
    rw [if_pos hpass] at hfail
    cases hfail
  · rintro ⟨pos, hpos, hlen, hb, hfail⟩
    exact ⟨pos, ⟨⟨hpos, hlen⟩, hb⟩, by rw [if_neg hfail]; rfl⟩

theorem Part.mem_notReady (b : Nat) : b ∈ (p.readiness r).notReady ↔ b ∈ r.judged ∧ ∃ pos < 24, p.fails r b pos :=
  List.mem_filter.trans (and_congr_right fun _ => p.buildingFails_iff r b)

theorem Part.mem_ready (b : Nat) : b ∈ (p.readiness r).ready ↔ b ∈ r.judged ∧ ∀ pos < 24, ¬ p.fails r b pos := by
  refine List.mem_filter.trans (and_congr_right fun _ => ?_)
  rw [Bool.not_eq_true', ← Bool.not_eq_true, p.buildingFails_iff r b]
  exact ⟨fun hnot pos hpos hfail => hnot ⟨pos, hpos, hfail⟩, fun hall ⟨pos, hpos, hfail⟩ => hall pos hpos hfail⟩

theorem Part.mem_failed (pos : Nat) (why : ProbeFailure) : (pos, why) ∈ (p.readiness r).failed ↔
    pos < 24 ∧ (∃ b, b ∈ r.judged ∧ p.fails r b pos) ∧ why = p.failure pos := by
  have hany : (p.rosterAt pos).building.any r.judged.contains = true ↔
      ∃ b ∈ r.judged, (p.rosterAt pos).building = some b := by
    simp only [Option.any_eq_true, List.contains_iff_mem]
    exact ⟨fun ⟨b, hb, hmem⟩ => ⟨b, hmem, hb⟩, fun ⟨b, hmem, hb⟩ => ⟨b, hb, hmem⟩⟩
  refine List.mem_filterMap.trans ⟨?_, ?_⟩
  · rintro ⟨pos', hpos', hmem⟩
    split at hmem
    next hcond =>
      rw [Part.probeFailure_eq] at hmem
      split at hmem
      · cases hmem
      next hfail =>
        obtain ⟨rfl, rfl⟩ := Prod.mk.inj (Option.some.inj hmem)
        obtain ⟨hpos, hlen⟩ := (p.mem_positions).mp hpos'
        obtain ⟨b, hb, hbuilding⟩ := hany.mp hcond
        exact ⟨hpos, ⟨b, hb, hlen, hbuilding, hfail⟩, rfl⟩
    next => cases hmem
  · rintro ⟨hpos, ⟨b, hb, hlen, hbuilding, hfail⟩, rfl⟩
    refine ⟨pos, (p.mem_positions).mpr ⟨hpos, hlen⟩, ?_⟩
    change (if (p.rosterAt pos).building.any r.judged.contains = true then _ else none) = _
    rw [if_pos (hany.mpr ⟨b, hb, hbuilding⟩), Part.probeFailure_eq, if_neg hfail]
    rfl

end

end Sys2Proof.Machine
end

section
/-! SUPPORT. The readiness check as an event, and O51 (R86 to R90). -/

namespace Sys2Proof.Machine

/-! ### A check that goes on to sound -/

theorem Part.drillTargets_marked {p q : Part} (harb : q.arb = p.arb) (r : DrillRun) (short : List Nat) :
    q.drillTargets (r.marked short) = p.drillTargets r :=
  Part.drillTargets_map harb rfl rfl fun _ => ⟨rfl, .rfl⟩

/-- The run that a check has made sound: its phase and, in EVACUATE, its timers. -/
theorem DrillRun.sounded_fields (r : DrillRun) (now : Nat) : (r.sounded now).number = r.number ∧
    (r.sounded now).phase = r.openingPhase ∧ (r.sounded now).phaseStart = now ∧
    (0 < r.fields.prealert → (r.sounded now).timers = r.timers) ∧
    (r.fields.prealert = 0 → (r.sounded now).evacuation = some now ∧
      (r.sounded now).timers = r.timers.map BuildingTimer.begun) := by
  simp only [DrillRun.sounded, DrillRun.openingPhase]
  split
  next hzero => exact ⟨rfl, rfl, rfl, fun hpos => absurd hzero hpos.ne', fun _ => ⟨rfl, rfl⟩⟩
  next hpos => exact ⟨rfl, rfl, rfl, fun _ => rfl, fun hzero => absurd hzero hpos⟩

section
variable {p : Part} {r : DrillRun} (h : p.drill.run = some r)
include h

/-- A run that is still there after the check sounds. -/
theorem Part.sounds_checkResult {r' : DrillRun} (hr' : p.checkResult.drill.run = some r') :
    r'.number = r.number ∧ r'.phase = r.openingPhase := by
  cases hall : r.allYielded with
  | true => rw [Part.drill_checkResult_yielded h hall] at hr'; cases hr'
  | false =>
    by_cases hgoes : (p.readiness r).notReady = [] ∨ r.forced = true
    · rw [Part.drill_checkResult_sounds h hall hgoes] at hr'
      obtain rfl := Option.some.inj hr'
      obtain ⟨hnumber, hopening, -⟩ := DrillRun.sounded_fields (r.marked (p.readiness r).notReady) p.now
      exact ⟨hnumber, hopening⟩
    · obtain ⟨hshort, hforced⟩ := not_or.mp hgoes
      rw [Part.drill_checkResult_ends h hall hshort (by simpa using hforced)] at hr'
      cases hr'

variable (hsome : r.allYielded = false) (hgoes : (p.readiness r).notReady = [] ∨ r.forced = true)
include hsome hgoes

/-- The zones after the check are those that a posting has left. -/
theorem Part.checkResult_posts : ∃ b : Part, b.arb = p.arb ∧ b.ann = p.ann ∧ p.sameSites b ∧
    p.checkResult.arb = (b.each (p.drillTargets r) (Part.post r.opening r.program)).arb ∧
    p.checkResult.ann = (b.each (p.drillTargets r) (Part.post r.opening r.program)).ann ∧ b.sameSites p.checkResult := by
  rw [Part.checkResult_sounds h hsome hgoes]
  generalize hq : Part.note _ _ = q
  have hrun : q.drill.run = some (r.marked (p.readiness r).notReady) := by rw [← hq]; rfl
  have htargets : q.drillTargets (r.marked (p.readiness r).notReady) = p.drillTargets r :=
    Part.drillTargets_marked (by rw [← hq]; rfl) r _
  obtain ⟨_, _, heq⟩ := Part.enterSounding_posts hrun
  rw [htargets] at heq
  refine ⟨q.withRun ((r.marked (p.readiness r).notReady).opened q.now), ?_, ?_, ?_, by rw [heq]; rfl, by rw [heq]; rfl, ?_⟩
  · rw [← hq]; rfl
  · rw [← hq]; rfl
  · rw [← hq]; exact ⟨rfl, rfl, rfl, rfl⟩
  · rw [heq]
    exact (Part.sameSites_posts _ _ _ _).trans ⟨rfl, rfl, rfl, rfl⟩

/-- READY or NOT_READY and the sounding's notice are all that the check sends where no announcement has or awaits a zone that
it posts to. -/
theorem Part.says_checkResult_sounds (hfree : ∀ z ∈ p.drillTargets r, p.unannounced z) : p.says p.checkResult
    [.drillPhase r.head (if (p.readiness r).notReady = [] then .ready (p.readiness r) else .notReady (p.readiness r))
        (some r.openingPhase),
      .drillPhase r.head (r.openingEvent (p.claimable (p.drillTargets r))
        ((p.drillTargets r).length - p.claimable (p.drillTargets r))) (some r.openingPhase)] := by
  rw [Part.checkResult_sounds h hsome hgoes]
  generalize hq : Part.note (p.withRun (r.marked (p.readiness r).notReady)) _ = q
  have hrun : q.drill.run = some (r.marked (p.readiness r).notReady) := by rw [← hq]; rfl
  have htargets : q.drillTargets (r.marked (p.readiness r).notReady) = p.drillTargets r :=
    Part.drillTargets_marked (by rw [← hq]; rfl) r _
  have hsays := Part.says_enterSounding hrun (by rw [htargets, ← hq]; exact hfree)
  rw [htargets] at hsays
  subst hq
  exact ((Part.says_note _ _).of_silent rfl rfl).trans hsays

/-- A check that goes on to the evacuation at once shows the drill on the displays of the scope nodes. -/
theorem Part.display_checkResult (hzero : r.fields.prealert = 0) {pos : Nat} (hpos : pos < 24)
    (hin : p.inScope r.fields.scope pos = true) : (p.checkResult.display pos).drill = true := by
  rw [Part.checkResult_sounds h hsome hgoes]
  exact Part.display_enterSounding (p := Part.note _ _) (r := r.marked (p.readiness r).notReady) rfl hzero hpos hin

end

/-! ### The two events of CHECKING -/

/-- An event that leaves the clock and the tables. -/
theorem event_tables {s : State} (hpow : s.powered = true) {f : Part → Part} (hclock : (f s.part).clock = s.part.clock)
    (hlayout : (f s.part).layout = s.part.layout) : State.sameOutside s (event f s) ∧
      (event f s).part.clock = s.part.clock ∧ (event f s).part.layout = s.part.layout := by
  refine ⟨event_sameOutside f s, ?_⟩
  rw [event_part hpow]
  exact ⟨(Part.clock_settle _).trans hclock, (Part.layout_settle _).trans hlayout⟩

theorem Part.drillWakeWaitEnd_due {p : Part} {r : DrillRun} (h : p.drill.run = some r) (hphase : r.phase = .checking)
    (hprobing : r.probing = false) (hdue : r.wakeEnd ≤ p.now) : p.drillWakeWaitEnd = p.beginProbing := by
  unfold Part.drillWakeWaitEnd
  rw [h]
  exact if_pos (by simp [hphase, hprobing, hdue])

theorem DrillRun.probesDone_iff {r : DrillRun} : r.probesDone = true ↔
    ∀ x ∈ r.probes, x.judged = false ∨ x.echoed = true ∨ ∃ n, x.seen = some n ∧ 3 ≤ n := by
  simp [DrillRun.probesDone, Option.any_eq_true, or_assoc]

/-- The wake wait's end: the probing begins, or, with no node to probe, the check has its result. -/
theorem drillWakeWaitEnd_probes {s : State} {r : DrillRun} (hpow : s.powered = true) (hrun : s.part.drill.run = some r)
    (hphase : r.phase = .checking) (hprobing : r.probing = false) (hdue : r.wakeEnd ≤ s.part.now) :
    (s.part.probedNodes r ≠ [] → (event Part.drillWakeWaitEnd s).part.drill.run =
      some (r.probed (freshProbes s.part.drill.probeCounter (s.part.probedNodes r)))) ∧
    (s.part.probedNodes r = [] → ∀ r', (event Part.drillWakeWaitEnd s).part.drill.run = some r' →
      r'.number = r.number ∧ r'.phase = r.openingPhase) := by
  rw [event_drill hpow, Part.drillWakeWaitEnd_due hrun hphase hprobing hdue]
  refine ⟨fun hnodes => ?_, fun hnodes r' hr' => ?_⟩
  · obtain ⟨_, heq⟩ := Part.beginProbing_some hrun hnodes
    rw [heq]; rfl
  · rw [Part.beginProbing_none hrun hphase hnodes] at hr'
    exact Part.sounds_checkResult (s.part.run_withRun (r.probed [])) hr'

section
variable {s : State} {r : DrillRun} (hpow : s.powered = true) (hrun : s.part.drill.run = some r)
  (hf : s.part.testProbes = s.part.checkResult)
include hpow hrun hf

/-- A check that every building has passed, or that is forced, goes on to sound. -/
theorem probeEchoWaitEnd_sounds (hsome : r.allYielded = false)
    (hgoes : (s.part.readiness r).notReady = [] ∨ r.forced = true) :
    (event Part.testProbes s).part.drill.run =
      some ((r.marked (s.part.readiness r).notReady).sounded s.part.now) ∧
    (r.fields.prealert = 0 → ∀ pos < 24, s.part.inScope r.fields.scope pos = true →
      ((event Part.testProbes s).part.display pos).drill = true) ∧
    s.part.drillsPosted (event Part.testProbes s).part (s.part.drillTargets r) r.opening r.program ∧
    ((∀ z ∈ s.part.drillTargets r, s.part.unannounced z) → s.part.settled → s.part.outbox = [] →
      State.reports s (event Part.testProbes s) []
        [.drillPhase r.head (if (s.part.readiness r).notReady = [] then .ready (s.part.readiness r)
            else .notReady (s.part.readiness r)) (some r.openingPhase),
          .drillPhase r.head (r.openingEvent (s.part.claimable (s.part.drillTargets r))
            ((s.part.drillTargets r).length - s.part.claimable (s.part.drillTargets r))) (some r.openingPhase)]) := by
  refine ⟨?_, fun hzero pos hpos hin => ?_, ?_, fun hfree hsettled hout => event_reports hpow hsettled hout ?_⟩
  · rw [event_drill hpow, hf, Part.drill_checkResult_sounds hrun hsome hgoes]; rfl
  · rw [event_display hpow, hf]
    exact Part.display_checkResult hrun hsome hgoes hzero hpos hin
  · obtain ⟨b, harb, hann, hsites, hzones, hrecords, hkept⟩ := Part.checkResult_posts hrun hsome hgoes
    refine Part.drillsPosted_congr harb hann hsites (event_drillsPosted hpow ?_ ?_ ?_) <;> rw [hf]
    · exact hzones
    · exact hrecords
    · exact hkept
  · rw [hf]
    exact Part.says_checkResult_sounds hrun hsome hgoes hfree

/-- A check in which every building has yielded closes the drill. -/
theorem probeEchoWaitEnd_yielded (hall : r.allYielded = true) :
    (event Part.testProbes s).part.drill = s.part.drill.closed (r.record .yielded) ∧
    (s.part.settled → s.part.outbox = [] → State.reports s (event Part.testProbes s) []
      [.drillPhase r.head (.ready (s.part.readiness r)) none, .drillResult (r.record .yielded)]) := by
  refine ⟨by rw [event_drill hpow, hf, Part.drill_checkResult_yielded hrun hall],
    fun hsettled hout => event_reports hpow hsettled hout ?_⟩
  rw [hf]
  exact Part.says_checkResult_yielded hrun hall

/-- A check that a building has not passed, and that is not forced, ends the run without a record. -/
theorem probeEchoWaitEnd_ends (hsome : r.allYielded = false) (hshort : (s.part.readiness r).notReady ≠ [])
    (hforced : r.forced = false) :
    (event Part.testProbes s).part.drill = { s.part.drill with run := none, schedule := s.part.drill.unready r.origin } ∧
    (s.part.settled → s.part.outbox = [] → State.reports s (event Part.testProbes s) []
      [.drillPhase r.head (.notReady (s.part.readiness r)) none]) := by
  refine ⟨by rw [event_drill hpow, hf, Part.drill_checkResult_ends hrun hsome hshort hforced],
    fun hsettled hout => event_reports hpow hsettled hout ?_⟩
  rw [hf]
  exact Part.says_checkResult_ends hrun hsome hshort hforced

end

/-! ### O51 -/

/-- Settles O51: the probing begins with the wake wait's end, and its end has the result of the check. -/
theorem drillCheck : Obligations.DrillCheck := by
  intro s r hpow hrun hphase
  refine ⟨fun hprobing hdue => ?_, fun hprobing hdone => ?_⟩
  · obtain ⟨hprobes, hresult⟩ := drillWakeWaitEnd_probes hpow hrun hphase hprobing hdue
    exact ⟨_, rfl, event_tables hpow (Part.clock_drillWakeWaitEnd _) (Part.layout_drillWakeWaitEnd _), hprobes, hresult⟩
  · have hf := Part.testProbes_done hrun hphase hprobing (DrillRun.probesDone_iff.mpr hdone)
    refine ⟨fun b => ⟨?_, ?_⟩, rfl, fun pos why => ?_, _, rfl,
      event_tables hpow (Part.clock_testProbes _) (Part.layout_testProbes _), fun hsome hgoes => ?_, fun hends => ?_,
      fun hall => ?_, fun hsome hshort hforced => ?_⟩
    · exact (s.part.mem_notReady r b).trans (and_congr_left fun _ => DrillRun.mem_judged)
    · exact (s.part.mem_ready r b).trans (and_congr_left fun _ => DrillRun.mem_judged)
    · exact (s.part.mem_failed r pos why).trans
        (and_congr_right fun _ => and_congr_left fun _ => exists_congr fun b => and_congr_left fun _ => DrillRun.mem_judged)
    · obtain ⟨hrun', hdisplays, hposted, hreports⟩ := probeEchoWaitEnd_sounds hpow hrun hf hsome hgoes
      obtain ⟨hnumber, hopening, hstart, htimers, hevacuates⟩ :=
        DrillRun.sounded_fields (r.marked (s.part.readiness r).notReady) s.part.now
      refine ⟨_, hrun', ⟨hnumber, hopening⟩, hstart, htimers, fun hzero => ?_, hposted, hreports⟩
      obtain ⟨hevacuation, hbegun⟩ := hevacuates hzero
      exact ⟨hevacuation, hbegun.trans (List.map_congr_left fun y _ => y.begun_eq), hdisplays hzero⟩
    · cases hall : r.allYielded with
      | true =>
        obtain ⟨hclosed, -⟩ := probeEchoWaitEnd_yielded hpow hrun hf hall
        rw [hclosed]; rfl
      | false =>
        obtain ⟨hshort, hforced⟩ := hends.resolve_left (by simp [hall])
        obtain ⟨hended, -⟩ := probeEchoWaitEnd_ends hpow hrun hf hall hshort hforced
        rw [hended]
    · obtain ⟨hclosed, hreports⟩ := probeEchoWaitEnd_yielded hpow hrun hf hall
      exact ⟨_, by rw [hclosed]; exact DrillTimer.last_closed _ _, rfl, rfl, hreports⟩
    · obtain ⟨hended, hreports⟩ := probeEchoWaitEnd_ends hpow hrun hf hsome hshort hforced
      exact ⟨by rw [hended], hreports⟩

end Sys2Proof.Machine
end

section
/-! SUPPORT. The start of a drill, and O28 (R84 to R88). -/

namespace Sys2Proof.Machine

/-! ### Nodes woken -/

section
variable (p : Part) (l : List Nat)

theorem Part.core_wakes : (p.each l Part.wake).core = p.core := Part.core_each _ (fun q pos => q.core_wake pos) l p

theorem Part.says_wakes : p.says (p.each l Part.wake) [] :=
  List.foldlRecOn (motive := fun q => p.says q []) l _ (Part.says_nil rfl rfl) fun _ hq _ _ =>
    hq.silent (Part.ann_wake _ _) (Part.outbox_wake _ _)

/-- A wake makes no node ACTIVE, and none other. -/
theorem Part.isActive_wakes (n : Nat) : ((p.each l Part.wake).node n).isActive = (p.node n).isActive :=
  List.foldlRecOn (motive := fun q : Part => (q.node n).isActive = (p.node n).isActive) l _ rfl fun q hq pos _ => by
    rcases q.node_wake pos n with hsame | ⟨hquiet, hwaking⟩
    · rw [hsame, hq]
    · rw [hwaking, ← hq, hquiet]; rfl

end

/-! ### The run that is made -/

/-- The timers of a new run: those of the buildings that have yielded are YIELDED. -/
def Part.newTimers (p : Part) (f : Program) : List BuildingTimer :=
  (ascending f.scope).map fun b => ⟨b, if (p.building b).yield != .clear then .yielded else .waiting, 0, 0, false, false⟩

/-- The nodes that a drill wakes. -/
def Part.wakeable (p : Part) (f : Program) : List Nat :=
  p.positions.filter fun pos => ((p.rosterAt pos).building.any fun b => f.scope.contains b && (p.building b).yield == .clear) &&
    (p.node pos).isReady && !(p.node pos).isActive

/-- The longest warm-up of nodes, in seconds. -/
def Part.longestWarmUp (p : Part) (l : List Nat) : Nat :=
  (l.map fun pos => ((p.runtime pos).identity.map (·.warmUp)).getD 0).foldl max 0

/-- The run that a drill starts with. -/
def Part.newRun (p : Part) (program : Nat) (f : Program) (origin : DrillOrigin) (forced : Bool) : DrillRun :=
  { number := p.drill.runCounter % 65535 + 1, program := program, fields := f, origin := origin, forced := forced,
    startTime := if p.isSet then some p.campus else none, accepted := p.now, phase := .checking, phaseStart := p.now,
    evacuation := none, allLost := false, timers := p.newTimers f, woken := p.wakeable f,
    wakeEnd := if (p.wakeable f).isEmpty then p.now else p.now + (p.longestWarmUp (p.wakeable f) + 1) * 50
    probing := false, probes := [], header := none, barred := [] }

/-- The drill timer with a new run. -/
def DrillTimer.started (d : DrillTimer) (r : DrillRun) : DrillTimer :=
  { d with run := some r, runCounter := d.runCounter % 65535 + 1, startedSince := true }

/-- The part in which a drill has started, its nodes woken, before it tests whether they are ready. -/
def Part.launched (p : Part) (r : DrillRun) : Part :=
  (Part.each { p with drill := p.drill.started r } r.woken Part.wake).note
    (.drillPhase r.head (.checking r.woken.length) (some .checking))

theorem Part.startDrill_eq (p : Part) (program : Nat) (f : Program) (origin : DrillOrigin) (forced : Bool) :
    p.startDrill program f origin forced = (p.launched (p.newRun program f origin forced)).testWoken := by
  have hwoken : ((p.positions.filter fun pos => (p.rosterAt pos).building.any fun b =>
      f.scope.contains b && !((p.building b).yield != .clear)).filter fun pos => (p.node pos).isReady && !(p.node pos).isActive) =
      p.wakeable f := by
    rw [List.filter_filter]
    refine List.filter_congr fun pos _ => ?_
    rw [Bool.and_comm, ← Bool.and_assoc]
    simp only [bne, Bool.not_not]
  unfold Part.startDrill
  dsimp only
  rw [hwoken]
  rfl

section
variable (p : Part) (r : DrillRun)

theorem Part.drill_launched : (p.launched r).drill = p.drill.started r :=
  Part.drill_of_core (Part.core_wakes { p with drill := p.drill.started r } r.woken)

theorem Part.run_launched : (p.launched r).drill.run = some r := congrArg DrillTimer.run (p.drill_launched r)

theorem Part.says_launched : p.says (p.launched r) [.drillPhase r.head (.checking r.woken.length) (some .checking)] :=
  ((Part.says_wakes { p with drill := p.drill.started r } r.woken).trans (Part.says_note _ _)).of_silent rfl rfl

theorem Part.isActive_launched (n : Nat) : ((p.launched r).node n).isActive = (p.node n).isActive :=
  Part.isActive_wakes { p with drill := p.drill.started r } r.woken n

variable {p r} in
/-- With no node to wake only the drill timer has changed, and the notice is sent. -/
theorem Part.launched_none (h : r.woken = []) : p.launched r =
    { p with drill := p.drill.started r, outbox := p.outbox ++ [.notice (.drillPhase r.head (.checking 0) (some .checking))] } := by
  unfold Part.launched
  rw [h]
  rfl

end

/-! ### Who has yielded at the start -/

section
variable {p : Part} {f : Program}

theorem mem_ascending {l : List Nat} {b : Nat} : b ∈ ascending l ↔ b < 8 ∧ b ∈ l := by
  simp [ascending, upTo]

/-- A new timer is its building's, and YIELDED where the building is not CLEAR. -/
theorem Part.mem_newTimers {x : BuildingTimer} (h : x ∈ p.newTimers f) : (x.building < 8 ∧ x.building ∈ f.scope) ∧
    (x.state = .yielded ↔ (p.building x.building).yield ≠ .clear) := by
  obtain ⟨b, hb, rfl⟩ := List.mem_map.mp h
  refine ⟨mem_ascending.mp hb, ?_⟩
  by_cases hclear : (p.building b).yield = .clear <;> simp [hclear]

variable {program : Nat} {origin : DrillOrigin} {forced : Bool}

/-- The buildings that a new run judges are those of its scope that are CLEAR. -/
theorem Part.mem_judged_newRun {b : Nat} : b ∈ (p.newRun program f origin forced).judged ↔
    b < 8 ∧ b ∈ f.scope ∧ (p.building b).yield = .clear := by
  rw [DrillRun.mem_judged]
  constructor
  · rintro ⟨y, hy, rfl, hstate⟩
    obtain ⟨⟨hlt, hscope⟩, hyielded⟩ := Part.mem_newTimers hy
    exact ⟨hlt, hscope, not_not.mp fun hnot => hstate (hyielded.mpr hnot)⟩
  · rintro ⟨hlt, hscope, hclear⟩
    refine ⟨_, List.mem_map.mpr ⟨b, mem_ascending.mpr ⟨hlt, hscope⟩, rfl⟩, rfl, ?_⟩
    simp [hclear]

theorem Part.allYielded_newRun : (p.newRun program f origin forced).allYielded = true ↔
    ∀ b ∈ f.scope, b < 8 → (p.building b).yield ≠ .clear := by
  rw [DrillRun.allYielded_iff]
  constructor
  · intro hall b hscope hlt hclear
    obtain ⟨y, hy, -, hstate⟩ := DrillRun.mem_judged.mp
      (Part.mem_judged_newRun (program := program) (origin := origin) (forced := forced) |>.mpr ⟨hlt, hscope, hclear⟩)
    exact hstate (hall y hy)
  · intro hall y hy
    obtain ⟨⟨hlt, hscope⟩, hyielded⟩ := Part.mem_newTimers hy
    exact hyielded.mpr (hall _ hscope hlt)

/-- The nodes that a new run probes. -/
theorem Part.probedNodes_newRun : p.probedNodes (p.newRun program f origin forced) = p.positions.filter fun pos =>
    (p.node pos).isActive && (p.rosterAt pos).building.any fun b =>
      decide (b < 8) && f.scope.contains b && (p.building b).yield == .clear := by
  refine List.filter_congr fun pos _ => ?_
  rw [Bool.and_comm]
  congr 2
  funext b
  rw [Bool.eq_iff_iff, List.contains_iff_mem, Part.mem_judged_newRun]
  simp [and_assoc]

/-- A run whose buildings have all yielded judges none, and probes no node. -/
theorem Part.probedNodes_yielded {r : DrillRun} (h : r.allYielded = true) : p.probedNodes r = [] := by
  have hnone : r.judged = [] := List.eq_nil_iff_forall_not_mem.mpr fun b hb => by
    obtain ⟨y, hy, -, hstate⟩ := DrillRun.mem_judged.mp hb
    exact hstate (DrillRun.allYielded_iff.mp h y hy)
  refine List.filter_eq_nil_iff.mpr fun pos _ => ?_
  rw [hnone]
  cases (p.rosterAt pos).building <;> simp

end

/-! ### The ways that a start goes on -/

section
variable {p : Part} {program : Nat} {f : Program} {origin : DrillOrigin} {forced : Bool}

theorem Part.checks_startDrill : (p.drill.started (p.newRun program f origin forced)).checks
    (p.startDrill program f origin forced).drill (p.newRun program f origin forced) := by
  rw [Part.startDrill_eq, ← Part.drill_launched]
  exact Part.checks_testWoken (p.run_launched _) rfl

/-- A start that has woken nodes waits for them. -/
theorem Part.startDrill_waits (hclear : ∃ b ∈ f.scope, b < 8 ∧ (p.building b).yield = .clear) (hwoken : p.wakeable f ≠ []) :
    p.startDrill program f origin forced = p.launched (p.newRun program f origin forced) := by
  rw [Part.startDrill_eq]
  refine Part.testWoken_waits (p.run_launched _) (Bool.eq_false_iff.mpr fun hall => ?_) ?_
  · obtain ⟨b, hscope, hlt, hb⟩ := hclear
    exact Part.allYielded_newRun.mp hall b hscope hlt hb
  · obtain ⟨pos, hpos⟩ := List.exists_mem_of_ne_nil _ hwoken
    refine ⟨pos, hpos, ?_⟩
    obtain ⟨-, hcond⟩ := List.mem_filter.mp hpos
    rw [Bool.and_eq_true, Bool.not_eq_true'] at hcond
    obtain ⟨-, hidle⟩ := hcond
    rw [Part.isActive_launched, hidle]

/-- A start that has woken no node, with nodes to probe, begins to probe them. -/
theorem Part.startDrill_probes (hwoken : p.wakeable f = []) (hnodes : p.probedNodes (p.newRun program f origin forced) ≠ []) :
    ∃ e, p.startDrill program f origin forced =
      { (p.launched (p.newRun program f origin forced)).numbered (p.newRun program f origin forced)
        (p.probedNodes (p.newRun program f origin forced)) with line := e } := by
  rw [Part.startDrill_eq, Part.testWoken_begins (p.run_launched _) rfl rfl (.inr hwoken)]
  have hsame : (p.launched (p.newRun program f origin forced)).probedNodes (p.newRun program f origin forced) =
      p.probedNodes (p.newRun program f origin forced) := by rw [Part.launched_none (r := p.newRun ..) hwoken]; rfl
  obtain ⟨e, heq⟩ := Part.beginProbing_some (p.run_launched (p.newRun program f origin forced)) (by rw [hsame]; exact hnodes)
  rw [hsame] at heq
  exact ⟨e, heq⟩

/-- A start that has no node to wake or probe has the result of its check at once. -/
theorem Part.startDrill_checks (hwoken : (p.newRun program f origin forced).allYielded = true ∨ p.wakeable f = [])
    (hnodes : (p.launched (p.newRun program f origin forced)).probedNodes (p.newRun program f origin forced) = []) :
    p.startDrill program f origin forced = ((p.launched (p.newRun program f origin forced)).withRun
      ((p.newRun program f origin forced).probed [])).checkResult := by
  rw [Part.startDrill_eq, Part.testWoken_begins (p.run_launched _) rfl rfl hwoken,
    Part.beginProbing_none (p.run_launched _) rfl hnodes]

end

end Sys2Proof.Machine
end

section
/-! SUPPORT. DRILL_START (R85 to R88). -/

namespace Sys2Proof.Machine

/-- A run that starts over a CLEAR building. -/
theorem Part.someClear {p : Part} {program : Nat} {f : Program} {origin : DrillOrigin} {forced : Bool}
    (h : ∃ b ∈ f.scope, b < 8 ∧ (p.building b).yield = .clear) : (p.newRun program f origin forced).allYielded = false := by
  obtain ⟨b, hscope, hlt, hclear⟩ := h
  exact Bool.eq_false_iff.mpr fun hall => Part.allYielded_newRun.mp hall b hscope hlt hclear

section
variable {p : Part} {program : Nat} {f : Program} {origin : DrillOrigin}

/-- A start that finds a node that is neither ACTIVE nor to be woken, and none to probe, is not ready: with the run not forced
there is none any longer. -/
theorem Part.startDrill_unready (hwoken : p.wakeable f = []) (hnodes : p.probedNodes (p.newRun program f origin false) = [])
    (hnode : ∃ pos ∈ p.positions, ∃ b ∈ f.scope, b < 8 ∧ (p.building b).yield = .clear ∧ (p.rosterAt pos).building = some b) :
    (p.startDrill program f origin false).drill.run = none ∧
    (p.startDrill program f origin false).drill.records = p.drill.records ∧ ∃ x, x.notReady ≠ [] ∧
      p.says (p.startDrill program f origin false)
        [.drillPhase (p.newRun program f origin false).head (.checking 0) (some .checking),
          .drillPhase (p.newRun program f origin false).head (.notReady x) none] := by
  obtain ⟨pos, hpos, b, hscope, hlt, hclear, hb⟩ := hnode
  have hsome : (p.newRun program f origin false).allYielded = false := Part.someClear ⟨b, hscope, hlt, hclear⟩
  have hjudged : b ∈ (p.newRun program f origin false).judged := Part.mem_judged_newRun.mpr ⟨hlt, hscope, hclear⟩
  have hnone : (p.newRun program f origin false).woken = [] := hwoken
  have hforced : (p.newRun program f origin false).forced = false := rfl
  have hstart := Part.startDrill_checks (program := program) (origin := origin) (forced := false) (.inr hwoken)
    (by rw [Part.launched_none hnone]; exact hnodes)
  generalize p.newRun program f origin false = r at *
  have hshort : (((p.launched r).withRun (r.probed [])).readiness (r.probed [])).notReady ≠ [] := by
    obtain ⟨hlt24, hlen⟩ := (p.mem_positions).mp hpos
    refine List.ne_nil_of_mem (a := b) ((Part.mem_notReady _ _ _).mpr ⟨hjudged, pos, hlt24, ?_⟩)
    rw [Part.launched_none hnone]
    refine ⟨hlen, hb, fun hpass => ?_⟩
    obtain ⟨-, x, hx, -⟩ := hpass
    cases hx
  have hrun : ((p.launched r).withRun (r.probed [])).drill.run = some (r.probed []) := rfl
  have hended := Part.drill_checkResult_ends hrun hsome hshort hforced
  have hsays := Part.says_checkResult_ends hrun hsome hshort hforced
  rw [hstart]
  refine ⟨by rw [hended], ?_, _, hshort, ?_⟩
  · rw [hended]
    change (p.launched r).drill.records = _
    rw [Part.drill_launched]
    rfl
  · have hlaunched := p.says_launched r
    rw [hnone] at hlaunched
    exact hlaunched.trans (hsays.of_silent rfl rfl)

variable {forced : Bool}

/-- A start all of whose buildings have yielded closes at once. -/
theorem Part.startDrill_yielded (hall : ∀ b ∈ f.scope, b < 8 → (p.building b).yield ≠ .clear) :
    (p.startDrill program f origin forced).drill = (p.drill.started (p.newRun program f origin forced)).closed
      (((p.newRun program f origin forced).probed []).record .yielded) ∧
    ∃ x, x.yielded = (List.range 8).filter f.scope.contains ∧ p.says (p.startDrill program f origin forced)
      [.drillPhase (p.newRun program f origin forced).head (.checking (p.wakeable f).length) (some .checking),
        .drillPhase (p.newRun program f origin forced).head (.ready x) none,
        .drillResult (((p.newRun program f origin forced).probed []).record .yielded)] := by
  have hyielded : (p.newRun program f origin forced).allYielded = true := Part.allYielded_newRun.mpr hall
  have hrun : ((p.launched (p.newRun program f origin forced)).withRun ((p.newRun program f origin forced).probed [])).drill.run =
      some ((p.newRun program f origin forced).probed []) := rfl
  rw [Part.startDrill_checks (.inl hyielded) (Part.probedNodes_yielded hyielded)]
  refine ⟨?_, _, ?_, (p.says_launched _).trans ((Part.says_checkResult_yielded hrun hyielded).of_silent rfl rfl)⟩
  · rw [Part.drill_checkResult_yielded hrun hyielded]
    simp only [Part.withRun, Part.drill_launched]
    rfl
  · have htimers : (p.newTimers f).filter (fun t => t.state == .yielded) = p.newTimers f :=
      List.filter_eq_self.mpr fun y hy => by rw [DrillRun.allYielded_iff.mp hyielded y hy]; rfl
    change ((p.newTimers f).filter fun t => t.state == .yielded).map (·.building) = _
    rw [htimers, Part.newTimers, List.map_map]
    exact List.map_id _

end

/-! ### O28 -/

theorem Part.drillStart_run {p : Part} {n : Nat} {f : Program} (hn : n ≤ 3) (hf : Tab.get p.drill.programs n none = some f)
    (hidle : p.drill.run = none) (force saving : Bool) : Part.drillStart n (some force) saving p =
      (p.startDrill n f .request force, ⟨.accepted, .runNumber (p.drill.runCounter % 65535 + 1)⟩) := by
  refine (checked_pass (by simp [firstFailure, hf, Part.idle, hidle, hn]) _ _).trans ?_
  rw [hf]
  rfl

/-- Settles O28: a start makes its run, wakes the nodes and, with none to wait for, goes on with the check. -/
theorem drillStart : Obligations.DrillStart := by
  intro s tag n f force hr hn hprogram hidle
  have hf := Part.drillStart_run hn hprogram hidle force s.port.saving.isSome
  obtain ⟨hpart, hans⟩ := request_part hr (.drillStart tag n (some force)) 0x32 (Part.drillStart n (some force)) hf (.inr rfl)
  obtain ⟨hkeeps, hprograms, hcounter, hschedule⟩ :=
    Part.checks_startDrill (p := s.part) (program := n) (f := f) (origin := .request) (forced := force)
  have hprobed := Part.probedNodes_newRun (p := s.part) (program := n) (f := f) (origin := .request) (forced := force)
  have hreports : ∀ l : List Notice, s.part.says (s.part.startDrill n f .request force) l → s.part.settled →
      State.reports s (request (.drillStart tag n (some force)) tag 0x32 (ofPart (Part.drillStart n (some force))) s)
        [replyOf tag 0x32 ⟨.accepted, .runNumber (s.part.drill.runCounter % 65535 + 1)⟩] l :=
    fun l hsays hsettled => request_reports hr hsettled _ _ _ hf (.inr rfl) hsays
  refine ⟨_, rfl, hans, request_sameOutside hr _ _ _, ?_⟩
  have hdrill := congrArg Part.drill hpart
  rw [show Part.drill { Part.settle _ with outbox := [] } = _ from Part.drill_settle _] at hdrill
  refine ⟨?_, ?_⟩
  · rw [hdrill, hpart]
    exact (Part.core_settle _).trans (Part.core_of_offDrill (Part.offDrill_startDrill ..))
  rw [hdrill]
  refine ⟨hcounter, hprograms, ?_, fun r hrun => ?_, fun hclear => ⟨fun hwoken => ?_, fun hwoken hnodes => ?_,
    fun hwoken hnodes hforce hnode => ?_⟩, fun hall => ?_⟩
  · exact hschedule.elim id fun ⟨_, heq⟩ => heq
  · obtain ⟨hnumber, hprogram', hfields, hforced, horigin, haccepted, htime⟩ := DrillRun.identity_fields (hkeeps r hrun)
    exact ⟨hnumber, hprogram', hfields, hforced, horigin, haccepted, htime⟩
  · have hwaits := Part.startDrill_waits (program := n) (origin := .request) (forced := force) hclear hwoken
    refine ⟨_, by rw [hwaits]; exact Part.run_launched _ _, rfl, rfl, rfl, ?_, hreports _ ?_⟩
    · exact if_neg (by rw [List.isEmpty_iff]; exact hwoken)
    · rw [hwaits]
      exact Part.says_launched _ _
  · rw [← hprobed] at hnodes ⊢
    obtain ⟨e, hprobes⟩ := Part.startDrill_probes hwoken hnodes
    refine ⟨_, by rw [hprobes]; rfl, rfl, hwoken, rfl, ?_, hreports _ ?_⟩
    · rw [Part.drill_launched]
      rfl
    · rw [hprobes]
      exact (Part.says_launched _ _).silent rfl rfl
  · subst hforce
    rw [← hprobed] at hnodes
    obtain ⟨hnone, hrecords, x, hshort, hsays⟩ := Part.startDrill_unready hwoken hnodes hnode
    refine ⟨hnone, hrecords, x, hshort, ?_⟩
    exact hreports _ (hsays.congr (by rw [show List.length _ = _ from congrArg List.length hwoken]; rfl))
  · obtain ⟨hclosed, x, hyielded, hsays⟩ := Part.startDrill_yielded (program := n) (origin := .request) (forced := force) hall
    exact ⟨by rw [hclosed]; rfl, _, x, by rw [hclosed]; exact DrillTimer.last_closed _ _, rfl, rfl, hyielded, hreports _ hsays⟩

end Sys2Proof.Machine
end

section
/-! SUPPORT. SCHEDULED_DRILL_REACHED (R102, R103). -/

namespace Sys2Proof.Machine

/-! ### Entries marked -/

/-- The WAITING entries with the moment of an entry take another state. -/
def ScheduleEntry.marks (e : ScheduleEntry) (l : List ScheduleEntry) (st : ScheduleState) : List ScheduleEntry :=
  l.map fun x => if x.state = .waiting ∧ x.day = e.day ∧ x.minute * 600 = e.minute * 600 then { x with state := st } else x

theorem ScheduleEntry.moment_eq (day minute : Nat) (e : ScheduleEntry) :
    minuteMoment day minute = e.moment ↔ day = e.day ∧ minute * 600 = e.minute * 600 := by
  rw [ScheduleEntry.moment, minuteMoment, minuteMoment, CampusTime.mk.injEq]

theorem Part.markEntry_eq (p : Part) (e : ScheduleEntry) (st : ScheduleState) : p.markEntry e.moment .waiting st =
    { p with drill := { p.drill with schedule := e.marks p.drill.schedule st } } := by
  unfold Part.markEntry Part.setSchedule ScheduleEntry.marks
  simp only [Bool.and_eq_true, beq_iff_eq, ScheduleEntry.moment_eq, and_comm, and_left_comm]

/-- Where every entry of a moment was WAITING, those that were STARTED and then NOT_READY are NOT_READY. -/
theorem DrillTimer.unready_marks {d : DrillTimer} {e : ScheduleEntry} {l : List ScheduleEntry}
    (hd : d.schedule = e.marks l .started) (hwaiting : ∀ x ∈ l, x.day = e.day → x.minute = e.minute → x.state = .waiting) :
    d.unready (.scheduled e.moment) = e.marks l .notReady := by
  simp only [DrillTimer.unready, hd, ScheduleEntry.marks, List.map_map]
  refine List.map_congr_left fun x hx => ?_
  simp only [Function.comp, Bool.and_eq_true, beq_iff_eq, ScheduleEntry.moment_eq]
  by_cases hmoment : x.day = e.day ∧ x.minute * 600 = e.minute * 600
  · obtain ⟨hday, hminute⟩ := hmoment
    have hmarked : x.state = .waiting ∧ x.day = e.day ∧ x.minute * 600 = e.minute * 600 :=
      ⟨hwaiting x hx hday (by omega), hday, hminute⟩
    rw [if_pos hmarked, if_pos hmarked]
    exact if_pos ⟨⟨hday, hminute⟩, rfl⟩
  · have hother : ¬ (x.state = .waiting ∧ x.day = e.day ∧ x.minute * 600 = e.minute * 600) := fun ⟨_, h⟩ => hmoment h
    rw [if_neg hother, if_neg hother]
    exact if_neg fun ⟨h, _⟩ => hmoment h

/-! ### What an entry that is reached comes to -/

section
variable {p : Part} {e : ScheduleEntry} (hset : p.time.quality = .set)
  (he : (p.drill.schedule.find? fun x => x.state == .waiting && x.moment == p.campus) = some e)
include hset he

theorem Part.reachScheduled_starts {f : Program} (hidle : p.drill.run = none)
    (hf : Tab.get p.drill.programs e.program none = some f) : p.reachScheduled =
      (p.markEntry e.moment .waiting .started).startDrill e.program f (.scheduled e.moment) false := by
  unfold Part.reachScheduled
  rw [he]
  dsimp only
  rw [if_neg (by simp [Part.isSet, hset]), hidle, hf]

/-- With a run in progress or an empty program the entry is REFUSED. -/
theorem Part.reachScheduled_refused (hrefused : p.drill.run.isSome = true ∨ Tab.get p.drill.programs e.program none = none) :
    p.reachScheduled = (p.markEntry e.moment .waiting .refused).note (.scheduleRefused e.moment e.program
      (if p.drill.run.isSome = true then .busy else .empty) (p.drill.run.map (·.phase))) := by
  unfold Part.reachScheduled
  rw [he]
  dsimp only
  rw [if_neg (by simp [Part.isSet, hset])]
  cases hrun : p.drill.run with
  | none =>
    have hempty := hrefused.resolve_left (by simp [hrun])
    rw [hempty]
    rfl
  | some r => rfl

end

/-! ### O50 -/

/-- Settles O50: the entry starts its drill, whose check may end it at once, or is refused. -/
theorem scheduledDrill : Obligations.ScheduledDrill := by
  intro s e hpow hset he
  refine ⟨fun f hidle hprogram => ?_, fun hsettled hout hrefused => ?_⟩
  · have hf := Part.reachScheduled_starts hset he hidle hprogram
    rw [Part.markEntry_eq] at hf
    have hchecks := Part.checks_startDrill (program := e.program) (f := f) (origin := .scheduled e.moment) (forced := false)
      (p := { s.part with drill := { s.part.drill with schedule := e.marks s.part.drill.schedule .started } })
    rw [← hf, ← event_drill (f := Part.reachScheduled) hpow] at hchecks
    obtain ⟨hkeeps, -, hcounter, hschedule⟩ := hchecks
    have hpart := event_part hpow Part.reachScheduled
    refine ⟨_, rfl, event_sameOutside _ s, ?_, ?_, hcounter, fun hsome => ?_, fun hwaiting => ?_, fun r hrun => ?_⟩
    · rw [event_drill hpow, hpart]
      exact (Part.core_settle _).trans (Part.core_of_offDrill (Part.offDrill_reachScheduled _))
    · rw [event_drill hpow]
      have hlayout := Part.layout_reachScheduled s.part
      simp only [Part.layout, Prod.mk.injEq] at hlayout
      obtain ⟨-, -, -, hdrill, -⟩ := hlayout
      exact hdrill
    · refine hschedule.elim id fun ⟨hnone, _⟩ => ?_
      rw [hnone] at hsome
      cases hsome
    · exact hschedule.imp_right fun ⟨hnone, heq⟩ => ⟨hnone, heq.trans (DrillTimer.unready_marks rfl hwaiting)⟩
    · obtain ⟨hnumber, hprogram', hfields, hforced, horigin, haccepted, htime⟩ := DrillRun.identity_fields (hkeeps r hrun)
      refine ⟨hnumber.trans hcounter.symm, hprogram', hfields, hforced, horigin, haccepted, htime.trans ?_⟩
      exact if_pos (by rw [Part.isSet, hset]; rfl)
  · have hf := Part.reachScheduled_refused hset he hrefused
    rw [Part.markEntry_eq] at hf
    refine ⟨_, rfl, event_sameOutside _ s, ?_, event_reports hpow hsettled hout ?_⟩
    · rw [event_settled hpow hsettled hf rfl, ← hout]
      rfl
    · rw [hf]
      exact (Part.says_note _ _).of_silent rfl rfl

end Sys2Proof.Machine
end

section
/-! SUPPORT. One circuit at a time: what the operations of the clock driver leave of the part and of the other circuits
(R110 to R123). -/

namespace Sys2Proof.Machine

/-! ### One circuit's record -/

theorem Part.circuit_lt {p : Part} {c : Nat} {r : Circuit} (h : p.circuit c = some r) : c < 32 := by
  by_contra hc
  simp [Part.circuit, Tab.get, hc] at h

theorem Part.circuit_setCircuit {c : Nat} (hc : c < 32) (p : Part) (r : Option Circuit) : (p.setCircuit c r).circuit c = r := by
  simp [Part.setCircuit, Part.circuit, Tab.get, Tab.set, hc]

theorem Part.setCircuit_same {p : Part} {c : Nat} {r : Circuit} (h : p.circuit c = some r) : p.setCircuit c (some r) = p := by
  have hc := Part.circuit_lt h
  have hv : p.clk.circuits[c] = some r := by simpa [Part.circuit, Tab.get, hc] using h
  have htab : Tab.set p.clk.circuits c (some r) = p.clk.circuits := by
    ext1 k hk
    rw [Tab.set, Vector.getElem_setIfInBounds hk]
    split
    next hck => subst hck; exact hv.symm
    · rfl
  simp only [Part.setCircuit, htab]

@[simp] theorem Part.setCircuit_setCircuit (p : Part) (c : Nat) (r r' : Option Circuit) :
    (p.setCircuit c r).setCircuit c r' = p.setCircuit c r' := by
  simp [Part.setCircuit, Tab.set, Vector.setIfInBounds_setIfInBounds]

/-- A change of a defined circuit's record. -/
theorem Part.modCircuit_eq {p : Part} {c : Nat} {r : Circuit} (h : p.circuit c = some r) (f : Circuit → Circuit) :
    p.modCircuit c f = p.setCircuit c (some (f r)) := by simp only [Part.modCircuit, h]

/-- The dial entry that is written is the circuit's own (R119). -/
theorem Part.dials_writeDial {p : Part} {c : Nat} {r : Circuit} (h : p.circuit c = some r) :
    (p.writeDial c).backup.dials[c]? = some ⟨r.dial, r.polarity, some (r.definition.position, r.definition.line)⟩ := by
  simp [Part.writeDial, h, Tab.set, Part.circuit_lt h]

/-! ### What stays as one circuit changes -/

/-- The part without its circuits, their dials, the line engine and the messages on their way. -/
def Part.offClocks (p : Part) : Part :=
  { p with
    clk := { p.clk with circuits := Vector.replicate 32 none }
    backup := { p.backup with dials := Vector.replicate 32 DialEntry.reset }
    line := LineEngine.reset
    outbox := [] }

theorem Part.offClocks_fields {p q : Part} (h : q.offClocks = p.offClocks) :
    q.time = p.time ∧ q.clock = p.clock ∧ q.arb = p.arb ∧ q.ann = p.ann ∧ q.drill = p.drill ∧ q.chain = p.chain ∧
      q.clk.displays = p.clk.displays :=
  ⟨(congrArg Part.time h :), (congrArg Part.clock h :), (congrArg Part.arb h :), (congrArg Part.ann h :),
    (congrArg Part.drill h :), (congrArg Part.chain h :), (congrArg (fun x : Part => x.clk.displays) h :)⟩

/-- From `p` to `q` circuit `d` and its dial entry have stayed, and so has all that is no circuit's; messages may have been
sent. -/
def Part.sparesCircuit (p q : Part) (d : Nat) : Prop :=
  q.offClocks = p.offClocks ∧ q.circuit d = p.circuit d ∧ q.backup.dials[d]? = p.backup.dials[d]? ∧ p.outbox ⊆ q.outbox

section
variable {p q : Part} {c d : Nat}

theorem Part.sparesCircuit_refl (p : Part) (d : Nat) : p.sparesCircuit p d := ⟨rfl, rfl, rfl, List.Subset.refl _⟩

theorem Part.sparesCircuit.trans {u : Part} (h : p.sparesCircuit q d) (h' : q.sparesCircuit u d) : p.sparesCircuit u d := by
  obtain ⟨hoff, hcirc, hdial, hout⟩ := h
  obtain ⟨hoff', hcirc', hdial', hout'⟩ := h'
  exact ⟨hoff'.trans hoff, hcirc'.trans hcirc, hdial'.trans hdial, List.Subset.trans hout hout'⟩

theorem Part.sparesCircuit.time (h : p.sparesCircuit q d) : q.time = p.time := by
  obtain ⟨hoff, -⟩ := h
  obtain ⟨htime, -⟩ := Part.offClocks_fields hoff
  exact htime

theorem Part.sparesCircuit_hand (p : Part) (l : LineCommand) (t : Option Nat) (w : Sender) (d : Nat) :
    p.sparesCircuit (p.hand l t w) d :=
  ⟨rfl, rfl, rfl, List.Subset.refl _⟩

theorem Part.sparesCircuit_withdraw (p : Part) (k : SlotClass) (f : Handed → Bool) (d : Nat) :
    p.sparesCircuit (p.withdraw k f) d :=
  ⟨rfl, rfl, rfl, List.Subset.refl _⟩

theorem Part.sparesCircuit_noteClock (p : Part) (c : Nat) (e : ClockEvent) (d : Nat) : p.sparesCircuit (p.noteClock c e) d := by
  unfold Part.noteClock
  split
  · exact ⟨rfl, rfl, rfl, List.subset_append_left _ _⟩
  · exact p.sparesCircuit_refl d

variable (p) (hne : c ≠ d)
include hne

theorem Part.sparesCircuit_setCircuit (r : Option Circuit) : p.sparesCircuit (p.setCircuit c r) d :=
  ⟨rfl, by simp [Part.setCircuit, Part.circuit, Tab.get, Tab.set, hne], rfl, List.Subset.refl _⟩

theorem Part.sparesCircuit_writeDial : p.sparesCircuit (p.writeDial c) d :=
  ⟨rfl, rfl, by simp [Part.writeDial, Tab.set, hne], List.Subset.refl _⟩

theorem Part.sparesCircuit_modCircuit (f : Circuit → Circuit) : p.sparesCircuit (p.modCircuit c f) d := by
  unfold Part.modCircuit
  split
  · exact p.sparesCircuit_setCircuit hne _
  · exact p.sparesCircuit_refl d

theorem Part.sparesCircuit_handImpulse : p.sparesCircuit (p.handImpulse c) d := by
  unfold Part.handImpulse
  split
  · split
    · exact (p.sparesCircuit_modCircuit hne _).trans (Part.sparesCircuit_hand _ _ _ _ d)
    · exact p.sparesCircuit_refl d
  · exact p.sparesCircuit_refl d

theorem Part.sparesCircuit_callImpulse : p.sparesCircuit (p.callImpulse c) d := by
  unfold Part.callImpulse
  split
  · dsimp only
    split
    · exact (p.sparesCircuit_modCircuit hne _).trans (Part.sparesCircuit_handImpulse _ hne)
    · exact p.sparesCircuit_modCircuit hne _
  · exact p.sparesCircuit_refl d

theorem Part.sparesCircuit_setCourse (m : CircuitMode) (k : Course) (behind ahead : Nat) :
    p.sparesCircuit (p.setCourse c m k behind ahead) d := by
  have hmod : ∀ f, p.sparesCircuit (p.modCircuit c f) d := fun f => p.sparesCircuit_modCircuit hne f
  have hnoted : ∀ f e, p.sparesCircuit ((p.modCircuit c f).noteClock c e) d := fun f e =>
    (hmod f).trans (Part.sparesCircuit_noteClock _ c e d)
  unfold Part.setCourse
  split
  · dsimp only
    split
    · exact hmod _
    · split
      · split
        · exact hnoted _ _
        · exact hmod _
      · exact hnoted _ _
  · exact p.sparesCircuit_refl d

/-- The evaluation of a circuit (R112). -/
theorem Part.sparesCircuit_evaluateCircuit : p.sparesCircuit (p.evaluateCircuit c) d := by
  have hcourse : ∀ m k x y, p.sparesCircuit (p.setCourse c m k x y) d := fun m k x y => p.sparesCircuit_setCourse hne m k x y
  unfold Part.evaluateCircuit
  split
  · exact p.sparesCircuit_refl d
  split
  · split
    · split
      · exact p.sparesCircuit_modCircuit hne _
      dsimp only
      split
      · exact hcourse _ _ _ _
      split
      · exact (hcourse _ _ _ _).trans (Part.sparesCircuit_callImpulse _ hne)
      split
      · exact hcourse _ _ _ _
      · exact (hcourse _ _ _ _).trans (Part.sparesCircuit_callImpulse _ hne)
    · exact p.sparesCircuit_refl d
  · exact p.sparesCircuit_refl d

theorem Part.sparesCircuit_runCircuit : p.sparesCircuit (p.runCircuit c) d := by
  unfold Part.runCircuit
  split
  · split
    · exact (p.sparesCircuit_modCircuit hne _).trans (Part.sparesCircuit_evaluateCircuit _ hne)
    · exact p.sparesCircuit_modCircuit hne _
  · exact p.sparesCircuit_refl d

theorem Part.sparesCircuit_impulseDelivered : p.sparesCircuit (p.impulseDelivered c) d :=
  (p.sparesCircuit_modCircuit hne _).trans (Part.sparesCircuit_writeDial _ hne)

theorem Part.sparesCircuit_afterImpulse : p.sparesCircuit (p.afterImpulse c) d := by
  unfold Part.afterImpulse
  split
  · split
    · exact p.sparesCircuit_modCircuit hne _
    · exact p.sparesCircuit_evaluateCircuit hne
  · exact p.sparesCircuit_refl d

theorem Part.sparesCircuit_defineCircuit (x : Option CircuitDef) : p.sparesCircuit (p.defineCircuit c x) d := by
  have hdefined : ∀ (q : Part) (r : Option Circuit), q.sparesCircuit ((q.setCircuit c r).writeDial c) d := fun q r =>
    (q.sparesCircuit_setCircuit hne r).trans (Part.sparesCircuit_writeDial _ hne)
  unfold Part.defineCircuit
  split
  · exact (p.sparesCircuit_withdraw _ _ d).trans (hdefined _ _)
  · split
    · exact p.sparesCircuit_setCircuit hne _
    · exact (p.sparesCircuit_withdraw _ _ d).trans (hdefined _ _)
  · exact hdefined _ _

end

/-! ### Walks over the circuits -/

/-- A walk over the circuits takes each by itself: what goes before its turn and after it spares it. -/
theorem Part.each_circuit {F : Part → Nat → Part} {c : Nat}
    (hF : ∀ (q : Part) (k : Nat), k ≠ c → q.sparesCircuit (F q k) c) (hc : c < 32)
    (p : Part) : ∃ q, p.sparesCircuit q c ∧ (F q c).sparesCircuit (p.each (upTo 32) F) c := by
  have hwalk : ∀ l : List Nat, c ∉ l → ∀ q : Part, q.sparesCircuit (q.each l F) c := by
    intro l
    induction l with
    | nil => exact fun _ q => q.sparesCircuit_refl c
    | cons k l ih =>
      intro hmem q
      simp only [List.mem_cons, not_or] at hmem
      exact (hF q k (Ne.symm hmem.1)).trans (ih hmem.2 _)
  obtain ⟨before, after, hl⟩ := List.append_of_mem (List.mem_range.mpr hc)
  have hnodup : (before ++ c :: after).Nodup := hl ▸ List.nodup_range
  rw [List.nodup_append] at hnodup
  obtain ⟨-, hafter, hbefore⟩ := hnodup
  refine ⟨p.each before F, hwalk before (fun hb => hbefore c hb c (by simp) rfl) p, ?_⟩
  have heach : p.each (upTo 32) F = (F (p.each before F) c).each after F := by
    simp only [upTo, hl, Part.each, List.foldl_append, List.foldl_cons]
  rw [heach]
  exact hwalk after (List.nodup_cons.mp hafter).1 _

/-! ### What an evaluation makes of a circuit -/

/-- The mode that an evaluation gives a dial, the course with it and whether it calls for an impulse (R112, R118). -/
def Part.verdict (p : Part) (reading limit : Nat) : CircuitMode × Option Course × Bool :=
  let behind := (behindAhead p.target reading).1
  let ahead := (behindAhead p.target reading).2
  if p.isSet = false then (.run, none, false)
  else if behind ≤ 1 then (.run, some Course.inStep, decide (behind = 1))
  else if ahead ≤ limit then (.hold, some .holding, false)
  else (.advance, some .advancing, true)

/-- A circuit after an evaluation: the mode and the course of the verdict, and an impulse if it calls for one, of the other
polarity and not yet sent (R113). -/
def Circuit.judged (r r' : Circuit) (x : CircuitMode × Option Course × Bool) : Prop :=
  r' = { r with mode := x.1, course := x.2.1.getD r.course, flight := r'.flight } ∧ r'.flight.isSome = x.2.2 ∧
    ∀ i, r'.flight = some i → i.polarity = r.polarity.flip ∧ i.sends = 1 ∧ i.sentAt = none

theorem Circuit.judged_quiet {r : Circuit} {x : CircuitMode × Option Course × Bool} (hf : r.flight = none)
    (hx : x.2.2 = false) :
    r.judged { r with mode := x.1, course := x.2.1.getD r.course } x :=
  ⟨rfl, by simp [hf, hx], fun i hi => by simp [hf] at hi⟩

/-- A circuit that takes its course with an impulse. -/
theorem Part.circuit_courseImpulse {p : Part} {c : Nat} {r : Circuit} (h : p.circuit c = some r) (m : CircuitMode) (k : Course)
    (behind ahead : Nat) : ∃ r', ((p.setCourse c m k behind ahead).callImpulse c).circuit c = some r' ∧
      r.judged r' (m, some k, true) := by
  obtain ⟨i, hi, hi'⟩ := Part.circuit_callImpulse (Part.circuit_setCourse h m k behind ahead)
  exact ⟨_, hi, rfl, rfl, fun j hj => Option.some.inj hj ▸ hi'⟩

/-- The evaluation of a circuit that runs, with its dial known and no impulse in flight, gives the verdict (R112, R118). -/
theorem Part.circuit_judged {p : Part} {c reading : Nat} {r : Circuit} (h : p.circuit c = some r) (hd : r.dial = some reading)
    (hf : r.flight = none) (hm : r.mode = .run ∨ r.mode = .advance ∨ r.mode = .hold) :
    ∃ r', (p.evaluateCircuit c).circuit c = some r' ∧ r.judged r' (p.verdict reading r.definition.holdLimit) := by
  simp only [Part.evaluateCircuit, h, hd, hf, hm, if_true]
  by_cases hset : p.isSet = false
  · refine ⟨{ r with mode := .run }, ?_, ?_⟩
    · simp only [hset, Bool.not_false, if_true, Part.circuit_modCircuit h]
    · simpa [Part.verdict, hset] using Circuit.judged_quiet (x := (.run, none, false)) hf rfl
  have hset' : p.isSet = true := by simpa using hset
  simp only [hset', Bool.not_true, Bool.false_eq_true, Bool.true_eq_false, if_false, Part.verdict]
  by_cases h0 : (behindAhead p.target reading).1 = 0
  · simp only [h0, if_true, Nat.zero_le, zero_ne_one, decide_false]
    exact ⟨_, Part.circuit_setCourse h _ _ _ _, Circuit.judged_quiet (x := (.run, some .inStep, false)) hf rfl⟩
  by_cases h1 : (behindAhead p.target reading).1 = 1
  · simp only [h1, one_ne_zero, if_true, if_false, le_refl, decide_true]
    exact Part.circuit_courseImpulse h _ _ _ _
  have hle : ¬ (behindAhead p.target reading).1 ≤ 1 := by omega
  simp only [h0, h1, hle, if_false]
  by_cases ha : (behindAhead p.target reading).2 ≤ r.definition.holdLimit
  · simp only [ha, if_true]
    exact ⟨_, Part.circuit_setCourse h _ _ _ _, Circuit.judged_quiet (x := (.hold, some .holding, false)) hf rfl⟩
  · simp only [ha, if_false]
    exact Part.circuit_courseImpulse h _ _ _ _

/-- A circuit that does not run, or whose dial is UNKNOWN, or with an impulse in flight, is not evaluated (R112). -/
theorem Part.evaluateCircuit_idle {p : Part} {c : Nat} {r : Circuit} (h : p.circuit c = some r)
    (hr : r.dial = none ∨ r.flight.isSome = true ∨ ¬ (r.mode = .run ∨ r.mode = .advance ∨ r.mode = .hold)) :
    p.evaluateCircuit c = p := by
  simp only [Part.evaluateCircuit, h]
  split
  next hd hf =>
    rw [hd, hf] at hr
    rw [if_neg (by simpa using hr)]
  · rfl

/-- An evaluation leaves a circuit's definition, dial and polarity (R112). -/
theorem Part.circuit_evaluateCircuit_dial {p : Part} {c : Nat} {r : Circuit} (h : p.circuit c = some r) :
    ∃ r', (p.evaluateCircuit c).circuit c = some r' ∧ r'.definition = r.definition ∧ r'.dial = r.dial ∧
      r'.polarity = r.polarity := by
  have hidle : ∀ hr, ∃ r', (p.evaluateCircuit c).circuit c = some r' ∧ r'.definition = r.definition ∧ r'.dial = r.dial ∧
      r'.polarity = r.polarity := fun hr =>
    ⟨r, (congrArg (·.circuit c) (Part.evaluateCircuit_idle h hr)).trans h, rfl, rfl, rfl⟩
  cases hd : r.dial with
  | none => exact hd ▸ hidle (.inl hd)
  | some reading =>
  cases hf : r.flight with
  | some i => exact hd ▸ hidle (.inr (.inl (by simp [hf])))
  | none =>
  by_cases hm : r.mode = .run ∨ r.mode = .advance ∨ r.mode = .hold
  · obtain ⟨r', hr', heq, -⟩ := Part.circuit_judged h hd hf hm
    refine ⟨r', hr', ?_⟩
    rw [heq]
    exact ⟨rfl, hd, rfl⟩
  · exact hd ▸ hidle (.inr (.inr hm))

theorem Part.backup_of_offCircuits {p q : Part} (h : q.offCircuits = p.offCircuits) : q.backup = p.backup := by
  simp only [Part.offCircuits, Prod.mk.injEq] at h
  obtain ⟨-, hbackup, -⟩ := h
  exact hbackup

@[simp] theorem Part.backup_evaluateCircuit (p : Part) (c : Nat) : (p.evaluateCircuit c).backup = p.backup :=
  Part.backup_of_offCircuits (p.offCircuits_evaluateCircuit c)

end Sys2Proof.Machine
end

section
/-! SUPPORT. CIRCUIT_STOP and CIRCUIT_RUN (R122). -/

namespace Sys2Proof.Machine

/-- The circuit that CIRCUIT_STOP leaves (R122). -/
def Circuit.halted (r : Circuit) : Circuit :=
  if r.mode = .stopped ∨ r.mode = .fault then r
  else if r.flight.isSome then { r with stopPending := true }
  else if r.mode = .wait then { r with mode := .stopped }
  else { r with mode := .stopped, course := .none }

/-- A circuit with its pending stop withdrawn (R122). -/
def Circuit.unhalted (r : Circuit) : Circuit := { r with stopPending := false }

section
variable {p : Part} {s : State} {tag c : Nat} {r : Circuit}

/-- The reply of CIRCUIT_STOP and CIRCUIT_RUN gives the circuit as they leave it (R122). -/
theorem Part.stopReply_setCircuit (hc : c < 32) (p : Part) (r : Circuit) :
    (p.setCircuit c (some r)).stopReply c = (p.setCircuit c (some r), okWith (.circuitStop r.mode r.stopPending)) := by
  simp [Part.stopReply, Part.circuit_setCircuit hc]

theorem Part.circuitStop_eq (h : p.circuit c = some r) (saving : Bool) : Part.circuitStop c saving p =
    (p.setCircuit c (some r.halted), okWith (.circuitStop r.halted.mode r.halted.stopPending)) := by
  have hc : c < 32 := Part.circuit_lt h
  have hpass : firstFailure [(decide (31 < c), .badValue), ((p.circuit c).isNone, .notFound)] = none := by
    simp [firstFailure, h, Nat.le_of_lt_succ hc]
  simp only [Part.circuitStop, checked, hpass, Part.modCircuit_eq h]
  exact Part.stopReply_setCircuit hc p r.halted

/-- A node that is not READY lets its circuit wait (R116). -/
theorem Part.runCircuit_waits (h : p.circuit c = some r) (hnode : (p.node r.definition.position).isReady = false) :
    p.runCircuit c = p.setCircuit c (some { r with mode := .wait }) := by
  simp only [Part.runCircuit, h, hnode, Bool.false_eq_true, if_false, Part.modCircuit_eq h]

/-- An evaluation in step gives the course, and reports nothing of a circuit that was not corrected (R112). -/
theorem Part.evaluateCircuit_inStep (h : p.circuit c = some r) (hd : r.dial = some p.target) (hf : r.flight = none)
    (hm : r.mode = .run) (hcourse : r.course = .none) (hset : p.isSet = true) :
    p.evaluateCircuit c = p.setCircuit c (some { r with course := .inStep }) := by
  have hbehind : (behindAhead p.target p.target).1 = 0 := by simp [behindAhead]
  simp [Part.evaluateCircuit, h, hd, hf, hm, hset, hbehind, Part.setCourse, Part.modCircuit_eq h, hcourse]

/-- A circuit of a READY node that is put into RUN in step (R112, R122). -/
theorem Part.runCircuit_inStep (h : p.circuit c = some r) (hnode : (p.node r.definition.position).isReady = true)
    (hd : r.dial = some p.target) (hf : r.flight = none) (hcourse : r.course = .none) (hset : p.isSet = true) :
    p.runCircuit c = p.setCircuit c (some { r with mode := .run, course := .inStep }) := by
  have hrun := Part.evaluateCircuit_inStep (p := p.setCircuit c (some { r with mode := .run }))
    (Part.circuit_setCircuit (Part.circuit_lt h) p _) hd hf rfl hcourse hset
  simp only [Part.runCircuit, h, hnode, if_true, Part.modCircuit_eq h, hrun, Part.setCircuit_setCircuit]

/-- CIRCUIT_RUN is refused to a circuit in FAULT and to one with its dial UNKNOWN (R122). -/
theorem Part.circuitRun_refused (h : p.circuit c = some r) (hr : r.mode = .fault ∨ r.dial = none) (saving : Bool) :
    Part.circuitRun c saving p = (p, ⟨.wrongState, .none⟩) := by
  have hwrong : (r.dial.isNone || r.mode == .fault) = true := by rcases hr with hr | hr <;> simp [hr]
  have hc : ¬ 31 < c := Nat.not_lt.mpr (Nat.le_of_lt_succ (Part.circuit_lt h))
  simp [Part.circuitRun, checked, firstFailure, h, hc, hwrong]

/-- CIRCUIT_RUN withdraws a pending stop, and starts a stopped circuit (R122). -/
theorem Part.circuitRun_eq (h : p.circuit c = some r) (hd : r.dial.isSome = true) (hm : r.mode ≠ .fault) (saving : Bool) :
    Part.circuitRun c saving p =
      (if r.mode = .stopped then (p.setCircuit c (some r.unhalted)).runCircuit c
        else p.setCircuit c (some r.unhalted)).stopReply c := by
  have hc : c < 32 := Part.circuit_lt h
  have hle : ¬ 31 < c := Nat.not_lt.mpr (Nat.le_of_lt_succ hc)
  have hgood : (r.dial.isNone || r.mode == .fault) = false := by
    obtain ⟨d, hd⟩ := Option.isSome_iff_exists.mp hd
    simpa [hd] using hm
  simp [Part.circuitRun, checked, firstFailure, h, hle, hgood, Part.modCircuit_eq h, Part.circuit_setCircuit hc,
    Circuit.unhalted]

/-- A request that replaces a circuit's record and sends nothing. -/
theorem request_setCircuit (hr : s.ready tag) (hs : s.part.settled) (i : Instr) (kind : Nat) {f : Bool → Part → Part × Answer}
    {x : Option Circuit} {b : ReplyBody} (hf : f s.port.saving.isSome s.part = (s.part.setCircuit c x, okWith b)) :
    request i tag kind (ofPart f) s = State.replied { s with part := s.part.setCircuit c x } tag kind ⟨.ok, b⟩ :=
  request_block hr hs i kind f hf (.inl rfl) rfl (State.ready_outbox hr)

theorem exec_circuitStop (hr : s.ready tag) (hs : s.part.settled) (h : s.part.circuit c = some r) :
    exec (.circuitStop tag c) s = .next (State.replied { s with part := s.part.setCircuit c (some r.halted) } tag 0x3E
      ⟨.ok, .circuitStop r.halted.mode r.halted.stopPending⟩) :=
  congrArg Host.Outcome.next (request_setCircuit hr hs _ 0x3E (Part.circuitStop_eq h _))

/-- CIRCUIT_RUN of a circuit that has its dial and is not in FAULT, by the circuit that it leaves (R122). -/
theorem exec_circuitRun (hr : s.ready tag) (hs : s.part.settled) (h : s.part.circuit c = some r) (hd : r.dial.isSome = true)
    (hm : r.mode ≠ .fault) {r' : Circuit}
    (hrun : (if r.mode = .stopped then (s.part.setCircuit c (some r.unhalted)).runCircuit c
      else s.part.setCircuit c (some r.unhalted)) = s.part.setCircuit c (some r')) :
    exec (.circuitRun tag c) s = .next (State.replied { s with part := s.part.setCircuit c (some r') } tag 0x3F
      ⟨.ok, .circuitStop r'.mode r'.stopPending⟩) := by
  refine congrArg Host.Outcome.next (request_setCircuit hr hs _ 0x3F ?_)
  rw [Part.circuitRun_eq h hd hm, hrun]
  exact Part.stopReply_setCircuit (Part.circuit_lt h) _ r'

end

/-- Settles O32: CIRCUIT_STOP by the mode and the flight of the circuit, CIRCUIT_RUN by what it makes of a stopped one. -/
theorem circuitStopAndRun : Obligations.CircuitStopAndRun := by
  intro s tag c r hr hs hc h becomes
  have hstop : ∀ r', r.halted = r' → exec (.circuitStop tag c) s =
      .next (State.replied (becomes r') tag 0x3E ⟨.ok, .circuitStop r'.mode r'.stopPending⟩) :=
    fun r' hr' => hr' ▸ exec_circuitStop hr hs h
  have hset : (s.part.setCircuit c (some r.unhalted)).circuit c = some r.unhalted :=
    Part.circuit_setCircuit (Nat.lt_succ_of_le hc) s.part _
  refine ⟨fun hm => ?_, fun h1 h2 hf => hstop _ ?_, fun hm hf => hstop _ ?_, fun hm hf => hstop _ ?_, fun hm => ?_,
    fun h1 h2 hd => ?_, fun hm hd hnode => ?_, fun hm hf hcourse hisSet hnode hd => ?_⟩
  · refine (hstop r (if_pos hm)).trans ?_
    simp only [becomes, Part.setCircuit_same h]
  · simp [Circuit.halted, h1, h2, hf]
  · simp [Circuit.halted, hm, hf]
  · rcases hm with hm | hm | hm <;> simp [Circuit.halted, hm, hf]
  · exact congrArg Host.Outcome.next
      (request_refused hr _ 0x3F _ (by simp [ofPart, Part.circuitRun_refused h hm]))
  · exact exec_circuitRun hr hs h hd h1 (if_neg h2)
  · refine exec_circuitRun hr hs h hd (by simp [hm]) ?_
    rw [if_pos hm, Part.runCircuit_waits hset hnode, Part.setCircuit_setCircuit]
    rfl
  · refine exec_circuitRun hr hs h (by simp [hd]) (by simp [hm]) ?_
    rw [if_pos hm, Part.runCircuit_inStep hset hnode hd hf hcourse hisSet, Part.setCircuit_setCircuit]
    rfl

end Sys2Proof.Machine
end

section
/-! SUPPORT. CIRCUIT_WRITE and CIRCUIT_SET_DIAL (R112, R120, R121). -/

namespace Sys2Proof.Machine

/-! ### A request of one circuit -/

/-- What a request of circuit `c` leaves: the other circuits, the other blocks and what lies outside the part. -/
def State.changesCircuit (s t : State) (c : Nat) : Prop :=
  (∀ k, k ≠ c → t.part.circuit k = s.part.circuit k) ∧ State.sameOutside s t ∧
    t.part.clock = s.part.clock ∧ t.part.arb = s.part.arb ∧ t.part.ann = s.part.ann ∧ t.part.drill = s.part.drill ∧
    t.part.chain = s.part.chain ∧ t.part.clk.displays = s.part.clk.displays

section
variable {p : Part} {s : State} {tag c : Nat} {r : Circuit}

/-- A request that spares every circuit but its own. -/
theorem request_circuit (hr : s.ready tag) (hs : s.part.settled) (i : Instr) (kind : Nat) {f : Bool → Part → Part × Answer}
    {q : Part} {b : ReplyBody} (hf : f s.port.saving.isSome s.part = (q, okWith b))
    (hq : ∀ d, c ≠ d → s.part.sparesCircuit q d) :
    let t := request i tag kind (ofPart f) s
    State.answers s t tag kind ⟨.ok, b⟩ ∧ s.changesCircuit t c ∧ t.part.circuit c = q.circuit c ∧ t.part.backup = q.backup := by
  intro t
  obtain ⟨hpart, hans⟩ := request_part hr i kind f hf (.inl rfl)
  obtain ⟨hoff, -⟩ := hq (c + 1) (Nat.ne_of_lt c.lt_succ_self)
  obtain ⟨-, hclock, harb, hann, hdrill, hchain, hdisplays⟩ := Part.offClocks_fields hoff
  rw [Part.settle_same hs hann] at hpart
  refine ⟨hans, ⟨fun k hk => ?_, request_sameOutside hr i kind f, ?_⟩, ?_, ?_⟩
  · obtain ⟨-, hkept, -⟩ := hq k (Ne.symm hk)
    rw [show t.part = _ from hpart]
    exact hkept
  · rw [show t.part = _ from hpart]
    exact ⟨hclock, harb, hann, hdrill, hchain, hdisplays⟩
  · rw [show t.part = _ from hpart]; rfl
  · rw [show t.part = _ from hpart]

/-! ### CIRCUIT_WRITE -/

theorem Part.circuitWrite_eq {x : Option CircuitDef} (hc : c ≤ 31) (hx : x.all circuitAllowed = true)
    (hf : ∀ r, p.circuit c = some r → r.flight = none)
    (happart : ∀ d, x = some d → ∀ k ≤ 31, k ≠ c → ∀ r, p.circuit k = some r →
      ¬ (r.definition.position = d.position ∧ r.definition.line = d.line)) :
    Part.circuitWrite c x false p = ((p.defineCircuit c x).evaluateCircuit c, okOnly) := by
  have hflight : (p.circuit c).any (·.flight.isSome) = false := by
    cases h : p.circuit c with
    | none => rfl
    | some r => simp [hf r h]
  have hfree : x.any (p.lineTaken c) = false := by
    cases x with
    | none => rfl
    | some d =>
      simp only [Option.any_some, Part.lineTaken, List.any_eq_false, Bool.and_eq_true, not_and, Bool.not_eq_true]
      intro k hk hne
      cases h : p.circuit k with
      | none => rfl
      | some r =>
        simpa using happart d rfl k (Nat.le_of_lt_succ (List.mem_range.mp hk)) (by simpa using hne) r h
  simp [Part.circuitWrite, checked, firstFailure, Nat.not_lt.mpr hc, hx, hflight, hfree]

/-- A circuit emptied by CIRCUIT_WRITE is not evaluated and has no owner in the backup domain (R120). -/
theorem Part.defineCircuit_none (hc : c ≤ 31) (p : Part) : let q := (p.defineCircuit c none).evaluateCircuit c
    q.circuit c = none ∧ q.backup.dials[c]? = some ⟨none, .positive, none⟩ := by
  have hlt : c < 32 := Nat.lt_succ_of_le hc
  have hempty : ∀ q : Part, ((q.setCircuit c none).writeDial c).circuit c = none := fun q => Part.circuit_setCircuit hlt q none
  have hidle : (p.defineCircuit c none).evaluateCircuit c = p.defineCircuit c none := by
    simp only [Part.evaluateCircuit, Part.defineCircuit, hempty]
  rw [hidle]
  refine ⟨hempty _, ?_⟩
  simp [Part.defineCircuit, Part.writeDial, Part.circuit_setCircuit hlt, Tab.set, hlt]

/-- A circuit defined anew stands STOPPED with its dial UNKNOWN, here and in the backup domain (R120). -/
theorem Part.defineCircuit_fresh (hc : c ≤ 31) {d : CircuitDef}
    (h : ∀ r, p.circuit c = some r → ¬ (r.definition.position = d.position ∧ r.definition.line = d.line)) :
    let q := (p.defineCircuit c (some d)).evaluateCircuit c
    q.circuit c = some (Circuit.fresh d) ∧ q.backup.dials[c]? = some ⟨none, .positive, some (d.position, d.line)⟩ := by
  have hlt : c < 32 := Nat.lt_succ_of_le hc
  have hset : ∀ q : Part, (q.setCircuit c (some (Circuit.fresh d))).circuit c = some (Circuit.fresh d) := fun q =>
    Part.circuit_setCircuit hlt q _
  have hdefined : ∃ q : Part, p.defineCircuit c (some d) = (q.setCircuit c (some (Circuit.fresh d))).writeDial c := by
    cases hp : p.circuit c with
    | none => exact ⟨p, by simp only [Part.defineCircuit, hp]⟩
    | some r => exact ⟨_, by simp only [Part.defineCircuit, hp, if_neg (h r hp)]; rfl⟩
  obtain ⟨q, hq⟩ := hdefined
  have hfresh : (p.defineCircuit c (some d)).circuit c = some (Circuit.fresh d) := hq ▸ hset q
  rw [Part.evaluateCircuit_idle hfresh (.inl rfl)]
  exact ⟨hfresh, hq ▸ Part.dials_writeDial (hset q)⟩

/-- New timings keep the dial and the polarity of their line (R120). -/
theorem Part.defineCircuit_timings (h : p.circuit c = some r) {d : CircuitDef} (hpos : r.definition.position = d.position)
    (hline : r.definition.line = d.line) : p.defineCircuit c (some d) = p.setCircuit c (some { r with definition := d }) := by
  simp [Part.defineCircuit, h, hpos, hline]

/-! ### CIRCUIT_SET_DIAL -/

/-- The circuit with the dial and the polarity that CIRCUIT_SET_DIAL gives it (R121). -/
def Circuit.dialled (r : Circuit) (reading : Nat) (g : Polarity) : Circuit :=
  { r with dial := some reading, polarity := g, flight := none, stopPending := false }

/-- The part with that circuit, here and in the backup domain. -/
def Part.dialled (p : Part) (c : Nat) (r : Circuit) (reading : Nat) (g : Polarity) : Part :=
  (p.setCircuit c (some (r.dialled reading g))).writeDial c

theorem Part.circuit_dialled (h : p.circuit c = some r) (reading : Nat) (g : Polarity) :
    (p.dialled c r reading g).circuit c = some (r.dialled reading g) := Part.circuit_setCircuit (Part.circuit_lt h) p _

theorem Part.circuitSetDial_eq (h : p.circuit c = some r) {reading : Nat} {given : PolarityGiven} (hreading : reading ≤ 719)
    (hgiven : given ≠ .unknown) (hf : r.flight = none ∨ r.mode = .wait) (saving : Bool) {r' : Circuit}
    (hr' : ((p.dialled c r reading (p.dialPolarity r given)).runCircuit c).circuit c = some r') :
    Part.circuitSetDial c reading given saving p =
      ((p.dialled c r reading (p.dialPolarity r given)).runCircuit c, okWith (.circuitMode r'.mode r'.course)) := by
  have hc : ¬ 31 < c := Nat.not_lt.mpr (Nat.le_of_lt_succ (Part.circuit_lt h))
  have hwait : (r.flight.isSome && r.mode != .wait) = false := by rcases hf with hf | hf <;> simp [hf]
  have hpass : firstFailure [(31 < c || 719 < reading || given == .unknown, .badValue), ((p.circuit c).isNone, .notFound),
      ((p.circuit c).any (fun r => r.flight.isSome && r.mode != .wait), .wrongState)] = none := by
    simp [firstFailure, h, hc, Nat.not_lt.mpr hreading, hgiven, hwait]
  simp only [Part.circuitSetDial, checked, hpass, Part.modCircuit_eq h]
  let q := (p.dialled c r reading (p.dialPolarity r given)).runCircuit c
  let shown := (q.circuit c).getD (Circuit.fresh ⟨0, 0, 0, 0, 0⟩)
  have hshown : shown = r' := by simp only [shown, q, hr', Option.getD_some]
  exact congrArg (fun x : Circuit => (q, okWith (.circuitMode x.mode x.course))) hshown

@[simp] theorem Part.backup_runCircuit (p : Part) (c : Nat) : (p.runCircuit c).backup = p.backup :=
  Part.backup_of_offCircuits (by
    unfold Part.runCircuit
    split
    · split <;> simp
    · rfl)

/-- What CIRCUIT_SET_DIAL makes of a circuit: WAIT while its node is not READY, otherwise what an evaluation gives (R121). -/
theorem Part.circuit_runDialled (h : p.circuit c = some r) (reading : Nat) (g : Polarity) :
    ∃ r', ((p.dialled c r reading g).runCircuit c).circuit c = some r' ∧
      ((p.node r.definition.position).isReady = false → r' = { r.dialled reading g with mode := .wait }) ∧
      ((p.node r.definition.position).isReady = true →
        { r.dialled reading g with mode := .run }.judged r' (p.verdict reading r.definition.holdLimit)) := by
  have hd := Part.circuit_dialled h reading g
  cases hnode : (p.node r.definition.position).isReady with
  | false =>
    refine ⟨_, ?_, fun _ => rfl, fun hready => by cases hready⟩
    rw [Part.runCircuit_waits hd hnode]
    exact Part.circuit_setCircuit (Part.circuit_lt h) _ _
  | true =>
    obtain ⟨r', hr', hjudged⟩ := Part.circuit_judged
      (p := (p.dialled c r reading g).modCircuit c fun r => { r with mode := .run }) (Part.circuit_modCircuit hd _) rfl rfl (.inl rfl)
    refine ⟨r', ?_, fun hwait => (by cases hwait), fun _ => ?_⟩
    · have hready : ((p.dialled c r reading g).node (r.dialled reading g).definition.position).isReady = true := hnode
      simp only [Part.runCircuit, hd, hready, if_true]
      exact hr'
    · rw [Part.modCircuit_eq hd] at hjudged
      exact hjudged

end

/-- Settles O31: CIRCUIT_WRITE by what it makes of the definition, CIRCUIT_SET_DIAL by whether the node is READY. -/
theorem circuitWriteAndSetDial : Obligations.CircuitWriteAndSetDial := by
  intro s tag c hr hs hc compared others
  refine ⟨fun hsaving hflight => ?_, ?_⟩
  · have hwrite : ∀ x, x.all circuitAllowed = true → (∀ d, x = some d → ∀ k ≤ 31, k ≠ c → ∀ r, s.part.circuit k = some r →
        ¬ (r.definition.position = d.position ∧ r.definition.line = d.line)) →
        let q := (s.part.defineCircuit c x).evaluateCircuit c
        ∃ t, exec (.circuitWrite tag c x) s = .next t ∧ State.answers s t tag 0x3C ⟨.ok, .none⟩ ∧ others t ∧
          t.part.circuit c = q.circuit c ∧ t.part.backup = q.backup := fun x hx happart =>
      ⟨_, rfl, request_circuit hr hs _ 0x3C (by rw [hsaving]; exact Part.circuitWrite_eq hc hx hflight happart)
        fun d hd => (s.part.sparesCircuit_defineCircuit hd x).trans (Part.sparesCircuit_evaluateCircuit _ hd)⟩
    refine ⟨?_, fun d hd happart => ?_⟩
    · obtain ⟨t, hexec, hans, hothers, hcirc, hbackup⟩ := hwrite none rfl (by simp)
      obtain ⟨hnone, hdials⟩ := Part.defineCircuit_none hc s.part
      exact ⟨t, hexec, hans, hothers, hcirc.trans hnone, hbackup ▸ hdials⟩
    · obtain ⟨t, hexec, hans, hothers, hcirc, hbackup⟩ := hwrite (some d) hd (by simpa using happart)
      have htimings : ∀ r, s.part.circuit c = some r → r.definition.position = d.position → r.definition.line = d.line →
          let q := s.part.setCircuit c (some { r with definition := d })
          q.circuit c = some { r with definition := d } ∧ t.part.circuit c = (q.evaluateCircuit c).circuit c ∧
            t.part.backup = s.part.backup := fun r h hpos hline => by
        rw [Part.defineCircuit_timings h hpos hline] at hcirc hbackup
        exact ⟨Part.circuit_setCircuit (Part.circuit_lt h) s.part _, hcirc, hbackup.trans (Part.backup_evaluateCircuit _ c)⟩
      refine ⟨t, hexec, hans, hothers, fun hnew => ?_, fun r h hpos hline hm => ?_, fun r reading h hpos hline hm hdial => ?_⟩
      · obtain ⟨hfresh, hdials⟩ := Part.defineCircuit_fresh hc hnew
        exact ⟨hcirc.trans hfresh, hbackup ▸ hdials⟩
      · obtain ⟨hset, htaken, hkept⟩ := htimings r h hpos hline
        rw [Part.evaluateCircuit_idle hset (.inr (.inr (by rcases hm with hm | hm | hm <;> simp [hm])))] at htaken
        exact ⟨htaken.trans hset, hkept⟩
      · obtain ⟨hset, htaken, hkept⟩ := htimings r h hpos hline
        obtain ⟨r', hr', hjudged⟩ := Part.circuit_judged hset hdial (hflight r h) hm
        exact ⟨hkept, r', htaken.trans hr', hjudged⟩
  · intro r reading given h hreading hgiven hf reported g
    have hg : s.part.dialPolarity r given = g := by
      cases given with
      | given g => rfl
      | notGiven =>
        change ((reported.map Prod.snd).getD none).getD r.polarity = (reported.bind Prod.snd).getD r.polarity
        cases reported <;> rfl
      | unknown => exact absurd rfl hgiven
    obtain ⟨r', hr', hwait, hready⟩ := Part.circuit_runDialled h reading g
    obtain ⟨hans, hothers, hcirc, hbackup⟩ := request_circuit hr hs (.circuitSetDial tag c reading given) 0x3D
      (Part.circuitSetDial_eq h hreading hgiven hf s.port.saving.isSome (by rw [hg]; exact hr')) fun d hd =>
        ((s.part.sparesCircuit_setCircuit hd _).trans (Part.sparesCircuit_writeDial _ hd)).trans
          (Part.sparesCircuit_runCircuit _ hd)
    rw [hg] at hcirc hbackup
    refine ⟨_, r'.mode, r'.course, rfl, hans, hothers, ?_, r', hcirc.trans hr', ?_⟩
    · rw [hbackup, Part.backup_runCircuit]
      exact Part.dials_writeDial (Part.circuit_setCircuit (Part.circuit_lt h) s.part _)
    · have hkept : r'.definition = r.definition ∧ r'.dial = some reading ∧ r'.polarity = g ∧ r'.stopPending = false := by
        cases hnode : (s.part.node r.definition.position).isReady with
        | false => rw [hwait hnode]; exact ⟨rfl, rfl, rfl, rfl⟩
        | true =>
          obtain ⟨heq, -⟩ := hready hnode
          rw [heq]; exact ⟨rfl, rfl, rfl, rfl⟩
      obtain ⟨hdefinition, hdial, hpolarity, hstop⟩ := hkept
      refine ⟨hdefinition, hdial, hpolarity, rfl, rfl, hstop, hwait, fun hnode => ?_⟩
      obtain ⟨heq, hsome, -⟩ := hready hnode
      exact ⟨congrArg Circuit.mode heq, congrArg Circuit.course heq, hsome⟩

end Sys2Proof.Machine
end

section
/-! SUPPORT. The events of an impulse: the end of its spacing and of its confirmation wait, and the records that confirm it or
have it sent again (R113 to R119). -/

namespace Sys2Proof.Machine

/-! ### The end of the spacing and of the confirmation wait -/

@[simp] theorem Part.ann_noteClock (p : Part) (c : Nat) (e : ClockEvent) : (p.noteClock c e).ann = p.ann := by
  unfold Part.noteClock; split <;> rfl

/-- A notice of a circuit changes nothing but the messages on their way. -/
theorem Part.noteClock_sent (p : Part) (c : Nat) (e : ClockEvent) :
    { p.noteClock c e with outbox := [] } = { p with outbox := [] } := by
  unfold Part.noteClock; split <;> rfl

/-- An event that touches no announcement and sends nothing. -/
theorem event_silent {s : State} (hp : s.powered = true) (hs : s.part.settled) {f : Part → Part} {q : Part} (hf : f s.part = q)
    (ha : q.ann = s.part.ann) (ho : q.outbox = []) : event f s = { s with part := q, port := s.port.transmit } := by
  simp only [event, hp, if_true, hf, Part.settle_same hs ha, finish, ho, Port.drain, List.foldl_nil, Part.empty_outbox ho]

/-- The IMPULSE command of a circuit as the line engine takes it (R113). -/
def Part.impulseCommand (p : Part) (c : Nat) (r : Circuit) (i : Impulse) : Handed :=
  ⟨.impulse r.definition.line i.polarity r.definition.width, some r.definition.position, p.now, .circuit c⟩

/-- A circuit with an impulse in flight. -/
def Circuit.flying (r : Circuit) (i : Impulse) : Circuit := { r with flight := some i }

/-- The part with an impulse of a circuit in flight and handed to the line engine (R113). -/
def Part.handed (p : Part) (c : Nat) (r : Circuit) (i : Impulse) : Part :=
  { p.setCircuit c (some (r.flying i)) with
    line := { p.line with clock := inOrder (p.impulseCommand c r i) p.line.clock } }

section
variable {p : Part} {c : Nat} {r : Circuit} {i : Impulse}

/-- The hand-over of an impulse marks it and puts its command into the clock class (R113). -/
theorem Part.handImpulse_eq (h : p.circuit c = some r) (hi : r.flight = some i) :
    p.handImpulse c = p.handed c r { i with sentAt := none, handed := true, resendDue := false } := by
  simp only [Part.handImpulse, h, hi, Part.modCircuit_eq h]
  rfl

/-- The hand-over of an impulse just put in flight. -/
theorem Part.handImpulse_flying (h : p.circuit c = some r) (i : Impulse) :
    (p.setCircuit c (some (r.flying i))).handImpulse c =
      p.handed c r { i with sentAt := none, handed := true, resendDue := false } := by
  rw [Part.handImpulse_eq (Part.circuit_setCircuit (Part.circuit_lt h) p _) rfl, Part.handed, Part.setCircuit_setCircuit]
  rfl

/-- The spacing ends for an impulse that has waited for it alone (R113). -/
theorem Part.spacingEnd_eq (h : p.circuit c = some r) (hi : r.flight = some i) (hm : r.mode ≠ .wait)
    (hhanded : i.handed = false) (hsent : i.sentAt = none) (hever : i.everSent = false) (hset : p.isSet = true)
    (hspaced : ∀ m, r.lastSend = some m → m + r.definition.spacing * 5 ≤ p.now) : p.spacingEnd c = p.handImpulse c := by
  have hdue : r.spaced ≤ p.now := by
    cases hl : r.lastSend with
    | none => simp [Circuit.spaced, hl]
    | some m => simpa [Circuit.spaced, hl, unitsPerTenth] using hspaced m hl
  simp [Part.spacingEnd, h, hi, hhanded, hsent, hever, hm, hset, hdue]

/-- The re-send of an impulse that was sent counts one send more (R115). -/
theorem Part.resendImpulse_eq (h : p.circuit c = some r) (hi : r.flight = some i) (hsent : i.sentAt.isSome = true) :
    p.resendImpulse c =
      p.handed c r { i with sends := i.sends + 1, sentAt := none, handed := true, resendDue := false } := by
  simp only [Part.resendImpulse, Part.modCircuit_eq h, hi, Option.map_some, hsent, if_true]
  exact Part.handImpulse_flying h { i with sends := i.sends + 1 }

/-- A confirmation wait that has run out (R115, R118). -/
theorem Part.confirmationWaitEnd_eq (h : p.circuit c = some r) (hi : r.flight = some i) (hm : r.mode ≠ .wait) {m : Nat}
    (hsent : i.sentAt = some m) (hdue : i.resendDue = false) (hend : m + r.definition.width * 5 + 10 ≤ p.now) :
    (3 ≤ i.sends → ∃ e, p.confirmationWaitEnd c = (p.setCircuit c (some { r with
      mode := .fault, course := .none, flight := none, stopPending := false })).noteClock c e) ∧
    (i.sends < 3 → p.isSet = true → p.confirmationWaitEnd c = p.resendImpulse c) ∧
    (i.sends < 3 → p.isSet = false → p.confirmationWaitEnd c =
      p.setCircuit c (some (r.flying { i with resendDue := true }))) := by
  have hover : (r.waitEnd m ≤ p.now && !i.resendDue && r.mode != .wait) = true := by simp [Circuit.waitEnd, hend, hdue, hm]
  simp only [Part.confirmationWaitEnd, h, hi, hsent, hover, if_true, Part.modCircuit_eq h]
  refine ⟨fun h3 => ⟨_, if_pos h3⟩, fun h3 hset => ?_, fun h3 hset => ?_⟩
  · rw [if_neg (by omega), if_pos hset]
  · rw [if_neg (by omega), if_neg (by simp [hset])]
    rfl

end

/-! ### A record of the circuit's node (R114, R117) -/

/-- What the examination of a record makes of one circuit (R114). -/
def Part.examineImpulse (pos : Nat) (lines : List (Nat × LinePolarity)) (p : Part) (c : Nat) : Part :=
  match p.circuit c with
  | some r =>
    match r.flight, lines[r.definition.line]? with
    | some i, some l =>
      if r.definition.position = pos && r.mode != .wait && (i.sentAt.isSome || (i.resendDue && i.everSent)) &&
          i.confirmedBy l.1 l.2 then
        (p.impulseDelivered c).afterImpulse c
      else p
    | _, _ => p
  | none => p

theorem Part.examineImpulses_eq (p : Part) (pos : Nat) (lines : List (Nat × LinePolarity)) :
    p.examineImpulses pos lines = p.each (upTo 32) (Part.examineImpulse pos lines) := rfl

/-- A circuit of which a record delivers the impulse in WAIT: RUN, the notice, and what follows a confirmation (R117). -/
def Part.reconciledDelivered (p : Part) (c : Nat) (l : Nat × LinePolarity) : Part :=
  (((p.impulseDelivered c).modCircuit c fun r => { r with mode := .run }).noteClock c (.reconciled true l.1 l.2)).afterImpulse c

/-- A circuit whose impulse is to be sent again, with the count that the record gives as its reference (R117). -/
def Circuit.renewed (r : Circuit) (i : Impulse) (reference : Nat) : Circuit :=
  { r with mode := if r.course = .advancing then .advance else .run,
           flight := some { i with sends := 1, sentAt := none, reference := reference, handed := false, resendDue := true,
                                   restarted := false } }

/-- The part with the impulse of a circuit renewed: handed while campus time is SET, with the notice (R117, R118). -/
def Part.reconciledAgain (p : Part) (c : Nat) (i : Impulse) (l : Nat × LinePolarity) : Part :=
  let q := p.modCircuit c fun r => r.renewed i l.1
  (if q.isSet then q.handImpulse c else q).noteClock c (.reconciled false l.1 l.2)

/-- What the first record of a node in READY makes of one circuit (R117). -/
def Part.reconcileCircuit (pos : Nat) (lines : List (Nat × LinePolarity)) (p : Part) (c : Nat) : Part :=
  match p.circuit c with
  | some r =>
    match r.flight with
    | some i =>
      if r.definition.position = pos && r.mode == .wait then
        let l := (lines[r.definition.line]?).getD (0, none)
        if i.confirmedBy l.1 l.2 && !i.restarted then p.reconciledDelivered c l else p.reconciledAgain c i l
      else p
    | none => p
  | none => p

theorem Part.reconcileCircuits_eq (p : Part) (pos : Nat) (lines : List (Nat × LinePolarity)) :
    p.reconcileCircuits pos lines = p.each (upTo 32) (Part.reconcileCircuit pos lines) := rfl

section
variable {p : Part} {pos c : Nat} {r : Circuit} {i : Impulse} {lines : List (Nat × LinePolarity)}

theorem Impulse.confirmedBy_iff (i : Impulse) (n : Nat) (g : LinePolarity) :
    i.confirmedBy n g = true ↔ n ≠ i.reference ∧ g = some i.polarity := by
  simp [Impulse.confirmedBy]

/-- A circuit with its impulse delivered (R114). -/
def Circuit.delivered (r : Circuit) (i : Impulse) : Circuit :=
  { r with dial := r.dial.map fun d => (d + 1) % 720, polarity := i.polarity, flight := none }

/-- The delivery of an impulse moves the dial, here and in the backup domain (R114). -/
theorem Part.impulseDelivered_eq (h : p.circuit c = some r) (hi : r.flight = some i) :
    p.impulseDelivered c = (p.setCircuit c (some (r.delivered i))).writeDial c := by
  simp only [Part.impulseDelivered, Part.modCircuit_eq h, hi, Circuit.delivered]

/-- Circuit `c` and its dial entry show the dial and the polarity of `x`, and the circuit is STOPPED if a stop was pending. -/
def Part.showsDial (p : Part) (c : Nat) (x : Circuit) : Prop :=
  ∃ r', p.circuit c = some r' ∧ r'.definition = x.definition ∧ r'.dial = x.dial ∧ r'.polarity = x.polarity ∧
    p.backup.dials[c]? = some ⟨r'.dial, x.polarity, some (x.definition.position, x.definition.line)⟩ ∧
    (x.stopPending = true → r'.mode = .stopped ∧ r'.course = .none ∧ r'.flight = none ∧ r'.stopPending = false)

theorem Part.showsDial.spared {q : Part} {x : Circuit} (hx : p.showsDial c x) (h : p.sparesCircuit q c) : q.showsDial c x := by
  obtain ⟨-, hcirc, hdials, -⟩ := h
  simpa only [Part.showsDial, hcirc, hdials] using hx

/-- What follows a confirmation leaves the dial, and stops a circuit whose stop is pending (R114). -/
theorem Part.afterImpulse_showsDial {x : Circuit} (h : p.circuit c = some x) (hf : x.flight = none)
    (hdials : p.backup.dials[c]? = some ⟨x.dial, x.polarity, some (x.definition.position, x.definition.line)⟩) :
    (p.afterImpulse c).showsDial c x := by
  simp only [Part.afterImpulse, h]
  split
  · rw [Part.modCircuit_eq h]
    exact ⟨_, Part.circuit_setCircuit (Part.circuit_lt h) p _, rfl, rfl, rfl, hdials, fun _ => ⟨rfl, rfl, hf, rfl⟩⟩
  next hstop =>
    obtain ⟨r', hr', hdefinition, hdial, hpolarity⟩ := Part.circuit_evaluateCircuit_dial h
    refine ⟨r', hr', hdefinition, hdial, hpolarity, ?_, fun hpending => absurd hpending hstop⟩
    rw [Part.backup_evaluateCircuit, hdial, hdials]

/-- The port has been sent a CLOCK_STATE notice of circuit `c` with this event. -/
def Part.reportsClock (p : Part) (c : Nat) (e : ClockEvent) : Prop :=
  ∃ d g m k, Message.notice (.clockState c d g m k e) ∈ p.outbox

theorem Part.reportsClock_noteClock (h : p.circuit c = some r) (e : ClockEvent) : (p.noteClock c e).reportsClock c e :=
  ⟨r.dial, r.polarity, r.mode, r.course, by simp [Part.noteClock, h, Part.note, Part.send]⟩

theorem Part.reportsClock.spared {q : Part} {d : Nat} {e : ClockEvent} (he : p.reportsClock c e) (h : p.sparesCircuit q d) :
    q.reportsClock c e := by
  obtain ⟨-, -, -, hout⟩ := h
  obtain ⟨n, g, m, k, hmem⟩ := he
  exact ⟨n, g, m, k, hout hmem⟩

/-! ### The examination of one circuit -/

theorem Part.sparesCircuit_examineImpulse (p : Part) {d : Nat} (hne : c ≠ d) :
    p.sparesCircuit (p.examineImpulse pos lines c) d := by
  unfold Part.examineImpulse
  split
  · split
    · split
      · exact (p.sparesCircuit_impulseDelivered hne).trans (Part.sparesCircuit_afterImpulse _ hne)
      · exact p.sparesCircuit_refl d
    · exact p.sparesCircuit_refl d
  · exact p.sparesCircuit_refl d

/-- A circuit of another node, one in WAIT and one without an impulse in flight are not examined (R114). -/
theorem Part.examineImpulse_other (h : p.circuit c = some r)
    (hr : r.definition.position ≠ pos ∨ r.mode = .wait ∨ r.flight = none) : p.examineImpulse pos lines c = p := by
  simp only [Part.examineImpulse, h]
  split
  next hf hl =>
    refine if_neg fun hall => ?_
    rcases hr with hr | hr | hr <;> simp [hr] at hall hf
  · rfl

/-- A circuit with a sent impulse has it delivered by the record that confirms it, and by no other (R114). -/
theorem Part.examineImpulse_sent (h : p.circuit c = some r) (hm : r.mode ≠ .wait) (hi : r.flight = some i)
    (hsent : i.sentAt.isSome = true) {l : Nat × LinePolarity} (hl : lines[r.definition.line]? = some l) :
    p.examineImpulse r.definition.position lines c =
      if i.confirmedBy l.1 l.2 = true then (p.impulseDelivered c).afterImpulse c else p := by
  simp [Part.examineImpulse, h, hi, hl, hm, hsent]

/-- A delivered impulse and what follows its confirmation show the dial moved (R114). -/
theorem Part.delivered_showsDial (h : p.circuit c = some r) (hi : r.flight = some i) :
    ((p.impulseDelivered c).afterImpulse c).showsDial c (r.delivered i) := by
  have hset := Part.circuit_setCircuit (Part.circuit_lt h) p (some (r.delivered i))
  rw [Part.impulseDelivered_eq h hi]
  exact Part.afterImpulse_showsDial hset rfl (Part.dials_writeDial hset)

/-! ### The reconciliation of one circuit -/

theorem Part.sparesCircuit_reconcileCircuit (p : Part) {d : Nat} (hne : c ≠ d) :
    p.sparesCircuit (p.reconcileCircuit pos lines c) d := by
  have hdelivered : ∀ l, p.sparesCircuit (p.reconciledDelivered c l) d := fun l =>
    (((p.sparesCircuit_impulseDelivered hne).trans (Part.sparesCircuit_modCircuit _ hne _)).trans
      (Part.sparesCircuit_noteClock _ c _ d)).trans (Part.sparesCircuit_afterImpulse _ hne)
  have hagain : ∀ i l, p.sparesCircuit (p.reconciledAgain c i l) d := fun i l => by
    have hset := p.sparesCircuit_modCircuit hne fun r => r.renewed i l.1
    refine Part.sparesCircuit.trans ?_ (Part.sparesCircuit_noteClock _ c _ d)
    split
    · exact hset.trans (Part.sparesCircuit_handImpulse _ hne)
    · exact hset
  unfold Part.reconcileCircuit
  split
  · split
    · split
      · dsimp only
        split
        · exact hdelivered _
        · exact hagain _ _
      · exact p.sparesCircuit_refl d
    · exact p.sparesCircuit_refl d
  · exact p.sparesCircuit_refl d

/-- A circuit of another node, one not in WAIT and one without an impulse in flight are not reconciled (R117). -/
theorem Part.reconcileCircuit_other (h : p.circuit c = some r)
    (hr : r.definition.position ≠ pos ∨ r.mode ≠ .wait ∨ r.flight = none) : p.reconcileCircuit pos lines c = p := by
  simp only [Part.reconcileCircuit, h]
  split
  next hf =>
    refine if_neg fun hall => ?_
    rcases hr with hr | hr | hr <;> simp [hr] at hall hf
  · rfl

/-- A circuit in WAIT with an impulse in flight is reconciled (R117). -/
theorem Part.reconcileCircuit_waiting (h : p.circuit c = some r) (hm : r.mode = .wait) (hi : r.flight = some i) :
    p.reconcileCircuit r.definition.position lines c =
      let l := (lines[r.definition.line]?).getD (0, none)
      if (i.confirmedBy l.1 l.2 && !i.restarted) = true then p.reconciledDelivered c l else p.reconciledAgain c i l := by
  simp [Part.reconcileCircuit, h, hi, hm]

theorem Part.reconciledDelivered_spec (h : p.circuit c = some r) (hi : r.flight = some i) (l : Nat × LinePolarity) :
    (p.reconciledDelivered c l).showsDial c (r.delivered i) ∧
      (p.reconciledDelivered c l).reportsClock c (.reconciled true l.1 l.2) := by
  have hset := Part.circuit_setCircuit (Part.circuit_lt h) p (some (r.delivered i))
  have hdelivered : (p.impulseDelivered c).circuit c = some (r.delivered i) := Part.impulseDelivered_eq h hi ▸ hset
  have hdials : (p.impulseDelivered c).backup.dials[c]? =
      some ⟨(r.delivered i).dial, i.polarity, some (r.definition.position, r.definition.line)⟩ :=
    Part.impulseDelivered_eq h hi ▸ Part.dials_writeDial hset
  let q := (p.impulseDelivered c).modCircuit c fun r => { r with mode := .run }
  let u := q.noteClock c (.reconciled true l.1 l.2)
  have hq : q.circuit c = some { r.delivered i with mode := .run } := Part.circuit_modCircuit hdelivered _
  have hu : u.circuit c = some { r.delivered i with mode := .run } := (congrFun (q.circuit_noteClock c _) c).trans hq
  have hbackup : u.backup = (p.impulseDelivered c).backup := Part.backup_of_offCircuits (by simp [u, q])
  have hshows : (u.afterImpulse c).showsDial c { r.delivered i with mode := .run } :=
    Part.afterImpulse_showsDial hu rfl (hbackup ▸ hdials)
  exact ⟨hshows,
    (Part.reportsClock_noteClock hq _).spared (Part.sparesCircuit_afterImpulse u (Nat.ne_of_lt c.lt_succ_self))⟩

theorem Part.reconciledAgain_spec (h : p.circuit c = some r) (i : Impulse) (l : Nat × LinePolarity) :
    (p.reconciledAgain c i l).circuit c = some { r with
      mode := if r.course = .advancing then .advance else .run
      flight := some { i with sends := 1, sentAt := none, reference := l.1, handed := p.isSet, resendDue := !p.isSet,
                              restarted := false } } ∧
      (p.reconciledAgain c i l).reportsClock c (.reconciled false l.1 l.2) := by
  have hset := Part.circuit_setCircuit (Part.circuit_lt h) p (some (r.renewed i l.1))
  have hquality : (p.setCircuit c (some (r.renewed i l.1))).isSet = p.isSet := rfl
  simp only [Part.reconciledAgain, Part.circuit_noteClock, Part.modCircuit_eq h, hquality]
  cases p.isSet with
  | true => exact ⟨Part.circuit_handImpulse hset rfl, Part.reportsClock_noteClock (Part.circuit_handImpulse hset rfl) _⟩
  | false => exact ⟨hset, Part.reportsClock_noteClock hset _⟩

/-! ### Each circuit in its turn -/

/-- The examination of a record examines a circuit as it stands (R114). -/
theorem Part.examineImpulses_circuit (h : p.circuit c = some r) : ∃ q : Part, q.circuit c = some r ∧
    (q.examineImpulse pos lines c).sparesCircuit (p.examineImpulses pos lines) c := by
  obtain ⟨q, ⟨-, hcirc, -⟩, hlater⟩ := Part.each_circuit
    (fun (q : Part) k hk => q.sparesCircuit_examineImpulse (pos := pos) (lines := lines) hk) (Part.circuit_lt h) p
  exact ⟨q, hcirc.trans h, (p.examineImpulses_eq pos lines) ▸ hlater⟩

/-- The reconciliation takes a circuit as it stands (R117). -/
theorem Part.reconcileCircuits_circuit (h : p.circuit c = some r) : ∃ q : Part, q.circuit c = some r ∧ q.isSet = p.isSet ∧
    (q.reconcileCircuit pos lines c).sparesCircuit (p.reconcileCircuits pos lines) c := by
  obtain ⟨q, hbefore, hlater⟩ := Part.each_circuit
    (fun (q : Part) k hk => q.sparesCircuit_reconcileCircuit (pos := pos) (lines := lines) hk) (Part.circuit_lt h) p
  have hset : q.isSet = p.isSet := by simp only [Part.isSet, hbefore.time]
  obtain ⟨-, hcirc, -⟩ := hbefore
  exact ⟨q, hcirc.trans h, hset, (p.reconcileCircuits_eq pos lines) ▸ hlater⟩

theorem Part.examineImpulses_other (h : p.circuit c = some r)
    (hr : r.definition.position ≠ pos ∨ r.mode = .wait ∨ r.flight = none) :
    (p.examineImpulses pos lines).circuit c = some r := by
  obtain ⟨q, hq, -, hcirc, -⟩ := Part.examineImpulses_circuit (pos := pos) (lines := lines) h
  rw [hcirc, Part.examineImpulse_other hq hr, hq]

theorem Part.reconcileCircuits_other (h : p.circuit c = some r)
    (hr : r.definition.position ≠ pos ∨ r.mode ≠ .wait ∨ r.flight = none) :
    (p.reconcileCircuits pos lines).circuit c = some r := by
  obtain ⟨q, hq, -, -, hcirc, -⟩ := Part.reconcileCircuits_circuit (pos := pos) (lines := lines) h
  rw [hcirc, Part.reconcileCircuit_other hq hr, hq]

end

/-- Settles O53: the two ends by the equations of their events, a record by what it makes of one circuit in its turn. -/
theorem circuitEvents : Obligations.CircuitEvents := by
  refine ⟨?_, ?_⟩
  · intro s c r i hpow hs hout hc h hi hm flies handed hands becomes
    have hbecomes : ∀ {f : Part → Part} {q : Part}, f s.part = q → q.ann = s.part.ann → q.outbox = s.part.outbox →
        (Host.Outcome.next (event f s) : Result) = becomes q := fun hf ha ho =>
      congrArg Host.Outcome.next (event_silent hpow hs hf ha (ho.trans hout))
    refine ⟨fun hhanded hsent hever hset hspaced => ?_, fun m hsent hdue hend => ?_⟩
    · refine hbecomes (q := hands _) ((Part.spacingEnd_eq h hi hm hhanded hsent hever (Part.isSet_of_set hset)
        hspaced).trans ?_) rfl rfl
      rw [Part.handImpulse_eq h hi, ← hsent]
      rfl
    · obtain ⟨hfault, hresend, hwait⟩ := Part.confirmationWaitEnd_eq h hi hm hsent hdue hend
      refine ⟨fun h3 hset => ?_, fun h3 hset => ?_, fun h3 => ?_⟩
      · exact hbecomes (q := hands _) ((hresend h3 (Part.isSet_of_set hset)).trans
          (Part.resendImpulse_eq h hi (by simp [hsent]))) rfl rfl
      · exact hbecomes (q := flies _) (hwait h3 (Part.isSet_of_unset hset)) rfl rfl
      · obtain ⟨e, he⟩ := hfault h3
        refine ⟨_, rfl, event_sameOutside _ s, ?_⟩
        rw [event_settled hpow hs he (by rw [Part.ann_noteClock]; rfl), Part.noteClock_sent]
        exact Part.empty_outbox hout
  · intro p pos c r lines hc h confirms moved examined reconciled
    refine ⟨fun hpos => ⟨Part.examineImpulses_other h (.inl hpos), Part.reconcileCircuits_other h (.inl hpos)⟩, ?_,
      fun hf => ⟨Part.examineImpulses_other h (.inr (.inr hf)), Part.reconcileCircuits_other h (.inr (.inr hf))⟩⟩
    rintro rfl i hi
    refine ⟨fun hm hsent l hl => ?_, fun hm => ?_⟩
    · obtain ⟨q, hq, hlater⟩ := Part.examineImpulses_circuit (pos := r.definition.position) (lines := lines) h
      rw [Part.examineImpulse_sent hq hm hi hsent hl] at hlater
      refine ⟨fun hconfirms => ?_, fun hconfirms => ?_⟩
      · rw [if_pos ((i.confirmedBy_iff l.1 l.2).mpr hconfirms)] at hlater
        exact (Part.delivered_showsDial hq hi).spared hlater
      · rw [if_neg fun hby => hconfirms ((i.confirmedBy_iff l.1 l.2).mp hby)] at hlater
        obtain ⟨-, hcirc, -⟩ := hlater
        exact hcirc.trans hq
    · intro l reports
      obtain ⟨q, hq, hset, hlater⟩ := Part.reconcileCircuits_circuit (pos := r.definition.position) (lines := lines) h
      rw [Part.reconcileCircuit_waiting hq hm hi] at hlater
      refine ⟨Part.examineImpulses_other h (.inr (.inl hm)), fun hconfirms hrestarted => ?_, fun hnot => ?_⟩
      · have hby : (i.confirmedBy l.1 l.2 && !i.restarted) = true := by
          simpa [hrestarted] using (i.confirmedBy_iff l.1 l.2).mpr hconfirms
        rw [if_pos hby] at hlater
        obtain ⟨hshows, hreports⟩ := Part.reconciledDelivered_spec hq hi l
        exact ⟨hshows.spared hlater, hreports.spared hlater⟩
      · have hby : ¬ (i.confirmedBy l.1 l.2 && !i.restarted) = true := by
          rw [Bool.and_eq_true, i.confirmedBy_iff]
          rintro ⟨hconfirms, hfresh⟩
          rcases hnot with hnot | hnot
          · exact hnot hconfirms
          · simp [hnot] at hfresh
        rw [if_neg hby] at hlater
        obtain ⟨hcirc', hreports⟩ := Part.reconciledAgain_spec hq i l
        rw [hset] at hcirc'
        refine ⟨hreports.spared hlater, ?_⟩
        obtain ⟨-, hcirc, -⟩ := hlater
        exact hcirc.trans hcirc'

end Sys2Proof.Machine
end

section
/-! SUPPORT. What a node makes of the slot of a cycle, while it has a position and while it has none, and how it comes up after
a loss of its own power (R127, R138, R139, R148). -/

namespace Sys2Proof.Machine

/-! ### The slot of a cycle -/

/-- A node with one more cycle taken since it last applied a command (R127). -/
def Node.waited (n : Node) : Node := { n with sinceApplied := min (n.sinceApplied + 1) (resendCycles + 1) }

section
variable {n : Node} (world : Nat) {s : Slot}

theorem Node.takeSlot_none : n.takeSlot world none = ⟨n.waited, none, false, true⟩ := rfl

/-- A node without a position ignores every command but HAIL and ASSIGN (R139). -/
theorem Node.takeSlot_ignored (h : n.position = none) (hhail : s.command ≠ .hail) (hassign : ∀ p, s.command ≠ .assign p) :
    n.takeSlot world (some s) = ⟨n.waited, none, false, true⟩ := by
  obtain ⟨seq, target, c⟩ := s
  cases n
  dsimp only at h
  subst h
  cases c with
  | hail => exact absurd rfl hhail
  | assign p => exact absurd rfl (hassign p)
  | _ => rfl

/-- A node without a position answers HAIL (R139, R148). -/
theorem Node.takeSlot_hail (h : n.position = none) (hc : s.command = .hail) :
    n.takeSlot world (some s) = n.waited.answerHail := by
  cases n
  cases s
  dsimp only at h hc
  subst h hc
  rfl

/-- A node that has answered HAIL takes the position of an ASSIGN, and one that has not ignores it (R139, R148). -/
theorem Node.takeSlot_assign (h : n.position = none) {p : Nat} (hc : s.command = .assign p) :
    n.takeSlot world (some s) = if n.answered = true then
        ⟨{ n with position := some p, former := none, restarted := false, answered := false, lastApplied := s.seq,
                  sinceApplied := 0 }, none, true, false⟩
      else ⟨n.waited, none, false, true⟩ := by
  cases n
  cases s
  dsimp only at h hc
  subst h hc
  rfl

/-- A node with a position applies a command that selects it and carries another sequence number (R127). -/
theorem Node.takeSlot_applies {p : Nat} (h : n.position = some p) (hs : n.selected s = true) (hseq : s.seq ≠ n.lastApplied) :
    (n.takeSlot world (some s)).node.lastApplied = s.seq := by
  have htakes : (n.waited.selected s && !(s.seq == n.lastApplied && n.waited.sinceApplied ≤ resendCycles)) = true := by
    have hselected : n.waited.selected s = true := hs
    simp [hselected, hseq]
  cases n
  dsimp only at h
  subst h
  exact congrArg (fun t : SlotTaken => t.node.lastApplied) (if_pos htakes)

/-- A command for a position selects the node that has it, but for ZONE_OUTPUT, which goes by windows (R127, R128). -/
theorem Node.selected_target {p : Nat} (h : n.position = some p) (ht : s.target = some p) (hhail : s.command ≠ .hail)
    (hassign : ∀ q, s.command ≠ .assign q) (hzones : ∀ lo hi o, s.command ≠ .zoneOutput lo hi o) : n.selected s = true := by
  unfold Node.selected
  split
  next lo hi o hc => exact absurd hc (hzones lo hi o)
  next hc => exact absurd hc hhail
  next q hc => exact absurd hc (hassign q)
  next => simp [h, ht]

/-- A cycle in which a node takes no position leaves it without one, and leaves its former position and its restarted flag. -/
theorem Node.takeSlot_unassigned (h : n.position = none) {slot : Option Slot}
    (ha : (n.takeSlot world slot).assigned = false) :
    (n.takeSlot world slot).node.position = none ∧ (n.takeSlot world slot).node.former = n.former ∧
      (n.takeSlot world slot).node.restarted = n.restarted := by
  have hwaits : n.waited.position = none ∧ n.waited.former = n.former ∧ n.waited.restarted = n.restarted := ⟨h, rfl, rfl⟩
  cases slot with
  | none => exact hwaits
  | some s =>
    by_cases hhail : s.command = .hail
    · rw [Node.takeSlot_hail world h hhail]
      exact hwaits
    · by_cases hassign : ∃ p, s.command = .assign p
      · obtain ⟨p, hp⟩ := hassign
        rw [Node.takeSlot_assign world h hp] at ha ⊢
        split at ha
        · exact absurd ha (by simp)
        next hanswered => rw [if_neg hanswered]; exact hwaits
      · rw [Node.takeSlot_ignored world h hhail fun p hp => hassign ⟨p, hp⟩]
        exact hwaits

end

/-! ### A node without a position -/

/-- A node without a position sends its record in the window of its former position, if it has one (R138, R139). -/
theorem Node.record_unassigned {n : Node} (h : n.position = none) :
    n.record.map (fun r => (r.position, r.restarted, r.assigned)) = n.former.map fun p => (p, n.restarted, false) := by
  simp only [Node.record, h, Option.map_map]
  rfl

/-- Settles O58: the equations of the slot that a node without a position takes. -/
theorem unassignedNodes : Obligations.UnassignedNodes := by
  intro n world h
  refine ⟨?_, ?_, ?_, ?_⟩
  · intro s hhail hassign
    simp only [Node.takeSlot_ignored world h hhail hassign, and_self, and_true]
    rfl
  · intro s hhail
    simp only [Node.takeSlot_hail world h hhail]
    exact ⟨rfl, rfl, h, rfl, rfl, rfl⟩
  · intro s p hassign hanswered
    simp only [Node.takeSlot_assign world h hassign, if_pos hanswered, true_and]
    intro s' ht hseq hhail hother hzones
    exact Node.takeSlot_applies world rfl (Node.selected_target rfl ht hhail hother hzones) hseq
  · intro hformer
    simp [Node.record, h, hformer]

/-! ### A node's own power -/

/-- A node that comes up again is silent in every zone (R138). -/
theorem Node.silent_powerUp (n : Node) {z : Nat} (hz : z < 64) :
    n.powerUp.applied z = .silent ∧ n.powerUp.plays z = .silent := by
  have happlied : n.powerUp.applied z = .silent := by simp [Node.powerUp, Node.restart, Node.applied, Tab.get, hz]
  refine ⟨happlied, ?_⟩
  simp only [Node.plays, happlied]
  split <;> rfl

theorem onNode_eq {s : State} {place : Nat} {n : Node} (h : s.nodes[place]? = some n) (f : Node → Node) :
    onNode place f s = { s with nodes := s.nodes.set place (f n) } := by
  rw [onNode, List.modify_eq_set_getElem?, h]
  rfl

/-- Settles O57: the node of the place is powered down and then up, and `Node.restart` lists its values. -/
theorem nodeRestarts : Obligations.NodeRestarts := by
  intro s place n h
  have hlt : place < s.nodes.length := (List.getElem?_eq_some_iff.mp h).1
  have hoff : (s.nodes.set place n.powerDown)[place]? = some n.powerDown := by simp [hlt]
  have hposition : n.powerDown.powerUp.position = none := rfl
  refine ⟨n.powerDown, n.powerDown.powerUp, ?_, rfl, ?_, rfl, fun z hz => n.powerDown.silent_powerUp hz, rfl, rfl, rfl, rfl, rfl,
    ?_, ?_, ?_, ?_, rfl, rfl, rfl, rfl, hposition, rfl, rfl, ?_, ?_⟩
  · exact congrArg Host.Outcome.next (onNode_eq h _)
  · refine congrArg Host.Outcome.next ((onNode_eq (s := { s with nodes := s.nodes.set place n.powerDown }) hoff _).trans ?_)
    simp [Node.powerDown]
  · simp [Node.powerUp, Node.restart, Node.powerDown]
  · simp [Node.powerUp, Node.restart, NodeInput.restarted]
  · simp [Node.powerUp, Node.restart, Node.powerDown]
  · simp [Node.powerUp, Node.restart, NodeLine.restarted]
  · intro p hp
    have hrecord := Node.record_unassigned hposition
    rw [hp, Option.map_some, Option.map_eq_some_iff] at hrecord
    obtain ⟨r, hr, hvalues⟩ := hrecord
    simp only [Prod.mk.injEq] at hvalues
    exact ⟨r, hr, hvalues⟩
  · intro world slot ha
    obtain ⟨hpos, hformer, hrestarted⟩ := Node.takeSlot_unassigned world hposition ha
    rw [Node.record_unassigned hpos, hformer, hrestarted]
    rfl

end Sys2Proof.Machine
end

section
/-! SUPPORT. What every operation on a line cycle leaves of the line engine and the chain builder: only a cut of the head's own
port, whose task must stand in the work list, sets the cycle index back (R124, R130, R159), and only a choice puts a
command in flight (R131, R132). -/

namespace Sys2Proof.Machine

/-! ### What the drill timer and the clock driver leave -/

section
variable (p : Part)

@[simp] theorem Part.offDrill_withdraw (k : SlotClass) (f : Handed → Bool) : (p.withdraw k f).offDrill = p.offDrill :=
  Part.offDrill_of_core (by simp)

theorem Part.offDrill_each {α : Type} (f : Part → α → Part) (h : ∀ q a, (f q a).offDrill = q.offDrill) (l : List α) :
    (p.each l f).offDrill = p.offDrill :=
  List.foldlRecOn (motive := fun q => q.offDrill = p.offDrill) l f rfl fun q hq a _ => (h q a).trans hq

@[simp] theorem Part.offDrill_setPartial (b : Nat) : (p.setPartial b).offDrill = p.offDrill := rfl

@[simp] theorem Part.offDrill_depart (b : Nat) (st : TimerState) (n : Nat) : (p.depart b st n).offDrill = p.offDrill := by
  unfold Part.depart; dsimp only
  split
  · split <;> simp
  · simp

@[simp] theorem Part.offDrill_testTimers : p.testTimers.offDrill = p.offDrill := by
  unfold Part.testTimers
  (repeat' split) <;> simp

@[simp] theorem Part.offDrill_clearEdge (b : Nat) : (p.clearEdge b).offDrill = p.offDrill := by
  unfold Part.clearEdge
  (repeat' split) <;> simp

@[simp] theorem Part.offDrill_countEdges (b n : Nat) : (p.countEdges b n).offDrill = p.offDrill := by
  unfold Part.countEdges
  (repeat' split) <;> simp

@[simp] theorem Part.offDrill_drillYield (b : Nat) : (p.drillYield b).offDrill = p.offDrill := by
  unfold Part.drillYield; dsimp only
  (repeat' split) <;> simp

@[simp] theorem Part.offDrill_dropOut (pos : Nat) : (p.dropOut pos).offDrill = p.offDrill := by
  unfold Part.dropOut; dsimp only
  (repeat' split) <;> simp

@[simp] theorem Part.offDrill_takeEcho (pos echo : Nat) : (p.takeEcho pos echo).offDrill = p.offDrill := by
  unfold Part.takeEcho
  (repeat' split) <;> simp

@[simp] theorem Part.offDrill_countEchoWaits : p.countEchoWaits.offDrill = p.offDrill := rfl

@[simp] theorem Part.offDrill_probesLost : p.probesLost.offDrill = p.offDrill := rfl

@[simp] theorem Part.offDrill_probeCarried (pos : Nat) : (p.probeCarried pos).offDrill = p.offDrill := by
  simp [Part.probeCarried]

@[simp] theorem Part.offCircuits_circuitsLeft (pos : Nat) : (p.circuitsLeft pos).offCircuits = p.offCircuits :=
  Part.offCircuits_each _ (fun q c => by (repeat' split) <;> simp) _ p

@[simp] theorem Part.offCircuits_circuitsReady (pos : Nat) : (p.circuitsReady pos).offCircuits = p.offCircuits :=
  Part.offCircuits_each _ (fun q c => by (repeat' split) <;> simp) _ p

@[simp] theorem Part.offCircuits_impulsesLost (pos : Nat) : (p.impulsesLost pos).offCircuits = p.offCircuits :=
  Part.offCircuits_each _ (fun q c => by simp) _ p

@[simp] theorem Part.offCircuits_impulseCarried (c : Nat) : (p.impulseCarried c).offCircuits = p.offCircuits :=
  p.offCircuits_modCircuit c _

end

/-! ### The engine of the line -/

/-- What drives the line: the cycle index, the count of give-ups, the command in flight and the work list. -/
def Part.engine (p : Part) : Nat × Nat × Option Flight × List Task :=
  (p.line.cycle, p.line.giveUps, p.line.flight, p.chain.work)

theorem Part.engine_of_fixed {p q : Part} (hl : q.line.fixed = p.line.fixed) (hc : q.chain.fixed = p.chain.fixed) :
    q.engine = p.engine := by
  have hcycle : q.line.cycle = p.line.cycle := (congrArg LineEngine.cycle hl :)
  have hgiveUps : q.line.giveUps = p.line.giveUps := (congrArg LineEngine.giveUps hl :)
  have hflight : q.line.flight = p.line.flight := (congrArg LineEngine.flight hl :)
  have hwork : q.chain.work = p.chain.work := (congrArg Chain.work hc :)
  simp only [Part.engine, hcycle, hgiveUps, hflight, hwork]

theorem Part.engine_of_core {p q : Part} (h : q.core = p.core) : q.engine = p.engine := by
  simp only [Part.core, Prod.mk.injEq] at h
  obtain ⟨-, -, -, -, -, -, -, -, hl, hc⟩ := h
  exact Part.engine_of_fixed hl hc

theorem Part.engine_of_offDrill {p q : Part} (h : q.offDrill = p.offDrill) : q.engine = p.engine := by
  simp only [Part.offDrill, Prod.mk.injEq] at h
  obtain ⟨-, -, -, -, -, -, -, hl, hc⟩ := h
  exact Part.engine_of_fixed hl hc

theorem Part.engine_of_offCircuits {p q : Part} (h : q.offCircuits = p.offCircuits) : q.engine = p.engine := by
  simp only [Part.offCircuits, Prod.mk.injEq] at h
  obtain ⟨-, -, -, -, -, -, -, hl, hc⟩ := h
  exact Part.engine_of_fixed hl hc

section
variable (p : Part)

@[simp] theorem Part.engine_each {α : Type} (f : Part → α → Part) (h : ∀ q a, (f q a).engine = q.engine) (l : List α) :
    (p.each l f).engine = p.engine :=
  List.foldlRecOn (motive := fun q => q.engine = p.engine) l f rfl fun q hq a _ => (h q a).trans hq

@[simp] theorem Part.engine_note (n : Notice) : (p.note n).engine = p.engine := rfl
@[simp] theorem Part.engine_endOp (st : Status) (f : OpFields) : (p.endOp st f).engine = p.engine := rfl
@[simp] theorem Part.engine_modRuntime (pos : Nat) (f : Runtime → Runtime) : (p.modRuntime pos f).engine = p.engine := rfl
@[simp] theorem Part.engine_modLink (pos : Nat) (f : Link → Link) : (p.modLink pos f).engine = p.engine := rfl
@[simp] theorem Part.engine_modZone (z : Nat) (f : Zone → Zone) : (p.modZone z f).engine = p.engine := rfl
@[simp] theorem Part.engine_modBuilding (b : Nat) (f : Building → Building) : (p.modBuilding b f).engine = p.engine := rfl
@[simp] theorem Part.engine_writeDial (c : Nat) : (p.writeDial c).engine = p.engine := rfl
@[simp] theorem Part.engine_startRetry : p.startRetry.engine = p.engine := rfl
@[simp] theorem Part.engine_waitStep (st : Step) : (p.waitStep st).engine = p.engine := rfl
@[simp] theorem Part.engine_cutPort : p.cutPort.engine = p.engine := rfl
@[simp] theorem Part.engine_dropStep : p.dropStep.engine = p.engine := rfl
@[simp] theorem Part.engine_hand (c : LineCommand) (t : Option Nat) (w : Sender) : (p.hand c t w).engine = p.engine :=
  Part.engine_of_core (by simp)
@[simp] theorem Part.engine_wake (pos : Nat) : (p.wake pos).engine = p.engine := Part.engine_of_core (by simp)
@[simp] theorem Part.engine_bringToPower (pos : Nat) : (p.bringToPower pos).engine = p.engine :=
  Part.engine_of_core (by simp)
@[simp] theorem Part.engine_quietAfterWaking (pos : Nat) : (p.quietAfterWaking pos).engine = p.engine :=
  Part.engine_of_core (by simp)
@[simp] theorem Part.engine_zoneOfNode (a b : Bool) (z : Nat) : (p.zoneOfNode a b z).engine = p.engine := rfl
@[simp] theorem Part.engine_reviewZone (z : Nat) : (p.reviewZone z).engine = p.engine := Part.engine_of_core (by simp)
@[simp] theorem Part.engine_settleZones (zs : List Nat) : (p.settleZones zs).engine = p.engine :=
  Part.engine_of_core (by simp)
@[simp] theorem Part.engine_endClaims (z : Nat) : (p.endClaims z).engine = p.engine := Part.engine_of_core (by simp)
@[simp] theorem Part.engine_capacityChanged (pos n : Nat) : (p.capacityChanged pos n).engine = p.engine :=
  Part.engine_of_core (by simp)
@[simp] theorem Part.engine_settle : p.settle.engine = p.engine := Part.engine_of_core (by simp)
@[simp] theorem Part.engine_displayConfirmed (pos : Nat) (m : DisplayMode) : (p.displayConfirmed pos m).engine = p.engine :=
  Part.engine_of_core (by simp)
@[simp] theorem Part.engine_displayGivenUp (pos : Nat) : (p.displayGivenUp pos).engine = p.engine :=
  Part.engine_of_core (by simp)
@[simp] theorem Part.engine_displayReady (pos : Nat) (b : Bool) : (p.displayReady pos b).engine = p.engine :=
  Part.engine_of_core (by simp)
@[simp] theorem Part.engine_displayLeft (pos : Nat) : (p.displayLeft pos).engine = p.engine :=
  Part.engine_of_core (by simp)
@[simp] theorem Part.engine_testWoken : p.testWoken.engine = p.engine := Part.engine_of_offDrill (by simp)
@[simp] theorem Part.engine_clearEdge (b : Nat) : (p.clearEdge b).engine = p.engine := Part.engine_of_offDrill (by simp)
@[simp] theorem Part.engine_countEdges (b n : Nat) : (p.countEdges b n).engine = p.engine :=
  Part.engine_of_offDrill (by simp)
@[simp] theorem Part.engine_drillYield (b : Nat) : (p.drillYield b).engine = p.engine := Part.engine_of_offDrill (by simp)
@[simp] theorem Part.engine_dropOut (pos : Nat) : (p.dropOut pos).engine = p.engine := Part.engine_of_offDrill (by simp)
@[simp] theorem Part.engine_takeEcho (pos n : Nat) : (p.takeEcho pos n).engine = p.engine := Part.engine_of_offDrill (by simp)
@[simp] theorem Part.engine_countEchoWaits : p.countEchoWaits.engine = p.engine := rfl
@[simp] theorem Part.engine_probeCarried (pos : Nat) : (p.probeCarried pos).engine = p.engine :=
  Part.engine_of_offDrill (by simp)
@[simp] theorem Part.engine_modCircuit (c : Nat) (f : Circuit → Circuit) : (p.modCircuit c f).engine = p.engine :=
  Part.engine_of_offCircuits (by simp)
@[simp] theorem Part.engine_noteClock (c : Nat) (e : ClockEvent) : (p.noteClock c e).engine = p.engine :=
  Part.engine_of_offCircuits (by simp)
@[simp] theorem Part.engine_handImpulse (c : Nat) : (p.handImpulse c).engine = p.engine :=
  Part.engine_of_offCircuits (by simp)
@[simp] theorem Part.engine_evaluateCircuit (c : Nat) : (p.evaluateCircuit c).engine = p.engine :=
  Part.engine_of_offCircuits (by simp)
@[simp] theorem Part.engine_circuitsLeft (pos : Nat) : (p.circuitsLeft pos).engine = p.engine :=
  Part.engine_of_offCircuits (by simp)
@[simp] theorem Part.engine_circuitsReady (pos : Nat) : (p.circuitsReady pos).engine = p.engine :=
  Part.engine_of_offCircuits (by simp)
@[simp] theorem Part.engine_impulsesLost (pos : Nat) : (p.impulsesLost pos).engine = p.engine :=
  Part.engine_of_offCircuits (by simp)
@[simp] theorem Part.engine_impulseCarried (c : Nat) : (p.impulseCarried c).engine = p.engine :=
  Part.engine_of_offCircuits (by simp)
@[simp] theorem Part.engine_impulseDelivered (c : Nat) : (p.impulseDelivered c).engine = p.engine := by
  simp [Part.impulseDelivered]

@[simp] theorem Part.engine_afterImpulse (c : Nat) : (p.afterImpulse c).engine = p.engine := by
  unfold Part.afterImpulse
  (repeat' split) <;> simp

@[simp] theorem Part.engine_examineImpulses (pos : Nat) (l : List (Nat × LinePolarity)) :
    (p.examineImpulses pos l).engine = p.engine :=
  p.engine_each _ (fun q c => by (repeat' split) <;> simp) _

@[simp] theorem Part.engine_reconcileCircuits (pos : Nat) (l : List (Nat × LinePolarity)) :
    (p.reconcileCircuits pos l).engine = p.engine :=
  p.engine_each _ (fun q c => by dsimp only; (repeat' split) <;> simp) _

/-! ### Node power, yields and the line state -/

@[simp] theorem Part.engine_endBuildOp (st : Status) : (p.endBuildOp st).engine = p.engine := by
  unfold Part.endBuildOp; split <;> rfl

@[simp] theorem Part.engine_becomePartial (r : StopReason) (pos : Nat) : (p.becomePartial r pos).engine = p.engine := by
  unfold Part.becomePartial; dsimp only; split <;> rfl

@[simp] theorem Part.engine_testRunning : p.testRunning.engine = p.engine := by
  unfold Part.testRunning; dsimp only; split <;> rfl

@[simp] theorem Part.engine_holdShort (r : StopReason) (pos : Nat) : (p.holdShort r pos).engine = p.engine := by
  unfold Part.holdShort; split <;> simp

@[simp] theorem Part.engine_testHeld (b : Nat) : (p.testHeld b).engine = p.engine := by
  unfold Part.testHeld; split <;> rfl

@[simp] theorem Part.engine_yieldTrigger (b pos i : Nat) : (p.yieldTrigger b pos i).engine = p.engine := by
  unfold Part.yieldTrigger; dsimp only; split <;> simp

@[simp] theorem Part.engine_yieldLevels (pos : Nat) (l : List (Nat × Bool)) : (p.yieldLevels pos l).engine = p.engine :=
  p.engine_each _ (fun q b => by split <;> simp) _

@[simp] theorem Part.engine_setPower (pos : Nat) (s : PowerState) : (p.setPower pos s).engine = p.engine := by
  unfold Part.setPower; dsimp only
  (repeat' split) <;> simp

@[simp] theorem Part.engine_wokenUp (pos : Nat) : (p.wokenUp pos).engine = p.engine := by simp [Part.wokenUp]

@[simp] theorem Part.engine_extendTaken (pos : Nat) : (p.extendTaken pos).engine = p.engine := by
  unfold Part.extendTaken; (repeat' split) <;> rfl

@[simp] theorem Part.engine_deliverEdges (pos : Nat) (l : List Nat) : (p.deliverEdges pos l).engine = p.engine := by
  unfold Part.deliverEdges; dsimp only
  split
  · rfl
  · refine (Part.engine_each _ _ (fun q b => by split <;> simp) _).trans ?_
    refine (Part.engine_each _ _ (fun q b => by split <;> simp) _).trans ?_
    exact Part.engine_each _ _ (fun q b => by split <;> simp) _

@[simp] theorem Part.engine_takePower (pos : Nat) (r : StatusRecord) : (p.takePower pos r).engine = p.engine := by
  unfold Part.takePower; split <;> simp

@[simp] theorem Part.engine_countError (pos : Nat) (c : CounterName) : (p.countError pos c).engine = p.engine := by
  unfold Part.countError; dsimp only
  (repeat' split) <;> rfl

@[simp] theorem Part.engine_missWindow (pos : Nat) (c : CounterName) : (p.missWindow pos c).engine = p.engine := by
  simp [Part.missWindow]

@[simp] theorem Part.engine_powerSettled (pos : Nat) (a b : Bool) : (p.powerSettled pos a b).engine = p.engine := by
  unfold Part.powerSettled; dsimp only
  (repeat' split) <;> simp

@[simp] theorem Part.engine_zonesSettled (lo hi : Nat) (o : Output) (l : List Nat) :
    (p.zonesSettled lo hi o l).engine = p.engine := by
  unfold Part.zonesSettled; dsimp only
  refine (Part.engine_settleZones _ _).trans (Part.engine_each _ _ (fun q z => ?_) _)
  (repeat' split) <;> rfl

/-! ### Steps -/

@[simp] theorem Part.engine_newStep (st : Step) (c : LineCommand) (t : Option Nat) : (p.newStep st c t).engine = p.engine :=
  (Part.engine_hand _ _ _ _).trans rfl

@[simp] theorem Part.engine_sendNodeConfig (pos n : Nat) : (p.sendNodeConfig pos n).engine = p.engine := p.engine_newStep _ _ _

@[simp] theorem Part.engine_sendInputConfig (pos n : Nat) : (p.sendInputConfig pos n).engine = p.engine :=
  p.engine_newStep _ _ _

@[simp] theorem Part.engine_readRecord (pos : Nat) (l : List Byte) (b : Bool) (n : Nat) :
    (p.readRecord pos l b n).engine = p.engine := p.engine_newStep _ _ _

@[simp] theorem Part.engine_sendPut (pos t : Nat) (l : List Byte) (k n : Nat) : (p.sendPut pos t l k n).engine = p.engine :=
  p.engine_newStep _ _ _

@[simp] theorem Part.engine_sendHail (pos : Nat) (b : Bool) (n : Nat) : (p.sendHail pos b n).engine = p.engine :=
  p.engine_newStep _ _ _

@[simp] theorem Part.engine_beginRecord (pos : Nat) (b : Bool) : (p.beginRecord pos b).engine = p.engine := by
  unfold Part.beginRecord; dsimp only
  (repeat' split) <;> simp

@[simp] theorem Part.engine_nextRecord (pos n : Nat) : (p.nextRecord pos n).engine = p.engine := by simp [Part.nextRecord]

@[simp] theorem Part.engine_faultRecord (pos : Nat) (c : SetupFaultCause) : (p.faultRecord pos c).engine = p.engine := rfl

@[simp] theorem Part.engine_actOnRecord (pos : Nat) (l : List Byte) (b : Bool) : (p.actOnRecord pos l b).engine = p.engine := by
  unfold Part.actOnRecord; dsimp only
  (repeat' split) <;> simp

@[simp] theorem Part.engine_recordRead (pos : Nat) (l : List Byte) : (p.recordRead pos l).engine = p.engine := by
  unfold Part.recordRead; dsimp only
  (repeat' split) <;> simp

@[simp] theorem Part.engine_beginSetup (pos : Nat) : (p.beginSetup pos).engine = p.engine := by
  unfold Part.beginSetup; dsimp only
  split <;> simp

@[simp] theorem Part.engine_extendFrom (pos : Nat) : (p.extendFrom pos).engine = p.engine := by
  unfold Part.extendFrom; split
  · simp
  · rfl

@[simp] theorem Part.engine_hailEmpty : p.hailEmpty.engine = p.engine := by
  unfold Part.hailEmpty; split <;> rfl

@[simp] theorem Part.engine_stepCarried (n : Nat) : (p.stepCarried n).engine = p.engine := by
  unfold Part.stepCarried; (repeat' split) <;> rfl

end

end Sys2Proof.Machine
end

section
/-! SUPPORT. The course of the line through the tasks, the node states and the records of a cycle: the cycle index is set back by
the cut of the head's own port alone, no command comes into flight, and no give-up is counted (R124, R130, R132, R159). -/

namespace Sys2Proof.Machine

/-! ### Keeping on course -/

/-- From `x` to `p` no give-up has been counted and no command has come into flight; and unless the cut of the head's own port
stood in the work list, it has not come there, and the cycle index is the same. -/
structure Part.onCourse (x p : Part) : Prop where
  giveUps : p.line.giveUps = x.line.giveUps
  idle : x.line.flight = none → p.line.flight = none
  uncut : .cut 0 ∉ x.chain.work → .cut 0 ∉ p.chain.work ∧ p.line.cycle = x.line.cycle

theorem Part.onCourse.refl (x : Part) : x.onCourse x := ⟨rfl, id, fun h => ⟨h, rfl⟩⟩

section
variable {x p : Part} (h : x.onCourse p)
include h

theorem Part.onCourse.of_engine {q : Part} (he : q.engine = p.engine) : x.onCourse q := by
  simp only [Part.engine, Prod.mk.injEq] at he
  obtain ⟨hcycle, hgiveUps, hflight, hwork⟩ := he
  refine ⟨hgiveUps.trans h.giveUps, fun hx => hflight.trans (h.idle hx), fun hx => ?_⟩
  rw [hwork, hcycle]
  exact h.uncut hx

theorem Part.onCourse.setWork {l : List Task} (hl : .cut 0 ∈ l → .cut 0 ∈ p.chain.work) : x.onCourse (p.setWork l) :=
  ⟨h.giveUps, h.idle, fun hx => ⟨fun hmem => (h.uncut hx).1 (hl hmem), (h.uncut hx).2⟩⟩

/-- Targets of the command in flight may be taken from it. -/
theorem Part.onCourse.mapFlight (f : Flight → Flight) :
    x.onCourse { p with line := { p.line with flight := p.line.flight.map f } } :=
  ⟨h.giveUps, fun hx => congrArg (Option.map f) (h.idle hx), h.uncut⟩

theorem Part.onCourse.each {α : Type} {f : Part → α → Part} (hf : ∀ q a, x.onCourse q → x.onCourse (f q a)) (l : List α) :
    x.onCourse (p.each l f) :=
  List.foldlRecOn (motive := x.onCourse) l f h fun q hq a _ => hf q a hq

/-- An act that is made on a condition only. -/
theorem Part.onCourse.opt {c : Prop} [Decidable c] {q : Part} (hq : x.onCourse p → x.onCourse q) :
    x.onCourse (if c then q else p) := by
  split
  · exact hq h
  · exact h

/-! ### The work list -/

omit h in
theorem mem_placeSetup {q : Nat} {t : Task} {l : List Task} (ht : t ∈ placeSetup q l) : t = .setup q ∨ t ∈ l := mem_insertWhere ht

omit h in
theorem cut_not_mem_placeSetups (qs : List Nat) (n : Nat) : .cut n ∉ qs.foldr placeSetup [] := by
  induction qs with
  | nil => simp
  | cons q qs ih =>
    intro hmem
    rcases mem_placeSetup hmem with heq | hmem
    · cases heq
    · exact ih hmem

theorem Part.onCourse.addTask {t : Task} (ht : t ≠ .cut 0) : x.onCourse (p.addTask t) := by
  have happended : x.onCourse (p.setWork (p.chain.work ++ [t])) := h.setWork fun hmem =>
    (List.mem_append.mp hmem).resolve_right fun hmem => ht (List.mem_singleton.mp hmem).symm
  unfold Part.addTask
  split
  · exact h
  · cases t with
    | setup q =>
      have hplaced : ∀ {l : List Task}, .cut 0 ∈ placeSetup q l → .cut 0 ∈ l := fun hmem =>
        (mem_placeSetup hmem).resolve_left fun heq => by cases heq
      dsimp only
      split
      · refine h.setWork fun hmem => ?_
        rcases List.mem_append.mp hmem with hmem | hmem
        · exact List.mem_of_mem_take hmem
        · exact List.mem_of_mem_drop (hplaced hmem)
      · exact h.setWork hplaced
    | build | retry | access _ | cut _ => exact happended

theorem Part.onCourse.endTask : x.onCourse p.endTask :=
  (h.of_engine p.engine_dropStep).setWork List.mem_of_mem_drop

theorem Part.onCourse.removeTasks (f : Task → Bool) : x.onCourse (p.removeTasks f) := by
  unfold Part.removeTasks
  split
  · exact h.endTask.setWork fun hmem => List.mem_of_mem_filter hmem
  · exact h.setWork fun hmem => List.mem_of_mem_filter hmem

theorem Part.onCourse.currentSetup (q : Nat) : x.onCourse (p.currentSetup q) := by
  refine (h.of_engine p.engine_dropStep).setWork fun hmem => ?_
  simp only [List.cons_append, List.mem_cons, List.mem_append, reduceCtorEq, false_or] at hmem
  rcases hmem with hmem | hmem
  · exact absurd hmem (cut_not_mem_placeSetups _ 0)
  · exact List.mem_of_mem_filter (List.mem_of_mem_filter hmem)

theorem Part.onCourse.endBuild (r : StopReason) (pos : Nat) : x.onCourse (p.endBuild r pos) :=
  (h.removeTasks _).of_engine ((Part.engine_endBuildOp _ _).trans rfl)

/-! ### Node states -/

theorem Part.onCourse.chainTakes (pos : Nat) (old new : NodeState) : x.onCourse (p.chainTakes pos old new) := by
  unfold Part.chainTakes; dsimp only
  refine Part.onCourse.of_engine ?_ (Part.engine_testRunning _)
  refine .opt ?_ fun h => (h.removeTasks _).of_engine rfl
  refine .opt ?_ fun h => h.endBuild _ _
  exact h.opt fun h => h.removeTasks _

theorem Part.onCourse.setNode (pos : Nat) (new : NodeState) (stopped : Bool) (why : Option (StopReason × Nat)) :
    x.onCourse (p.setNode pos new stopped why) := by
  unfold Part.setNode; dsimp only
  split
  · exact h.of_engine rfl
  · generalize hq : (if new.isServed = true then _ else _ : Part) = q
    have hcourse : x.onCourse q := by
      subst hq
      split
      · exact h.of_engine rfl
      · exact (h.of_engine (by rfl)).mapFlight _
    refine Part.onCourse.chainTakes (hcourse.of_engine ?_) _ _ _
    simp [apply_ite Part.engine]

theorem Part.onCourse.becomeReady (pos : Nat) (r : ReportedPower) : x.onCourse (p.becomeReady pos r) :=
  (h.setNode pos (.ready r.state) false none).of_engine (by simp [Part.becomeReady])

theorem Part.onCourse.resumeUnfinished (pos : Nat) : x.onCourse (p.resumeUnfinished pos) :=
  h.opt fun h => (h.setNode _ _ _ _).addTask (by simp)

theorem Part.onCourse.restartReport (q : Nat) : x.onCourse (p.restartReport q) := by
  unfold Part.restartReport; dsimp only
  refine Part.onCourse.addTask (.opt ?_ fun h => h.endBuild _ _) (by simp)
  exact ((h.removeTasks _).setNode _ _ _ _).of_engine rfl

theorem Part.onCourse.makeAbsent (pos : Nat) : x.onCourse (p.makeAbsent pos) := (h.setNode _ _ _ _).of_engine rfl

theorem Part.onCourse.onwardChange (pos : Nat) (old new : PortFault) : x.onCourse (p.onwardChange pos old new) := by
  unfold Part.onwardChange; dsimp only
  split
  · exact h
  · split
    · exact h.of_engine (by simp)
    · have hreach := h.of_engine (p.engine_extendTaken pos)
      refine Part.onCourse.of_engine (Part.onCourse.each ((hreach.removeTasks _).opt fun h => h.removeTasks Task.build.sameTask)
        (fun q b hq => hq.setNode b _ _ _) _) (by simp [apply_ite Part.engine]; rfl)

/-! ### Tasks -/

theorem Part.onCourse.hailFailed (pos : Nat) (a b : Bool) : x.onCourse (p.hailFailed pos a b) := by
  unfold Part.hailFailed
  split
  · exact h.endTask.of_engine (by simp)
  · exact h.endBuild _ _

theorem Part.onCourse.takeAnswer (pos : Nat) (b : Bool) (a : HailAnswer) : x.onCourse (p.takeAnswer pos b a) := by
  unfold Part.takeAnswer; dsimp only
  have hkept := h.of_engine (q := (p.modRuntime pos fun r => { r with answer := some a }).capacityChanged pos (p.tapCapacity pos))
    (by simp)
  split
  · have hmismatch := fun n why f => (hkept.setNode pos n false why).of_engine (Part.engine_modRuntime _ pos f)
    split
    · exact (hmismatch _ _ _).endTask.of_engine (Part.engine_holdShort _ _ _)
    · exact (hmismatch _ _ _).endBuild _ _
  · exact hkept.of_engine (by simp)

theorem Part.onCourse.hailAnswered (a : HailAnswer) : x.onCourse (p.hailAnswered a) := by
  unfold Part.hailAnswered
  split
  · split
    · exact h.takeAnswer _ _ _
    · split
      · exact h.takeAnswer _ _ _
      · split
        · split
          · exact (h.currentSetup _).takeAnswer _ _ _
          · exact h.takeAnswer _ _ _
        · split
          · refine Part.onCourse.takeAnswer (Part.onCourse.currentSetup ?_ _) _ _ _
            split
            · exact h
            · exact h.restartReport _
          · exact h.takeAnswer _ _ _
  · exact h

theorem Part.onCourse.hailBad : x.onCourse p.hailBad := by
  unfold Part.hailBad
  split
  · split
    · exact h.hailFailed _ _ _
    · exact h.of_engine (by simp)
  · exact h

theorem Part.onCourse.accessStep (a : Access) : x.onCourse (p.accessStep a) := by
  have hset : x.onCourse (p.setWork (.access a :: p.chain.work.drop 1)) := h.setWork fun hmem =>
    List.mem_of_mem_drop ((List.mem_cons.mp hmem).resolve_left (by simp))
  unfold Part.accessStep; dsimp only
  split <;> exact hset.of_engine (by simp)

theorem Part.onCourse.continueBuild : x.onCourse p.continueBuild := by
  unfold Part.continueBuild; dsimp only
  split
  · exact h.endTask.of_engine ((Part.engine_endBuildOp _ _).trans rfl)
  · split
    · exact h.of_engine (by simp)
    · split
      · exact h.endBuild _ _
      · split
        · refine h.setWork fun hmem => ?_
          rcases List.mem_append.mp hmem with hmem | hmem
          · exact List.mem_of_mem_drop ((List.takeWhile_prefix _).subset hmem)
          · exact List.mem_of_mem_drop ((List.dropWhile_suffix _).subset ((List.mem_cons.mp hmem).resolve_left (by simp)))
        · exact h.of_engine (by simp)

theorem Part.onCourse.retryAttempt : x.onCourse p.retryAttempt := by
  have hadds := fun l : List Nat => h.endTask.each (fun q a hq => hq.addTask (t := .setup a) (by simp)) l
  unfold Part.retryAttempt; dsimp only
  refine Part.onCourse.of_engine ?_ (Part.engine_testRunning _)
  split
  · exact h.endTask
  · split
    · exact hadds _
    · split
      · exact hadds _
      · exact h.endTask.opt fun h => h.addTask (by simp)

theorem Part.onCourse.beginSetupTask (q : Nat) : x.onCourse (p.beginSetupTask q) := by
  unfold Part.beginSetupTask
  split
  · exact h.of_engine (by simp)
  · split
    · exact (h.setNode q .setting false none).of_engine (by simp)
    · split
      · exact h.of_engine (by simp)
      · exact h.endTask

theorem Part.onCourse.cutMade (pos : Nat) (st : Step) : x.onCourse (p.cutMade pos st) := by
  unfold Part.cutMade; dsimp only
  generalize hq : Part.each (p.setWork _) _ Part.makeAbsent = q
  have hcourse : x.onCourse q := by
    subst hq
    refine Part.onCourse.each (h.setWork fun hmem => ?_) (fun _ q hq => hq.makeAbsent q) _
    exact (List.mem_filter.mp hmem).1
  exact hcourse.of_engine rfl

/-- Queues are emptied where the cut of the head's own port has stood in the work list (R130, R159). -/
theorem Part.onCourse.emptyQueues (hx : .cut 0 ∈ x.chain.work) : x.onCourse p.emptyQueues :=
  ⟨h.giveUps, fun _ => rfl, fun hn => absurd hx hn⟩

theorem Part.onCourse.beginCut {pos : Nat} (hmem : .cut pos ∈ p.chain.work) : x.onCourse (p.beginCut pos) := by
  unfold Part.beginCut
  split
  next hpos =>
    subst hpos
    have hx : .cut 0 ∈ x.chain.work := by
      by_contra hn
      exact (h.uncut hn).1 hmem
    exact (((h.emptyQueues hx).cutMade 0 .portCut).emptyQueues hx).of_engine (Part.engine_cutPort _)
  · exact h.of_engine (by simp)

omit h in
theorem Part.onCourse.runTasks (fuel : Nat) : ∀ {p : Part}, x.onCourse p → x.onCourse (p.runTasks fuel) := by
  induction fuel with
  | zero => exact fun h => h
  | succ fuel ih =>
    intro p h
    unfold Part.runTasks
    split
    · exact h
    · exact h
    · exact ih h.continueBuild
    · exact ih (h.beginSetupTask _)
    · exact ih h.retryAttempt
    · split
      · exact h.accessStep _
      · exact ih (h.endTask.of_engine rfl)
    next hwork => exact h.beginCut (by simp [hwork])

theorem Part.onCourse.work : x.onCourse p.work := h.runTasks 64

/-! ### Settlements -/

theorem Part.onCourse.noApply (pos : Nat) : x.onCourse (p.noApply pos) := by
  unfold Part.noApply; dsimp only
  split
  · exact (h.setNode _ _ _ _).endBuild _ _
  · exact (h.setNode _ _ _ _).endTask.of_engine (Part.engine_holdShort _ _ _)

theorem Part.onCourse.setupComplete (pos : Nat) : x.onCourse (p.setupComplete pos) := by
  unfold Part.setupComplete; dsimp only
  have hready := fun f r => (h.of_engine (q := { p.modRuntime pos fun r => { r with unfinished := false } with
    chain := { (p.modRuntime pos fun r => { r with unfinished := false }).chain with step := none } }.modLink pos f) rfl).becomeReady
      pos r
  split
  · exact hready _ _
  · exact (hready _ _).endTask.opt fun h => h.addTask (by simp)

theorem Part.onCourse.setupConfirmed (pos : Nat) (st : SetupStep) (l : List Byte) : x.onCourse (p.setupConfirmed pos st l) := by
  unfold Part.setupConfirmed
  split
  case h_7 => exact h.setupComplete _
  case h_2 => split <;> exact h.of_engine (by simp)
  all_goals exact h.of_engine (by simp)

theorem Part.onCourse.setupGivenUp (pos : Nat) (st : SetupStep) (n : Nat) : x.onCourse (p.setupGivenUp pos st n) := by
  unfold Part.setupGivenUp
  split
  · exact h.noApply _
  · split <;> exact h.of_engine (by simp)

theorem Part.onCourse.accessConfirmed (a : Access) (l : List Byte) : x.onCourse (p.accessConfirmed a l) := by
  unfold Part.accessConfirmed; dsimp only
  split
  all_goals
    split
    · exact h.endTask.of_engine rfl
    · exact h.accessStep _

theorem Part.onCourse.stepSettled (n : Nat) (b : Bool) (l : List Byte) : x.onCourse (p.stepSettled n b l) := by
  unfold Part.stepSettled; dsimp only
  split
  · exact h
  · refine Part.onCourse.work ?_
    split
    · split
      · exact h.setupConfirmed _ _ _
      · exact h.setupGivenUp _ _ _
    · split
      · exact h.of_engine rfl
      · split
        · exact h.endBuild _ _
        · exact h.of_engine (by simp)
    · split
      · split
        · exact h.accessConfirmed _ _
        · split
          · exact h.endTask.of_engine rfl
          · exact h.accessStep _
      · exact h
    · split
      · split
        · exact h.cutMade _ _
        · split
          · exact h.endTask.of_engine rfl
          · exact h.of_engine (by simp)
      · exact h
    · exact h

theorem Part.onCourse.reportOutcome (f : Flight) (b : Bool) : x.onCourse (p.reportOutcome f b) := by
  unfold Part.reportOutcome; dsimp only
  split
  · exact h.of_engine (by simp)
  · exact h.of_engine (by split <;> simp)
  · exact h.of_engine (by simp)
  · refine Part.onCourse.stepSettled (h.of_engine ?_) _ _ _
    split <;> simp
  · exact h.stepSettled _ _ _
  · exact h

/-! ### The records of a cycle -/

theorem Part.onCourse.assigned (pos : Nat) : x.onCourse (p.assigned pos) :=
  ((h.of_engine (q := (p.modLink pos fun l => { l with
      missing := 0, since := none, baselines := Vector.replicate 4 0, fresh := true, latest := none, firstDue := false }).modRuntime
    pos fun r => { r with unfinished := true, restartOut := false }) rfl).setNode pos .found false none).of_engine (by simp [Part.assigned])

theorem Part.onCourse.firstRecord (pos : Nat) : x.onCourse (p.firstRecord pos) := by
  unfold Part.firstRecord; dsimp only
  exact (h.setNode _ _ _ _).opt fun h => (h.of_engine (by simp)).work

theorem Part.onCourse.firstDuties (pos : Nat) (r : StatusRecord) : x.onCourse (p.firstDuties pos r) :=
  h.opt fun h => h.of_engine (by simp)

theorem Part.onCourse.nodeReturns (pos : Nat) (r : StatusRecord) : x.onCourse (p.nodeReturns pos r) :=
  ((h.becomeReady _ _).firstDuties _ _).resumeUnfinished _

theorem Part.onCourse.useRecord (pos : Nat) (r : StatusRecord) : x.onCourse (p.useRecord pos r) := by
  unfold Part.useRecord
  split
  · split
    · exact h
    · exact h.nodeReturns _ _
  · split
    · exact h
    · exact h.nodeReturns _ _
  · exact h.firstRecord _
  · exact h.opt fun h => h.firstDuties _ _
  · exact h

theorem Part.onCourse.takeConfirmation (pos : Nat) (r : StatusRecord) : x.onCourse (p.takeConfirmation pos r) := h.mapFlight _

theorem Part.onCourse.takeRecord (pos : Nat) (r : StatusRecord) : x.onCourse (p.takeRecord pos r) := by
  unfold Part.takeRecord; dsimp only
  generalize ((p.link pos).latest.map (·.onward)).getD .none = fault
  have hkept : x.onCourse (((p.keepRecord pos r).takeConfirmation pos r).onwardChange pos fault r.onward) :=
    ((h.of_engine (q := p.keepRecord pos r) rfl).takeConfirmation pos r).onwardChange pos _ _
  split
  · exact (hkept.restartReport _).of_engine rfl
  · have hused := (hkept.of_engine (Part.engine_deliverEdges _ pos (p.newEdges pos r))).useRecord pos r
    refine hused.of_engine ?_
    generalize Part.useRecord _ pos r = u
    generalize hq : Part.takeEcho _ pos r.probeEcho = q
    have hecho : q.engine = u.engine := by
      subst hq
      simp [apply_ite Part.engine]
    refine Eq.trans ?_ hecho
    split
    · exact q.engine_each _ (fun q b => q.engine_testHeld b) _
    · rfl

theorem Part.onCourse.takeWindow (pos : Nat) (w : Window) : x.onCourse (p.takeWindow pos w) := by
  unfold Part.takeWindow
  split
  · split
    · exact h.of_engine (by simp)
    · exact h.of_engine (by simp)
    · exact h.takeRecord _ _
  · exact h.of_engine rfl

theorem Part.onCourse.takeHail (w : HailWindow) : x.onCourse (p.takeHail w) := by
  cases w with
  | empty => exact h.of_engine p.engine_hailEmpty
  | bad => exact h.hailBad
  | answer a => exact h.hailAnswered a

theorem Part.onCourse.endAssign (slot : Option Slot) : x.onCourse (p.endAssign slot) := by
  unfold Part.endAssign
  split
  · exact h.opt fun h => h.assigned _
  · exact h

end

/-! ### The cycle index -/

/-- The cycle index stands, and no cut of the head's own port waits in the work list. -/
def Part.rides (p : Part) (k : Nat) : Prop := .cut 0 ∉ p.chain.work ∧ p.line.cycle = k

theorem Part.onCourse.rides {x p : Part} (h : x.onCourse p) {k : Nat} (hx : x.rides k) : p.rides k := by
  obtain ⟨huncut, hcycle⟩ := hx
  exact ⟨(h.uncut huncut).1, (h.uncut huncut).2.trans hcycle⟩

theorem Part.rides_countGiveUp {p : Part} {k : Nat} (h : p.rides k) : p.countGiveUp.rides k := by
  unfold Part.countGiveUp
  split <;> exact h

theorem Part.rides_settleFlight {p : Part} {k : Nat} (h : p.rides k) : p.settleFlight.rides k := by
  unfold Part.settleFlight; dsimp only
  split
  · exact h
  · split
    · exact h
    · refine ((Part.onCourse.refl _).reportOutcome _ _).rides ?_
      split
      · exact h
      · exact Part.rides_countGiveUp (p := { p with line := { p.line with flight := none } }) h

/-- An up half leaves the cycle index unless the head's own port is to be cut (R124, R159). -/
theorem Part.rides_takeUpHalf {p : Part} {k : Nat} (h : p.rides k) (held : Bool) (slot : Option Slot) (windows : Nat → Window)
    (hail : HailWindow) : (p.takeUpHalf held slot windows hail).rides k := by
  have hechoes : ((p.each (upTo 24) fun q pos => q.takeWindow pos (windows pos)).takeHail hail).countEchoWaits.rides k :=
    ((((Part.onCourse.refl p).each (fun _ pos hq => hq.takeWindow pos _) _).takeHail hail).of_engine
      (Part.engine_countEchoWaits _)).rides h
  unfold Part.takeUpHalf; dsimp only
  refine (((Part.onCourse.refl _).endAssign slot).work).rides ?_
  split
  · exact Part.rides_settleFlight hechoes
  · exact hechoes

end Sys2Proof.Machine
end

section
/-! SUPPORT. What the slot of a cycle carries: the class a choice takes, the work it takes of it, the counts of what it passes, and
what the choice leaves of the part (R130, R131, R132). -/

namespace Sys2Proof.Machine

/-! ### The class -/

section
variable {p : Part}

theorem Part.holdsWork_iff (k : SlotClass) : p.holdsWork k = true ↔ p.line.queueOf k ≠ [] ∨ p.classZones k ≠ [] := by
  simp [Part.holdsWork]

theorem Part.chosenClass_clock (h : p.holdsWork .clock = true ∧ 4 ≤ p.line.passedClock) : p.chosenClass = some .clock := by
  simp [Part.chosenClass, h.1, h.2]

theorem Part.chosenClass_service (hc : ¬(p.holdsWork .clock = true ∧ 4 ≤ p.line.passedClock))
    (hs : p.holdsWork .service = true ∧ 8 ≤ p.line.passedService) : p.chosenClass = some .service := by
  simp [Part.chosenClass, hc, hs.1, hs.2]

/-- With neither class passed over for long, the highest that holds work. -/
theorem Part.chosenClass_highest (hc : ¬(p.holdsWork .clock = true ∧ 4 ≤ p.line.passedClock))
    (hs : ¬(p.holdsWork .service = true ∧ 8 ≤ p.line.passedService)) :
    p.chosenClass = [SlotClass.urgent, .output, .clock, .service].find? p.holdsWork := by
  simp [Part.chosenClass, hc, hs]

/-! ### The work of a class -/

theorem Part.oldestWork_handed {k : SlotClass} {h : Handed} {q : List Handed} (hq : p.line.queueOf k = h :: q)
    (hage : p.classZones k = [] ∨ h.handedAt < p.dirtyAge (p.classZones k)) :
    p.oldestWork k = ({ p with line := p.line.withQueue k q }, some (p.refreshed h)) := by
  unfold Part.oldestWork; dsimp only
  rw [hq]
  cases hz : p.classZones k with
  | nil => rfl
  | cons z l =>
    have hlt : h.handedAt < p.dirtyAge (z :: l) := hz ▸ hage.resolve_left (by simp [hz])
    simp [Nat.not_le.mpr hlt]

theorem Part.oldestWork_zones {k : SlotClass} {z : Nat} {l : List Nat} (hz : p.classZones k = z :: l)
    (hage : ∀ h ∈ (p.line.queueOf k).head?, p.dirtyAge (p.classZones k) ≤ h.handedAt) :
    p.oldestWork k = (p, some ⟨.zoneOutput z (p.extendUpdate (z :: l) (p.zone z).commanded 64 z) (p.zone z).commanded, none,
      p.now, .zones⟩) := by
  unfold Part.oldestWork; dsimp only
  rw [hz] at hage ⊢
  have hall : ((p.line.queueOf k).head?.all fun h => p.dirtyAge (z :: l) ≤ h.handedAt) = true :=
    Option.all_eq_true _ _ |>.mpr fun h hh => decide_eq_true (hage h hh)
  cases hq : p.line.queueOf k <;> simp_all

theorem Part.lt_of_mem_classZones {k : SlotClass} {z : Nat} (hz : z ∈ p.classZones k) : z < 64 := by
  cases k with
  | urgent | output => exact List.mem_range.mp (List.mem_filter.mp hz).1
  | clock | service => cases hz

/-- An update takes the zones that follow as long as they are dirty in its class with the same output. -/
theorem Part.extendUpdate_spec {dirty : List Nat} (hd : ∀ z ∈ dirty, z < 64) (o : Output) :
    ∀ fuel z, z ∈ dirty → (p.zone z).commanded = o → 64 ≤ z + fuel →
      z ≤ p.extendUpdate dirty o fuel z ∧ p.extendUpdate dirty o fuel z < 64 ∧
      (∀ y, z ≤ y → y ≤ p.extendUpdate dirty o fuel z → y ∈ dirty ∧ (p.zone y).commanded = o) ∧
      (p.extendUpdate dirty o fuel z + 1 ∈ dirty → (p.zone (p.extendUpdate dirty o fuel z + 1)).commanded ≠ o) := by
  intro fuel
  induction fuel with
  | zero =>
    intro z hz _ hfuel
    have := hd z hz
    omega
  | succ fuel ih =>
    intro z hz ho hfuel
    unfold Part.extendUpdate
    split
    next hnext =>
      simp only [Bool.and_eq_true, List.contains_iff_mem, beq_iff_eq] at hnext
      obtain ⟨hle, hlt, hrun, hend⟩ := ih (z + 1) hnext.1 hnext.2 (by omega)
      refine ⟨by omega, hlt, fun y hy hy' => ?_, hend⟩
      rcases Nat.eq_or_lt_of_le hy with rfl | hy
      · exact ⟨hz, ho⟩
      · exact hrun y hy hy'
    next hnext =>
      simp only [Bool.and_eq_true, List.contains_iff_mem, beq_iff_eq, not_and] at hnext
      refine ⟨le_rfl, hd z hz, fun y hy hy' => ?_, hnext⟩
      obtain rfl := Nat.le_antisymm hy hy'
      exact ⟨hz, ho⟩

theorem Part.refreshed_command (h : Handed) :
    (p.refreshed h).command = if h.sender = .display then .display (p.display (h.target.getD 0)).mode else h.command := by
  by_cases hs : h.sender = .display <;> simp [Part.refreshed, hs]

theorem Part.refreshed_target (h : Handed) : (p.refreshed h).target = h.target := by
  unfold Part.refreshed; split <;> rfl

end

/-! ### What a choice leaves -/

/-- What the down half of a cycle gives but the clock, with the work list: the cycle index, the records of the paging inputs
and the elapsed time of a drill. -/
def Part.aired (p : Part) : Nat × List Task × Announcer × Option Nat := (p.line.cycle, p.chain.work, p.ann, p.drillElapsed)

/-- The sequence number and the counts of what has been passed over. -/
def LineEngine.counts (l : LineEngine) : Nat × Nat × Nat := (l.seq, l.passedClock, l.passedService)

section
variable (p : Part)

@[simp] theorem LineEngine.counts_withQueue (l : LineEngine) (k : SlotClass) (q : List Handed) : (l.withQueue k q).counts = l.counts := by
  cases k <;> rfl

theorem Part.aired_withQueue (k : SlotClass) (q : List Handed) : { p with line := p.line.withQueue k q }.aired = p.aired := by
  cases k <;> rfl

theorem Part.drillElapsed_modRun {f : DrillRun → DrillRun} (h : ∀ r : DrillRun, (f r).phase = r.phase ∧
    (f r).evacuation = r.evacuation ∧ (f r).header = r.header) : (p.modRun f).drillElapsed = p.drillElapsed := by
  unfold Part.drillElapsed Part.modRun
  cases p.drill.run with
  | none => rfl
  | some r =>
    obtain ⟨hphase, hevacuation, hheader⟩ := h r
    simp only [Option.map_some, Option.bind_some, hphase, hevacuation, hheader]

theorem Part.handProbe_eq : p.handProbe = p ∨ ∃ k q, p.handProbe = { p with line := p.line.withQueue k q } := by
  unfold Part.handProbe
  (repeat' split)
  · exact .inl rfl
  · exact .inr ⟨_, _, rfl⟩
  · exact .inl rfl
  · exact .inl rfl

theorem Part.aired_carried (h : Handed) : (p.carried h).aired = p.aired := by
  unfold Part.carried
  split
  · unfold Part.impulseCarried Part.modCircuit
    split <;> rfl
  · unfold Part.probeCarried
    generalize hq : p.modRun _ = q
    have haired : q.aired = p.aired := by
      subst hq
      exact congrArg (fun x => (p.line.cycle, p.chain.work, p.ann, x)) (p.drillElapsed_modRun fun r => ⟨rfl, rfl, rfl⟩)
    rw [← haired]
    rcases q.handProbe_eq with heq | ⟨k, l, heq⟩
    · rw [heq]
    · rw [heq, Part.aired_withQueue]
  · unfold Part.stepCarried
    (repeat' split) <;> rfl
  · rfl
  · rfl
  · rfl

theorem Part.counts_carried (h : Handed) : (p.carried h).line.counts = p.line.counts := by
  unfold Part.carried
  split
  · unfold Part.impulseCarried Part.modCircuit
    split <;> rfl
  · unfold Part.probeCarried
    rcases (p.modRun _).handProbe_eq with heq | ⟨k, q, heq⟩
    · rw [heq]; rfl
    · rw [heq]; exact LineEngine.counts_withQueue _ _ _
  · unfold Part.stepCarried
    (repeat' split) <;> rfl
  · rfl
  · rfl
  · rfl

theorem Part.aired_firstSend (h : Handed) : (p.firstSend h).1.aired = p.aired := (Part.aired_carried _ h).trans rfl

theorem Part.counts_firstSend (h : Handed) :
    (p.firstSend h).1.line.counts = (p.line.seq % 255 + 1, p.line.passedClock, p.line.passedService) :=
  (Part.counts_carried _ h).trans rfl

theorem Part.oldestWork_eq (k : SlotClass) :
    (p.oldestWork k).1 = p ∨ ∃ q, (p.oldestWork k).1 = { p with line := p.line.withQueue k q } := by
  unfold Part.oldestWork; dsimp only
  (repeat' split)
  · exact .inl rfl
  · exact .inr ⟨_, rfl⟩
  · exact .inr ⟨_, rfl⟩
  · exact .inl rfl

theorem Part.aired_oldestWork (k : SlotClass) : (p.oldestWork k).1.aired = p.aired := by
  rcases p.oldestWork_eq k with heq | ⟨q, heq⟩
  · rw [heq]
  · rw [heq, Part.aired_withQueue]

theorem Part.counts_oldestWork (k : SlotClass) : (p.oldestWork k).1.line.counts = p.line.counts := by
  rcases p.oldestWork_eq k with heq | ⟨q, heq⟩
  · rw [heq]
  · rw [heq]; exact LineEngine.counts_withQueue _ _ _

/-- A choice takes nothing only where it sends nothing. -/
theorem Part.choose_cases :
    (∃ h k, p.choose = (((p.countPassed p.chosenClass).oldestWork k |>.1.firstSend h).1,
      some ((p.countPassed p.chosenClass).oldestWork k |>.1.firstSend h).2)) ∨
    (∃ k, p.choose = (((p.countPassed p.chosenClass).oldestWork k).1, none)) ∨
    p.choose = (p.countPassed p.chosenClass, none) := by
  unfold Part.choose; dsimp only
  split
  · exact .inr (.inr rfl)
  · split
    · exact .inl ⟨_, _, rfl⟩
    · exact .inr (.inl ⟨_, rfl⟩)

theorem Part.aired_nextSlot : p.nextSlot.1.aired = p.aired := by
  unfold Part.nextSlot
  split
  · have hcount : (p.countPassed p.chosenClass).aired = p.aired := rfl
    rcases p.choose_cases with ⟨h, k, heq⟩ | ⟨k, heq⟩ | heq
    · rw [heq, ← hcount]; exact (Part.aired_firstSend _ h).trans (Part.aired_oldestWork _ k)
    · rw [heq, ← hcount]; exact Part.aired_oldestWork _ k
    · rw [heq, hcount]
  · split <;> rfl

/-- The passed counts of a choice are those of the class it takes (R131). -/
theorem Part.passed_choose : p.choose.1.line.counts.2 = (p.countPassed p.chosenClass).line.counts.2 := by
  rcases p.choose_cases with ⟨h, k, heq⟩ | ⟨k, heq⟩ | heq
  · rw [heq]
    exact (congrArg Prod.snd (Part.counts_firstSend _ h)).trans
      (congrArg Prod.snd (Part.counts_oldestWork (p.countPassed p.chosenClass) k) :)
  · rw [heq, Part.counts_oldestWork]
  · rw [heq]

end

/-! ### What is sent -/

/-- What the oldest work of the class taken gives is sent with the next sequence number (R127, R131). -/
theorem Part.choose_of_oldestWork {p q : Part} {k : SlotClass} {h : Handed} (hk : p.chosenClass = some k)
    (hw : (p.countPassed (some k)).oldestWork k = (q, some h)) : p.choose = ((q.firstSend h).1, some (q.firstSend h).2) := by
  unfold Part.choose; dsimp only
  rw [hk]; dsimp only
  rw [hw]

theorem Part.slot_of_oldestWork {p q : Part} {k : SlotClass} {h : Handed} (hf : p.line.flight = none) (hk : p.chosenClass = some k)
    (hw : (p.countPassed (some k)).oldestWork k = (q, some h)) :
    p.nextSlot.2 = some ⟨p.line.seq, h.target, h.command⟩ ∧ p.nextSlot.1.line.seq = p.line.seq % 255 + 1 := by
  have hseq : q.line.seq = p.line.seq := by
    have hcounts := (p.countPassed (some k)).counts_oldestWork k
    rw [hw] at hcounts
    exact congrArg Prod.fst hcounts
  have hchoose : p.nextSlot = ((q.firstSend h).1, some (q.firstSend h).2) := by
    unfold Part.nextSlot
    rw [hf]
    exact Part.choose_of_oldestWork hk hw
  rw [hchoose, ← hseq]
  exact ⟨rfl, congrArg Prod.fst (q.counts_firstSend h)⟩

/-! ### The choice of a cycle (R130, R131, R132) -/

section
variable (p : Part)

/-- A class holds a handed command or a zone update. -/
def Part.hasWork (k : SlotClass) : Prop := p.line.queueOf k ≠ [] ∨ p.classZones k ≠ []

theorem Part.chosenClass_order :
    let clock := p.hasWork .clock ∧ 4 ≤ p.line.passedClock
    let service := p.hasWork .service ∧ 8 ≤ p.line.passedService
    (clock → p.chosenClass = some .clock) ∧ (¬ clock → service → p.chosenClass = some .service) ∧
    (¬ clock → ¬ service →
      (p.hasWork .urgent → p.chosenClass = some .urgent) ∧
      (¬ p.hasWork .urgent → p.hasWork .output → p.chosenClass = some .output) ∧
      (¬ p.hasWork .urgent → ¬ p.hasWork .output → p.hasWork .clock → p.chosenClass = some .clock) ∧
      (¬ p.hasWork .urgent → ¬ p.hasWork .output → ¬ p.hasWork .clock → p.hasWork .service → p.chosenClass = some .service) ∧
      (¬ p.hasWork .urgent → ¬ p.hasWork .output → ¬ p.hasWork .clock → ¬ p.hasWork .service → p.chosenClass = none)) := by
  have hiff : ∀ k, p.hasWork k ↔ p.holdsWork k = true := fun k => (p.holdsWork_iff k).symm
  simp only [hiff]
  refine ⟨Part.chosenClass_clock, Part.chosenClass_service, fun hc hs => ?_⟩
  rw [Part.chosenClass_highest hc hs]
  refine ⟨fun hu => ?_, fun hu ho => ?_, fun hu ho hk => ?_, fun hu ho hk hv => ?_, fun hu ho hk hv => ?_⟩ <;> simp [*]

theorem Part.nextSlot_passed (hf : p.line.flight = none) :
    let l := p.nextSlot.1.line
    (p.hasWork .clock → p.chosenClass ≠ some .clock → l.passedClock = p.line.passedClock + 1) ∧
    (¬ p.hasWork .clock ∨ p.chosenClass = some .clock → l.passedClock = 0) ∧
    (p.hasWork .service → p.chosenClass ≠ some .service → l.passedService = p.line.passedService + 1) ∧
    (¬ p.hasWork .service ∨ p.chosenClass = some .service → l.passedService = 0) := by
  have hchoose : p.nextSlot = p.choose := by unfold Part.nextSlot; rw [hf]
  have hpassed := p.passed_choose
  rw [← hchoose] at hpassed
  simp only [LineEngine.counts, Part.countPassed, Prod.mk.injEq] at hpassed
  obtain ⟨hclock, hservice⟩ := hpassed
  have hiff : ∀ k, p.hasWork k ↔ p.holdsWork k = true := fun k => (p.holdsWork_iff k).symm
  dsimp only
  simp only [hiff, hclock, hservice]
  refine ⟨fun hw hk => ?_, fun hw => ?_, fun hw hk => ?_, fun hw => ?_⟩
  · simp [passedAfter, hw, hk]
  · rcases hw with hw | hw <;> simp [passedAfter, hw]
  · simp [passedAfter, hw, hk]
  · rcases hw with hw | hw <;> simp [passedAfter, hw]

theorem Part.nextSlot_handed {k : SlotClass} (hf : p.line.flight = none) (hk : p.chosenClass = some k) {h : Handed}
    {q : List Handed} (hq : p.line.queueOf k = h :: q)
    (hage : p.classZones k = [] ∨ h.handedAt < p.dirtyAge (p.classZones k)) :
    p.nextSlot.2 = some ⟨p.line.seq, h.target,
      if h.sender = .display then .display (p.display (h.target.getD 0)).mode else h.command⟩ ∧
    p.nextSlot.1.line.seq = p.line.seq % 255 + 1 := by
  have hw := Part.oldestWork_handed (p := p.countPassed (some k)) (k := k) (by cases k <;> exact hq) (by cases k <;> exact hage)
  obtain ⟨hslot, hseq⟩ := Part.slot_of_oldestWork hf hk hw
  rw [Part.refreshed_target, Part.refreshed_command] at hslot
  exact ⟨hslot, hseq⟩

theorem Part.nextSlot_zones {k : SlotClass} (hf : p.line.flight = none) (hk : p.chosenClass = some k) {z : Nat} {l : List Nat}
    (hz : p.classZones k = z :: l) (hage : ∀ h ∈ (p.line.queueOf k).head?, p.dirtyAge (p.classZones k) ≤ h.handedAt) :
    ∃ hi, z ≤ hi ∧ hi < 64 ∧ p.nextSlot.2 = some ⟨p.line.seq, none, .zoneOutput z hi (p.zone z).commanded⟩ ∧
      (∀ y, z ≤ y → y ≤ hi → y ∈ p.classZones k ∧ (p.zone y).commanded = (p.zone z).commanded) ∧
      (hi + 1 ∈ p.classZones k → (p.zone (hi + 1)).commanded ≠ (p.zone z).commanded) := by
  have hw := Part.oldestWork_zones (p := p.countPassed (some k)) (k := k) (by cases k <;> exact hz) (by cases k <;> exact hage)
  have hlt : ∀ y ∈ z :: l, y < 64 := fun y hy => Part.lt_of_mem_classZones (hz ▸ hy)
  obtain ⟨hle, hhi, hrun, hend⟩ := Part.extendUpdate_spec (p := p.countPassed (some k)) hlt (p.zone z).commanded 64 z
    List.mem_cons_self rfl (by omega)
  rw [hz]
  exact ⟨_, hle, hhi, (Part.slot_of_oldestWork hf hk hw).1, hrun, hend⟩

end

theorem inOrder_split (x : Handed) (q : List Handed) : ∃ before after, q = before ++ after ∧ inOrder x q = before ++ x :: after ∧
    let overtakes := fun (h : Handed) => x.handedAt = h.handedAt ∧ x.sender.block = h.sender.block ∧ x.rank < h.rank
    (∀ h ∈ before, ¬ overtakes h) ∧ ∀ h ∈ after.head?, overtakes h := by
  obtain ⟨before, after, hq, hin, hb, ha⟩ := insertWhere_split x.goesBefore x q
  refine ⟨before, after, hq, hin, fun h hmem => ?_, fun h hmem => ?_⟩
  · have hstays := hb h hmem
    simp only [Handed.goesBefore, Bool.and_eq_false_iff, beq_eq_false_iff_ne, decide_eq_false_iff_not] at hstays
    rintro ⟨hat, hblock, hrank⟩
    simp_all
  · have hpasses := ha h hmem
    simpa [Handed.goesBefore, and_assoc] using hpasses

end Sys2Proof.Machine
end

section
/-! SUPPORT. A line cycle: what its down half gives, the position it ends with, and what it leaves (R68, R90, R124). -/

namespace Sys2Proof.Machine

/-! ### The down half -/

/-- With one record served at most on an input, its lane carries samples when some record of the input is CHIMING or LIVE (R68). -/
theorem Part.carries_eq_any {p : Part} (hone : ∀ a ∈ p.ann.records, ∀ b ∈ p.ann.records, a.stage ≠ .queued → b.stage ≠ .queued →
    a.input = b.input → a = b) (i : PagingInput) :
    p.carries i = p.ann.records.any fun a => a.input == i && (a.stage == .chiming || a.stage == .live) := by
  unfold Part.carries
  cases hserved : p.served? i with
  | none =>
    have hqueued := List.find?_eq_none.mp hserved
    symm
    simp only [Option.any_none, List.any_eq_false, Bool.and_eq_true, Bool.or_eq_true, beq_iff_eq, not_and, not_or]
    intro a ha hinput
    have hstage := hqueued a ha
    simp_all
  | some a =>
    have ha := List.mem_of_find?_eq_some hserved
    have hserves := List.find?_some hserved
    simp only [Bool.and_eq_true, beq_iff_eq, bne_iff_ne, ne_eq] at hserves
    obtain ⟨hinput, hstage⟩ := hserves
    rw [Option.any_some, Bool.eq_iff_iff]
    constructor
    · intro hstarted
      exact List.any_eq_true.mpr ⟨a, ha, by simpa [hinput, Announcement.started] using hstarted⟩
    · intro hany
      obtain ⟨b, hb, hcarries⟩ := List.any_eq_true.mp hany
      simp only [Bool.and_eq_true, beq_iff_eq] at hcarries
      obtain ⟨hinputb, hstarted⟩ := hcarries
      have hstageb : b.stage ≠ .queued := by rintro heq; simp [heq] at hstarted
      rw [hone a ha b hb hstage hstageb (hinput.trans hinputb.symm)]
      exact hstarted

/-- The choice of the slot changes nothing else that a down half gives. -/
theorem Part.downHalf_nextSlot (p : Part) (slot : Option Slot) : p.nextSlot.1.downHalf slot = p.downHalf slot := by
  have haired := p.aired_nextSlot
  have hclock := p.clock_nextSlot
  simp only [Part.aired, Prod.mk.injEq] at haired
  simp only [Part.clock, Prod.mk.injEq] at hclock
  obtain ⟨hcycle, -, hann, hdrill⟩ := haired
  obtain ⟨-, hday, htod, -, htime, -, -⟩ := hclock
  have hset : p.nextSlot.1.isSet = p.isSet := by rw [Part.isSet, htime, Part.isSet]
  have hcampus : p.nextSlot.1.campus = p.campus := by rw [Part.campus, hday, htod, Part.campus]
  have hcarries : p.nextSlot.1.carries = p.carries := by
    funext i
    rw [Part.carries, Part.served?, hann, Part.carries, Part.served?]
  unfold Part.downHalf
  rw [hcycle, hdrill, hset, hcampus, hcarries]

/-! ### The cycle -/

theorem lineCycle_port_frame (noise : Noise) (s : State) : (lineCycle noise s).port.frame = s.port.frame := by
  unfold lineCycle
  split
  · exact Port.frame_drain _ _
  · rfl

theorem lineCycle_eq {s : State} (hdue : s.cycleDue = true) (noise : Noise) :
    lineCycle noise s =
      let slot := s.part.nextSlot.2
      let reached := passAlong noise s.world (s.part.nextSlot.1.downHalf slot) 0 true slot s.nodes
      finish { s with
        part := ((s.part.nextSlot.1.countCycle.assignApplied slot (reached.any (·.assigned))).takeUpHalf s.part.isHeld slot
          (windowOf (sentIn noise 0 reached)) (hailWindowOf noise reached)).settle
        nodes := reached.map (·.node), marks := { s.marks with cycle := false } } := if_pos hdue

theorem lineCycle_not_due {s : State} (h : s.powered = false ∨ s.part.driving = false ∨ s.marks.cycle = false) (noise : Noise) :
    lineCycle noise s = s := by
  refine if_neg ?_
  rcases h with h | h | h <;> simp [State.cycleDue, h]

@[simp] theorem Part.engine_assignApplied (p : Part) (slot : Option Slot) (b : Bool) : (p.assignApplied slot b).engine = p.engine := by
  unfold Part.assignApplied
  (repeat' split) <;> rfl

theorem Part.rides_of_engine {p q : Part} (he : q.engine = p.engine) {k : Nat} (h : p.rides k) : q.rides k :=
  ((Part.onCourse.refl p).of_engine he).rides h

/-- A cycle moves the index on unless the head's own port is to be cut (R124, R159). -/
theorem lineCycle_index {s : State} (hdue : s.cycleDue = true) (noise : Noise) (huncut : .cut 0 ∉ s.part.chain.work) :
    (lineCycle noise s).part.line.cycle = (s.part.line.cycle + 1) % 50 := by
  have haired := s.part.aired_nextSlot
  simp only [Part.aired, Prod.mk.injEq] at haired
  obtain ⟨hcycle, hwork, -, -⟩ := haired
  have hchosen : s.part.nextSlot.1.countCycle.rides ((s.part.line.cycle + 1) % 50) :=
    ⟨fun hmem => huncut (hwork ▸ hmem), by rw [← hcycle]; rfl⟩
  rw [lineCycle_eq hdue]
  exact (Part.rides_of_engine (Part.engine_settle _)
    (Part.rides_takeUpHalf (Part.rides_of_engine (Part.engine_assignApplied _ _ _) hchosen) _ _ _ _)).2

theorem lineCycle_due_spec (s : State) (noise : Noise) (hdue : s.cycleDue = true) :
      let slot := s.part.nextSlot.2
      let serves := fun (i : PagingInput) => s.part.ann.records.any fun a =>
        a.input == i && (a.stage == .chiming || a.stage == .live)
      let t := lineCycle noise s
      exec (.lineCycle noise) s = .next t ∧ t.part.clock = s.part.clock ∧ t.part.layout = s.part.layout ∧
        t.memory = s.memory ∧ t.powered = true ∧ t.world = s.world ∧ t.marks = { s.marks with cycle := false } ∧
        t.pending = s.pending ∧ t.port.buffer = s.port.buffer ∧ t.port.enables = s.port.enables ∧
        ((∀ x ∈ s.part.chain.work, x ≠ .cut 0) → t.part.line.cycle = (s.part.line.cycle + 1) % 50) ∧
        ((∀ a ∈ s.part.ann.records, ∀ b ∈ s.part.ann.records, a.stage ≠ .queued → b.stage ≠ .queued →
            a.input = b.input → a = b) →
          t.nodes = (passAlong noise s.world
            { index := s.part.line.cycle,
              time := if s.part.line.cycle = 0 then some (if s.part.isSet then some s.part.campus else none) else none,
              drill := s.part.drillElapsed, slot := slot, lane1 := serves .p1, lane2 := serves .p2 }
            0 true slot s.nodes).map (·.node)) := by
  intro slot serves t
  have hexec : exec (.lineCycle noise) s = .next t := rfl
  have ht : t = _ := lineCycle_eq hdue noise
  have hpowered : s.powered = true := by
    simp only [State.cycleDue, Bool.and_eq_true] at hdue
    exact hdue.1.1
  have hport : t.port.buffer = s.port.buffer ∧ t.port.enables = s.port.enables := by
    have hframe := lineCycle_port_frame noise s
    simp only [Port.frame, Prod.mk.injEq] at hframe
    obtain ⟨-, hbuffer, -, henables, -⟩ := hframe
    exact ⟨hbuffer, henables⟩
  refine ⟨hexec, exec_clock rfl hexec, exec_layout rfl hexec, ?_, ?_, ?_, ?_, ?_, hport.1, hport.2, fun huncut => ?_, fun hone => ?_⟩
  · rw [ht]; rfl
  · rw [ht]; exact hpowered
  · rw [ht]; rfl
  · rw [ht]; rfl
  · rw [ht]; rfl
  · exact lineCycle_index hdue noise fun hmem => huncut _ hmem rfl
  · rw [ht]
    dsimp only [finish]
    rw [Part.downHalf_nextSlot, Part.downHalf, Part.carries_eq_any hone, Part.carries_eq_any hone]

end Sys2Proof.Machine
end

section
/-! SUPPORT. What the windows of a cycle make of the line engine's record of a position: counters, missing runs, baselines, edges
and confirmations (R126, R132, R134, R135, R140). -/

namespace Sys2Proof.Machine

/-! ### The record of a position -/

section
variable {p : Part} {pos : Nat}

theorem Part.link_modLink (hpos : pos < 24) (f : Link → Link) : (p.modLink pos f).link pos = f (p.link pos) :=
  Tab.get_modify hpos _ _ _

theorem Part.link_note_if (b : Bool) (n : Notice) : (if b = true then p.note n else p).link pos = p.link pos := by
  split <;> rfl

theorem Part.outbox_note_if (b : Bool) (n : Notice) :
    (if b = true then p.note n else p).outbox = p.outbox ++ if b = true then [.notice n] else [] := by
  split
  · rfl
  · exact (List.append_nil _).symm

/-! ### Counters -/

/-- Rising by one, a counter reaches the half level from 32,767 alone. -/
theorem reaches_half (n : Nat) (armed : Bool) : reaches 32768 n (saturate16 (n + 1)) armed = (armed && n == 32767) := by
  rw [Bool.eq_iff_iff]
  simp only [reaches, Bool.and_eq_true, decide_eq_true_eq, beq_iff_eq]
  refine and_assoc.trans (and_congr_right fun _ => ?_)
  unfold saturate16
  omega

/-- Rising by one, a counter reaches its full level from 65,534 alone. -/
theorem reaches_full (n : Nat) (armed : Bool) : reaches 65535 n (saturate16 (n + 1)) armed = (armed && n == 65534) := by
  rw [Bool.eq_iff_iff]
  simp only [reaches, Bool.and_eq_true, decide_eq_true_eq, beq_iff_eq]
  refine and_assoc.trans (and_congr_right fun _ => ?_)
  unfold saturate16
  omega

/-- The notices of a counter that has risen from `n`, by the levels that are armed. -/
def levelNotices (pos : Nat) (c : CounterName) (n : Nat) (half full : Bool) : List Message :=
  (if half && n == 32767 then [.notice (.counterLevel pos c 32768)] else []) ++
    if full && n == 65534 then [.notice (.counterLevel pos c 65535)] else []

theorem Part.missWindow_frozen (hf : p.line.frozen = true) (c : CounterName) : p.missWindow pos c = p.modLink pos fun l =>
    { l with missing := min 255 (l.missing + 1), since := l.since.map fun n => saturate16 (n + 1) } := by
  unfold Part.missWindow Part.countError
  exact if_pos hf

theorem Part.missWindow_missed (hpos : pos < 24) (hf : p.line.frozen = false) :
    let l := p.link pos
    (p.missWindow pos .missed).link pos = { l with
      missing := min 255 (l.missing + 1), since := l.since.map fun n => saturate16 (n + 1), missed := saturate16 (l.missed + 1),
      levels := { l.levels with missedHalf := l.levels.missedHalf && !(l.levels.missedHalf && l.missed == 32767),
                                missedFull := l.levels.missedFull && !(l.levels.missedFull && l.missed == 65534) } } ∧
    (p.missWindow pos .missed).outbox = p.outbox ++ levelNotices pos .missed l.missed l.levels.missedHalf l.levels.missedFull := by
  intro l
  unfold Part.missWindow Part.countError
  generalize hq : p.modLink pos _ = q
  have hlink : q.link pos = { l with missing := min 255 (l.missing + 1), since := l.since.map fun n => saturate16 (n + 1) } := by
    rw [← hq, Part.link_modLink hpos]
  have hfrozen : q.line.frozen = false := by rw [← hq]; exact hf
  have hout : q.outbox = p.outbox := by rw [← hq]; rfl
  simp only [hfrozen, Bool.false_eq_true, if_false, if_true, hlink, reaches_half, reaches_full]
  constructor
  · rw [Part.link_note_if, Part.link_note_if, Part.link_modLink hpos, hlink]
  · rw [Part.outbox_note_if, Part.outbox_note_if, List.append_assoc, ← hout]
    rfl

theorem Part.missWindow_badcheck (hpos : pos < 24) (hf : p.line.frozen = false) :
    let l := p.link pos
    (p.missWindow pos .badcheck).link pos = { l with
      missing := min 255 (l.missing + 1), since := l.since.map fun n => saturate16 (n + 1), badcheck := saturate16 (l.badcheck + 1),
      levels := { l.levels with badHalf := l.levels.badHalf && !(l.levels.badHalf && l.badcheck == 32767),
                                badFull := l.levels.badFull && !(l.levels.badFull && l.badcheck == 65534) } } ∧
    (p.missWindow pos .badcheck).outbox = p.outbox ++ levelNotices pos .badcheck l.badcheck l.levels.badHalf l.levels.badFull := by
  intro l
  unfold Part.missWindow Part.countError
  generalize hq : p.modLink pos _ = q
  have hlink : q.link pos = { l with missing := min 255 (l.missing + 1), since := l.since.map fun n => saturate16 (n + 1) } := by
    rw [← hq, Part.link_modLink hpos]
  have hfrozen : q.line.frozen = false := by rw [← hq]; exact hf
  have hout : q.outbox = p.outbox := by rw [← hq]; rfl
  simp only [hfrozen, Bool.false_eq_true, reduceCtorEq, if_false, hlink, reaches_half, reaches_full]
  constructor
  · rw [Part.link_note_if, Part.link_note_if, Part.link_modLink hpos, hlink]
  · rw [Part.outbox_note_if, Part.outbox_note_if, List.append_assoc, ← hout]
    rfl

/-- A counter that has not just reached a level leaves the levels armed and reports nothing. -/
theorem levelNotices_eq_nil {n : Nat} (hhalf : n ≠ 32767) (hfull : n ≠ 65534) (c : CounterName) (a b : Bool) :
    levelNotices pos c n a b = [] := by
  simp [levelNotices, hhalf, hfull]

/-- A missed window of a position: its run, its counters and the level notices (R126, R134, R140). -/
theorem Part.missWindow_spec (hpos : pos < 24) (c : CounterName) :
    let l := p.link pos
    let q := p.missWindow pos c
    (q.link pos).missing = min 255 (l.missing + 1) ∧ (q.link pos).latest = l.latest ∧ (q.link pos).baselines = l.baselines ∧
    (p.line.frozen = true → (q.link pos).missed = l.missed ∧ (q.link pos).badcheck = l.badcheck ∧
      (q.link pos).levels = l.levels ∧ q.outbox = p.outbox) ∧
    (p.line.frozen = false → c = .missed →
      (q.link pos).missed = min (l.missed + 1) 65535 ∧ (q.link pos).badcheck = l.badcheck ∧
      (l.levels.missedHalf = true → l.missed = 32767 → (q.link pos).levels.missedHalf = false ∧
        q.outbox = p.outbox ++ [.notice (.counterLevel pos .missed 32768)]) ∧
      (l.levels.missedFull = true → l.missed = 65534 → (q.link pos).levels.missedFull = false ∧
        q.outbox = p.outbox ++ [.notice (.counterLevel pos .missed 65535)]) ∧
      (l.missed ≠ 32767 → l.missed ≠ 65534 → l.missed ≤ 65535 → (q.link pos).levels = l.levels ∧ q.outbox = p.outbox)) ∧
    (p.line.frozen = false → c = .badcheck →
      (q.link pos).badcheck = min (l.badcheck + 1) 65535 ∧ (q.link pos).missed = l.missed ∧
      (l.levels.badHalf = true → l.badcheck = 32767 → (q.link pos).levels.badHalf = false ∧
        q.outbox = p.outbox ++ [.notice (.counterLevel pos .badcheck 32768)]) ∧
      (l.levels.badFull = true → l.badcheck = 65534 → (q.link pos).levels.badFull = false ∧
        q.outbox = p.outbox ++ [.notice (.counterLevel pos .badcheck 65535)]) ∧
      (l.badcheck ≠ 32767 → l.badcheck ≠ 65534 → l.badcheck ≤ 65535 →
        (q.link pos).levels = l.levels ∧ q.outbox = p.outbox)) := by
  intro l q
  cases hf : p.line.frozen with
  | true =>
    have hq : q = _ := Part.missWindow_frozen hf c
    have hlink : q.link pos = _ := hq ▸ Part.link_modLink hpos _
    have hout : q.outbox = p.outbox := by rw [hq]; rfl
    simp [hlink, hout, l]
  | false =>
    cases c with
    | missed =>
      obtain ⟨hlink, hout⟩ := Part.missWindow_missed (p := p) hpos hf
      change q.link pos = _ at hlink
      change q.outbox = _ at hout
      rw [hlink, hout]
      refine ⟨rfl, rfl, rfl, nofun, fun _ _ => ⟨rfl, rfl, ?_, ?_, ?_⟩, nofun⟩
      · intro harmed hn; simp [levelNotices, harmed, hn, l] at *
      · intro harmed hn; simp [levelNotices, harmed, hn, l] at *
      · intro hhalf hfull _; simp [levelNotices_eq_nil, beq_eq_false_iff_ne.mpr hhalf, beq_eq_false_iff_ne.mpr hfull, hhalf, hfull, l]
    | badcheck =>
      obtain ⟨hlink, hout⟩ := Part.missWindow_badcheck (p := p) hpos hf
      change q.link pos = _ at hlink
      change q.outbox = _ at hout
      rw [hlink, hout]
      refine ⟨rfl, rfl, rfl, nofun, nofun, fun _ _ => ⟨rfl, rfl, ?_, ?_, ?_⟩⟩
      · intro harmed hn; simp [levelNotices, harmed, hn, l] at *
      · intro harmed hn; simp [levelNotices, harmed, hn, l] at *
      · intro hhalf hfull _; simp [levelNotices_eq_nil, beq_eq_false_iff_ne.mpr hhalf, beq_eq_false_iff_ne.mpr hfull, hhalf, hfull, l]

/-! ### Records -/

theorem Part.takeWindow_missed (hex : (p.node pos).isExamined = true) :
    p.takeWindow pos .empty = p.missWindow pos .missed ∧ p.takeWindow pos .bad = p.missWindow pos .badcheck :=
  ⟨if_pos hex, if_pos hex⟩

theorem Part.takeWindow_valid (hex : (p.node pos).isExamined = true) (r : StatusRecord) :
    p.takeWindow pos (.valid r) = p.takeRecord pos r := if_pos hex

theorem Part.link_keepRecord (hpos : pos < 24) (r : StatusRecord) : (p.keepRecord pos r).link pos = { p.link pos with
    missing := 0, since := some 0, latest := some r, fresh := false, reported := (p.link pos).reported && r.restarted,
    baselines := Tab.mapAll (p.link pos).baselines fun i b => ((r.inputs[i]?).map Prod.fst).getD b } := Part.link_modLink hpos _

theorem Tab.getElem_mapAll {α β : Type} {n : Nat} (v : Vector α n) (f : Nat → α → β) (i : Fin n) : (Tab.mapAll v f)[i] = f i v[i] := by
  simp [Tab.mapAll]

theorem Part.newEdges_none {r : StatusRecord} (h : r.restarted = true ∨ (p.link pos).fresh = true) :
    p.newEdges pos r = [0, 0, 0, 0] := by
  unfold Part.newEdges
  exact if_pos (by simpa using h)

/-- The edges of an input are what its count has gone on by since the baseline (R135). -/
theorem Part.newEdges_get {r : StatusRecord} (hr : r.restarted = false) (hfresh : (p.link pos).fresh = false) (i : Fin 4)
    {x : Nat × Bool} (hx : r.inputs[i.val]? = some x) :
    (p.newEdges pos r)[i.val]? = some ((x.1 + 256 - (p.link pos).baselines[i]) % 256) := by
  unfold Part.newEdges
  have hget : Tab.get (p.link pos).baselines i.val 0 = (p.link pos).baselines[i] := by simp [Tab.get]
  simp [hr, hfresh, upTo, hx, hget]

/-! ### Confirmations -/

theorem Part.takeConfirmation_confirms {r : StatusRecord} {f : Flight} (hf : p.line.flight = some f) (hseq : r.lastApplied = f.seq)
    (hpos : pos ∈ f.waiting) : (p.takeConfirmation pos r).line.flight =
      some { f with waiting := f.waiting.filter (· != pos), confirmed := f.confirmed ++ [pos] } := by
  simp [Part.takeConfirmation, hf, hseq, hpos]

theorem Part.takeConfirmation_other {r : StatusRecord} {f : Flight} (hf : p.line.flight = some f)
    (hother : r.lastApplied ≠ f.seq ∨ pos ∉ f.waiting) : p.takeConfirmation pos r = p := by
  have hkeep : (r.lastApplied == f.seq && f.waiting.contains pos) = false := by
    rcases hother with h | h <;> simp [h]
  unfold Part.takeConfirmation
  rw [hf, Option.map_some, if_neg (by rw [hkeep]; exact Bool.false_ne_true), ← hf]

theorem Part.deliverEdges_none {edges : List Nat} (h : ∀ n ∈ edges, n = 0) : p.deliverEdges pos edges = p :=
  if_pos (by simpa using h)

end

end Sys2Proof.Machine
end

section
/-! SUPPORT. The settlement of the command in flight: the slot it leaves, the give-ups it counts, and the zones of an update
(R60, R132, R133). -/

namespace Sys2Proof.Machine

/-! ### The zones of an update -/

section
variable {p : Part}

/-- An act on each of a list of zones that changes that zone alone, in a way that what the acts keep settles. -/
theorem Part.zone_eachOnce {F : Part → Nat → Part} {keeps : Part → Prop} {f : Nat → Zone → Zone}
    (hkeeps : ∀ q z, keeps q → keeps (F q z)) (hzone : ∀ q z, keeps q → z < 64 → (F q z).zone z = f z (q.zone z))
    (hother : ∀ q z y, z ≠ y → (F q z).zone y = q.zone y) (y : Nat) :
    ∀ (l : List Nat) (q : Part), keeps q → l.Nodup → (∀ z ∈ l, z < 64) →
      (q.each l F).zone y = if y ∈ l then f y (q.zone y) else q.zone y := by
  intro l
  induction l with
  | nil => intro q _ _ _; rfl
  | cons z l ih =>
    intro q hq hnodup hlt
    obtain ⟨hz, hnodup⟩ := List.nodup_cons.mp hnodup
    have hrest := ih (F q z) (hkeeps q z hq) hnodup fun y hy => hlt y (List.mem_cons_of_mem _ hy)
    refine (show (q.each (z :: l) F).zone y = ((F q z).each l F).zone y from rfl).trans (hrest.trans ?_)
    by_cases hzy : z = y
    · subst hzy
      rw [if_neg hz, if_pos List.mem_cons_self, hzone q z hq (hlt z List.mem_cons_self)]
    · rw [hother q z y hzy]
      simp [Ne.symm hzy]

theorem Part.zone_modZone_same {z : Nat} (hz : z < 64) (f : Zone → Zone) : (p.modZone z f).zone z = f (p.zone z) :=
  Tab.get_modify hz _ _ _

theorem Part.zone_modZone_other {z y : Nat} (h : z ≠ y) (f : Zone → Zone) : (p.modZone z f).zone y = p.zone y :=
  Tab.get_modify_ne h _ _ _

@[simp] theorem Part.arb_settleZones (zs : List Nat) : (p.settleZones zs).arb = p.arb := by
  refine List.foldlRecOn (motive := fun q : Part => q.arb = p.arb) _ _ rfl fun q hq id _ => Eq.trans ?_ hq
  unfold Part.removeIfSettled Part.removeAnn
  (repeat' split) <;> rfl

/-- What the outcome of an update makes of a zone (R60, R133). -/
def Part.zoneOutcome (p : Part) (o : Output) (confirmed : List Nat) (z : Nat) (zone : Zone) : Zone :=
  match p.owner z with
  | some pos =>
    if confirmed.contains pos then { zone with confirmed := some o, dirty := zone.dirty && zone.commanded != o }
    else if (p.node pos).isServed then { zone.makeDirty p.now with confirmed := none }
    else zone
  | none => zone

theorem Part.zone_zonesSettled (lo hi : Nat) (o : Output) (confirmed : List Nat) {y : Nat} (hy : y < 64) :
    (p.zonesSettled lo hi o confirmed).zone y =
      if lo ≤ y ∧ y ≤ hi then p.zoneOutcome o confirmed y (p.zone y) else p.zone y := by
  unfold Part.zonesSettled
  refine (Part.zone_of_arb (Part.arb_settleZones _) y).trans ?_
  refine Eq.trans (Part.zone_eachOnce (keeps := fun q => q.chain = p.chain ∧ q.now = p.now) (f := p.zoneOutcome o confirmed)
    ?_ ?_ ?_ y (zonesOf ⟨lo, hi⟩) p ⟨rfl, rfl⟩ (List.nodup_range.filter _) fun z hz => List.mem_range.mp (List.mem_filter.mp hz).1) ?_
  rotate_right
  · have hmem : y ∈ zonesOf ⟨lo, hi⟩ ↔ lo ≤ y ∧ y ≤ hi := by simp [mem_zonesOf hy, Range.has]
    simp only [hmem]
  · rintro q z ⟨hchain, hnow⟩
    (repeat' split) <;> exact ⟨hchain, hnow⟩
  · rintro q z ⟨hchain, hnow⟩ hz
    have howner : q.owner z = p.owner z := by simp only [Part.owner, Part.positions, Part.rosterAt, hchain]
    have hnode : ∀ pos, q.node pos = p.node pos := fun pos => by simp only [Part.node, Part.runtime, hchain]
    unfold Part.zoneOutcome
    rw [howner]
    cases p.owner z with
    | none => rfl
    | some pos =>
      dsimp only
      rw [hnode, ← hnow]
      split
      · exact Part.zone_modZone_same hz _
      · split
        · exact Part.zone_modZone_same hz _
        · rfl
  · intro q z y' hne
    (repeat' split)
    · exact Part.zone_modZone_other hne _
    · exact Part.zone_modZone_other hne _
    · rfl
    · rfl

/-! ### The settlement -/

theorem Part.settleFlight_resend {f : Flight} (hf : p.line.flight = some f) (hwait : f.waiting ≠ []) (hsends : f.sends < 3) :
    p.settleFlight = { p with line := { p.line with flight := some { f with resend := true } } } := by
  unfold Part.settleFlight
  rw [hf]
  exact if_pos (by simp [hwait, hsends])

/-- The part as the block that handed a settled command is told of it: the slot is free, and a command that is not confirmed
counts as given up. -/
def Part.freed (p : Part) (confirmed : Bool) : Part :=
  let q := { p with line := { p.line with flight := none } }
  if confirmed then q else q.countGiveUp

theorem Part.settleFlight_settled {f : Flight} (hf : p.line.flight = some f) (hover : f.waiting = [] ∨ 3 ≤ f.sends) :
    p.settleFlight = (p.freed (f.waiting.isEmpty && !f.confirmed.isEmpty)).reportOutcome f
      (f.waiting.isEmpty && !f.confirmed.isEmpty) := by
  unfold Part.settleFlight
  rw [hf]
  refine if_neg ?_
  rcases hover with h | h <;> simp [h]

theorem Part.freed_flight (b : Bool) : (p.freed b).line.flight = none := by
  unfold Part.freed Part.countGiveUp; dsimp only
  (repeat' split) <;> rfl

theorem Part.freed_giveUps (b : Bool) : (p.freed b).line.giveUps =
    if p.line.frozen = true ∨ b = true then p.line.giveUps else min (p.line.giveUps + 1) 65535 := by
  unfold Part.freed Part.countGiveUp; dsimp only
  cases b <;> cases p.line.frozen <;> simp [saturate16]

theorem Part.zone_freed (b : Bool) (z : Nat) : (p.freed b).zone z = p.zone z := by
  unfold Part.freed Part.countGiveUp; dsimp only
  (repeat' split) <;> rfl

theorem Part.zoneOutcome_freed (b : Bool) : (p.freed b).zoneOutcome = p.zoneOutcome := by
  unfold Part.freed Part.countGiveUp; dsimp only
  (repeat' split) <;> rfl

/-- After a held cycle a command that is not sent again leaves the slot free, and a zone update its zones as their owners
have confirmed (R60, R132, R133). -/
theorem Part.settleFlight_spec {f : Flight} (hf : p.line.flight = some f) (hover : f.waiting = [] ∨ 3 ≤ f.sends) :
    let q := p.settleFlight
    q.line.flight = none ∧
    q.line.giveUps = (if p.line.frozen = true ∨ (f.waiting = [] ∧ f.confirmed ≠ []) then p.line.giveUps
      else min (p.line.giveUps + 1) 65535) ∧
    ∀ lo hi o, f.sender = .zones → f.command = .zoneOutput lo hi o → ∀ z < 64,
      q.zone z = if lo ≤ z ∧ z ≤ hi then p.zoneOutcome o f.confirmed z (p.zone z) else p.zone z := by
  intro q
  have hq : q = _ := Part.settleFlight_settled hf hover
  generalize hb : (f.waiting.isEmpty && !f.confirmed.isEmpty) = b at hq
  have hcourse := (Part.onCourse.refl (p.freed b)).reportOutcome f b
  refine ⟨?_, ?_, fun lo hi o hsender hcommand z hz => ?_⟩
  · rw [hq]; exact hcourse.idle (Part.freed_flight b)
  · have hconfirmed : b = true ↔ f.waiting = [] ∧ f.confirmed ≠ [] := by simp [← hb]
    rw [hq, hcourse.giveUps, Part.freed_giveUps]
    simp only [hconfirmed]
  · have hreport : (p.freed b).reportOutcome f b = (p.freed b).zonesSettled lo hi o f.confirmed := by
      unfold Part.reportOutcome
      rw [hsender, hcommand]
    rw [hq, hreport, Part.zone_zonesSettled lo hi o _ hz, Part.zone_freed, Part.zoneOutcome_freed]

end

end Sys2Proof.Machine
end

section
/-! SUPPORT. A missing run that reaches its limit: the node leaves READY, or becomes LOST, whatever the other blocks make of it;
where none of them has anything to report NODE_STATE is the only notice (R134, R145). -/

namespace Sys2Proof.Machine

/-! ### A change of node state -/

/-- What stays true when a node enters a state other than READY stays so through each block that is told of it, for the
chain builder with nothing at work. -/
structure Heeds (J : Part → Prop) (pos : Nat) (new : NodeState) : Prop where
  targets : ∀ (q : Part) f, J q → J { q with line := { q.line with flight := f } }
  zone : ∀ q, ∀ z < 64, J q → J ((q.zoneOfNode false new.isServed z).reviewZone z)
  settled : ∀ q zs, J q → J (q.settleZones zs)
  held : ∀ q, ∀ b < 8, J q → J (q.testHeld b)
  dropped : ∀ q, J q → J (q.dropOut pos)
  circuits : ∀ q, J q → J (q.circuitsLeft pos)
  display : ∀ q, J q → J (q.displayLeft pos)
  chain : ∀ q old, J q → J (q.chainTakes pos old new)

section
variable {J : Part → Prop} {p : Part} {pos : Nat} {new : NodeState}

theorem Part.losesBuild_idle (hwork : p.chain.work = []) (old : NodeState) : p.losesBuild pos old new = false := by
  simp [Part.losesBuild, hwork]

theorem lt_of_mem_zonesOwned {z : Nat} (hz : z ∈ p.zonesOwned pos) : z < 64 := by
  unfold Part.zonesOwned at hz
  split at hz
  · exact lt_of_mem_selected hz
  · cases hz

/-- The record of a position as a state other than READY begins. -/
def Part.marked (p : Part) (pos : Nat) (new : NodeState) : Part := p.modRuntime pos fun r =>
  { r with node := new, setup := new.progress, wakeFrom := none, wakeAfter := false, quietAfter := false }

theorem Part.runtime_marked (hpos : pos < 24) : (p.marked pos new).runtime pos =
    { p.runtime pos with node := new, setup := new.progress, wakeFrom := none, wakeAfter := false, quietAfter := false } :=
  Tab.get_modify hpos _ _ _

theorem Heeds.setNode (hJ : Heeds J pos new) (hnew : new.isReady = false) (hkind : (p.node pos).sameKind new = false)
    (hwork : p.chain.work = [])
    (hstart : J ((p.marked pos new).note
      (.nodeState pos (p.node pos) new ((p.marked pos new).link pos).missing none ((p.marked pos new).runtime pos).setupFault))) :
    J (p.setNode pos new false none) := by
  have hopt : ∀ {c : Bool} {q r : Part}, J q → (J q → J r) → J (if c = true then r else q) := fun hq hr => by
    split
    · exact hr hq
    · exact hq
  unfold Part.setNode; dsimp only
  rw [if_neg (by simp [hkind]), hnew]
  refine hJ.chain _ _ ?_
  rw [if_neg Bool.false_ne_true]
  refine hopt (hopt (hopt ?_ (hJ.dropped _)) (hJ.circuits _)) (hJ.display _)
  refine List.foldlRecOn (motive := J) _ _ (hJ.settled _ _ ?_) fun q hq b hb =>
    hJ.held q b (List.mem_range.mp (List.mem_filter.mp hb).1) hq
  refine List.foldlRecOn (motive := J) _ _ ?_ fun q hq z hz => hJ.zone q z (lt_of_mem_zonesOwned hz) hq
  rw [Part.losesBuild_idle (p := p.modRuntime pos _) hwork, if_neg Bool.false_ne_true]
  split
  · exact hstart
  · exact hJ.targets _ _ hstart

/-- With no task the chain builder tests the line state alone. -/
theorem Part.chainTakes_idle (hwork : p.chain.work = []) (old : NodeState) : p.chainTakes pos old new = p.testRunning := by
  unfold Part.chainTakes; dsimp only
  simp [hwork, Part.losesBuild_idle hwork]

theorem Part.testRunning_eq : p.testRunning = p ∨
    p.testRunning = { p with chain := { p.chain with line := .running, retryAt := none } } := by
  unfold Part.testRunning; dsimp only
  split
  · exact .inr rfl
  · exact .inl rfl

theorem Part.work_idle (hwork : p.chain.work = []) : p.work = p := by
  unfold Part.work Part.runTasks
  rw [hwork]
  cases p.chain.step <;> rfl

/-! ### The node -/

/-- A node is in a state, and no task is on the list. -/
structure Part.halts (pos : Nat) (n : NodeState) (p : Part) : Prop where
  node : p.node pos = n
  work : p.chain.work = []

theorem Part.halts.of_chain {n : NodeState} {q : Part} (h : p.halts pos n) (hq : q.chain = p.chain) : q.halts pos n :=
  ⟨by rw [← h.node, Part.node, Part.runtime, hq, Part.node, Part.runtime], by rw [hq, h.work]⟩

theorem Part.wakeFor_work (z : Nat) : (p.wakeFor z).chain.work = p.chain.work := by
  unfold Part.wakeFor
  split
  · split
    · exact (congrArg (fun e => e.2.2.2) (p.engine_wake _) :)
    · rfl
  · rfl

/-- A state other than READY stays, whatever becomes of zones and announcements. -/
theorem firm_halts {n : NodeState} (hn : n.isReady = false) (pos : Nat) : Firm (Part.halts pos n) where
  records _ _ _ h := h.of_chain rfl
  zones _ _ _ _ h := h.of_chain rfl
  offers _ _ _ h := h.of_chain rfl
  woken p z h := by
    refine ⟨?_, (Part.wakeFor_work z).trans h.work⟩
    unfold Part.wakeFor
    split
    next owner _ =>
      split
      · rcases p.node_wake owner pos with heq | ⟨heq, -⟩
        · exact heq.trans h.node
        · rw [h.node] at heq
          subst heq
          cases hn
      · exact h.node
    · exact h.node
  line _ _ h := h.of_chain rfl
  sent _ _ h := h.of_chain rfl
  removed _ _ h := h.of_chain rfl

theorem Part.chain_dropOut : (p.dropOut pos).chain = p.chain := by
  unfold Part.dropOut Part.setPartial; dsimp only
  (repeat' split) <;> rfl

theorem Part.chain_circuitsLeft : (p.circuitsLeft pos).chain = p.chain := by
  refine List.foldlRecOn (motive := fun q : Part => q.chain = p.chain) _ _ rfl fun q hq c _ => Eq.trans ?_ hq
  unfold Part.modCircuit; dsimp only
  (repeat' split) <;> rfl

theorem Part.chain_settleZones (zs : List Nat) : (p.settleZones zs).chain = p.chain := by
  refine List.foldlRecOn (motive := fun q : Part => q.chain = p.chain) _ _ rfl fun q hq id _ => Eq.trans ?_ hq
  unfold Part.removeIfSettled Part.removeAnn
  (repeat' split) <;> rfl

theorem heeds_halts (hn : new.isReady = false) : Heeds (Part.halts pos new) pos new where
  targets _ _ h := h.of_chain rfl
  zone q z _ h := (firm_halts hn pos).reviseZone (h.of_chain rfl)
  settled q zs h := h.of_chain (Part.chain_settleZones zs)
  held q b _ h := h.of_chain (by unfold Part.testHeld; split <;> rfl)
  dropped q h := h.of_chain Part.chain_dropOut
  circuits q h := h.of_chain Part.chain_circuitsLeft
  display q h := h.of_chain rfl
  chain q old h := by
    rw [Part.chainTakes_idle h.work]
    rcases q.testRunning_eq with heq | heq
    · rw [heq]; exact h
    · rw [heq]; exact ⟨h.node, h.work⟩

theorem Part.halts_setNode (hpos : pos < 24) (hnew : new.isReady = false) (hkind : (p.node pos).sameKind new = false)
    (hwork : p.chain.work = []) : (p.setNode pos new false none).halts pos new :=
  (heeds_halts hnew).setNode hnew hkind hwork ⟨congrArg Runtime.node (Part.runtime_marked hpos), hwork⟩

/-! ### The notices -/

/-- A part that has sent `o`, with no task, where no announcement, drill, yield or circuit can add a notice. -/
structure Part.hush (o : List Message) (p : Part) : Prop where
  outbox : p.outbox = o
  work : p.chain.work = []
  records : p.ann.records = []
  run : p.drill.run = none
  anns : ∀ z < 64, (p.zone z).ann = none
  yields : ∀ b < 8, (p.building b).yield ≠ .yielded
  circuits : ∀ c < 32, p.circuit c = none

theorem Part.hush.of_same {o : List Message} {q : Part} (h : p.hush o) (hout : q.outbox = p.outbox) (hwork : q.chain.work = p.chain.work)
    (hann : q.ann = p.ann) (hdrill : q.drill = p.drill) (harb : q.arb = p.arb) (hclk : q.clk.circuits = p.clk.circuits) :
    q.hush o where
  outbox := hout.trans h.outbox
  work := hwork.trans h.work
  records := hann ▸ h.records
  run := hdrill ▸ h.run
  anns z hz := (Part.zone_of_arb harb z) ▸ h.anns z hz
  yields b hb := by rw [Part.building, harb]; exact h.yields b hb
  circuits c hc := by rw [Part.circuit, hclk]; exact h.circuits c hc

theorem Part.hush.settled {o : List Message} (h : p.hush o) : p.settled := fun i _ => by simp [Part.queue, h.records]

theorem Part.hush_reviewZone {o : List Message} (b : Bool) {z : Nat} (hz : z < 64) (h : p.hush o) :
    ((p.zoneOfNode false b z).reviewZone z).hush o := by
  obtain ⟨hout, hwork, hrecords, hrun, hanns, hyields, hcircuits⟩ := h
  have hmarked : ∀ y < 64, ((p.zoneOfNode false b z).zone y).ann = none := fun y hy => by
    by_cases hzy : z = y
    · subst hzy
      rw [Part.zoneOfNode, Part.zone_modZone_same hz]
      cases b <;> exact hanns z hz
    · rw [Part.zoneOfNode, Part.zone_modZone_other hzy]
      exact hanns y hy
  rw [Part.reviewZone, Part.reviseZone_held (.inl (hmarked z hz))]
  obtain ⟨l, heq⟩ := Part.claimsClear_line (p.zoneOfNode false b z) ((p.zoneOfNode false b z).changeZone z id) z
  rw [heq]
  refine ⟨hout, hwork, hrecords, hrun, fun y hy => ?_, hyields, hcircuits⟩
  change (((p.zoneOfNode false b z).changeZone z id).zone y).ann = none
  by_cases hzy : z = y
  · subst hzy
    rw [Part.zone_changeZone hz, id, Zone.ann_evaluate, Zone.annAfter, hmarked z hz]
  · rw [Part.zone_changeZone_ne hzy]
    exact hmarked y hy

theorem heeds_hush (o : List Message) : Heeds (Part.hush o) pos new where
  targets _ _ h := h.of_same rfl rfl rfl rfl rfl rfl
  zone q z hz h := Part.hush_reviewZone _ hz h
  settled q zs h := by
    have hsame : q.settleZones zs = q := by simp [Part.settleZones, h.records, Part.each]
    rwa [hsame]
  held q b hb h := by
    have hsame : q.testHeld b = q := by simp [Part.testHeld, h.yields b hb]
    rwa [hsame]
  dropped q h := by
    have hsame : q.dropOut pos = q := by simp [Part.dropOut, h.run]
    rwa [hsame]
  circuits q h := by
    have hsame : q.circuitsLeft pos = q := Part.each_same fun c hc => by
      simp only [h.circuits c (List.mem_range.mp hc)]
    rwa [hsame]
  display q h := h.of_same rfl rfl rfl rfl rfl rfl
  chain q old h := by
    rw [Part.chainTakes_idle h.work]
    rcases q.testRunning_eq with heq | heq
    · rw [heq]; exact h
    · rw [heq]; exact h.of_same rfl rfl rfl rfl rfl rfl

/-! ### Liveness -/

/-- The state of a node whose missing run has reached its limit (R134). -/
def NodeState.missed (n : NodeState) : NodeState := if n.isReady then .suspect else .lost

theorem NodeState.missed_unready (n : NodeState) : n.missed.isReady = false := by
  unfold NodeState.missed
  split <;> rfl

theorem NodeState.missed_otherKind {n : NodeState} (h : n.isReady = true ∨ n = .suspect ∨ n = .found ∨ n = .setting) :
    n.sameKind n.missed = false := by
  rcases h with h | rfl | rfl | rfl
  · cases n with
    | ready s => rfl
    | _ => cases h
  · rfl
  · rfl
  · rfl

theorem Part.livenessDue_of (h : ((p.node pos).isReady = true ∧ 5 ≤ (p.link pos).missing) ∨
    ((p.node pos = .suspect ∨ p.node pos = .found ∨ p.node pos = .setting) ∧ 25 ≤ (p.link pos).missing)) :
    p.livenessDue pos = true := by
  unfold Part.livenessDue
  rcases h with ⟨hready, hmissing⟩ | ⟨hstate | hstate | hstate, hmissing⟩
  · cases hn : p.node pos with
    | ready s => exact decide_eq_true hmissing
    | _ => rw [hn] at hready; cases hready
  all_goals rw [hstate]; exact decide_eq_true hmissing

theorem Part.livenessTimeout_eq (h : p.livenessDue pos = true) :
    p.livenessTimeout pos = (p.setNode pos (p.node pos).missed false).work := if_pos h

end

theorem nodeLivenessTimeout_spec {s : State} {pos : Nat} (hpos : pos < 24) (hpow : s.powered = true)
    (hdue : ((s.part.node pos).isReady = true ∧ 5 ≤ (s.part.link pos).missing) ∨
      ((s.part.node pos = .suspect ∨ s.part.node pos = .found ∨ s.part.node pos = .setting) ∧
        25 ≤ (s.part.link pos).missing)) :
    ∃ t, exec (.nodeLivenessTimeout pos) s = .next t ∧ State.sameOutside s t ∧ t.part.clock = s.part.clock ∧
      t.part.layout = s.part.layout ∧
      (s.part.chain.work = [] →
        let new := (s.part.node pos).missed
        t.part.node pos = new ∧
        (s.part.outbox = [] → s.part.ann.records = [] → s.part.drill.run = none → (∀ z < 64, (s.part.zone z).ann = none) →
          (∀ b < 8, (s.part.building b).yield ≠ .yielded) → (∀ c < 32, s.part.circuit c = none) →
          State.reports s t [] [.nodeState pos (s.part.node pos) new (s.part.link pos).missing none
            (s.part.runtime pos).setupFault])) := by
  have hexec : exec (.nodeLivenessTimeout pos) s = .next (event (Part.livenessTimeout pos) s) := rfl
  refine ⟨_, hexec, event_sameOutside _ s, exec_clock rfl hexec, exec_layout rfl hexec, fun hwork => ?_⟩
  intro new
  have hnew : new.isReady = false := NodeState.missed_unready _
  have hkind : (s.part.node pos).sameKind new = false :=
    NodeState.missed_otherKind (hdue.imp And.left And.left)
  have hhalts := Part.halts_setNode hpos hnew hkind hwork
  have heq : s.part.livenessTimeout pos = s.part.setNode pos new false none :=
    (Part.livenessTimeout_eq (Part.livenessDue_of hdue)).trans (Part.work_idle hhalts.work)
  constructor
  · rw [event_part hpow, heq]
    exact ((firm_halts hnew pos).settle hhalts).node
  · intro hout hrecords hrun hanns hyields hcircuits
    have hfault : ((s.part.marked pos new).runtime pos).setupFault = (s.part.runtime pos).setupFault := by
      rw [Part.runtime_marked hpos]
    have hhush := (heeds_hush _).setNode hnew hkind hwork
      ⟨rfl, hwork, hrecords, hrun, hanns, hyields, hcircuits⟩
    refine event_reports_settled hpow hout (heq ▸ hhush.settled) ?_
    rw [heq, hhush.outbox, ← hfault]
    rfl

end Sys2Proof.Machine
end

section
/-! SUPPORT. The line cycle put together: the equations of the up half, of a valid record and of its edges, and the obligation
about line cycles and liveness. -/

namespace Sys2Proof.Machine

section
variable {p : Part} {pos : Nat}

/-- The end of a valid record, after the node's state has been settled by it: its power, its impulses and its probe echo. -/
def Part.heard (p : Part) (pos : Nat) (r : StatusRecord) : Part :=
  let powered := p.takePower pos r
  (if (powered.node pos).isReady = true then powered.examineImpulses pos r.lines else powered).takeEcho pos r.probeEcho

/-- A record kept, with its confirmation and its onward fault. -/
def Part.recordKept (p : Part) (pos : Nat) (r : StatusRecord) : Part :=
  ((p.keepRecord pos r).takeConfirmation pos r).onwardChange pos (((p.link pos).latest.map (·.onward)).getD .none) r.onward

theorem Part.takeRecord_restart {r : StatusRecord} (hr : r.restarted = true) (hreported : (p.link pos).reported = false) :
    p.takeRecord pos r = ((p.recordKept pos r).restartReport pos).modLink pos fun l => { l with reported := true } :=
  if_pos (by simp [hr, hreported])

theorem Part.takeRecord_record {r : StatusRecord} (h : r.restarted = false ∨ (p.link pos).reported = true) :
    let echoed := (((p.recordKept pos r).deliverEdges pos (p.newEdges pos r)).useRecord pos r).heard pos r
    p.takeRecord pos r = if (echoed.node pos).isServed = true then echoed.each (echoed.yieldBuildings pos) Part.testHeld else echoed :=
  if_neg (by rcases h with h | h <;> simp [h])

theorem Part.deliverEdges_some {edges : List Nat} (h : ∃ n ∈ edges, n ≠ 0) : edges.all (· == 0) = false := by
  obtain ⟨n, hmem, hn⟩ := h
  exact List.all_eq_false.mpr ⟨n, hmem, by simpa using hn⟩

end

theorem Part.zoneOutcome_owned {p : Part} {o : Output} {confirmed : List Nat} {z pos : Nat} (h : p.owner z = some pos) (x : Zone) :
    p.zoneOutcome o confirmed z x =
      if pos ∈ confirmed then { x with confirmed := some o, dirty := x.dirty && x.commanded != o }
      else if (p.node pos).isServed then { x.makeDirty p.now with confirmed := none }
      else x := by
  unfold Part.zoneOutcome
  rw [h]
  simp only [List.contains_iff_mem]

/-- A held slot, and a command sent again (R132). -/
theorem Part.nextSlot_flight {p : Part} {f : Flight} (hf : p.line.flight = some f) :
    (f.resend = true → p.nextSlot.2 = some ⟨f.seq, f.target, f.command⟩ ∧
      p.nextSlot.1.line.flight = some { f with sends := f.sends + 1, resend := false }) ∧
    (f.resend = false → p.nextSlot = (p, none)) := by
  unfold Part.nextSlot
  rw [hf]
  exact ⟨fun h => by simp [h], fun h => by simp [h]⟩

theorem Part.nextSlot_nothing {p : Part} (hf : p.line.flight = none) (hk : p.chosenClass = none) : p.nextSlot.2 = none := by
  unfold Part.nextSlot Part.choose
  rw [hf]; dsimp only
  rw [hk]

/-- Settles O54: the cycle by what the choice, the down half and the up half make of the part, the choice class by class, the
windows by the equations of a missed window and of a valid record, the settlement zone by zone, and the liveness timeout by
what each block makes of a node that leaves its state. -/
theorem lineCyclesAndLiveness : Obligations.LineCyclesAndLiveness := by
  refine ⟨fun s noise => ⟨fun hno => congrArg Host.Outcome.next (lineCycle_not_due hno noise), fun hpow hdrive hmark => ?_⟩,
    fun p => ?_,
    fun p held slot windows hail => ?_, fun p pos r hex => ?_,
    fun p pos edges => ⟨Part.deliverEdges_none, fun h => ?_⟩,
    fun p pos hpos => ⟨fun c => Part.missWindow_spec hpos c, Part.takeWindow_missed, fun r => ?_⟩,
    fun p f hf => ⟨Part.settleFlight_resend hf, fun hover => ?_⟩, fun s pos hpos hpow hdue => ?_⟩
  · intro slot serves chosen counted reached begun
    have hdue : s.cycleDue = true := by simp [State.cycleDue, hpow, hdrive, hmark]
    obtain ⟨hexec, hrest⟩ := lineCycle_due_spec s noise hdue
    refine ⟨_, hexec, ?_, hrest⟩
    have hbegun : begun = counted.assignApplied slot (reached.any (·.assigned)) := by
      dsimp only [begun, Part.assignApplied]
      rcases slot with _ | ⟨seq, target, c⟩
      · rfl
      · cases c <;> rfl
    rw [lineCycle_eq hdue, hbegun]
    rfl
  · obtain ⟨hclock, hservice, hhighest⟩ := p.chosenClass_order
    refine ⟨hclock, hservice, hhighest, fun f hf => Part.nextSlot_flight hf, Part.nextSlot_nothing, fun hf => p.nextSlot_passed hf,
      fun k hf hk => ⟨fun h q hq hage => p.nextSlot_handed hf hk hq hage, fun z l hz hage => p.nextSlot_zones hf hk hz hage⟩,
      inOrder_split⟩
  · cases hail <;> rfl
  · intro fault kept delivered used powered examined echoed
    rw [Part.takeWindow_valid hex]
    have hused : used = delivered.useRecord pos r := rfl
    have hechoed : echoed = (delivered.useRecord pos r).heard pos r := congrArg (fun q : Part => q.heard pos r) hused
    refine ⟨Part.takeRecord_restart, fun h => ?_⟩
    rw [hechoed]
    exact Part.takeRecord_record h
  · exact if_neg (by rw [Part.deliverEdges_some h]; exact Bool.false_ne_true)
  · intro q
    have hlink : q.link pos = _ := Part.link_keepRecord hpos r
    refine ⟨by rw [hlink], by rw [hlink], by rw [hlink], fun i x hx => ?_, Part.newEdges_none,
      fun hr hfresh i x hx => Part.newEdges_get hr hfresh i hx, fun f hf => ⟨Part.takeConfirmation_confirms hf,
      Part.takeConfirmation_other hf⟩⟩
    rw [hlink]
    refine (Tab.getElem_mapAll _ _ i).trans ?_
    rw [hx]; rfl
  · obtain ⟨hflight, hgiveUps, hzones⟩ := Part.settleFlight_spec hf hover
    refine ⟨hflight, hgiveUps, fun lo hi o hsender hcommand z hz => ?_⟩
    rw [hzones lo hi o hsender hcommand z hz]
    refine ⟨fun hlo hhi pos howner => ?_, fun hout => if_neg (by omega)⟩
    rw [if_pos ⟨hlo, hhi⟩, Part.zoneOutcome_owned howner]
    refine ⟨fun hc => if_pos hc, fun hc hserved => ?_, fun hc hserved => ?_⟩
    · rw [if_neg hc, if_pos hserved]
      exact ⟨rfl, rfl⟩
    · rw [if_neg hc, if_neg (by rw [hserved]; exact Bool.false_ne_true)]
  · obtain ⟨t, hexec, hsame, hclock, hlayout, hidle⟩ := nodeLivenessTimeout_spec hpos hpow hdue
    refine ⟨t, hexec, hsame, hclock, hlayout, fun hwork _ => ?_⟩
    obtain ⟨hnode, hreports⟩ := hidle hwork
    refine ⟨hnode, fun hout hrecords hrun hzones => hreports hout hrecords hrun fun z hz => ?_⟩
    have hclaims := (hzones z hz).1
    simp only [Zone.hasClaim, Bool.or_eq_false_iff, Option.isSome_eq_false_iff, Option.isNone_iff_eq_none] at hclaims
    exact hclaims.1.2

end Sys2Proof.Machine
end

section
/-! SUPPORT. A node's own events, and what happens in the wiring beyond it (R111, R125, R129, R137, R148). -/

namespace Sys2Proof.Machine

section
variable {n : Node} {world : Nat}

/-! ### Every output silent (R137) -/

/-- Every applied output SILENT, each cadence as it stood or begun now. -/
def Node.silentOutputs (n : Node) (world : Nat) : Vector Applied 64 :=
  Tab.mapAll n.outputs fun _ a => if a.output = .silent then a else ⟨.silent, world⟩

theorem Node.silentOutputs_silent (n : Node) (world : Nat) : ∀ a ∈ (n.silentOutputs world).toList, a.output = .silent := by
  intro a ha
  obtain ⟨i, hi, rfl⟩ := List.mem_iff_getElem.mp ha
  simp only [Node.silentOutputs, Tab.mapAll, Vector.getElem_toList, Vector.getElem_ofFn]
  split
  · assumption
  · rfl

/-- Outputs that are all silent name no lane, so that none stays tapped (R128). -/
theorem Node.retap_silent {v : Vector Applied 64} (h : ∀ a ∈ v.toList, a.output = .silent) : n.retap v = [] := by
  have hnamed : lanesNamed v = [] := List.filter_eq_nil_iff.mpr fun l _ hany => by
    obtain ⟨a, ha, hlane⟩ := List.any_eq_true.mp hany
    simp [h a ha] at hlane
  simp [Node.retap, hnamed]

theorem Node.silence_eq (n : Node) (world : Nat) :
    n.silence world = { n with outputs := n.silentOutputs world, lanes := [] } := by
  change n.setOutputs (n.silentOutputs world) = _
  rw [Node.setOutputs, Node.retap_silent (n.silentOutputs_silent world)]

/-! ### Each event as it is due -/

theorem Node.inputEdge_eq {i : Nat} {x : NodeInput} (h : n.inputs[i]? = some x) : n.inputEdge i = { n with
    inputs := n.inputs.set i { x with
      level := !x.level
      count := if (n.powered && (!x.level) == x.edge.activeLevel) = true then (x.count + 1) % 256 else x.count } } := by
  rw [Node.inputEdge, List.modify_eq_set_getElem?, h]
  rfl

theorem Node.pulseEnd_eq {k e : Nat} {l : NodeLine} {p : Polarity} (h : n.lines[k]? = some l) (hp : l.pulse = some (p, e))
    (hpow : n.powered = true) (hdue : e ≤ world) :
    n.pulseEnd world k = { n with lines := n.lines.set k ⟨(l.count + 1) % 256, some p, none⟩ } := by
  rw [Node.pulseEnd, List.modify_eq_set_getElem?, h]
  simp [hp, hpow, hdue]

theorem Node.isolate_due (hpow : n.powered = true) (hat : n.isolatedAt = none) (hmissed : 50 < n.missedFor) :
    n.isolate world =
      if n.holdOver = 0 then { n with isolatedAt := some world, heldOver := true, outputs := n.silentOutputs world, lanes := [] }
      else { n with isolatedAt := some world } := by
  have hdue : n.isolationDue = true := by rw [Node.isolationDue, hpow, hat]; exact decide_eq_true hmissed
  unfold Node.isolate
  rw [if_pos hdue]
  simp only [Node.silence_eq]
  rfl

theorem Node.holdOverEnd_due {e : Nat} (hpow : n.powered = true) (hat : n.isolatedAt = some e) (hheld : n.heldOver = false)
    (hover : e + n.holdOver * 50 ≤ world) :
    n.holdOverEnd world = { n with heldOver := true, outputs := n.silentOutputs world, lanes := [] } := by
  have hdue : n.holdOverDue world = true := by
    rw [Node.holdOverDue, hpow, hat, hheld]; exact decide_eq_true hover
  rw [Node.holdOverEnd, if_pos hdue, Node.silence_eq]

theorem Node.lineResetEnd_due {e : Nat} (hpow : n.powered = true) (hcut : n.cutSince = some e) (hreset : n.resetDone = false)
    (hlong : e + 25 ≤ world) : n.lineResetEnd world = n.lineReset :=
  if_pos (by rw [Node.lineResetDue, hpow, hcut, hreset]; exact decide_eq_true hlong)

end

/-- Settles O59: the node at the place is changed by the event that is due, whose equation says how. -/
theorem nodeEvents : Obligations.NodeEvents := by
  intro s place n h becomes
  have hnode : ∀ (f : Node → Node) n', f n = n' → Host.Outcome.next (onNode place f s) = becomes n' := fun f n' hf => by
    rw [onNode_eq h, hf]
  refine ⟨fun i x hx => ?_, fun k l p e hl hp hpow he => ?_, fun hpow hwarm hdue => ?_, fun e hpow hcut hdue => ?_,
    fun hpow hat hmissed hover => ?_, fun hpow hat hmissed hover => ?_, fun e hpow hat hheld hover => ?_,
    fun e hpow hcut hreset hlong => ?_, fun segment => ?_, fun hpow => ?_⟩
  · refine hnode _ _ ((Node.inputEdge_eq hx).trans ?_)
    cases x.edge <;> cases x.level <;> rfl
  · exact hnode _ _ (Node.pulseEnd_eq hl hp hpow he)
  · exact hnode _ _ (if_pos (by simp [Node.warmupDue, hpow, hwarm, hdue]))
  · exact hnode _ _ (if_pos (by simp [Node.cutDue, hpow, hcut, hdue]))
  · exact hnode _ _ ((Node.isolate_due hpow hat hmissed).trans (if_neg hover))
  · exact ⟨_, hnode _ _ ((Node.isolate_due hpow hat hmissed).trans (if_pos hover)), n.silentOutputs_silent s.world⟩
  · exact ⟨_, hnode _ _ (Node.holdOverEnd_due hpow hat hheld hover), n.silentOutputs_silent s.world⟩
  · exact ⟨_, hnode _ _ (Node.lineResetEnd_due hpow hcut hreset hlong), rfl, rfl, rfl, rfl, rfl, rfl, rfl⟩
  · exact hnode _ _ rfl
  · have hsame : s.nodes.set place n = s.nodes := by
      obtain ⟨hlt, rfl⟩ := List.getElem?_eq_some_iff.mp h
      exact List.set_getElem_self hlt
    refine (hnode (fun n => if n.powered then n else n.powerUp) n (if_pos hpow)).trans (congrArg Host.Outcome.next ?_)
    rw [hsame]

end Sys2Proof.Machine
end

section
/-! SUPPORT. The requests that begin a long operation, and RESTART (R147, R164, R169, R170, R172). -/

namespace Sys2Proof.Machine

/-! ### Requests that are not heard -/

/-- Every request kind reaches the part through `request`. -/
theorem exec_request {i : Instr} {kind : Nat} (h : requestKind i = some kind) :
    ∃ tag f, ∀ s, exec i s = .next (request i tag kind f s) := by
  cases i <;> cases h <;> exact ⟨_, _, fun _ => rfl⟩

/-- A part that does not listen takes no request (R171, R172). -/
theorem exec_unheard {i : Instr} {kind : Nat} (h : requestKind i = some kind) {s : State} (hs : s.listening = false) :
    exec i s = .next s := by
  obtain ⟨tag, f, hf⟩ := exec_request h
  rw [hf, request, if_neg (by simp [hs])]

/-! ### The long-operation slot -/

section
variable {s : State} {tag kind : Nat} {f : State → State × Answer}

theorem longOp_busy (h : s.port.longOp.isSome = true) : longOp tag kind f s = (s, ⟨.busy, .none⟩) := if_pos h

theorem longOp_accepted (h : s.port.longOp = none) {t : State} {b : ReplyBody} (hf : f s = (t, ⟨.accepted, b⟩)) :
    longOp tag kind f s =
      ({ t with port := { t.port with longOp := some ⟨tag, kind, s.part.now, none⟩ } }, ⟨.accepted, b⟩) := by
  simp [longOp, h, hf]

theorem longOp_refused (h : s.port.longOp = none) {st : Status} (hst : st ≠ .accepted) (hf : f s = (s, ⟨st, .none⟩)) :
    longOp tag kind f s = (s, ⟨st, .none⟩) := by
  simp [longOp, h, hf, hst]

end

/-! ### LINE_START (R147) -/

section
variable {p : Part}

theorem Part.lineStart_down (hdown : p.chain.line = .down) (hlength : 0 < p.chain.length) :
    p.lineStart = (p.startLine true, ⟨.accepted, .none⟩) := by
  have hne : p.chain.length ≠ 0 := by omega
  simp [Part.lineStart, checked, firstFailure, hdown, hne]

theorem Part.lineStart_refused (h : p.chain.line ≠ .down ∨ p.chain.length = 0) :
    p.lineStart = (p, ⟨.wrongState, .none⟩) := by
  have hcheck : (p.chain.line != .down || p.chain.length == 0) = true := by simpa using h
  simp [Part.lineStart, checked, firstFailure, hcheck]

end

/-! ### STORE_LOAD and RESTART (R170, R172) -/

section
variable {s : State}

theorem storeLoad_accepted (hdown : s.part.chain.line = .down) (hidle : s.part.drill.run = none) : storeLoad s =
    ({ s with part := { s.part with drill := { s.part.drill with startedSince := false } },
              port := { s.port with loading := true } }, ⟨.accepted, .none⟩) := by
  simp [storeLoad, Part.idle, hdown, hidle]

theorem storeLoad_refused (h : s.part.chain.line ≠ .down ∨ s.part.drill.run.isSome = true) :
    storeLoad s = (s, ⟨.wrongState, .none⟩) := by
  refine if_pos ?_
  rcases h with h | h
  · simp [h]
  · simp [Part.idle, Option.isNone_eq_false_iff.mpr h]

/-- A save that RESTART cuts has written a proper beginning of its image, and no save leaves the memory as it is (log entry 74). -/
theorem State.cutSave_spec (s : State) : ∃ memory draws, s.cutSave = { s with memory := memory, draws := draws } ∧
    (s.port.saving = none → memory = s.memory ∧ draws = s.draws) ∧
    ∀ x, s.port.saving = some x → ∃ k, 1 ≤ k ∧ k < (imageOf x).length ∧
      memory = { s.memory.written ((imageOf x).take k) with torn := true } := by
  cases h : s.port.saving with
  | none => exact ⟨_, _, State.cutSave_none h, fun _ => ⟨rfl, rfl⟩, nofun⟩
  | some t =>
    refine ⟨_, _, State.cutSave_some h, nofun, fun x hx => ?_⟩
    obtain rfl := Option.some.inj hx
    exact s.memory.cut_beginning t s.draws

end

/-- RESTART with the save in progress, if there is one, cut (R172). -/
theorem restart_eq {s : State} {memory : SerialMemory} {draws : Nat}
    (h : s.cutSave = { s with memory := memory, draws := draws }) : restart s = ({ s with
      part := s.part.cancelTrim, memory := memory, draws := draws,
      port := { s.port with
        rx := .heldOff, buffer := [], taking := false, restarting := true, longOp := none, saving := none,
        loading := false } }, okOnly) := by
  rw [restart, h]

/-! ### The requests -/

/-- What a request leads to whose function sends nothing. -/
theorem request_silent {s t : State} {tag : Nat} (hr : s.ready tag) (i : Instr) (kind : Nat) {f : State → State × Answer}
    {a : Answer} (hf : f s = (t, a)) (ho : t.part.outbox = []) : request i tag kind f s = t.replied tag kind a := by
  rw [request_carried hr, hf]
  exact finish_replied (s := t) ho tag kind a

theorem Port.made_replied (t : State) (tag kind : Nat) (a : Answer) :
    (t.replied tag kind a).port.made = t.port.made ++ [replyOf tag kind a] :=
  (Port.made_transmit _).trans (Port.made_push _ _)

/-- Settles O35: each request by what its function answers in each case, the slot examined first. -/
theorem longOperationsBegin : Obligations.LongOperationsBegin := by
  refine ⟨fun s tag hr hs => ⟨fun hl hdown hlength => ?_, fun hl => ?_, fun hl hstate => ?_⟩,
    fun s tag hr => ⟨fun hl => ?_, fun hl hdown hidle => ?_, fun hl hstate => ?_, fun hl => ⟨?_, ?_⟩, ?_⟩⟩
  · exact congrArg Host.Outcome.next
      (request_long hr hs _ _ _ hl (Part.lineStart_down hdown hlength) rfl rfl (State.ready_outbox hr))
  · exact congrArg Host.Outcome.next (request_refused hr _ _ _ (longOp_busy hl))
  · exact congrArg Host.Outcome.next (request_refused hr _ _ _ (longOp_refused hl (by simp)
      (by simp [ofPart, Part.lineStart_refused hstate])))
  · exact congrArg Host.Outcome.next ((request_silent hr _ _ (longOp_accepted (f := storeSave) hl rfl) (State.ready_outbox hr)).trans rfl)
  · exact congrArg Host.Outcome.next
      ((request_silent hr _ _ (longOp_accepted hl (storeLoad_accepted hdown hidle)) (State.ready_outbox hr)).trans rfl)
  · exact congrArg Host.Outcome.next (request_refused hr _ _ _ (longOp_refused hl (by simp) (storeLoad_refused hstate)))
  · exact congrArg Host.Outcome.next (request_refused hr _ _ _ (longOp_busy hl))
  · exact congrArg Host.Outcome.next (request_refused hr _ _ _ (longOp_busy hl))
  · obtain ⟨memory, draws, hcut, hnone, hsome⟩ := s.cutSave_spec
    have hout : s.part.cancelTrim.outbox = [] := State.ready_outbox hr
    have hrestart := request_silent hr (.restart tag) 0x5C (restart_eq hcut) hout
    refine ⟨_, memory, draws, congrArg Host.Outcome.next hrestart, Port.made_replied _ _ _ _, hnone, hsome, rfl,
      fun i kind hi => exec_unheard hi ?_⟩
    have hrx : ∀ o : Port, o.transmit.rx = o.rx := fun o => congrArg (fun x => x.1) o.frame_transmit
    simp [State.listening, State.replied, hrx]

end Sys2Proof.Machine
end

section
/-! SUPPORT. NODE_POWER: what a POWER QUIET and a wake make of a READY node (R157). -/

namespace Sys2Proof.Machine

section
variable {p : Part} {pos : Nat}

/-! ### The command handed, and the wake kept for it -/

/-- POWER QUIET that waits or flies is not handed again (log entry 81). -/
theorem Part.sendQuiet_again (h : p.waits .output (isPowerFor pos true) = true ∨ p.powerInFlight pos true = true) :
    p.sendQuiet pos = p :=
  if_pos (by simpa using h)

theorem Part.sendQuiet_hands (hwaits : p.waits .output (isPowerFor pos true) = false)
    (hflies : p.powerInFlight pos true = false) : p.sendQuiet pos = p.hand (.power true) (some pos) .power :=
  if_neg (by simp [hwaits, hflies])

/-- A withdrawal of what does not wait withdraws nothing. -/
theorem Part.withdraw_none {k : SlotClass} {f : Handed → Bool} (h : p.waits k f = false) : p.withdraw k f = p := by
  have hkept : (p.line.queueOf k).filter (fun x => !f x) = p.line.queueOf k := List.filter_eq_self.mpr fun x hx => by
    simpa using List.any_eq_false.mp h x hx
  rw [Part.withdraw, hkept]
  cases k <;> rfl

/-- A wake of a QUIET node for which no POWER QUIET waits or flies hands POWER ACTIVE. -/
theorem Part.wake_quiet (hnode : p.node pos = .ready .quiet) (hwaits : p.waits .output (isPowerFor pos true) = false)
    (hflies : p.powerInFlight pos true = false) : p.wake pos =
      (p.hand (.power false) (some pos) .power).modRuntime pos fun r => { r with node := .ready .waking, wakeFrom := none } := by
  simp [Part.wake, hnode, hwaits, hflies, NodeState.isReady]

/-- A wake that is kept or forgotten leaves the state of the node. -/
theorem notQuiet_wakeAfter {q : Part} (h : q.node pos ≠ .ready .quiet) {b : Bool} :
    ((q.modRuntime pos fun r => { r with wakeAfter := b }).node pos == .ready .quiet) = false :=
  beq_eq_false_iff_ne.mpr ((Part.node_modRuntime q pos (by intro r; rfl) pos).trans_ne h)

section
variable (hready : (p.node pos).isReady = true) (hnode : p.node pos ≠ .ready .quiet)
include hready hnode

/-- A wake takes back a POWER QUIET that waits. -/
theorem Part.wake_withdraws (hwaits : p.waits .output (isPowerFor pos true) = true) (hflies : p.powerInFlight pos true = false) :
    p.wake pos = (p.withdraw .output (isPowerFor pos true)).modRuntime pos fun r => { r with wakeAfter := false } := by
  have hflight : ∀ f, ((p.withdraw .output (isPowerFor pos true)).modRuntime pos f).powerInFlight pos true = false := fun _ => hflies
  simp only [Part.wake, hready, hwaits, if_true, hflight, Bool.false_eq_true, if_false,
    notQuiet_wakeAfter (q := p.withdraw .output (isPowerFor pos true)) hnode]

theorem Part.wake_nothing (hwaits : p.waits .output (isPowerFor pos true) = false) (hflies : p.powerInFlight pos true = false) :
    p.wake pos = p := by
  simp [Part.wake, hready, hwaits, hflies, hnode]

/-- A wake for a POWER QUIET in flight is kept. -/
theorem Part.wake_keeps (hwaits : p.waits .output (isPowerFor pos true) = false) (hflies : p.powerInFlight pos true = true) :
    p.wake pos = p.modRuntime pos fun r => { r with wakeAfter := true } := by
  simp only [Part.wake, hready, hwaits, hflies, if_true, Bool.false_eq_true, if_false, notQuiet_wakeAfter hnode]

end

/-! ### The request -/

theorem Part.nodePower_refused (hpos : pos ≤ 23) (hready : (p.node pos).isReady = false) (v : PowerRequest) (saving : Bool) :
    Part.nodePower pos (some v) saving p = (p, ⟨.wrongState, .none⟩) := by
  simp [Part.nodePower, checked, firstFailure, hready, Nat.not_lt.mpr hpos]

theorem Part.nodePower_quiet (hpos : pos ≤ 23) (hready : (p.node pos).isReady = true) (saving : Bool) :
    Part.nodePower pos (some .quiet) saving p = (if p.node pos = .ready .quiet then p else p.sendQuiet pos, okOnly) := by
  simp [Part.nodePower, checked, firstFailure, hready, Nat.not_lt.mpr hpos]

theorem Part.nodePower_active (hpos : pos ≤ 23) (hready : (p.node pos).isReady = true) (saving : Bool) :
    Part.nodePower pos (some .active) saving p = (p.wake pos, okOnly) := by
  simp [Part.nodePower, checked, firstFailure, hready, Nat.not_lt.mpr hpos]

/-- A runtime record changed, as the statements write it. -/
theorem Part.modRuntime_set (hpos : pos ≤ 23) (f : Runtime → Runtime) : p.modRuntime pos f =
    { p with chain := { p.chain with runtime := p.chain.runtime.setIfInBounds pos (f (p.runtime pos)) } } := by
  rw [Part.modRuntime, Tab.modify_eq_set (by omega) _ f Runtime.reset]
  rfl

end

/-- Settles O38: POWER QUIET handed or not, and the three things that a wake does. -/
theorem nodePower : Obligations.NodePower := by
  intro s tag pos hr hs hpos reply mine handed remembers waits flies
  have hwaits : s.part.waits .output (isPowerFor pos true) = waits := rfl
  have hflies : s.part.powerInFlight pos true = flies := rfl
  have hdone : ∀ {v p}, (∀ saving, Part.nodePower pos (some v) saving s.part = (p, okOnly)) → p.ann = s.part.ann →
      p.outbox = s.part.outbox → exec (.nodePower tag pos (some v)) s = .next (reply p) := fun hp hann hout =>
    congrArg Host.Outcome.next (request_block hr hs _ _ _ (hp _) (.inl rfl) hann (hout.trans (State.ready_outbox hr)))
  refine ⟨fun hready v => ?_, fun hready => ⟨fun h => ?_, fun hnode hw hf => ?_, fun hnode hw hf => ?_, fun hnode hf => ?_,
    fun hnode hw hf => ?_⟩⟩
  · exact congrArg Host.Outcome.next
      (request_refused_part hr _ _ _ (Part.nodePower_refused hpos hready v _) (by simp))
  · refine hdone (fun saving => (Part.nodePower_quiet hpos hready saving).trans ?_) rfl rfl
    split
    · rfl
    next hnode => rw [Part.sendQuiet_again (h.resolve_left hnode)]
  · refine hdone (fun saving => (Part.nodePower_quiet hpos hready saving).trans ?_) rfl rfl
    rw [if_neg hnode, Part.sendQuiet_hands (hwaits.trans hw) (hflies.trans hf)]
    rfl
  · refine hdone (fun saving => (Part.nodePower_active hpos hready saving).trans ?_) rfl rfl
    rw [Part.wake_quiet hnode (hwaits.trans hw) (hflies.trans hf), Part.modRuntime_set hpos]
    rfl
  · refine hdone (fun saving => (Part.nodePower_active hpos hready saving).trans ?_) rfl rfl
    cases hw : waits with
    | true =>
      rw [Part.wake_withdraws hready hnode (hwaits.trans hw) (hflies.trans hf), Part.modRuntime_set hpos, if_pos rfl]
      rfl
    | false =>
      rw [Part.wake_nothing hready hnode (hwaits.trans hw) (hflies.trans hf), if_neg Bool.false_ne_true]
      exact congrArg (·, okOnly) (Part.withdraw_none (hwaits.trans hw)).symm
  · refine hdone (fun saving => (Part.nodePower_active hpos hready saving).trans ?_) rfl rfl
    rw [Part.wake_keeps hready hnode (hwaits.trans hw) (hflies.trans hf), Part.modRuntime_set hpos]

end Sys2Proof.Machine
end

section
/-! SUPPORT. What the blocks that are told of a change leave to the chain builder: all that it holds but the power of READY nodes,
and the service class as a step ends (R130, R145, R157). -/

namespace Sys2Proof.Machine

/-! ### What the announcement manager keeps -/

/-- What stays true whatever the announcement manager does, which changes its records and the zones' claims, wakes nodes,
lets them go quiet and sends notices. -/
structure Calm (I : Part → Prop) : Prop where
  ann : ∀ (p : Part) a, I p → I { p with ann := a }
  arb : ∀ (p : Part) a, I p → I { p with arb := a }
  woken : ∀ p z, I p → I (p.wakeFor z)
  cleared : ∀ before p z, I p → I (Part.claimsClear before p z)
  sent : ∀ p n, I p → I (p.note n)

section
variable {I : Part → Prop} (hI : Calm I) {p : Part}
include hI

theorem Calm.grant (h : I p) (id z : Nat) : I (p.grant id z) := by
  unfold Part.grant
  split
  · exact hI.woken _ z (hI.ann _ _ (hI.arb p _ h))
  · exact h

theorem Calm.enlist (h : I p) (id z : Nat) : I (p.enlist id z) := by
  unfold Part.enlist
  split
  · exact hI.ann _ _ (hI.arb p _ h)
  · exact h

theorem Calm.steady : Steady I where
  records p _ _ _ h := hI.ann p _ h
  granted _ id z _ _ h := hI.grant h id z
  woken := hI.woken
  sent := hI.sent
  removed p _ h := hI.ann p _ h

theorem Calm.requestSlot (h : I p) (id z : Nat) : I (p.requestSlot id z) := by
  have hrolled : I (p.enrolled id z) := hI.ann p _ h
  unfold Part.requestSlot; dsimp only
  (repeat' split)
  · exact hrolled
  · exact hI.grant hrolled id z
  · exact hI.enlist hrolled id z
  · exact hI.steady.loseJoin (hI.grant hrolled id z) _ z
  · exact hI.enlist hrolled id z

theorem Calm.startAnn (h : I p) (id : Nat) : I (p.startAnn id) := by
  unfold Part.startAnn
  split
  next => exact h
  next a _ =>
    have hrequested : I ((p.modAnn id p.startRecord).each (selected 64 a.spec) fun p z => p.requestSlot id z) :=
      List.foldlRecOn (motive := I) _ _ (hI.ann p _ h) fun q hq z _ => hI.requestSlot hq id z
    refine hI.steady.testDisplaced ?_ id
    unfold Part.noteAnn
    split
    · exact hI.sent _ _ hrequested
    · exact hrequested

theorem Calm.startQueued (n : Nat) : ∀ {p : Part}, I p → I (p.startQueued n) := by
  induction n with
  | zero => exact fun h => h
  | succ n ih =>
    intro p h
    unfold Part.startQueued; dsimp only
    split
    · exact ih (hI.startAnn h _)
    · exact ih (hI.startAnn h _)
    · exact h

theorem Calm.settle (h : I p) : I p.settle := hI.startQueued _ h

end

/-! ### The service class as a step ends -/

@[simp] theorem Part.service_wake (p : Part) (pos : Nat) : (p.wake pos).line.service = p.line.service := by
  unfold Part.wake; dsimp only
  (repeat' split) <;> rfl

theorem calm_service (l : List Handed) : Calm fun p => p.line.service = l where
  ann _ _ h := h
  arb _ _ h := h
  woken p z h := by
    unfold Part.wakeFor
    (repeat' split)
    · exact (p.service_wake _).trans h
    all_goals exact h
  cleared before p z h := by
    unfold Part.claimsClear Part.quietIfInside Part.sendQuiet
    (repeat' split) <;> exact h
  sent _ _ h := h

@[simp] theorem Part.service_settle (p : Part) : p.settle.line.service = p.line.service := (calm_service _).settle rfl

/-! ### A part whose nodes are all out of READY -/

/-- A part with no READY node hands nothing at the end of a step. -/
theorem calm_unready {l : LineEngine} {c : Chain} (hc : ∀ p : Part, p.chain = c → ∀ pos, (p.node pos).isReady = false) :
    Calm fun p => p.line = l ∧ p.chain = c where
  ann _ _ h := h
  arb _ _ h := h
  woken p z h := by
    have hsame : p.wakeFor z = p := by
      unfold Part.wakeFor
      split
      next pos _ =>
        refine if_neg fun hquiet => ?_
        have hready := hc p h.2 pos
        rw [show p.node pos = .ready .quiet by simpa using hquiet] at hready
        cases hready
      · rfl
    rwa [hsame]
  cleared before p z h := by
    have hactive : ∀ pos, p.mayQuiet pos = false := fun pos => by
      have hready := hc p h.2 pos
      unfold Part.mayQuiet
      cases hn : p.node pos <;> simp_all [NodeState.isActive, NodeState.isReady]
    have hsame : Part.claimsClear before p z = p := by
      unfold Part.claimsClear Part.quietIfInside
      (repeat' split) <;> simp_all
    rwa [hsame]
  sent _ _ h := h

theorem Part.settle_unready {p : Part} (h : ∀ pos, (p.node pos).isReady = false) :
    p.settle.line = p.line ∧ p.settle.chain = p.chain :=
  (calm_unready (l := p.line) (c := p.chain) fun q hq pos => by
    rw [← h pos, Part.node, Part.runtime, hq, Part.node, Part.runtime]).settle ⟨rfl, rfl⟩

/-! ### The chain builder but for power -/

/-- A node state with the power of a READY node forgotten. -/
def NodeState.unpowered : NodeState → NodeState
  | .ready _ => .ready .active
  | n => n

/-- A runtime record with what wakes and quiet change forgotten (R157). -/
def Runtime.rested (r : Runtime) : Runtime :=
  { r with node := r.node.unpowered, wakeFrom := none, wakeAfter := false, quietAfter := false }

/-- The chain builder with what wakes and quiet change forgotten. -/
def Part.rested (p : Part) : Chain := { p.chain with runtime := p.chain.runtime.map Runtime.rested }

theorem NodeState.isReady_unpowered (n : NodeState) : n.unpowered.isReady = n.isReady := by cases n <;> rfl

theorem NodeState.unpowered_eq {n m : NodeState} (h : n.unpowered = m.unpowered) (hm : m.isReady = false) : n = m := by
  cases m <;> cases n <;> simp_all [NodeState.unpowered, NodeState.isReady]

theorem Part.rested_of_chain {p q : Part} (h : q.chain = p.chain) : q.rested = p.rested := by rw [Part.rested, h, Part.rested]

section
variable {p q : Part}

/-- The record of a position, as the rested chain holds it. -/
theorem Part.runtime_rested (p : Part) (pos : Nat) : (p.runtime pos).rested = Tab.get p.rested.runtime pos Runtime.reset := by
  unfold Part.runtime Part.rested Tab.get
  rw [Vector.getElem?_map]
  cases p.chain.runtime[pos]? <;> rfl

theorem Part.runtime_of_rested (h : q.rested = p.rested) (pos : Nat) : (q.runtime pos).rested = (p.runtime pos).rested := by
  rw [Part.runtime_rested, h, ← Part.runtime_rested]

theorem Part.rested_modRuntime {pos : Nat} {f : Runtime → Runtime} (h : (f (p.runtime pos)).rested = (p.runtime pos).rested) :
    (p.modRuntime pos f).rested = p.rested := by
  have hmap : (Tab.modify p.chain.runtime pos f).map Runtime.rested = p.chain.runtime.map Runtime.rested := by
    refine Vector.ext fun i hi => ?_
    rw [Vector.getElem_map, Vector.getElem_map]
    by_cases hpos : pos = i
    · subst hpos
      have hget := Tab.get_modify hi p.chain.runtime f Runtime.reset
      rw [tab_get_lt _ pos hi] at hget
      rw [hget]
      rw [Part.runtime, tab_get_lt _ pos hi] at h
      rw [tab_get_lt _ pos hi]
      exact h
    · have hget := Tab.get_modify_ne hpos p.chain.runtime f Runtime.reset
      rw [tab_get_lt _ i hi, tab_get_lt _ i hi] at hget
      rw [hget]
  simp only [Part.rested, Part.modRuntime, hmap]

/-- A wake changes no more than power. -/
@[simp] theorem Part.rested_wake (p : Part) (pos : Nat) : (p.wake pos).rested = p.rested := by
  unfold Part.wake
  split
  · dsimp only
    generalize hq : (if p.waits .output (isPowerFor pos true) = true then _ else p : Part) = q
    have hq' : q.rested = p.rested := by
      subst hq
      split
      · exact Part.rested_modRuntime rfl
      · rfl
    generalize hr : (if q.powerInFlight pos true = true then _ else q : Part) = r
    have hr' : r.rested = p.rested := by
      subst hr
      split
      · exact (Part.rested_modRuntime rfl).trans hq'
      · exact hq'
    split
    next hquiet =>
      have hnode : (r.runtime pos).node = .ready .quiet := eq_of_beq hquiet
      refine Eq.trans (Part.rested_modRuntime (p := r.hand _ _ _) ?_) hr'
      change Runtime.rested { r.runtime pos with node := .ready .waking, wakeFrom := none } = (r.runtime pos).rested
      simp [Runtime.rested, hnode, NodeState.unpowered]
    · exact hr'
  · rfl

@[simp] theorem Part.rested_wakeFor (p : Part) (z : Nat) : (p.wakeFor z).rested = p.rested := by
  unfold Part.wakeFor
  (repeat' split) <;> simp

/-- Whatever the announcement manager does. -/
theorem firm_rested (c : Chain) : Firm fun p => p.rested = c where
  records _ _ _ h := h
  zones _ _ _ _ h := h
  offers _ _ _ h := h
  woken p z h := (p.rested_wakeFor z).trans h
  line _ _ h := h
  sent _ _ h := h
  removed _ _ h := h

theorem Part.rested_each {α : Type} {f : Part → α → Part} (h : ∀ q a, (f q a).rested = q.rested) (l : List α) (p : Part) :
    (p.each l f).rested = p.rested :=
  List.foldlRecOn (motive := fun q => q.rested = p.rested) l f rfl fun q hq a _ => (h q a).trans hq

@[simp] theorem Part.rested_settle (p : Part) : p.settle.rested = p.rested := (firm_rested _).settle rfl

@[simp] theorem Part.rested_reviseZone (p : Part) (z : Nat) (f : Zone → Zone) : (p.reviseZone z f).rested = p.rested :=
  (firm_rested _).reviseZone rfl

@[simp] theorem Part.rested_offerNode (p : Part) (pos : Nat) : (p.offerNode pos).rested = p.rested :=
  (firm_rested _).steady.offerNode rfl pos

@[simp] theorem Part.rested_releaseLane (p : Part) (pos : Nat) (i : PagingInput) : (p.releaseLane pos i).rested = p.rested := by
  refine Part.rested_each (fun q z => ?_) _ p
  have hfirm := firm_rested q.rested
  split
  · have hoffered : ((q.changeZone z fun zone => { zone with ann := none }).offerZone z).rested = q.rested :=
      hfirm.steady.offerZone (p := q.changeZone z _) rfl z
    exact hfirm.steady.loseJoin (hfirm.claimsClear q hoffered z) _ z
  · rfl

@[simp] theorem Part.rested_enforceOnce (p : Part) (pos : Nat) : (p.enforceOnce pos).rested = p.rested := by
  unfold Part.enforceOnce
  (repeat' split) <;> simp

@[simp] theorem Part.rested_capacityChanged (p : Part) (pos old : Nat) : (p.capacityChanged pos old).rested = p.rested := by
  unfold Part.capacityChanged Part.enforceCapacity
  split <;> simp

/-! ### The chain builder and the other blocks -/

@[simp] theorem Part.chain_testHeld (p : Part) (b : Nat) : (p.testHeld b).chain = p.chain := by
  unfold Part.testHeld; split <;> rfl

@[simp] theorem Part.chain_keepDisplay (p : Part) (pos : Nat) : (p.keepDisplay pos).chain = p.chain := by
  unfold Part.keepDisplay; dsimp only; split <;> rfl

@[simp] theorem Part.chain_displayReady (p : Part) (pos : Nat) (b : Bool) : (p.displayReady pos b).chain = p.chain := by
  unfold Part.displayReady; dsimp only
  split
  · rfl
  · exact Part.chain_keepDisplay _ _

theorem Part.chain_each {α : Type} {f : Part → α → Part} (h : ∀ q a, (f q a).chain = q.chain) (l : List α) (p : Part) :
    (p.each l f).chain = p.chain :=
  List.foldlRecOn (motive := fun q => q.chain = p.chain) l f rfl fun q hq a _ => (h q a).trans hq

@[simp] theorem Part.chain_displayList (p : Part) (on : Bool) (l : List Nat) : (p.displayList on l).chain = p.chain :=
  Part.chain_each (fun q pos => by
    unfold Part.changeDisplay; dsimp only
    split
    · exact Part.chain_keepDisplay _ _
    · rfl) l p

@[simp] theorem Part.chain_modCircuit (p : Part) (c : Nat) (f : Circuit → Circuit) : (p.modCircuit c f).chain = p.chain := by
  unfold Part.modCircuit; split <;> rfl

@[simp] theorem Part.chain_noteClock (p : Part) (c : Nat) (e : ClockEvent) : (p.noteClock c e).chain = p.chain := by
  unfold Part.noteClock; split <;> rfl

@[simp] theorem Part.chain_callImpulse (p : Part) (c : Nat) : (p.callImpulse c).chain = p.chain := by
  unfold Part.callImpulse Part.handImpulse; dsimp only
  (repeat' split) <;> simp

@[simp] theorem Part.chain_setCourse (p : Part) (c : Nat) (m : CircuitMode) (k : Course) (a b : Nat) :
    (p.setCourse c m k a b).chain = p.chain := by
  unfold Part.setCourse; dsimp only
  (repeat' split) <;> simp

@[simp] theorem Part.chain_evaluateCircuit (p : Part) (c : Nat) : (p.evaluateCircuit c).chain = p.chain := by
  unfold Part.evaluateCircuit; dsimp only
  (repeat' split) <;> simp

@[simp] theorem Part.chain_circuitsReady (p : Part) (pos : Nat) : (p.circuitsReady pos).chain = p.chain :=
  Part.chain_each (fun q c => by (repeat' split) <;> simp) _ p

@[simp] theorem Part.chain_impulsesLost (p : Part) (pos : Nat) : (p.impulsesLost pos).chain = p.chain :=
  Part.chain_each (fun q c => by simp) _ p

/-! ### Drills -/

@[simp] theorem Part.rested_postDrill (p : Part) (z pattern program : Nat) : (p.postDrill z pattern program).1.rested = p.rested := by
  have hfirm := firm_rested p.rested
  unfold Part.postDrill
  split
  · rfl
  · have hwoken : ((p.changeZone z fun x =>
        { x with ann := none, drill := some ⟨.pending, pattern, program⟩, offers := [] }).wakeFor z).rested = p.rested :=
      Part.rested_wakeFor _ z
    exact hfirm.steady.loseOffers (hfirm.steady.loseHeld hwoken z _) z _

@[simp] theorem Part.rested_postDrills (p : Part) (r : DrillRun) (n : Nat) : (p.postDrills r n).1.rested = p.rested := by
  unfold Part.postDrills; dsimp only
  generalize List.flatMap _ _ = zs
  generalize ((0, 0) : Nat × Nat) = c
  induction zs generalizing p c with
  | nil => rfl
  | cons z zs ih =>
    rw [List.foldl_cons]; dsimp only
    split <;> exact (ih _ _).trans (p.rested_postDrill _ _ _)

theorem Part.chain_endRun (p : Part) (r : DrillRun) : (p.endRun r).chain = p.chain :=
  Part.chain_each (p := { p with drill := { p.drill with run := none } }) (fun q pos => by
    unfold Part.quietIfInside Part.sendQuiet
    (repeat' split) <;> rfl) _

theorem Part.chain_closeDrill (p : Part) (c : DrillEnd) : (p.closeDrill c).chain = p.chain := by
  unfold Part.closeDrill
  split
  · exact (Part.chain_endRun _ _).trans (p.chain_displayList false _)
  · rfl

@[simp] theorem Part.rested_enterEvacuate (p : Part) : (p.enterEvacuate false).rested = p.rested := by
  unfold Part.enterEvacuate; dsimp only
  split
  · exact (Part.rested_of_chain (Part.chain_displayList _ _ _)).trans ((Part.rested_postDrills _ _ _).trans rfl)
  · rfl

@[simp] theorem Part.rested_enterSounding (p : Part) : p.enterSounding.rested = p.rested := by
  unfold Part.enterSounding; dsimp only
  (repeat' split)
  · exact p.rested_enterEvacuate
  · exact (Part.rested_postDrills _ _ _).trans rfl
  · rfl

@[simp] theorem Part.rested_testProbes (p : Part) : p.testProbes.rested = p.rested := by
  have hcheck : p.checkResult.rested = p.rested := by
    unfold Part.checkResult; dsimp only
    split
    · split
      · exact Part.rested_of_chain (Part.chain_closeDrill _ _)
      split
      · exact Part.rested_enterSounding _
      split
      · exact Part.rested_enterSounding _
      refine (Part.rested_of_chain (Part.chain_endRun _ _)).trans ?_
      split <;> rfl
    · rfl
  unfold Part.testProbes
  (repeat' split)
  · exact hcheck
  all_goals rfl

@[simp] theorem Part.rested_testWoken (p : Part) : p.testWoken.rested = p.rested := by
  have hbegin : p.beginProbing.rested = p.rested := by
    unfold Part.beginProbing
    split
    · refine (Part.rested_testProbes _).trans (Part.rested_of_chain ?_)
      unfold Part.handProbe
      (repeat' split) <;> rfl
    · rfl
  unfold Part.testWoken
  (repeat' split)
  · exact hbegin
  all_goals rfl

@[simp] theorem Part.rested_bringToPower (p : Part) (pos : Nat) : (p.bringToPower pos).rested = p.rested := by
  have hquiet : (p.sendQuiet pos).rested = p.rested := by unfold Part.sendQuiet; split <;> rfl
  unfold Part.bringToPower; dsimp only
  (repeat' split)
  · rfl
  · exact p.rested_wake pos
  · exact hquiet
  · rfl
  · exact Part.rested_modRuntime rfl
  · rfl

end

end Sys2Proof.Machine
end

section
/-! SUPPORT. What a change of node state leaves: the block that each notification reaches, and the chain builder after all of them
(R145). -/

namespace Sys2Proof.Machine

/-! ### The blocks that are told -/

/-- What stays true through each block that is told that a node enters a state, the chain builder apart. -/
structure Hears (J : Part → Prop) (pos : Nat) (new : NodeState) : Prop where
  targets : ∀ (q : Part) f, J q → J { q with line := { q.line with flight := q.line.flight.map f } }
  zone : ∀ q z, J q → J ((q.zoneOfNode new.isReady new.isServed z).reviewZone z)
  settled : ∀ q zs, J q → J (q.settleZones zs)
  held : ∀ q b, J q → J (q.testHeld b)
  dropped : ∀ q, J q → J (q.dropOut pos)
  circuits : ∀ q, J q → J (q.circuitsLeft pos)
  display : ∀ q, J q → J (q.displayLeft pos)
  ready : new.isReady = true → ∀ q b, J q → J ((q.displayReady pos b).circuitsReady pos)

section
variable {J : Part → Prop} {p : Part} {pos : Nat} {new : NodeState}

/-- A change within one of the seven states is no more than the record; any other is told to the blocks, the chain builder last. -/
theorem Hears.setNode (hJ : Hears J pos new) (stopped : Bool) (why : Option (StopReason × Nat))
    (hstart : ∀ why, J ((p.marked pos new).note
      (.nodeState pos (p.node pos) new ((p.marked pos new).link pos).missing why ((p.marked pos new).runtime pos).setupFault))) :
    p.setNode pos new stopped why = p.marked pos new ∨
      ∃ q, J q ∧ p.setNode pos new stopped why = q.chainTakes pos (p.node pos) new := by
  have hopt : ∀ {c : Bool} {q r : Part}, J q → (c = true → J q → J r) → J (if c = true then r else q) := fun hq hr => by
    split
    next hc => exact hr hc hq
    · exact hq
  unfold Part.setNode; dsimp only
  by_cases hkind : (p.node pos).sameKind new = true
  · rw [if_pos hkind]
    exact .inl rfl
  · rw [if_neg hkind]
    refine .inr ⟨_, ?_, rfl⟩
    refine hopt (hopt (hopt (hopt ?_ fun _ => hJ.dropped _) fun _ => hJ.circuits _) fun _ => hJ.display _)
      fun hready => hJ.ready hready _ _
    refine List.foldlRecOn (motive := J) _ _ (hJ.settled _ _ ?_) fun q hq b _ => hJ.held q b hq
    refine List.foldlRecOn (motive := J) _ _ ?_ fun q hq z _ => hJ.zone q z hq
    split
    · exact hstart _
    · exact hJ.targets _ _ (hstart _)

theorem Hears.and {K : Part → Prop} (hJ : Hears J pos new) (hK : Hears K pos new) : Hears (fun q => J q ∧ K q) pos new where
  targets q f h := ⟨hJ.targets q f h.1, hK.targets q f h.2⟩
  zone q z h := ⟨hJ.zone q z h.1, hK.zone q z h.2⟩
  settled q zs h := ⟨hJ.settled q zs h.1, hK.settled q zs h.2⟩
  held q b h := ⟨hJ.held q b h.1, hK.held q b h.2⟩
  dropped q h := ⟨hJ.dropped q h.1, hK.dropped q h.2⟩
  circuits q h := ⟨hJ.circuits q h.1, hK.circuits q h.2⟩
  display q h := ⟨hJ.display q h.1, hK.display q h.2⟩
  ready hready q b h := ⟨hJ.ready hready q b h.1, hK.ready hready q b h.2⟩

end

/-! ### The chain builder as it is told -/

section
variable {p : Part} {pos : Nat} {new : NodeState}

theorem hears_rested (c : Chain) : Hears (fun q => q.rested = c) pos new where
  targets _ _ h := h
  zone _ z h := (Part.rested_reviseZone _ z id).trans h
  settled _ zs h := (Part.rested_of_chain (Part.chain_settleZones zs)).trans h
  held q b h := (Part.rested_of_chain (q.chain_testHeld b)).trans h
  dropped _ h := (Part.rested_of_chain Part.chain_dropOut).trans h
  circuits _ h := (Part.rested_of_chain Part.chain_circuitsLeft).trans h
  display _ h := h
  ready _ q b h := (Part.rested_of_chain ((Part.chain_circuitsReady _ pos).trans (q.chain_displayReady pos b))).trans h

theorem Part.links_of_core {p q : Part} (h : q.core = p.core) : q.line.links = p.line.links := by
  simp only [Part.core, Prod.mk.injEq] at h
  obtain ⟨-, -, -, -, -, -, -, -, hline, -⟩ := h
  exact (congrArg LineEngine.links hline :)

theorem Part.links_of_offDrill {p q : Part} (h : q.offDrill = p.offDrill) : q.line.links = p.line.links := by
  simp only [Part.offDrill, Prod.mk.injEq] at h
  obtain ⟨-, -, -, -, -, -, -, hline, -⟩ := h
  exact (congrArg LineEngine.links hline :)

theorem Part.links_of_offCircuits {p q : Part} (h : q.offCircuits = p.offCircuits) : q.line.links = p.line.links := by
  simp only [Part.offCircuits, Prod.mk.injEq] at h
  obtain ⟨-, -, -, -, -, -, -, hline, -⟩ := h
  exact (congrArg LineEngine.links hline :)

theorem hears_links (l : Vector Link 24) : Hears (fun q => q.line.links = l) pos new where
  targets _ _ h := h
  zone _ z h := (Part.links_of_core (Part.core_reviewZone _ z)).trans h
  settled _ zs h := (Part.links_of_core (Part.core_settleZones _ zs)).trans h
  held q b h := by unfold Part.testHeld; split <;> exact h
  dropped _ h := (Part.links_of_offDrill (Part.offDrill_dropOut _ pos)).trans h
  circuits _ h := (Part.links_of_offCircuits (Part.offCircuits_circuitsLeft _ pos)).trans h
  display _ h := h
  ready _ q b h := (Part.links_of_offCircuits (Part.offCircuits_circuitsReady _ pos)).trans
    ((Part.links_of_core (q.core_displayReady pos b)).trans h)

/-! ### The chain builder's own part -/

/-- From `p` to `q` every runtime record and all that the line engine keeps for a position have stayed. -/
structure Part.keepsNodes (p q : Part) : Prop where
  runtime : q.chain.runtime = p.chain.runtime
  links : q.line.links = p.line.links

theorem Part.keepsNodes.trans {p q r : Part} (h : p.keepsNodes q) (h' : q.keepsNodes r) : p.keepsNodes r :=
  ⟨h'.runtime.trans h.runtime, h'.links.trans h.links⟩

theorem Part.keepsNodes.refl (p : Part) : p.keepsNodes p := ⟨rfl, rfl⟩

theorem Part.keepsNodes_removeTasks (p : Part) (f : Task → Bool) : p.keepsNodes (p.removeTasks f) := by
  unfold Part.removeTasks
  split <;> exact ⟨rfl, rfl⟩

theorem Part.keepsNodes_endBuildOp (p : Part) (st : Status) : p.keepsNodes (p.endBuildOp st) := by
  unfold Part.endBuildOp
  split <;> exact ⟨rfl, rfl⟩

theorem Part.keepsNodes_endBuild (p : Part) (r : StopReason) (n : Nat) : p.keepsNodes (p.endBuild r n) := by
  unfold Part.endBuild; dsimp only
  refine (p.keepsNodes_removeTasks Task.build.sameTask).trans (.trans ?_ (Part.keepsNodes_endBuildOp _ _))
  exact ⟨rfl, rfl⟩

theorem Part.keepsNodes_testRunning (p : Part) : p.keepsNodes p.testRunning := by
  rcases p.testRunning_eq with h | h <;> rw [h] <;> exact ⟨rfl, rfl⟩

theorem Part.keepsNodes_chainTakes (p : Part) (old : NodeState) : p.keepsNodes (p.chainTakes pos old new) := by
  have hopt : ∀ {c : Bool} {q r : Part}, p.keepsNodes q → q.keepsNodes r → p.keepsNodes (if c = true then r else q) :=
    fun hq hr => by
      split
      · exact hq.trans hr
      · exact hq
  unfold Part.chainTakes; dsimp only
  refine .trans (hopt (hopt (hopt (.refl p) (Part.keepsNodes_removeTasks _ _)) (Part.keepsNodes_endBuild _ _ _)) ?_)
    (Part.keepsNodes_testRunning _)
  exact (Part.keepsNodes_removeTasks _ _).trans ⟨rfl, rfl⟩

/-- A change that touches no task leaves the chain builder to test whether the line is RUNNING. -/
theorem Part.chainTakes_tests (hlost : new ≠ .lost ∨ p.chain.work = [])
    (haccess : new.isReady = true ∨ ∀ a, .access a ∉ p.chain.work) (old : NodeState) :
    p.chainTakes pos old new = p.testRunning := by
  by_cases hwork : p.chain.work = []
  · exact Part.chainTakes_idle hwork old
  · have hne : (new == .lost) = false := beq_eq_false_iff_ne.mpr (hlost.resolve_right hwork)
    unfold Part.chainTakes; dsimp only
    simp only [hne, Bool.false_and, Bool.false_eq_true, if_false, Part.losesBuild]
    refine congrArg Part.testRunning (if_neg ?_)
    simp only [Bool.and_eq_true, List.any_eq_true, Bool.not_eq_true']
    rintro ⟨hnew, t, ht, hmine⟩
    cases t with
    | access a => exact haccess.elim (fun h => by simp [h] at hnew) fun h => h a ht
    | _ => exact absurd hmine Bool.false_ne_true

/-! ### After the change -/

theorem Part.links_setNode (p : Part) (pos : Nat) (new : NodeState) (stopped : Bool) (why : Option (StopReason × Nat)) :
    (p.setNode pos new stopped why).line.links = p.line.links := by
  rcases (hears_links p.line.links).setNode (p := p) stopped why fun _ => rfl with h | ⟨q, hq, h⟩
  · rw [h]; rfl
  · rw [h]; exact (q.keepsNodes_chainTakes _).links.trans hq

/-- Every runtime record is as the record that is entered makes it, but for power. -/
theorem Part.runtime_setNode (p : Part) (pos : Nat) (new : NodeState) (stopped : Bool) (why : Option (StopReason × Nat)) (n : Nat) :
    ((p.setNode pos new stopped why).runtime n).rested = ((p.marked pos new).runtime n).rested := by
  rcases (hears_rested (p.marked pos new).rested).setNode (p := p) stopped why fun _ => rfl with h | ⟨q, hq, h⟩
  · rw [h]
  · rw [h, Part.runtime, (q.keepsNodes_chainTakes _).runtime]
    exact Part.runtime_of_rested hq n

theorem Part.runtime_marked_ne {n : Nat} (h : pos ≠ n) : (p.marked pos new).runtime n = p.runtime n := Tab.get_modify_ne h _ _ _

theorem Part.node_setNode (hpos : pos < 24) (hnew : new.isReady = false) (stopped : Bool) (why : Option (StopReason × Nat)) :
    (p.setNode pos new stopped why).node pos = new := by
  have h := congrArg Runtime.node (p.runtime_setNode pos new stopped why pos)
  rw [Part.runtime_marked hpos] at h
  exact NodeState.unpowered_eq h hnew

theorem Part.isReady_setNode (hpos : pos < 24) (stopped : Bool) (why : Option (StopReason × Nat)) :
    ((p.setNode pos new stopped why).node pos).isReady = new.isReady := by
  have h := congrArg Runtime.node (p.runtime_setNode pos new stopped why pos)
  rw [Part.runtime_marked hpos] at h
  rw [← NodeState.isReady_unpowered, ← NodeState.isReady_unpowered new]
  exact congrArg NodeState.isReady h

/-- What the chain builder holds beside the runtime records, where the change touches no task: as before, but that the line may
be RUNNING. -/
theorem Part.fixed_setNode (hlost : new ≠ .lost ∨ p.chain.work = [])
    (haccess : new.isReady = true ∨ ∀ a, .access a ∉ p.chain.work) (stopped : Bool) (why : Option (StopReason × Nat)) :
    (p.setNode pos new stopped why).chain.fixed = p.chain.fixed ∨ p.chain.line = .partialLine ∧
      (p.setNode pos new stopped why).chain.fixed = { p.chain.fixed with line := .running, retryAt := none } := by
  rcases (hears_rested (p.marked pos new).rested).setNode (p := p) stopped why fun _ => rfl with h | ⟨q, hq, h⟩
  · rw [h]; exact .inl rfl
  · have hfixed : q.chain.fixed = p.chain.fixed := (congrArg Chain.fixed hq :)
    have hwork : q.chain.work = p.chain.work := (congrArg Chain.work hq :)
    have hline : q.chain.line = p.chain.line := (congrArg Chain.line hq :)
    rw [h, Part.chainTakes_tests (by rwa [hwork]) (by rwa [hwork]), ← hfixed, ← hline]
    unfold Part.testRunning; dsimp only
    split
    next hcond =>
      simp only [Bool.and_eq_true, beq_iff_eq] at hcond
      obtain ⟨⟨⟨⟨hpartial, -⟩, -⟩, -⟩, -⟩ := hcond
      exact .inr ⟨hpartial, rfl⟩
    · exact .inl rfl

end

end Sys2Proof.Machine
end

section
/-! SUPPORT. LINE_STOP: every node ABSENT, nothing handed, and the long operation of the line ended LINE_DOWN (R160, R164). -/

namespace Sys2Proof.Machine

/-! ### A long operation that ends in a step -/

/-- The port has ended a long operation: the last result is kept, and the slot is free or holds the OP_DONE that waits (R164). -/
structure Port.endsOp (op : LongOp) (st : Status) (f : OpFields) (on : Bool) (o : Port) : Prop where
  enabled : o.enabled .opDone = on
  result : o.lastLong = some ⟨op.tag, op.kind, st⟩
  off : on = false → o.longOp = none
  slot : o.longOp = none ∨ o.longOp = some { op with ending := some (.opDone op.tag op.kind st f) }

section
variable {op : LongOp} {st : Status} {f : OpFields} {on : Bool} {o : Port}

theorem Port.opDone_ends (h : o.longOp = some op) : (o.opDone st f).endsOp op st f (o.enabled .opDone) := by
  unfold Port.opDone
  rw [h]; dsimp only
  split
  next hon =>
    have hnot : o.enabled .opDone ≠ false := by rw [show o.enabled .opDone = true from hon]; simp
    split
    · exact ⟨rfl, rfl, fun _ => rfl, .inl rfl⟩
    · exact ⟨rfl, rfl, fun h => absurd h hnot, .inr rfl⟩
  · exact ⟨rfl, rfl, fun _ => rfl, .inl rfl⟩

theorem Port.endsOp.offers (l : List Notice) : ∀ {o : Port}, o.endsOp op st f on → (l.foldl Port.offer o).endsOp op st f on := by
  induction l with
  | nil => exact fun h => h
  | cons n l ih =>
    intro o h
    refine ih (o := o.offer n) ?_
    unfold Port.offer
    (repeat' split)
    · exact ⟨h.enabled, h.result, h.off, h.slot⟩
    · exact ⟨h.enabled, h.result, h.off, h.slot⟩
    · exact h

theorem Port.endsOp.transmit (h : o.endsOp op st f on) : o.transmit.endsOp op st f on := by
  unfold Port.transmit Port.placeFreed
  have hkept : ∀ {q : Port}, q.enables = o.enables → q.lastLong = o.lastLong → q.longOp = o.longOp → q.endsOp op st f on :=
    fun hen hlast hlong => ⟨by rw [← h.enabled, Port.enabled, hen, Port.enabled], hlast ▸ h.result, fun hoff => hlong ▸ h.off hoff,
      hlong ▸ h.slot⟩
  (repeat' split)
  · exact h
  · exact hkept rfl rfl rfl
  · exact h
  · exact h
  · exact ⟨h.enabled, h.result, fun _ => rfl, .inl rfl⟩
  · exact hkept rfl rfl rfl

theorem Port.longOp_offers (l : List Notice) : ∀ o : Port,
    (l.foldl Port.offer o).longOp = o.longOp ∧ (l.foldl Port.offer o).enabled .opDone = o.enabled .opDone := by
  induction l with
  | nil => exact fun o => ⟨rfl, rfl⟩
  | cons n l ih =>
    intro o
    obtain ⟨hop, hon⟩ := ih (o.offer n)
    have hoffer : (o.offer n).longOp = o.longOp ∧ (o.offer n).enabled .opDone = o.enabled .opDone := by
      unfold Port.offer
      (repeat' split) <;> exact ⟨rfl, rfl⟩
    exact ⟨hop.trans hoffer.1, hon.trans hoffer.2⟩

/-- The messages of a step that ends a long operation, between its notices. -/
theorem Port.drain_ends (h : o.longOp = some op) (before after : List Notice) :
    (o.drain (before.map .notice ++ .opEnd st f :: after.map .notice)).endsOp op st f (o.enabled .opDone) := by
  obtain ⟨hop, hon⟩ := Port.longOp_offers before o
  rw [Port.drain, List.foldl_append, Port.takes_notices, List.foldl_cons, Port.takes_notices, ← hon]
  exact ((Port.opDone_ends (hop.trans h)).offers after).transmit

end

/-! ### Notices alone -/

/-- A part that has sent no more than notices since it had sent the messages `o`. -/
def Part.tells (o : List Message) (p : Part) : Prop := ∃ l : List Notice, p.outbox = o ++ l.map .notice

section
variable {o : List Message} {p q : Part}

theorem Part.tells_of_outbox (h : p.outbox = o) : p.tells o := ⟨[], by simp [h]⟩

theorem Part.tells.of_outbox (h : p.tells o) (hq : q.outbox = p.outbox) : q.tells o := by rwa [Part.tells, hq]

theorem Part.tells.note (h : p.tells o) (n : Notice) : (p.note n).tells o := by
  obtain ⟨l, hl⟩ := h
  exact ⟨l ++ [n], by simp [Part.note, Part.send, hl]⟩

theorem firm_tells (o : List Message) : Firm (Part.tells o) where
  records _ _ _ h := h
  zones _ _ _ _ h := h
  offers _ _ _ h := h
  woken p z h := h.of_outbox (p.outbox_wakeFor z)
  line _ _ h := h
  sent _ n h := h.note n
  removed _ _ h := h

/-- A node that leaves READY is the cause of notices alone, short of what the chain builder makes of it. -/
theorem hears_tells (o : List Message) {pos : Nat} {new : NodeState} (hnew : new.isReady = false) :
    Hears (Part.tells o) pos new where
  targets _ _ h := h
  zone q z h := (firm_tells o).reviseZone (p := q.zoneOfNode _ _ z) (f := id) h
  settled q zs h := List.foldlRecOn (motive := Part.tells o) _ _ h fun r hr id _ =>
    (firm_tells o).steady.removeIfSettled (p := r.settleEntries id) hr id
  held q b h := by
    unfold Part.testHeld
    split
    · exact Part.tells.note (p := q.modBuilding b _) h _
    · exact h
  dropped q h := h.of_outbox (by
    unfold Part.dropOut; dsimp only
    (repeat' split) <;> rfl)
  circuits q h := List.foldlRecOn (motive := Part.tells o) _ _ h fun r hr c _ => hr.of_outbox (by
    unfold Part.modCircuit; dsimp only
    (repeat' split) <;> rfl)
  display _ h := h
  ready h := by simp [hnew] at h

end

/-! ### Nodes that leave -/

section
variable {p : Part}

theorem Part.node_beyond (p : Part) {n : Nat} (hn : 24 ≤ n) : p.node n = .absent := by
  simp [Part.node, Part.runtime, Tab.get, Nat.not_lt.mpr hn, Runtime.reset]

/-- A state other than READY outlasts a change at another position. -/
theorem Part.node_setNode_other {n pos : Nat} (hne : pos ≠ n) {m : NodeState} (hm : m.isReady = false) (hn : p.node n = m)
    (new : NodeState) (stopped : Bool) (why : Option (StopReason × Nat)) : (p.setNode pos new stopped why).node n = m := by
  have h := congrArg Runtime.node (p.runtime_setNode pos new stopped why n)
  rw [Part.runtime_marked_ne hne] at h
  exact NodeState.unpowered_eq (h.trans (congrArg NodeState.unpowered hn)) hm

/-- A state other than READY outlasts the entry of the same state at any position. -/
theorem Part.node_setNode_keeps {n pos : Nat} {new : NodeState} (hnew : new.isReady = false) (hn : p.node n = new) (stopped : Bool)
    (why : Option (StopReason × Nat)) : (p.setNode pos new stopped why).node n = new := by
  by_cases hlt : n < 24
  · by_cases hpos : pos = n
    · subst hpos
      exact Part.node_setNode hlt hnew stopped why
    · exact Part.node_setNode_other hpos hnew hn new stopped why
  · rw [Part.node_beyond p (Nat.not_lt.mp hlt)] at hn
    rw [Part.node_beyond _ (Nat.not_lt.mp hlt), hn]

/-- What holds while nodes leave one after another: the chain builder holds `c` beside the runtime records, and notices alone have
been sent since the messages `o`. -/
structure Part.falls (c : Chain) (o : List Message) (p : Part) : Prop where
  fixed : p.chain.fixed = c
  tells : p.tells o

theorem Part.tells_setNode {o : List Message} (h : p.tells o) (hwork : p.chain.work = []) {new : NodeState}
    (hnew : new.isReady = false) (pos : Nat) (stopped : Bool) (why : Option (StopReason × Nat)) :
    (p.setNode pos new stopped why).tells o := by
  rcases ((hears_rested (p.marked pos new).rested).and (hears_tells o hnew)).setNode (p := p) stopped why
    fun _ => ⟨rfl, Part.tells.note (p := p.marked pos new) h _⟩ with heq | ⟨q, ⟨hrested, hq⟩, heq⟩
  · rw [heq]; exact h
  · have hidle : q.chain.work = [] := (congrArg Chain.work hrested :).trans hwork
    rw [heq, Part.chainTakes_idle hidle]
    refine hq.of_outbox ?_
    rcases q.testRunning_eq with h | h <;> rw [h]

theorem Part.falls.setNode {c : Chain} {o : List Message} (h : p.falls c o) (hwork : c.work = []) (hline : c.line ≠ .partialLine)
    {new : NodeState} (hnew : new.isReady = false) (pos : Nat) (stopped : Bool) (why : Option (StopReason × Nat)) :
    (p.setNode pos new stopped why).falls c o := by
  have hwork' : p.chain.work = [] := (congrArg Chain.work h.fixed :).trans hwork
  have hline' : p.chain.line ≠ .partialLine := (congrArg Chain.line h.fixed :).trans_ne hline
  refine ⟨?_, Part.tells_setNode h.tells hwork' hnew pos stopped why⟩
  rcases Part.fixed_setNode (p := p) (pos := pos) (new := new) (.inr hwork') (.inr fun a ha => by simp [hwork'] at ha) stopped why
    with heq | ⟨heq, -⟩
  · exact heq.trans h.fixed
  · exact absurd heq hline'

theorem Part.falls.modRuntime {c : Chain} {o : List Message} (h : p.falls c o) (pos : Nat) (f : Runtime → Runtime) :
    (p.modRuntime pos f).falls c o :=
  ⟨h.fixed, h.tells⟩

end

/-! ### LINE_STOP -/

/-- The line as LINE_STOP takes it down: nothing handed, no task, DOWN. -/
def Part.takenDown (p : Part) : Part :=
  { p.emptyQueues.dropStep.setWork [] with
    chain := { (p.emptyQueues.dropStep.setWork []).chain with line := .down, headCut := none } }

/-- Every node ABSENT, and nothing handed. -/
def Part.deserted (p : Part) : Part := (p.each (upTo 24) Part.makeAbsent).emptyQueues

/-- The long operation ended, the reach at 0, no stop reason and no retry timer. -/
def Part.lineEnded (p : Part) (held : List Task) : Part :=
  let q := ((p.setWork held).endLineOps .lineDown).setWork []
  { q with chain := { q.chain with reach := 0, stop := none, retryAt := none } }

section
variable {p : Part}

theorem Part.chain_emptyQueues (p : Part) : p.emptyQueues.chain = p.chain := rfl

theorem Part.lineStop_up (h : p.chain.line ≠ .down) (saving : Bool) :
    p.lineStop saving = (p.takenDown.deserted.lineEnded p.chain.work, okOnly) := by
  have hline : (p.chain.line == .down) = false := beq_eq_false_iff_ne.mpr h
  simp only [Part.lineStop, hline, Bool.false_eq_true, if_false, Part.takenDown, Part.deserted, Part.lineEnded, Part.chain_emptyQueues]

theorem Part.lineStop_down (h : p.chain.line = .down) (saving : Bool) : p.lineStop saving = (p, okOnly) := if_pos (by simp [h])

theorem Part.outbox_emptyQueues (p : Part) : p.emptyQueues.outbox = p.outbox := rfl

theorem Part.node_of_chain {q : Part} (h : q.chain = p.chain) (n : Nat) : q.node n = p.node n := by
  rw [Part.node, Part.runtime, h, Part.node, Part.runtime]

theorem Part.node_makeAbsent (p : Part) (pos n : Nat) : (p.makeAbsent pos).node n = (p.setNode pos .absent true).node n :=
  Part.node_modRuntime _ pos (by intro r; rfl) n

theorem Part.node_deserted (p : Part) (n : Nat) : p.deserted.node n = .absent := by
  by_cases hn : n < 24
  · rw [Part.deserted]
    refine (Part.node_of_chain (Part.chain_emptyQueues _) n).trans ?_
    refine Part.each_brings (F := Part.makeAbsent) (needed := fun _ => True) (brought := fun q : Part => q.node n = .absent) (a := n)
      (fun _ _ _ => trivial) (fun q pos h => ?_) (fun q _ => ?_) (List.mem_range.mpr hn) p trivial
    · rw [Part.node_makeAbsent]; exact Part.node_setNode_keeps rfl h _ _
    · rw [Part.node_makeAbsent]; exact Part.node_setNode hn rfl _ _
  · exact Part.node_beyond _ (Nat.not_lt.mp hn)

theorem Part.falls_deserted {c : Chain} {o : List Message} (h : p.falls c o) (hwork : c.work = []) (hline : c.line ≠ .partialLine) :
    p.deserted.falls c o := by
  have hall : (p.each (upTo 24) Part.makeAbsent).falls c o :=
    List.foldlRecOn (motive := Part.falls c o) _ _ h fun q hq pos _ =>
      (hq.setNode hwork hline (new := .absent) rfl pos true none).modRuntime pos _
  exact ⟨(congrArg Chain.fixed (Part.chain_emptyQueues _)).trans hall.fixed, hall.tells.of_outbox (Part.outbox_emptyQueues _)⟩

/-- The end of the line's long operation, where it has one (R160). -/
theorem Part.outbox_endLineOps {st : Status} (hst : st ≠ .ok)
    (h : p.chain.buildOp = true ∨ (∃ a, .access a ∈ p.chain.work) ∨ (∃ q, .cut q ∈ p.chain.work)) :
    (p.endLineOps st).outbox = p.outbox ++ [.opEnd st .none] := by
  have hother : p.chain.buildOp = true ∨
      (p.chain.work.any fun t => match t with | .access _ | .cut _ => true | _ => false) = true := by
    rcases h with hop | ⟨a, ha⟩ | ⟨q, hq⟩
    · exact .inl hop
    · exact .inr (List.any_eq_true.mpr ⟨_, ha, rfl⟩)
    · exact .inr (List.any_eq_true.mpr ⟨_, hq, rfl⟩)
  unfold Part.endLineOps Part.endBuildOp; dsimp only
  by_cases hop : p.chain.buildOp = true
  · rw [if_pos hop, if_pos hop, if_neg hst]; rfl
  · rw [if_neg hop]
    exact congrArg Part.outbox (if_pos (hother.resolve_left hop))

theorem Part.endLineOps_parts (p : Part) (st : Status) :
    (p.endLineOps st).line = p.line ∧ (p.endLineOps st).chain = { p.chain with buildOp := false } := by
  unfold Part.endLineOps Part.endBuildOp; dsimp only
  by_cases hop : p.chain.buildOp = true
  · rw [if_pos hop, if_pos hop]
    exact ⟨rfl, rfl⟩
  · rw [if_neg hop]
    have hsame : p.chain = { p.chain with buildOp := false } := by rw [← Bool.eq_false_of_not_eq_true hop]
    split <;> exact ⟨rfl, hsame⟩

theorem Part.lineEnded_line (held : List Task) : (p.lineEnded held).line = p.line :=
  (Part.endLineOps_parts (p.setWork held) .lineDown).1

theorem Part.lineEnded_chain (held : List Task) : (p.lineEnded held).chain =
    { p.chain with work := [], buildOp := false, reach := 0, stop := none, retryAt := none } := by
  have h := (Part.endLineOps_parts (p.setWork held) .lineDown).2
  simp only [Part.lineEnded, Part.setWork] at h ⊢
  rw [h]

/-- No command is handed or in flight (R130). -/
structure LineEngine.emptied (l : LineEngine) : Prop where
  urgent : l.urgent = []
  output : l.output = []
  clock : l.clock = []
  service : l.service = []
  flight : l.flight = none

theorem Part.emptied_emptyQueues (p : Part) : p.emptyQueues.line.emptied := ⟨rfl, rfl, rfl, rfl, rfl⟩

theorem Part.emptied_deserted (p : Part) : p.deserted.line.emptied := Part.emptied_emptyQueues _

theorem Part.outbox_lineEnded {held : List Task}
    (h : p.chain.buildOp = true ∨ (∃ a, .access a ∈ held) ∨ (∃ q, .cut q ∈ held)) :
    (p.lineEnded held).outbox = p.outbox ++ [.opEnd .lineDown .none] :=
  Part.outbox_endLineOps (p := p.setWork held) (by decide) h

theorem Part.outbox_takenDown (p : Part) : p.takenDown.outbox = p.outbox := by
  unfold Part.takenDown Part.setWork Part.dropStep
  rfl

theorem Part.chain_takenDown (p : Part) : ∃ n, p.takenDown.chain =
    { p.chain with work := [], step := none, stepNo := n, line := .down, headCut := none } := ⟨_, rfl⟩

/-- The deserted line: DOWN with no step, nothing handed, every node ABSENT, and notices alone on their way to the port. -/
theorem Part.deserted_takenDown {q : Part} (hq : p.takenDown.deserted = q) :
    q.chain.line = .down ∧ q.chain.step = none ∧ q.chain.headCut = none ∧ q.chain.buildOp = p.chain.buildOp ∧ q.tells p.outbox := by
  obtain ⟨n, hchain⟩ := p.chain_takenDown
  obtain ⟨hfixed, htells⟩ := Part.falls_deserted ⟨congrArg Chain.fixed hchain, Part.tells_of_outbox p.outbox_takenDown⟩ rfl
    (show LineState.down ≠ .partialLine by decide)
  rw [hq] at hfixed htells
  exact ⟨(congrArg Chain.line hfixed :), (congrArg Chain.step hfixed :), (congrArg Chain.headCut hfixed :),
    (congrArg Chain.buildOp hfixed :), htells⟩

end

/-- The port after a request of a block that is carried out. -/
theorem request_port {s : State} {tag : Nat} (h : s.ready tag) (i : Instr) (kind : Nat) (f : Bool → Part → Part × Answer)
    {p : Part} {a : Answer} (hf : f s.port.saving.isSome s.part = (p, a)) (ha : a.status = .ok ∨ a.status = .accepted) :
    (request i tag kind (ofPart f) s).port =
      Port.drain { s.port with replies := s.port.replies ++ [replyOf tag kind a] } p.settle.outbox := by
  have hpart : ofPart f s = ({ s with part := p.settle }, a) := by simp only [ofPart, hf, if_pos ha]
  rw [request_carried h, hpart]
  rfl

/-- Settles O36: the nodes walked over with no task left, the end of the step by a part that has no READY node, the long
operation by the messages of the step. -/
theorem lineStop : Obligations.LineStop := by
  refine fun s tag hr => ⟨fun hup => ?_, fun hs hdown => ?_⟩
  · have hf := Part.lineStop_up hup s.port.saving.isSome
    have hnodes := Part.node_deserted s.part.takenDown
    have hempty := Part.emptied_deserted s.part.takenDown
    generalize hp : s.part.takenDown.deserted = p at *
    obtain ⟨hline, hstep, hcut, hop, notices, hnotices⟩ := Part.deserted_takenDown hp
    have hexec : exec (.lineStop tag) s = .next (request (.lineStop tag) tag 0x50 (ofPart Part.lineStop) s) := rfl
    obtain ⟨hpart, hanswers⟩ := request_part hr (.lineStop tag) 0x50 Part.lineStop hf (.inl rfl)
    have hport := request_port hr (.lineStop tag) 0x50 Part.lineStop hf (.inl rfl)
    have hended : ∀ n, (p.lineEnded s.part.chain.work).node n = .absent := fun n => by
      rw [← hnodes n, Part.node, Part.runtime, Part.lineEnded_chain, Part.node, Part.runtime]
    obtain ⟨hsline, hschain⟩ := Part.settle_unready (p := p.lineEnded s.part.chain.work) fun n => by rw [hended]; rfl
    rw [Part.lineEnded_line] at hsline
    rw [Part.lineEnded_chain] at hschain
    refine ⟨_, hexec, hanswers, request_sameOutside hr _ _ _, exec_clock rfl hexec, exec_layout rfl hexec, ?_⟩
    rw [hpart, hport]; dsimp only
    rw [hschain, hsline]
    refine ⟨hline, rfl, rfl, rfl, rfl, hstep, rfl, hcut, fun n _ => (Part.node_of_chain (Part.lineEnded_chain _).symm n).trans (hended n), hempty.urgent, hempty.output, hempty.clock,
      hempty.service, hempty.flight, fun hlong op hop' => ?_⟩
    have hout := Part.outbox_lineEnded (p := p) (hop ▸ hlong)
    obtain ⟨after, hafter⟩ := (firm_tells _).settle (Part.tells_of_outbox hout)
    have hends := Port.drain_ends (o := { s.port with replies := s.port.replies ++ [replyOf tag 0x50 okOnly] }) (st := .lineDown)
      (f := .none) hop' notices after
    have hmessages : (p.lineEnded s.part.chain.work).settle.outbox =
        notices.map .notice ++ .opEnd .lineDown .none :: after.map .notice := by
      rw [hafter, hnotices, State.ready_outbox hr]; simp
    rw [hmessages]
    exact ⟨hends.result, hends.off, hends.slot⟩
  · exact congrArg Host.Outcome.next
      (request_block hr hs _ _ _ (Part.lineStop_down hdown _) (.inl rfl) rfl (State.ready_outbox hr))

end Sys2Proof.Machine
end

section
/-! SUPPORT. Tasks and steps: what a step hands, how a build ends, and the end of an event seen from the chain builder (R146, R150). -/

namespace Sys2Proof.Machine

section
variable {p : Part}

/-! ### Runtime records -/

theorem Part.runtime_congr {q : Part} (h : q.chain.runtime = p.chain.runtime) (n : Nat) : q.runtime n = p.runtime n := by
  rw [Part.runtime, h, Part.runtime]

/-- What a change of one record keeps of that record it keeps of every record. -/
theorem Part.modRuntime_keeps {α : Type} (g : Runtime → α) {pos : Nat} {f : Runtime → Runtime} (h : ∀ r, g (f r) = g r) (n : Nat) :
    g ((p.modRuntime pos f).runtime n) = g (p.runtime n) :=
  Tab.get_modify_keeps _ _ _ _ _ g fun r _ => h r

/-! ### Steps and their commands -/

theorem LineEngine.queueOf_withQueue (l : LineEngine) (k : SlotClass) (q : List Handed) : (l.withQueue k q).queueOf k = q := by
  cases k <;> rfl

/-- A command that is handed waits in its class. -/
theorem Part.mem_hand (p : Part) (c : LineCommand) (t : Option Nat) (w : Sender) :
    ⟨c, t, p.now, w⟩ ∈ (p.hand c t w).line.queueOf c.slotClass := by
  have hmem : (⟨c, t, p.now, w⟩ : Handed) ∈ inOrder ⟨c, t, p.now, w⟩ (p.line.queueOf c.slotClass) :=
    (insertWhere_perm _ _ _).mem_iff.mpr List.mem_cons_self
  rwa [Part.hand_line, LineEngine.queueOf_withQueue]

theorem Part.chain_newStep (p : Part) (st : Step) (c : LineCommand) (t : Option Nat) :
    (p.newStep st c t).chain = { p.chain with step := some st, stepNo := p.chain.stepNo + 1 } := by
  rw [Part.newStep, Part.hand_chain]

@[simp] theorem Part.runtime_newStep (p : Part) (st : Step) (c : LineCommand) (t : Option Nat) (n : Nat) :
    (p.newStep st c t).runtime n = p.runtime n :=
  Part.runtime_congr (by rw [Part.chain_newStep]) n

/-- A command of the current step waits for a position. -/
def Part.awaits (pos : Nat) (c : LineCommand) (p : Part) : Prop :=
  ∃ h ∈ p.line.service ++ p.line.output, h.command = c ∧ h.target = some pos ∧ h.sender = .step p.chain.stepNo

theorem Part.awaits_newStep (p : Part) (st : Step) {c : LineCommand} (pos : Nat) (hc : c.slotClass = .service ∨ c.slotClass = .output) :
    (p.newStep st c (some pos)).awaits pos c := by
  have hmem := Part.mem_hand { p with chain := { p.chain with step := some st, stepNo := p.chain.stepNo + 1 } } c (some pos)
    (.step (p.chain.stepNo + 1))
  refine ⟨⟨c, some pos, p.now, .step (p.chain.stepNo + 1)⟩, List.mem_append.mpr ?_, rfl, rfl, rfl⟩
  rcases hc with hc | hc
  · rw [hc] at hmem; exact .inl hmem
  · rw [hc] at hmem; exact .inr hmem

/-- A HAIL waits. -/
def Part.hails (p : Part) : Prop := ∃ h ∈ p.line.service, h.command = .hail ∧ h.target = none

theorem Part.hails_sendHail (p : Part) (pos : Nat) (forSetup : Bool) (bad : Nat) : (p.sendHail pos forSetup bad).hails :=
  ⟨_, Part.mem_hand { p with chain := { p.chain with step := some (.hail pos forSetup bad none), stepNo := p.chain.stepNo + 1 } } .hail
    none (.step (p.chain.stepNo + 1)), rfl, rfl⟩

/-! ### The task loop -/

theorem Part.runTasks_step {st : Step} (h : p.chain.step = some st) (n : Nat) : p.runTasks n = p := by
  cases n with
  | zero => rfl
  | succ n => unfold Part.runTasks; rw [h]

theorem Part.work_step {st : Step} (h : p.chain.step = some st) : p.work = p := Part.runTasks_step h 64

theorem Part.runTasks_build {l : List Task} (hstep : p.chain.step = none) (hwork : p.chain.work = .build :: l) (n : Nat) :
    p.runTasks (n + 1) = p.continueBuild.runTasks n := by
  rw [Part.runTasks, hstep, hwork]

theorem Part.runTasks_setup {q : Nat} {l : List Task} (hstep : p.chain.step = none) (hwork : p.chain.work = .setup q :: l) (n : Nat) :
    p.runTasks (n + 1) = (p.beginSetupTask q).runTasks n := by
  rw [Part.runTasks, hstep, hwork]

theorem Part.runTasks_nothing (hstep : p.chain.step = none) (hwork : p.chain.work = []) (n : Nat) : p.runTasks n = p := by
  cases n with
  | zero => rfl
  | succ n => rw [Part.runTasks, hstep, hwork]

/-- A build with nothing below its reach in its way hails the reach (R150). -/
theorem Part.continueBuild_hails (hreach : p.chain.reach < p.chain.length) (hready : (p.node p.chain.reach).isReady = false)
    (hbelow : ∀ q < p.chain.reach, p.node q ≠ .lost ∧ (p.runtime q).restartOut = false)
    (hsetups : ∀ t ∈ p.chain.work.drop 1, t.isSetup = false) : p.continueBuild = p.sendHail p.chain.reach false 0 := by
  have hlost : ((upTo p.chain.reach).any fun q => p.node q == .lost || (p.runtime q).restartOut) = false :=
    List.any_eq_false.mpr fun q hq => by
      obtain ⟨hnode, hout⟩ := hbelow q (List.mem_range.mp hq)
      simp [hnode, hout]
  have hnone : ((p.chain.work.drop 1).any Task.isSetup) = false := List.any_eq_false.mpr fun t ht => by simp [hsetups t ht]
  unfold Part.continueBuild; dsimp only
  rw [if_neg (Nat.not_le.mpr hreach), hready, if_neg Bool.false_ne_true, hlost, if_neg Bool.false_ne_true, hnone,
    if_neg Bool.false_ne_true]

/-- A BUILD that is the only task, with nothing below the reach in its way, hails the reach. The reach and the nodes are those of
a part `x` that has come to it. -/
theorem Part.runTasks_hails {x : Part} (hat : p.chain.reach = x.chain.reach) (hlength : p.chain.length = x.chain.length)
    (hruntime : p.chain.runtime = x.chain.runtime) (hstep : p.chain.step = none) (hwork : p.chain.work = [.build])
    (hreach : x.chain.reach < x.chain.length) (hready : (x.node x.chain.reach).isReady = false)
    (hbelow : ∀ q < x.chain.reach, x.node q ≠ .lost ∧ (x.runtime q).restartOut = false) (n : Nat) :
    p.runTasks (n + 1) = p.sendHail x.chain.reach false 0 := by
  have hrecord := Part.runtime_congr hruntime
  have hnode : ∀ n, p.node n = x.node n := fun n => congrArg Runtime.node (hrecord n)
  rw [← hlength, ← hat] at hreach
  rw [Part.runTasks_build hstep hwork, Part.continueBuild_hails hreach (by rwa [hat, hnode]) (fun q hq => ?_) (by simp [hwork]), hat]
  · exact Part.runTasks_step rfl n
  · rw [hnode, hrecord]
    exact hbelow q (hat ▸ hq)

theorem Part.chain_setWork (p : Part) (l : List Task) : (p.setWork l).chain = { p.chain with work := l } := rfl

/-- A task that ends leaves the list with its step (R146). -/
theorem Part.chain_endTask (p : Part) :
    p.endTask.chain = { p.chain with work := p.chain.work.drop 1, step := none, stepNo := p.chain.stepNo + 1 } := rfl

theorem Part.endBuildOp_chain (p : Part) (st : Status) : (p.endBuildOp st).chain = { p.chain with buildOp := false } := by
  unfold Part.endBuildOp; dsimp only
  split
  · rfl
  next hop => rw [← Bool.eq_false_of_not_eq_true hop]

/-- A build that ends while it is the only task (R150). -/
theorem Part.endBuild_alone (hwork : p.chain.work = [.build]) (reason : StopReason) (pos : Nat) :
    (p.endBuild reason pos).chain = { p.chain with
      work := [], step := none, stepNo := p.chain.stepNo + 1, line := .partialLine, stop := some (reason, pos),
      retryAt := some (p.now + p.chain.interval * 50), buildOp := false } := by
  have htasks : p.removeTasks Task.build.sameTask = p.endTask := by
    unfold Part.removeTasks Part.endTask
    rw [hwork]
    rfl
  unfold Part.endBuild; dsimp only
  rw [Part.endBuildOp_chain, htasks, Part.startRetry]
  simp only [Part.chain_endTask, hwork]
  rfl

/-- A SETUP that ends while it is the only task, and leaves the line short (R153). -/
theorem Part.holdShort_lost (p : Part) (reason : StopReason) (pos : Nat) :
    (p.holdShort reason pos).chain.work = p.chain.work ∧ (p.holdShort reason pos).chain.step = p.chain.step ∧
    (p.chain.line = .running → (p.holdShort reason pos).chain.line = .partialLine ∧
      (p.holdShort reason pos).chain.stop = some (reason, pos)) := by
  unfold Part.holdShort Part.becomePartial; dsimp only
  refine ⟨?_, ?_, fun hline => ?_⟩
  · (repeat' split) <;> rfl
  · (repeat' split) <;> rfl
  · rw [hline]; exact ⟨rfl, rfl⟩

/-! ### The end of an event -/

theorem event_rested {s : State} (h : s.powered = true) (f : Part → Part) : (event f s).part.rested = (f s.part).rested := by
  rw [event_part h]
  exact (f s.part).rested_settle

theorem event_fixed {s : State} (h : s.powered = true) (f : Part → Part) :
    (event f s).part.chain.fixed = (f s.part).chain.fixed :=
  (congrArg Chain.fixed (event_rested h f) :)

theorem event_engine {s : State} (h : s.powered = true) (f : Part → Part) :
    (event f s).part.engine = (f s.part).engine := by
  rw [event_part h]
  exact (f s.part).engine_settle

theorem event_service {s : State} (h : s.powered = true) (f : Part → Part) :
    (event f s).part.line.service = (f s.part).line.service := by
  rw [event_part h]
  exact (f s.part).service_settle

/-- What an event leaves as it is, beside what it is about. -/
theorem event_frame {c : Instr} {s : State} {f : Part → Part} (h : exec c s = .next (event f s)) (hw : writesTables c = false)
    (hm : movesClock c = false) : State.sameOutside s (event f s) ∧ (event f s).part.clock = s.part.clock ∧
      (event f s).part.layout = s.part.layout :=
  ⟨event_sameOutside f s, exec_clock hm h, exec_layout hw h⟩

end

end Sys2Proof.Machine
end

section
/-! SUPPORT. The chain builder's timed ends, its hails answered, and the first steps of a setup (R149 to R153, R159). -/

namespace Sys2Proof.Machine

section
variable {p : Part} {pos : Nat}

/-! ### Timed ends -/

theorem Part.hailWindowEnd_due {forSetup : Bool} {bad k : Nat} (hstep : p.chain.step = some (.hail pos forSetup bad (some k)))
    (hk : 10 ≤ k) : p.hailWindowEnd = (p.hailFailed pos forSetup (0 < bad)).work := by
  unfold Part.hailWindowEnd
  rw [hstep]
  exact if_pos hk

/-- A build's hail that is not answered ends the build (R150). -/
theorem Part.hailWindowEnd_build {bad k : Nat} (hwork : p.chain.work = [.build])
    (hstep : p.chain.step = some (.hail pos false bad (some k))) (hk : 10 ≤ k) :
    p.hailWindowEnd = p.endBuild (if 0 < bad then .badHail else .endOfChain) pos := by
  have hidle : ∀ reason, (p.endBuild reason pos).work = p.endBuild reason pos := fun reason =>
    Part.work_idle (congrArg Chain.work (Part.endBuild_alone hwork reason pos))
  rw [Part.hailWindowEnd_due hstep hk, Part.hailFailed, if_neg Bool.false_ne_true, hidle]
  simp only [decide_eq_true_eq]

/-- A restart's hail that is not answered ends its SETUP (R153). -/
theorem Part.hailWindowEnd_setup {bad k : Nat} (hwork : p.chain.work = [.setup pos])
    (hstep : p.chain.step = some (.hail pos true bad (some k))) (hk : 10 ≤ k) :
    p.hailWindowEnd = p.endTask.holdShort .restartLost pos := by
  obtain ⟨hkept, -, -⟩ := p.endTask.holdShort_lost .restartLost pos
  rw [Part.hailWindowEnd_due hstep hk, Part.hailFailed, if_pos rfl]
  exact Part.work_idle (hkept.trans (by rw [Part.chain_endTask, hwork]; rfl))

/-- The settling time of a cut ends in a build that hails the reach (R159). -/
theorem Part.cutSettleEnd_hails {k : Nat} (hwork : p.chain.work = [.cut pos]) (hstep : p.chain.step = some (.cutSettle k))
    (hk : 60 ≤ k) (hreach : p.chain.reach < p.chain.length) (hready : (p.node p.chain.reach).isReady = false)
    (hbelow : ∀ q < p.chain.reach, p.node q ≠ .lost ∧ (p.runtime q).restartOut = false) :
    p.cutSettleEnd = (p.endTask.setWork [.build]).sendHail p.chain.reach false 0 := by
  have hadd : p.endTask.addBuildFirst = p.endTask.setWork [.build] := by
    unfold Part.addBuildFirst
    rw [Part.chain_endTask, hwork]
    rfl
  unfold Part.cutSettleEnd
  rw [hstep]
  refine (if_pos hk).trans ?_
  rw [hadd]
  exact Part.runTasks_hails (p := p.endTask.setWork [.build]) (x := p) rfl rfl rfl rfl rfl hreach hready hbelow 63

/-! ### Records of a setup -/

theorem Part.faultRecord_keeps (p : Part) (pos : Nat) (cause : SetupFaultCause) (n : Nat) :
    (p.faultRecord pos cause).node n = p.node n ∧ ((p.faultRecord pos cause).runtime n).setup = (p.runtime n).setup :=
  ⟨p.modRuntime_keeps (pos := pos) (f := fun r => { r with setupFault := true }) (·.node) (fun _ => rfl) n,
    p.modRuntime_keeps (pos := pos) (f := fun r => { r with setupFault := true }) (·.setup) (fun _ => rfl) n⟩

/-- A setup record that is begun gives the setup a step, and leaves every node's state and progress. -/
theorem Part.beginRecord_begins (p : Part) (pos : Nat) (explicitRead : Bool) :
    (∃ st, (p.beginRecord pos explicitRead).chain.step = some (.setup pos st 0)) ∧
    ∀ n, (p.beginRecord pos explicitRead).node n = p.node n ∧
      ((p.beginRecord pos explicitRead).runtime n).setup = (p.runtime n).setup := by
  have hstep : ∀ (q : Part) st c t n, (q.newStep st c t).node n = q.node n ∧ ((q.newStep st c t).runtime n).setup = (q.runtime n).setup :=
    fun q st c t n => ⟨congrArg Runtime.node (q.runtime_newStep st c t n), congrArg Runtime.setup (q.runtime_newStep st c t n)⟩
  unfold Part.beginRecord; dsimp only
  (repeat' split)
  · exact ⟨⟨_, rfl⟩, hstep p _ _ _⟩
  · refine ⟨⟨_, rfl⟩, fun n => ?_⟩
    obtain ⟨hnode, hsetup⟩ := hstep (p.faultRecord pos .badRecord) (.setup pos .nodeConfig 0) (.nodeConfig (p.rosterAt pos).window
      (p.rosterAt pos).tapAssigned (p.rosterAt pos).holdOver) (some pos) n
    obtain ⟨hfnode, hfsetup⟩ := p.faultRecord_keeps pos .badRecord n
    exact ⟨hnode.trans hfnode, hsetup.trans hfsetup⟩
  · exact ⟨⟨_, rfl⟩, hstep p _ _ _⟩
  · exact ⟨⟨_, rfl⟩, hstep p _ _ _⟩

/-- A WAIT record's end goes on with the next record (R151). -/
theorem Part.setupWaitEnd_next {deadline tries : Nat} {x : SetupProgress} (hpos : pos < 24)
    (hstep : p.chain.step = some (.setup pos (.wait deadline) tries)) (hdue : deadline ≤ p.now)
    (hsetup : (p.runtime pos).setup = some x) :
    (∃ st, p.setupWaitEnd.chain.step = some (.setup pos st 0)) ∧
      (p.setupWaitEnd.runtime pos).setup = some ⟨x.index + 1, x.address + 3⟩ := by
  have hnext : p.setupWaitEnd = (p.nextRecord pos 3).work := by
    unfold Part.setupWaitEnd
    rw [hstep]
    exact if_pos hdue
  obtain ⟨⟨st, hst⟩, hkept⟩ := Part.beginRecord_begins
    (p.modRuntime pos fun r => { r with setup := r.setup.map fun x => ⟨x.index + 1, x.address + 3⟩ }) pos false
  rw [hnext, Part.nextRecord, Part.work_step hst]
  refine ⟨⟨st, hst⟩, (hkept pos).2.trans ?_⟩
  rw [Part.runtime, Part.modRuntime, Tab.get_modify hpos]
  exact congrArg (Option.map _) hsetup

/-- The record of a position as a setup begins there (R151). -/
def Part.setupBegun (p : Part) (pos : Nat) : Part :=
  p.modRuntime pos fun r => { r with setupFault := false, unfinished := true, setup := some ⟨0, 9⟩ }

theorem Part.runtime_setupBegun (hpos : pos < 24) : (p.setupBegun pos).runtime pos =
    { p.runtime pos with setupFault := false, unfinished := true, setup := some ⟨0, 9⟩ } := Tab.get_modify hpos _ _ _

/-- Without auto-setup, or with no record in the node's header, a setup begins with NODE_CONFIG. -/
theorem Part.beginSetup_config (hpos : pos < 24)
    (h : p.chain.autoSetup = false ∨ ∀ a, (p.runtime pos).answer = some a → a.identity.recordCount = 0) :
    p.beginSetup pos = (p.setupBegun pos).sendNodeConfig pos 0 := by
  unfold Part.beginSetup; dsimp only
  split
  next hauto =>
    have hcount := h.resolve_left (by rw [show p.chain.autoSetup = true from hauto]; simp)
    change (p.setupBegun pos).beginRecord pos true = _
    unfold Part.beginRecord Runtime.identity; dsimp only
    rw [Part.runtime_setupBegun hpos]; dsimp only
    refine if_neg ?_
    cases ha : (p.runtime pos).answer with
    | none => simp
    | some a => simp [hcount a ha]
  · rfl

/-- With auto-setup and a record in the node's header, a setup begins with the read of its head at address 9. -/
theorem Part.beginSetup_reads (hpos : pos < 24) (hauto : p.chain.autoSetup = true) {a : HailAnswer}
    (ha : (p.runtime pos).answer = some a) (hcount : 0 < a.identity.recordCount) :
    p.beginSetup pos = (p.setupBegun pos).newStep (.setup pos (.read [] true) 0) (.storeRead (some 9) 3) (some pos) := by
  unfold Part.beginSetup; dsimp only
  refine (if_pos hauto).trans ?_
  change (p.setupBegun pos).beginRecord pos true = _
  unfold Part.beginRecord Part.readRecord Runtime.identity; dsimp only
  rw [Part.runtime_setupBegun hpos]; dsimp only
  rw [ha]
  exact (if_pos hcount).trans ((if_pos (by decide)).trans rfl)

/-- A setup that begins has a step, and leaves the node's state and the work list. -/
theorem Part.beginSetup_begins (p : Part) (pos : Nat) : (∃ st, (p.beginSetup pos).chain.step = some (.setup pos st 0)) ∧
    (p.beginSetup pos).node pos = p.node pos ∧ (p.beginSetup pos).chain.work = p.chain.work := by
  have hwork : (p.beginSetup pos).chain.work = p.chain.work := congrArg (fun e => e.2.2.2) (p.engine_beginSetup pos)
  have hnode : (p.setupBegun pos).node pos = p.node pos :=
    p.modRuntime_keeps (pos := pos) (f := fun r => { r with setupFault := false, unfinished := true, setup := some ⟨0, 9⟩ }) (·.node)
      (fun _ => rfl) pos
  by_cases hauto : p.chain.autoSetup = true
  · have hbegin : p.beginSetup pos = (p.setupBegun pos).beginRecord pos true := if_pos hauto
    obtain ⟨hstep, hkept⟩ := Part.beginRecord_begins (p.setupBegun pos) pos true
    rw [hbegin] at hwork ⊢
    exact ⟨hstep, (hkept pos).1.trans hnode, hwork⟩
  · have hbegin : p.beginSetup pos = (p.setupBegun pos).sendNodeConfig pos 0 := if_neg hauto
    rw [hbegin] at hwork ⊢
    exact ⟨⟨_, rfl⟩, (congrArg Runtime.node (Part.runtime_newStep _ _ _ _ pos)).trans hnode, hwork⟩

end

end Sys2Proof.Machine
end

section
/-! SUPPORT. A hail's answer, the end of ASSIGN, the first record and the end of a setup (R149 to R152). -/

namespace Sys2Proof.Machine

section
variable {p : Part} {pos : Nat}

/-! ### Why an answer is not accepted (R149) -/

/-- An identity is not the one that the roster asks for. -/
def RosterRecord.refuses (r : RosterRecord) (x : Identity) : Prop :=
  (∃ m, r.maker = some m ∧ m ≠ x.maker) ∨ (∃ m, r.model = some m ∧ m ≠ x.model)

/-- The roster defines an input that the node does not have. -/
def RosterRecord.overruns (r : RosterRecord) (x : Identity) : Prop :=
  ∃ i : Fin 4, r.inputs[i].function ≠ .none ∧ x.inputCount ≤ i

theorem RosterRecord.refuses_iff (r : RosterRecord) (x : Identity) :
    (r.maker.any (· != x.maker) || r.model.any (· != x.model)) = true ↔ r.refuses x := by
  simp [RosterRecord.refuses, Option.any_eq_true]

theorem Part.inputDefs_overrun (p : Part) (pos : Nat) (x : Identity) :
    ((p.inputDefs pos).any fun d => d.1.function != .none && x.inputCount ≤ d.2) = true ↔ (p.rosterAt pos).overruns x := by
  simp only [Part.inputDefs, List.any_eq_true, Prod.exists, List.mk_mem_zipIdx_iff_getElem?, Bool.and_eq_true, bne_iff_ne,
    decide_eq_true_eq, RosterRecord.overruns]
  constructor
  · rintro ⟨d, i, hd, hfunction, hcount⟩
    obtain ⟨hi, hget⟩ := List.getElem?_eq_some_iff.mp hd
    refine ⟨⟨i, by simpa using hi⟩, ?_, hcount⟩
    simpa [← hget] using hfunction
  · rintro ⟨i, hfunction, hcount⟩
    exact ⟨_, i.val, by simp, hfunction, hcount⟩

theorem Part.mismatchOf_header {a : HailAnswer} (h : a.failed = true) : p.mismatchOf pos a = some .header := if_pos h

theorem Part.mismatchOf_model {a : HailAnswer} (h : a.failed = false) (hmodel : (p.rosterAt pos).refuses a.identity) :
    p.mismatchOf pos a = some .model := by
  unfold Part.mismatchOf; dsimp only
  rw [h, if_neg Bool.false_ne_true, if_pos ((RosterRecord.refuses_iff _ _).mpr hmodel)]

theorem Part.mismatchOf_inputs {a : HailAnswer} (h : a.failed = false) (hmodel : ¬ (p.rosterAt pos).refuses a.identity)
    (hinputs : (p.rosterAt pos).overruns a.identity) : p.mismatchOf pos a = some .inputs := by
  unfold Part.mismatchOf; dsimp only
  rw [h, if_neg Bool.false_ne_true, if_neg (mt (RosterRecord.refuses_iff _ _).mp hmodel),
    if_pos ((p.inputDefs_overrun pos _).mpr hinputs)]

theorem Part.mismatchOf_accepted {a : HailAnswer} (h : a.failed = false) (hmodel : ¬ (p.rosterAt pos).refuses a.identity)
    (hinputs : ¬ (p.rosterAt pos).overruns a.identity) : p.mismatchOf pos a = none := by
  unfold Part.mismatchOf; dsimp only
  rw [h, if_neg Bool.false_ne_true, if_neg (mt (RosterRecord.refuses_iff _ _).mp hmodel),
    if_neg (mt (p.inputDefs_overrun pos _).mp hinputs)]

theorem Part.mismatchOf_congr {q : Part} (h : q.chain.roster = p.chain.roster) (a : HailAnswer) :
    q.mismatchOf pos a = p.mismatchOf pos a := by
  have hrecord : q.rosterAt pos = p.rosterAt pos := by rw [Part.rosterAt, h, Part.rosterAt]
  have hinputs : q.inputDefs pos = p.inputDefs pos := by rw [Part.inputDefs, hrecord, Part.inputDefs]
  unfold Part.mismatchOf
  rw [hrecord, hinputs]

/-! ### A hail answered -/

/-- The part with a valid answer kept for a position, and its tap capacity followed (R73, R149). -/
def Part.answerKept (p : Part) (pos : Nat) (a : HailAnswer) : Part :=
  (p.modRuntime pos fun r => { r with answer := some a }).capacityChanged pos (p.tapCapacity pos)

/-- An answer that names no other former position is taken for the position hailed. -/
theorem Part.hailAnswered_own {a : HailAnswer} {forSetup : Bool} {bad : Nat} {k : Option Nat}
    (hstep : p.chain.step = some (.hail pos forSetup bad k)) (hformer : ∀ q, a.former = some q → q = pos) :
    p.hailAnswered a = p.takeAnswer pos forSetup a := by
  unfold Part.hailAnswered
  rw [hstep]; dsimp only
  split
  · rfl
  next q hq => rw [if_pos (hformer q hq)]

theorem Part.takeAnswer_accepted {a : HailAnswer} {forSetup : Bool} (h : p.mismatchOf pos a = none) :
    p.takeAnswer pos forSetup a = (p.answerKept pos a).newStep (.assign pos) (.assign pos) (some pos) := by
  have hroster : (p.answerKept pos a).chain.roster = p.chain.roster :=
    (congrArg Chain.roster (Part.rested_capacityChanged _ pos _) :)
  have hnone := (Part.mismatchOf_congr hroster a).trans h
  unfold Part.takeAnswer; dsimp only
  rw [show ((p.modRuntime pos _).capacityChanged pos (p.tapCapacity pos)).mismatchOf pos a = none from hnone]
  rfl

theorem Part.rested_answerKept (p : Part) (pos : Nat) (a : HailAnswer) :
    (p.answerKept pos a).rested = (p.modRuntime pos fun r => { r with answer := some a }).rested := Part.rested_capacityChanged _ _ _

theorem Part.answer_answerKept (hpos : pos < 24) (a : HailAnswer) : ((p.answerKept pos a).runtime pos).answer = some a := by
  have h := congrArg Runtime.answer (Part.runtime_of_rested (p.rested_answerKept pos a) pos)
  rw [Part.runtime, Part.modRuntime, Part.runtime, Tab.get_modify hpos] at h
  exact h

/-- A position whose answer is refused in a build. -/
def Part.refused (p : Part) (pos : Nat) (reason : MismatchReason) : Part :=
  (p.setNode pos (.mismatch reason) false (some (.mismatch, pos))).modRuntime pos fun r => { r with restartOut := r.restartOut }

theorem Part.takeAnswer_refused {a : HailAnswer} {reason : MismatchReason} (h : p.mismatchOf pos a = some reason) :
    p.takeAnswer pos false a = ((p.answerKept pos a).refused pos reason).endBuild .mismatch pos := by
  have hroster : (p.answerKept pos a).chain.roster = p.chain.roster :=
    (congrArg Chain.roster (Part.rested_capacityChanged _ pos _) :)
  have hsome := (Part.mismatchOf_congr hroster a).trans h
  unfold Part.takeAnswer; dsimp only
  rw [show ((p.modRuntime pos _).capacityChanged pos (p.tapCapacity pos)).mismatchOf pos a = some reason from hsome]
  rfl

/-- What the chain builder holds beside the runtime records and the line state, after a change of node state that touches no
task. -/
theorem Part.tasks_setNode {new : NodeState} (hlost : new ≠ .lost ∨ p.chain.work = [])
    (haccess : new.isReady = true ∨ ∀ a, .access a ∉ p.chain.work) (stopped : Bool) (why : Option (StopReason × Nat)) :
    (p.setNode pos new stopped why).chain.work = p.chain.work ∧ (p.setNode pos new stopped why).chain.step = p.chain.step ∧
    (p.setNode pos new stopped why).chain.interval = p.chain.interval ∧
    (p.setNode pos new stopped why).chain.autoSetup = p.chain.autoSetup ∧
    (p.setNode pos new stopped why).chain.roster = p.chain.roster := by
  rcases Part.fixed_setNode (p := p) (pos := pos) hlost haccess stopped why with h | ⟨-, h⟩
  · exact ⟨(congrArg Chain.work h :), (congrArg Chain.step h :), (congrArg Chain.interval h :), (congrArg Chain.autoSetup h :),
      (congrArg Chain.roster h :)⟩
  · exact ⟨(congrArg Chain.work h :), (congrArg Chain.step h :), (congrArg Chain.interval h :), (congrArg Chain.autoSetup h :),
      (congrArg Chain.roster h :)⟩

theorem Part.now_of_clock {q : Part} (h : q.clock = p.clock) : q.now = p.now := congrArg Prod.fst h

/-- What a runtime record holds beside the state, the setup progress and the power outlasts a change of the node's state. -/
theorem Part.record_setNode (hpos : pos < 24) (new : NodeState) (stopped : Bool) (why : Option (StopReason × Nat)) :
    let r := (p.setNode pos new stopped why).runtime pos
    r.answer = (p.runtime pos).answer ∧ r.unfinished = (p.runtime pos).unfinished ∧ r.restartOut = (p.runtime pos).restartOut := by
  have h := p.runtime_setNode pos new stopped why pos
  rw [Part.runtime_marked hpos] at h
  exact ⟨(congrArg Runtime.answer h :), (congrArg Runtime.unfinished h :), (congrArg Runtime.restartOut h :)⟩

theorem Part.answer_setNode (hpos : pos < 24) (new : NodeState) (stopped : Bool) (why : Option (StopReason × Nat)) :
    ((p.setNode pos new stopped why).runtime pos).answer = (p.runtime pos).answer := by
  obtain ⟨h, -, -⟩ := p.record_setNode hpos new stopped why
  exact h

/-- An answer that is refused in a build that is the only task: the position is MISMATCH, and the build ends there (R150). -/
theorem Part.hailAnswered_refused (hpos : pos < 24) {a : HailAnswer} {bad : Nat} {k : Option Nat}
    (hstep : p.chain.step = some (.hail pos false bad k)) (hwork : p.chain.work = [.build])
    (hformer : ∀ q, a.former = some q → q = pos) {reason : MismatchReason} (h : p.mismatchOf pos a = some reason) :
    let q := p.hailAnswered a
    (q.runtime pos).answer = some a ∧ q.node pos = .mismatch reason ∧ q.chain.line = .partialLine ∧
      q.chain.stop = some (.mismatch, pos) ∧ q.chain.work = [] ∧ q.chain.step = none ∧
      q.chain.retryAt = some (p.now + p.chain.interval * 50) := by
  intro q
  let kept := p.answerKept pos a
  let refused := kept.refused pos reason
  have hq : q = refused.endBuild .mismatch pos := (Part.hailAnswered_own hstep hformer).trans (Part.takeAnswer_refused h)
  have hkwork : kept.chain.work = [.build] := (congrArg Chain.work (p.rested_answerKept pos a) :).trans hwork
  have hkinterval : kept.chain.interval = p.chain.interval := (congrArg Chain.interval (p.rested_answerKept pos a) :)
  obtain ⟨htasks, -, hinterval, -, -⟩ := Part.tasks_setNode (p := kept) (pos := pos) (new := .mismatch reason) (.inl (by simp))
    (.inr fun a ha => by simp [hkwork] at ha) false (some (.mismatch, pos))
  have hruntime : ∀ n, refused.runtime n = (kept.setNode pos (.mismatch reason) false (some (.mismatch, pos))).runtime n :=
    fun n => Part.modRuntime_keeps (f := fun r => { r with restartOut := r.restartOut }) id (fun _ => rfl) n
  have hnow : refused.now = p.now := Part.now_of_clock ((Part.clock_setNode _ _ _ _ _).trans (Part.clock_capacityChanged _ _ _))
  have hchain := Part.endBuild_alone (p := refused) (htasks.trans hkwork) .mismatch pos
  have hend : ∀ n, q.runtime n = refused.runtime n := Part.runtime_congr (by rw [hq, hchain])
  rw [hend, Part.node, hend, hruntime, hq, hchain, hnow]
  refine ⟨(Part.answer_setNode hpos _ _ _).trans (Part.answer_answerKept hpos a), Part.node_setNode hpos rfl _ _, rfl, rfl, rfl, rfl, ?_⟩
  rw [show refused.chain.interval = p.chain.interval from hinterval.trans hkinterval]

/-- An answer that is accepted is followed by ASSIGN (R149). -/
theorem Part.hailAnswered_accepted (hpos : pos < 24) {a : HailAnswer} {forSetup : Bool} {bad : Nat} {k : Option Nat}
    (hstep : p.chain.step = some (.hail pos forSetup bad k)) (hformer : ∀ q, a.former = some q → q = pos)
    (h : p.mismatchOf pos a = none) :
    let q := p.hailAnswered a
    (q.runtime pos).answer = some a ∧ q.chain.step = some (.assign pos) ∧ q.awaits pos (.assign pos) ∧
      q.chain.line = p.chain.line := by
  intro q
  have hq : q = (p.answerKept pos a).newStep (.assign pos) (.assign pos) (some pos) :=
    (Part.hailAnswered_own hstep hformer).trans (Part.takeAnswer_accepted h)
  rw [hq]
  refine ⟨?_, rfl, Part.awaits_newStep _ _ _ (.inl rfl), (congrArg Chain.line (p.rested_answerKept pos a) :)⟩
  rw [Part.runtime_newStep]
  exact Part.answer_answerKept hpos a

/-! ### ASSIGN carried, and the first record -/

/-- The part with nothing known of a position's node but that its setup is unfinished (R117, R150). -/
def Part.unknownNode (p : Part) (pos : Nat) : Part :=
  (p.modLink pos fun l =>
    { l with missing := 0, since := none, baselines := Vector.replicate 4 0, fresh := true, latest := none, firstDue := false }).modRuntime
      pos fun r => { r with unfinished := true, restartOut := false }

theorem Part.assigned_eq (p : Part) (pos : Nat) :
    p.assigned pos = (((p.unknownNode pos).setNode pos .found false).impulsesLost pos).waitStep (.first pos) := rfl

theorem Part.runtime_unknownNode (hpos : pos < 24) :
    (p.unknownNode pos).runtime pos = { p.runtime pos with unfinished := true, restartOut := false } := Tab.get_modify hpos _ _ _

theorem Part.link_unknownNode (hpos : pos < 24) : (p.unknownNode pos).link pos = { p.link pos with
    missing := 0, since := none, baselines := Vector.replicate 4 0, fresh := true, latest := none, firstDue := false } :=
  Part.link_modLink hpos _

theorem Part.runtime_waitStep (p : Part) (st : Step) (n : Nat) : (p.waitStep st).runtime n = p.runtime n := rfl

theorem Part.link_waitStep (p : Part) (st : Step) (n : Nat) : (p.waitStep st).link n = p.link n := rfl

/-- The position of an ASSIGN that has been carried: FOUND with its setup unfinished, no restart outstanding, and nothing known of
its node (R150; log entries 17, 59 and 73). -/
theorem Part.endAssign_found (hpos : pos < 24) (seq : Nat) (target : Option Nat) (hstep : p.chain.step = some (.assign pos)) :
    let q := p.endAssign (some ⟨seq, target, .assign pos⟩)
    q.node pos = .found ∧ (q.runtime pos).unfinished = true ∧ (q.runtime pos).restartOut = false ∧
      (q.link pos).missing = 0 ∧ (q.link pos).latest = none ∧ (q.link pos).since = none ∧ (q.link pos).fresh = true ∧
      q.chain.step = some (.first pos) := by
  intro q
  have hq : q = p.assigned pos := by simp only [q, Part.endAssign, assignedBy, hstep, if_true]
  have hnode := Part.node_setNode (p := p.unknownNode pos) (new := .found) hpos rfl false none
  obtain ⟨-, hunfinished, hout⟩ := Part.record_setNode (p := p.unknownNode pos) hpos .found false none
  have hlinks := (p.unknownNode pos).links_setNode pos .found false none
  rw [Part.runtime_unknownNode hpos] at hunfinished hout
  have hlink := Part.link_unknownNode (p := p) hpos
  rw [Part.link, ← hlinks] at hlink
  rw [hq, Part.assigned_eq]
  generalize (p.unknownNode pos).setNode pos .found false none = found at *
  have hruntime : (found.impulsesLost pos).runtime pos = found.runtime pos :=
    Part.runtime_congr (by rw [found.chain_impulsesLost pos]) pos
  have hkept : (found.impulsesLost pos).line.links = found.line.links :=
    Part.links_of_offCircuits (found.offCircuits_impulsesLost pos)
  rw [← hkept] at hlink
  rw [Part.node, Part.runtime_waitStep, hruntime, Part.link_waitStep, Part.link, hlink]
  exact ⟨hnode, hunfinished, hout, rfl, rfl, rfl, rfl, rfl⟩

/-- The first record of a FOUND node in a build that is the only task: SETTING, and its setup begun (R150, R151). -/
theorem Part.firstRecord_begins (hpos : pos < 24) (hstep : p.chain.step = some (.first pos)) (hwork : p.chain.work = [.build]) :
    ∃ x : Part, x.node pos = .setting ∧ (x.runtime pos).answer = (p.runtime pos).answer ∧ x.chain.autoSetup = p.chain.autoSetup ∧
      x.chain.roster = p.chain.roster ∧ p.firstRecord pos = x.beginSetup pos := by
  obtain ⟨-, -, -, hauto, hroster⟩ := Part.tasks_setNode (p := p) (pos := pos) (new := .setting) (.inl (by simp))
    (.inr fun a ha => by simp [hwork] at ha) false none
  refine ⟨p.setNode pos .setting false, Part.node_setNode hpos rfl _ _, Part.answer_setNode hpos _ _ _, hauto, hroster, ?_⟩
  obtain ⟨⟨st, hst⟩, -, -⟩ := (p.setNode pos .setting false).beginSetup_begins pos
  unfold Part.firstRecord; dsimp only
  rw [if_pos (by simp [hstep])]
  exact Part.work_step hst

theorem Part.setupBegun_spec (hpos : pos < 24) (hnode : p.node pos = .setting) (st : Step) (c : LineCommand) (t : Option Nat) :
    ((p.setupBegun pos).newStep st c t).node pos = .setting ∧
      (((p.setupBegun pos).newStep st c t).runtime pos).setupFault = false := by
  rw [Part.node, Part.runtime_newStep, Part.runtime_setupBegun hpos]
  exact ⟨hnode, rfl⟩

/-! ### The end of a setup -/

/-- The part as the setup of a position is done, its step over and its first record in READY awaited (R151). -/
def Part.setupDone (p : Part) (pos : Nat) : Part :=
  let q := p.modRuntime pos fun r => { r with unfinished := false }
  { q with chain := { q.chain with step := none } }.modLink pos fun l => { l with firstDue := true }

theorem Part.runtime_setupDone (hpos : pos < 24) : (p.setupDone pos).runtime pos = { p.runtime pos with unfinished := false } :=
  Tab.get_modify hpos _ _ _

theorem Part.setupConfirmed_last (hwork : p.chain.work = [.build]) (read : List Byte) : p.setupConfirmed pos .display read =
    (p.setupDone pos).becomeReady pos (((p.link pos).latest.map (·.power)).getD .active) := by
  simp only [Part.setupConfirmed, Part.setupComplete, hwork]
  rfl

/-- A setup whose DISPLAY is confirmed is complete: the node is READY, and the build goes on (R151). -/
theorem Part.setupConfirmed_display (hpos : pos < 24) (hwork : p.chain.work = [.build]) (read : List Byte) :
    let q := p.setupConfirmed pos .display read
    (q.node pos).isReady = true ∧ (q.runtime pos).unfinished = false ∧ q.chain.step = none := by
  intro q
  have hq : q = (p.setupDone pos).becomeReady pos _ := Part.setupConfirmed_last hwork read
  generalize (((p.link pos).latest.map (·.power)).getD .active) = power at hq
  have hrested : q.rested = ((p.setupDone pos).setNode pos (.ready power.state) false).rested := by
    rw [hq]
    exact (Part.rested_bringToPower _ pos).trans (Part.rested_testWoken _)
  obtain ⟨-, hstep, -⟩ := Part.tasks_setNode (p := p.setupDone pos) (pos := pos) (new := .ready power.state) (.inl (by simp))
    (.inl rfl) false none
  obtain ⟨-, hunfinished, -⟩ := Part.record_setNode (p := p.setupDone pos) hpos (.ready power.state) false none
  rw [Part.runtime_setupDone hpos] at hunfinished
  have hrecord := Part.runtime_of_rested hrested pos
  refine ⟨?_, (congrArg Runtime.unfinished hrecord :).trans hunfinished, (congrArg Chain.step hrested :).trans hstep⟩
  calc (q.node pos).isReady = (q.runtime pos).rested.node.isReady := (NodeState.isReady_unpowered _).symm
    _ = (((p.setupDone pos).setNode pos (.ready power.state) false).runtime pos).rested.node.isReady := by rw [hrecord]
    _ = (((p.setupDone pos).setNode pos (.ready power.state) false).node pos).isReady := NodeState.isReady_unpowered _
    _ = true := Part.isReady_setNode hpos false none

end

end Sys2Proof.Machine
end

section
/-! SUPPORT. The chain builder's timed ends, answers and first steps, put together (R149 to R153, R159). -/

namespace Sys2Proof.Machine

/-- The first record of a node in a build, as the obligation states it. -/
theorem Part.firstRecord_spec {p : Part} {pos : Nat} (hpos : pos < 24) (hstep : p.chain.step = some (.first pos))
    (hwork : p.chain.work = [.build]) :
    let q := p.firstRecord pos
    q.node pos = .setting ∧ (q.runtime pos).setupFault = false ∧
    (p.chain.autoSetup = false ∨ (∀ a, (p.runtime pos).answer = some a → a.identity.recordCount = 0) →
      q.chain.step = some (.setup pos .nodeConfig 0) ∧
      q.awaits pos (.nodeConfig (p.rosterAt pos).window (p.rosterAt pos).tapAssigned (p.rosterAt pos).holdOver)) ∧
    (p.chain.autoSetup = true → ∀ a, (p.runtime pos).answer = some a → 0 < a.identity.recordCount →
      q.chain.step = some (.setup pos (.read [] true) 0) ∧ q.awaits pos (.storeRead (some 9) 3)) := by
  intro q
  obtain ⟨x, hnode, hanswer, hauto, hroster, hq⟩ := Part.firstRecord_begins hpos hstep hwork
  have hat : (x.setupBegun pos).rosterAt pos = p.rosterAt pos := congrArg (fun v => Tab.get v pos RosterRecord.reset) hroster
  have hconfig := Part.beginSetup_config (p := x) hpos
  have hreads := Part.beginSetup_reads (p := x) hpos
  rw [hauto, hanswer] at hconfig hreads
  have hq : q = x.beginSetup pos := hq
  have hstepped : ∃ st c t, q = (x.setupBegun pos).newStep st c t := by
    by_cases h : p.chain.autoSetup = false ∨ ∀ a, (p.runtime pos).answer = some a → a.identity.recordCount = 0
    · exact ⟨_, _, _, hq.trans (hconfig h)⟩
    · obtain ⟨hon, hsome⟩ := not_or.mp h
      push Not at hsome
      obtain ⟨a, ha, hcount⟩ := hsome
      exact ⟨_, _, _, hq.trans (hreads (Bool.eq_true_of_not_eq_false hon) ha (Nat.pos_of_ne_zero hcount))⟩
  obtain ⟨st, c, t, hnew⟩ := hstepped
  obtain ⟨hsetting, hfault⟩ := Part.setupBegun_spec hpos hnode st c t
  refine ⟨hnew ▸ hsetting, hnew ▸ hfault, fun h => ?_, fun h a ha hcount => ?_⟩
  · rw [hq, hconfig h, ← hat]
    exact ⟨rfl, Part.awaits_newStep _ _ _ (.inl rfl)⟩
  · rw [hq, hreads h ha hcount]
    exact ⟨rfl, Part.awaits_newStep _ _ _ (.inl rfl)⟩

/-- Settles O55: the events by what each timed end comes to, whose part the end of the step keeps but for power; the answers, the
end of ASSIGN and the steps of a setup by the command each hands. -/
theorem chainTimedEnds : Obligations.ChainTimedEnds := by
  refine ⟨fun s hpow => ?_, fun p pos hpos => ?_⟩
  · intro frame
    refine ⟨fun pos bad k hwork hstep hk => ?_, fun pos bad k hwork hstep hk => ?_, fun pos deadline tries x hpos hstep hdue hsetup => ?_,
      fun pos k hwork hstep hk hreach hready hbelow => ?_⟩
    · have hexec : exec .hailWindowEnd s = .next (event Part.hailWindowEnd s) := rfl
      have hend := event_fixed hpow Part.hailWindowEnd
      rw [Part.hailWindowEnd_build hwork hstep hk, Part.endBuild_alone hwork] at hend
      exact ⟨_, hexec, event_frame hexec rfl rfl, (congrArg Chain.line hend :), (congrArg Chain.stop hend :), (congrArg Chain.work hend :),
        (congrArg Chain.step hend :), (congrArg Chain.buildOp hend :), (congrArg Chain.retryAt hend :)⟩
    · have hexec : exec .hailWindowEnd s = .next (event Part.hailWindowEnd s) := rfl
      have hend := event_rested hpow Part.hailWindowEnd
      rw [Part.hailWindowEnd_setup hwork hstep hk] at hend
      obtain ⟨hkept, hnone, hshort⟩ := s.part.endTask.holdShort_lost .restartLost pos
      rw [Part.chain_endTask, hwork] at hkept
      refine ⟨_, hexec, event_frame hexec rfl rfl, (congrArg Chain.work hend :).trans hkept, (congrArg Chain.step hend :).trans hnone,
        fun hline => ?_⟩
      obtain ⟨hpartial, hstop⟩ := hshort hline
      exact ⟨(congrArg Chain.line hend :).trans hpartial, (congrArg Chain.stop hend :).trans hstop⟩
    · have hexec : exec .setupWaitEnd s = .next (event Part.setupWaitEnd s) := rfl
      have hend := event_rested hpow Part.setupWaitEnd
      obtain ⟨⟨st, hst⟩, hnext⟩ := Part.setupWaitEnd_next hpos hstep hdue hsetup
      exact ⟨_, st, hexec, event_frame hexec rfl rfl, (congrArg Chain.step hend :).trans hst,
        (congrArg Runtime.setup (Part.runtime_of_rested hend pos) :).trans hnext⟩
    · have hexec : exec .cutSettleEnd s = .next (event Part.cutSettleEnd s) := rfl
      have hend := event_rested hpow Part.cutSettleEnd
      have hservice := event_service hpow Part.cutSettleEnd
      rw [Part.cutSettleEnd_hails hwork hstep hk hreach hready hbelow] at hend hservice
      refine ⟨_, hexec, event_frame hexec rfl rfl, (congrArg Chain.work hend :), (congrArg Chain.step hend :), ?_⟩
      rw [hservice]
      exact Part.hails_sendHail _ _ _ _
  · intro hands
    refine ⟨fun a bad k hstep hwork hformer => ?_, fun seq target hstep => Part.endAssign_found hpos seq target hstep,
      fun _ hstep hwork => Part.firstRecord_spec hpos hstep hwork, fun hwork => ⟨?_, ?_, ?_, Part.setupConfirmed_display hpos hwork []⟩⟩
    · intro r wrongModel shortInputs q
      have haccepted := Part.hailAnswered_accepted hpos hstep hformer
      have hrefused := fun reason => Part.hailAnswered_refused (reason := reason) hpos hstep hwork hformer
      have hreason : ∀ reason, (a.failed = true ∧ reason = .header) ∨ (a.failed = false ∧ wrongModel ∧ reason = .model) ∨
          (a.failed = false ∧ ¬ wrongModel ∧ shortInputs ∧ reason = .inputs) → p.mismatchOf pos a = some reason := by
        rintro reason (⟨hfailed, rfl⟩ | ⟨hfailed, hmodel, rfl⟩ | ⟨hfailed, hmodel, hinputs, rfl⟩)
        · exact Part.mismatchOf_header hfailed
        · exact Part.mismatchOf_model hfailed hmodel
        · exact Part.mismatchOf_inputs hfailed hmodel hinputs
      refine ⟨?_, fun hfailed hmodel hinputs => ?_, fun reason h => ?_⟩
      · cases h : p.mismatchOf pos a with
        | none => exact (haccepted h).1
        | some reason => exact (hrefused reason h).1
      · obtain ⟨-, hassign, hwaits, hline⟩ := haccepted (Part.mismatchOf_accepted hfailed hmodel hinputs)
        exact ⟨hassign, hwaits, hline⟩
      · obtain ⟨-, hends⟩ := hrefused reason (hreason reason h)
        exact hends
    · exact ⟨rfl, Part.awaits_newStep _ _ _ (.inl rfl)⟩
    · exact ⟨rfl, Part.awaits_newStep _ _ _ (.inr rfl)⟩
    · exact ⟨rfl, Part.awaits_newStep _ _ _ (.inr rfl)⟩

end Sys2Proof.Machine
end

section
/-! SUPPORT. The head's port: its faults, its close, and the retry of its test (R155). -/

namespace Sys2Proof.Machine

section
variable {p : Part}

/-! ### A port that is faulty -/

/-- The line as a fault of the head's port finds it: FAULTED, nothing handed, no task. -/
def Part.broken (p : Part) (kind : PortFault) : Part :=
  { p.emptyQueues with
    chain := { p.emptyQueues.chain with line := .faulted, headCut := none, headPort := kind } }.dropStep.setWork []

/-- Every node that a fault makes LOST, and nothing handed. -/
def Part.allLost (p : Part) : Part :=
  (p.each ((upTo 24).filter fun pos => (p.node pos).isFaultable) fun p pos => p.setNode pos .lost false).emptyQueues

/-- The long operation ended, the fault reported, the retry timer started. -/
def Part.faultEnded (p : Part) (held : List Task) (kind : PortFault) : Part :=
  (((p.setWork held).endLineOps .lineFault).setWork []).note (.lineFault none kind) |>.startRetry

theorem Part.becomeFaulted_eq (p : Part) (kind : PortFault) :
    p.becomeFaulted kind = (p.broken kind).allLost.faultEnded p.chain.work kind := by
  simp only [Part.becomeFaulted, Part.broken, Part.allLost, Part.faultEnded, Part.setWork, Part.chain_emptyQueues]

/-- A node that no fault can make LOST stays so as another becomes LOST. -/
theorem Part.faultable_setNode {n : Nat} (h : (p.node n).isFaultable = false) (pos : Nat) :
    ((p.setNode pos .lost false).node n).isFaultable = false := by
  by_cases hpos : pos = n
  · subst hpos
    by_cases hlt : pos < 24
    · rw [Part.node_setNode hlt rfl]; rfl
    · rw [Part.node_beyond _ (Nat.not_lt.mp hlt)]; rfl
  · have hready : (p.node n).isReady = false := by cases hn : p.node n <;> simp_all [NodeState.isFaultable, NodeState.isReady]
    rw [Part.node_setNode_other hpos hready rfl]
    exact h

theorem Part.faultable_allLost (p : Part) (n : Nat) : (p.allLost.node n).isFaultable = false := by
  rw [Part.allLost, Part.node_of_chain (Part.chain_emptyQueues _) n]
  cases hn : (p.node n).isFaultable with
  | false =>
    exact List.foldlRecOn (motive := fun q : Part => (q.node n).isFaultable = false) _ _ hn fun q hq pos _ => Part.faultable_setNode hq pos
  | true =>
    have hlt : n < 24 := by
      by_contra hge
      rw [Part.node_beyond _ (Nat.not_lt.mp hge)] at hn
      cases hn
    refine Part.each_brings (needed := fun _ => True) (brought := fun q : Part => (q.node n).isFaultable = false) (a := n)
      (fun _ _ _ => trivial) (fun q pos hq => Part.faultable_setNode hq pos) (fun q _ => ?_)
      (List.mem_filter.mpr ⟨List.mem_range.mpr hlt, hn⟩) p trivial
    rw [Part.node_setNode hlt rfl]; rfl

theorem Part.falls_allLost {c : Chain} {o : List Message} (h : p.falls c o) (hwork : c.work = []) (hline : c.line ≠ .partialLine) :
    p.allLost.falls c o := by
  have hall := List.foldlRecOn (motive := Part.falls c o) ((upTo 24).filter fun pos => (p.node pos).isFaultable)
    (fun p pos => p.setNode pos .lost false) h fun q hq pos _ => hq.setNode hwork hline (new := .lost) rfl pos false none
  exact ⟨(congrArg Chain.fixed (Part.chain_emptyQueues _)).trans hall.fixed, hall.tells.of_outbox (Part.outbox_emptyQueues _)⟩

/-- What a fault of the head's port makes of the line (R155). -/
structure Part.faultedBy (p : Part) (kind : PortFault) (q : Part) : Prop where
  line : q.chain.line = .faulted
  port : q.chain.headPort = kind
  cut : q.chain.headCut = none
  nodes : ∀ n, (q.node n).isFaultable = false
  work : q.chain.work = []
  step : q.chain.step = none
  retry : q.chain.retryAt = some (p.now + p.chain.interval * 50)
  emptied : q.line.emptied

theorem Part.chain_broken (p : Part) (kind : PortFault) : ∃ n, (p.broken kind).chain =
    { p.chain with line := .faulted, headCut := none, headPort := kind, work := [], step := none, stepNo := n } := ⟨_, rfl⟩

theorem Part.faultEnded_chain (held : List Task) (kind : PortFault) : (p.faultEnded held kind).chain =
    { p.chain with work := [], buildOp := false, retryAt := some ((p.faultEnded held kind).inSeconds p.chain.interval) } := by
  obtain ⟨-, h⟩ := Part.endLineOps_parts (p.setWork held) .lineFault
  simp only [Part.faultEnded, Part.startRetry, Part.note, Part.send, Part.setWork, Part.inSeconds] at h ⊢
  rw [h]

theorem Part.faultEnded_line (held : List Task) (kind : PortFault) : (p.faultEnded held kind).line = p.line :=
  (Part.endLineOps_parts (p.setWork held) .lineFault).1

theorem Part.faultedBy_becomeFaulted (p : Part) (kind : PortFault) : p.faultedBy kind (p.becomeFaulted kind) := by
  have hnow : (p.becomeFaulted kind).now = p.now := Part.now_of_clock (p.clock_becomeFaulted kind)
  obtain ⟨n, hchain⟩ := p.chain_broken kind
  obtain ⟨hfixed, -⟩ := Part.falls_allLost (p := p.broken kind) ⟨congrArg Chain.fixed hchain, Part.tells_of_outbox rfl⟩ rfl
    (show LineState.faulted ≠ .partialLine by decide)
  have hnodes := (p.broken kind).faultable_allLost
  have hempty : (p.broken kind).allLost.line.emptied := Part.emptied_emptyQueues _
  rw [Part.becomeFaulted_eq] at hnow ⊢
  generalize (p.broken kind).allLost = q at *
  have hend := q.faultEnded_chain p.chain.work kind
  have hinterval : q.chain.interval = p.chain.interval := (congrArg Chain.interval hfixed :)
  rw [Part.inSeconds, hnow, hinterval] at hend
  exact {
    line := (congrArg Chain.line hend :).trans (congrArg Chain.line hfixed :)
    port := (congrArg Chain.headPort hend :).trans (congrArg Chain.headPort hfixed :)
    cut := (congrArg Chain.headCut hend :).trans (congrArg Chain.headCut hfixed :)
    nodes := fun m => by rw [Part.node, Part.runtime_congr (congrArg Chain.runtime hend :)]; exact hnodes m
    work := (congrArg Chain.work hend :)
    step := (congrArg Chain.step hend :).trans (congrArg Chain.step hfixed :)
    retry := (congrArg Chain.retryAt hend :)
    emptied := q.faultEnded_line _ kind ▸ hempty }

/-- The end of a step adds nothing to a line that a fault has emptied. -/
theorem Part.faultedBy.settle {q : Part} {kind : PortFault} (h : p.faultedBy kind q) : p.faultedBy kind q.settle := by
  have hready : ∀ n, (q.node n).isReady = false := fun n => by
    have hn := h.nodes n
    cases hq : q.node n <;> simp_all [NodeState.isFaultable, NodeState.isReady]
  obtain ⟨hline, hchain⟩ := Part.settle_unready hready
  exact {
    line := by rw [hchain, h.line]
    port := by rw [hchain, h.port]
    cut := by rw [hchain, h.cut]
    nodes := fun n => by rw [Part.node_of_chain hchain, h.nodes]
    work := by rw [hchain, h.work]
    step := by rw [hchain, h.step]
    retry := by rw [hchain, h.retry]
    emptied := hline ▸ h.emptied }

theorem event_faulted {s : State} (hpow : s.powered = true) {f : Part → Part} {kind : PortFault}
    (hf : f s.part = s.part.becomeFaulted kind) : s.part.faultedBy kind (event f s).part := by
  have h := (s.part.faultedBy_becomeFaulted kind).settle
  rw [event_part hpow, hf]
  exact ⟨h.line, h.port, h.cut, h.nodes, h.work, h.step, h.retry, h.emptied⟩

/-! ### The port closes -/

theorem Part.headPortClose_faulty {m : Nat} (hcut : p.chain.headCut = some m) (hdue : m ≤ p.now) {test : PortFault}
    (htest : test ≠ .none) : p.headPortClose test = p.becomeFaulted test := by
  unfold Part.headPortClose
  rw [if_pos (by simpa [hcut] using hdue), if_pos (by simpa using htest)]

/-- The part as a sound port has closed (R147). -/
def Part.portClosed (p : Part) : Part :=
  { p with chain := { p.chain with headCut := none, headPort := .none }, line := { p.line with cycle := 0 } }

/-- A sound port on a line with no task begins the build with a hail at position 0. -/
theorem Part.headPortClose_sound {m : Nat} (hcut : p.chain.headCut = some m) (hdue : m ≤ p.now) (hwork : p.chain.work = [])
    (hstep : p.chain.step = none) (hreach : p.chain.reach = 0) (hlength : 0 < p.chain.length)
    (hready : (p.node 0).isReady = false) :
    p.headPortClose .none = (p.portClosed.setWork [.build]).sendHail 0 false 0 := by
  have hadd : p.portClosed.addBuildFirst = p.portClosed.setWork [.build] := by
    unfold Part.addBuildFirst Part.portClosed
    rw [hwork]; rfl
  have hclose : p.headPortClose .none = p.portClosed.addBuildFirst.work := by
    unfold Part.headPortClose
    rw [if_pos (by simpa [hcut] using hdue)]
    have hidle : (p.chain.step == some .portCut) = false := by rw [hstep]; rfl
    simp only [bne_self_eq_false, Bool.false_eq_true, if_false, hidle]
    rfl
  have hhails := Part.runTasks_hails (p := p.portClosed.setWork [.build]) (x := p) rfl rfl rfl hstep rfl (by omega)
    (by rwa [hreach]) (by simp [hreach]) 63
  rw [hclose, hadd, Part.work, hhails, hreach]

theorem Part.headPortFault_driven (h : p.driving = true) (k : FaultKind) : p.headPortFault k = p.becomeFaulted (faultOf k) :=
  if_pos h

/-! ### The retry of the test -/

theorem Part.faultedRetry_faulty {m : Nat} (hline : p.chain.line = .faulted) (hretry : p.chain.retryAt = some m) (hdue : m ≤ p.now)
    {test : PortFault} (htest : test ≠ .none) :
    p.faultedRetry test = { p with chain := { p.chain with headPort := test } }.startRetry := by
  unfold Part.faultedRetry
  rw [if_pos (by simpa [hline, Part.retryDue, hretry] using hdue), if_pos (by simpa using htest)]

/-- The part as a port that was faulty tests sound: PARTIAL, with the stop reason HEAD_FAULT (R155). -/
def Part.portMended (p : Part) : Part :=
  let q := p.note (.lineFault none .none)
  { q with
    chain := { q.chain with line := .partialLine, stop := some (.headFault, 0), headPort := .none }
    line := { q.line with cycle := 0 } }

theorem Part.faultedRetry_sound {m : Nat} (hline : p.chain.line = .faulted) (hretry : p.chain.retryAt = some m) (hdue : m ≤ p.now) :
    p.faultedRetry .none = p.portMended.startRetry.testRunning := by
  unfold Part.faultedRetry
  rw [if_pos (by simpa [hline, Part.retryDue, hretry] using hdue)]
  rfl

end

end Sys2Proof.Machine
end

section
/-! SUPPORT. The retry of a PARTIAL line: one attempt of it with nothing else at work (R156). -/

namespace Sys2Proof.Machine

section
variable {p : Part}

/-! ### The task list -/

/-- A SETUP whose position lies beyond those of the list goes to its end (R146). -/
theorem placeSetup_last {q : Nat} {l : List Nat} (h : ∀ n ∈ l, n < q) :
    placeSetup q (l.map .setup) = l.map .setup ++ [.setup q] := by
  induction l with
  | nil => rfl
  | cons n l ih =>
    have hn : decide (q < n) = false := by
      have := h n List.mem_cons_self
      simp only [decide_eq_false_iff_not]; omega
    have hrest := ih fun m hm => h m (List.mem_cons_of_mem _ hm)
    simp only [placeSetup, List.map_cons, insertWhere, hn, Bool.false_eq_true, if_false, List.cons_append] at hrest ⊢
    rw [hrest]

/-- SETUP tasks added in ascending position, no task being at work, make up the list. -/
theorem Part.each_addSetup (l : List Nat) : ∀ (before : List Nat) (p : Part), p.chain.step = none → p.chain.work = before.map .setup →
    (before ++ l).Pairwise (· < ·) →
    p.each l (fun p q => p.addTask (.setup q)) = p.setWork ((before ++ l).map .setup) := by
  induction l with
  | nil =>
    intro before p _ hwork _
    rw [List.append_nil, ← hwork]; rfl
  | cons q l ih =>
    intro before p hstep hwork hlt
    have hbefore : ∀ n ∈ before, n < q := fun n hn => (List.pairwise_append.mp hlt).2.2 n hn q List.mem_cons_self
    have hnew : (p.chain.work.any fun t => Task.sameTask (.setup q) t) = false := by
      rw [hwork]
      refine List.any_eq_false.mpr fun t ht => ?_
      obtain ⟨n, hn, rfl⟩ := List.mem_map.mp ht
      have := hbefore n hn
      simp only [Task.sameTask, beq_iff_eq]; omega
    have hadd : p.addTask (.setup q) = p.setWork ((before ++ [q]).map .setup) := by
      unfold Part.addTask; dsimp only
      rw [if_neg (by rw [hnew]; exact Bool.false_ne_true), hstep, hwork, placeSetup_last hbefore]
      simp
    have hrest := ih (before ++ [q]) (p.setWork ((before ++ [q]).map .setup)) hstep rfl (by simpa using hlt)
    rw [List.append_assoc] at hrest
    refine Eq.trans ?_ hrest
    rw [← hadd]; rfl

/-! ### Whether the line is RUNNING -/

theorem Part.testRunning_reported (h : p.onwardReported = true) : p.testRunning = p := by
  unfold Part.testRunning
  exact if_neg (by simp [h])

theorem Part.testRunning_short (h : p.chain.reach ≠ p.chain.length) : p.testRunning = p := by
  unfold Part.testRunning
  exact if_neg (by simp [h])

theorem Part.testRunning_restart {q : Nat} (hq : q < 24) (h : (p.runtime q).restartOut = true) : p.testRunning = p := by
  have hany : ((upTo 24).any fun pos => (p.runtime pos).restartOut) = true := List.any_eq_true.mpr ⟨q, List.mem_range.mpr hq, h⟩
  unfold Part.testRunning
  exact if_neg (by simp [hany])

/-! ### An attempt -/

/-- The positions with a restart outstanding. -/
def Part.restarts (p : Part) : List Nat := (List.range 24).filter fun q => (p.runtime q).restartOut

/-- The positions that are MISMATCH with NO_APPLY. -/
def Part.unapplied (p : Part) : List Nat := (List.range 24).filter fun q => p.node q == .mismatch .noApply

/-- The part as the RETRY, the only task, has left the list, the timer started anew (R156). -/
def Part.retrying (p : Part) : Part := (p.startRetry.setWork [.retry]).endTask

theorem Part.chain_retrying (p : Part) : p.retrying.chain = { p.chain with
    work := [], step := none, stepNo := p.chain.stepNo + 1, retryAt := some (p.now + p.chain.interval * 50) } := rfl

theorem Part.runtime_retrying (p : Part) (n : Nat) : p.retrying.runtime n = p.runtime n :=
  Part.runtime_congr (by rw [Part.chain_retrying]) n

theorem Part.node_retrying (p : Part) (n : Nat) : p.retrying.node n = p.node n := congrArg Runtime.node (p.runtime_retrying n)

theorem Part.onwardReported_retrying (p : Part) : p.retrying.onwardReported = p.onwardReported := by
  have hlinks : p.retrying.line.links = p.line.links := by
    unfold Part.retrying Part.endTask Part.setWork Part.dropStep
    rfl
  have hlink : ∀ n, p.retrying.link n = p.link n := fun n => by rw [Part.link, hlinks, Part.link]
  simp only [Part.onwardReported, Part.node_retrying, hlink]

theorem Part.retryExpiry_due {m : Nat} (hline : p.chain.line = .partialLine) (hretry : p.chain.retryAt = some m) (hdue : m ≤ p.now) :
    p.retryExpiry = (p.startRetry.addTask .retry).work := by
  unfold Part.retryExpiry
  exact if_pos (by simpa [hline, Part.retryDue, hretry] using hdue)

/-- Behind a task at work the RETRY waits (R146, R156). -/
theorem Part.retryExpiry_waits {m : Nat} (hline : p.chain.line = .partialLine) (hretry : p.chain.retryAt = some m) (hdue : m ≤ p.now)
    (hbusy : p.chain.step.isSome = true) (hnone : .retry ∉ p.chain.work) :
    p.retryExpiry = p.startRetry.setWork (p.chain.work ++ [.retry]) := by
  have hnew : (p.chain.work.any Task.retry.sameTask) = false := List.any_eq_false.mpr fun t ht => by
    cases t with
    | retry => exact absurd ht hnone
    | _ => exact Bool.false_ne_true
  have hadd : p.startRetry.addTask .retry = p.startRetry.setWork (p.chain.work ++ [.retry]) := by
    unfold Part.addTask
    exact if_neg (by rw [show (p.startRetry.chain.work.any Task.retry.sameTask) = false from hnew]; exact Bool.false_ne_true)
  obtain ⟨st, hst⟩ := Option.isSome_iff_exists.mp hbusy
  rw [Part.retryExpiry_due hline hretry hdue, hadd]
  exact Part.work_step (p := p.startRetry.setWork (p.chain.work ++ [.retry])) hst

/-- The tasks that an attempt places (R156). -/
def Part.placed (p : Part) : List Task :=
  if p.onwardReported then []
  else if p.restarts ≠ [] then p.restarts.map .setup
  else if p.unapplied ≠ [] then p.unapplied.map .setup
  else if p.chain.reach < p.chain.length ∧ ¬ (∃ q < p.chain.reach, p.node q = .lost) then [.build]
  else []

/-- Positions selected from all of them ascend. -/
theorem positions_ascend (f : Nat → Bool) : (((List.range 24).filter f).Pairwise (· < ·)) := List.Pairwise.filter _ List.pairwise_lt_range

theorem Part.retryAttempt_places (p : Part) :
    (p.startRetry.setWork [.retry]).retryAttempt = (p.retrying.setWork p.placed).testRunning := by
  have hadd : ∀ f, p.retrying.each ((List.range 24).filter f) (fun p q => p.addTask (.setup q)) =
      p.retrying.setWork (((List.range 24).filter f).map .setup) := fun f =>
    Part.each_addSetup _ [] p.retrying rfl rfl (positions_ascend f)
  have hlost : ((upTo p.retrying.chain.reach).any fun q => p.retrying.node q == .lost) = true ↔ ∃ q < p.chain.reach, p.node q = .lost := by
    simp only [List.any_eq_true, upTo, List.mem_range, Part.node_retrying, beq_iff_eq]
    rfl
  have hrestarts : ((upTo 24).filter fun pos => (p.retrying.runtime pos).restartOut) = p.restarts := by
    simp only [Part.runtime_retrying]; rfl
  have hunapplied : ((upTo 24).filter fun pos => p.retrying.node pos == .mismatch .noApply) = p.unapplied := by
    simp only [Part.node_retrying]; rfl
  unfold Part.retryAttempt; dsimp only
  refine congrArg Part.testRunning ?_
  rw [show (p.startRetry.setWork [.retry]).endTask = p.retrying from rfl, hrestarts, hunapplied, p.onwardReported_retrying]
  have hsome : ∀ l : List Nat, ((!l.isEmpty) = true) = (l ≠ []) := fun l => by simp
  simp only [hsome]
  unfold Part.placed
  by_cases hreported : p.onwardReported = true
  · rw [if_pos hreported, if_pos hreported]; rfl
  rw [if_neg hreported, if_neg hreported]
  by_cases hr : p.restarts = []
  · rw [if_neg (not_not.mpr hr), if_neg (not_not.mpr hr)]
    by_cases hu : p.unapplied = []
    · rw [if_neg (not_not.mpr hu), if_neg (not_not.mpr hu)]
      by_cases hshort : p.chain.reach < p.chain.length ∧ ¬ (∃ q < p.chain.reach, p.node q = .lost)
      · rw [if_pos hshort]
        refine (if_pos ?_).trans rfl
        rw [Bool.and_eq_true, Bool.not_eq_true', ← Bool.not_eq_true, hlost]
        exact ⟨decide_eq_true hshort.1, hshort.2⟩
      · rw [if_neg hshort]
        refine (if_neg ?_).trans rfl
        rw [Bool.and_eq_true, Bool.not_eq_true', ← Bool.not_eq_true, hlost]
        exact fun h => hshort ⟨of_decide_eq_true h.1, h.2⟩
    · rw [if_pos hu, if_pos hu]
      exact hadd _
  · rw [if_pos hr, if_pos hr]
    exact hadd _

section
variable {m : Nat} (hline : p.chain.line = .partialLine) (hretry : p.chain.retryAt = some m) (hdue : m ≤ p.now)
  (hwork : p.chain.work = []) (hstep : p.chain.step = none)
include hline hretry hdue hwork hstep

/-- With nothing at work the attempt is made, and the tasks that it places are begun. -/
theorem Part.retryExpiry_idle : p.retryExpiry = (p.retrying.setWork p.placed).testRunning.runTasks 63 := by
  have hadd : p.startRetry.addTask .retry = p.startRetry.setWork [.retry] := by
    unfold Part.addTask Part.startRetry
    rw [hwork]; rfl
  have hidle : (p.startRetry.setWork [.retry]).chain.step = none := hstep
  rw [Part.retryExpiry_due hline hretry hdue, hadd, Part.work, Part.runTasks, hidle, ← Part.retryAttempt_places]
  rfl

/-- A fault that a node reports ends the attempt at once. -/
theorem Part.retryExpiry_reported (h : p.onwardReported = true) : p.retryExpiry = p.retrying := by
  have hreported : p.retrying.onwardReported = true := p.onwardReported_retrying.trans h
  have hplaced : p.placed = [] := if_pos h
  rw [Part.retryExpiry_idle hline hretry hdue hwork hstep, hplaced]
  exact (congrArg (Part.runTasks 63) (Part.testRunning_reported (p := p.retrying) hreported)).trans
    (Part.runTasks_nothing rfl rfl 63)

/-- The first position with a restart outstanding is hailed. -/
theorem Part.retryExpiry_restarts (hreported : p.onwardReported = false) {q : Nat} {l : List Nat} (hr : p.restarts = q :: l) :
    p.retryExpiry = (p.retrying.setWork (p.restarts.map .setup)).sendHail q true 0 := by
  have hplaced : p.placed = p.restarts.map .setup :=
    (if_neg (by rw [hreported]; exact Bool.false_ne_true)).trans (if_pos (by simp [hr]))
  obtain ⟨hlt, hout⟩ := List.mem_filter.mp (show q ∈ p.restarts by simp [hr])
  rw [Part.retryExpiry_idle hline hretry hdue hwork hstep, hplaced]
  have hrecord : (p.retrying.setWork (p.restarts.map .setup)).runtime q = p.runtime q := p.runtime_retrying q
  rw [← hrecord] at hout
  rw [Part.testRunning_restart (List.mem_range.mp hlt) hout,
    Part.runTasks_setup (q := q) (l := l.map .setup) rfl (by rw [Part.chain_setWork, hr]; rfl) 62]
  have hbegin : (p.retrying.setWork (p.restarts.map .setup)).beginSetupTask q =
      (p.retrying.setWork (p.restarts.map .setup)).sendHail q true 0 := if_pos hout
  rw [hbegin]
  exact Part.runTasks_step rfl 62

/-- With no restart outstanding the first position that is MISMATCH with NO_APPLY is set up again. -/
theorem Part.retryExpiry_unapplied (hreported : p.onwardReported = false) (hr : p.restarts = []) {q : Nat} {l : List Nat}
    (hu : p.unapplied = q :: l) :
    p.retryExpiry.chain.work = p.unapplied.map .setup ∧ p.retryExpiry.node q = .setting ∧
      ∃ st, p.retryExpiry.chain.step = some (.setup q st 0) := by
  have hplaced : p.placed = p.unapplied.map .setup :=
    (if_neg (by rw [hreported]; exact Bool.false_ne_true)).trans
      ((if_neg (not_not.mpr hr)).trans (if_pos (by simp [hu])))
  obtain ⟨hmem, hmismatch⟩ := List.mem_filter.mp (show q ∈ p.unapplied by simp [hu])
  have hlt : q < 24 := List.mem_range.mp hmem
  have hkept : (p.retrying.setWork (p.unapplied.map .setup)).testRunning.chain.work = p.unapplied.map .setup ∧
      (p.retrying.setWork (p.unapplied.map .setup)).testRunning.chain.step = none ∧
      ∀ n, (p.retrying.setWork (p.unapplied.map .setup)).testRunning.runtime n = p.runtime n := by
    have hruntime : ∀ n, (p.retrying.setWork (p.unapplied.map .setup)).runtime n = p.runtime n := p.runtime_retrying
    rcases (p.retrying.setWork (p.unapplied.map .setup)).testRunning_eq with h | h <;> rw [h] <;> exact ⟨rfl, rfl, hruntime⟩
  rw [Part.retryExpiry_idle hline hretry hdue hwork hstep, hplaced]
  generalize (p.retrying.setWork (p.unapplied.map .setup)).testRunning = x at hkept ⊢
  obtain ⟨hxwork, hxstep, hruntime⟩ := hkept
  have hnode : x.node q = .mismatch .noApply := (congrArg Runtime.node (hruntime q)).trans (eq_of_beq hmismatch)
  have hnone : (x.runtime q).restartOut = false := by
    rw [hruntime]
    have hq := List.filter_eq_nil_iff.mp hr q hmem
    simpa using hq
  let again := (x.setNode q .setting false).modLink q fun l => { l with missing := 0 }
  have hbegin : x.beginSetupTask q = again.beginSetup q := by
    unfold Part.beginSetupTask
    rw [if_neg (by rw [hnone]; exact Bool.false_ne_true), if_pos (by rw [hnode]; rfl)]
  obtain ⟨hawork, -, -⟩ := Part.tasks_setNode (p := x) (pos := q) (new := .setting) (.inl (by simp))
    (.inr fun a ha => by simp [hxwork] at ha) false none
  obtain ⟨⟨st, hst⟩, hsetting, hswork⟩ := again.beginSetup_begins q
  rw [Part.runTasks_setup hxstep (by rw [hxwork, hu]; rfl) 62, hbegin, Part.runTasks_step hst 62]
  exact ⟨hswork.trans (hawork.trans hxwork), hsetting.trans (Part.node_setNode hlt rfl _ _), st, hst⟩

section
variable (hreported : p.onwardReported = false) (hr : p.restarts = []) (hu : p.unapplied = []) (hshort : p.chain.reach < p.chain.length)
include hreported hr hu hshort

/-- A LOST node below the reach leaves nothing to attempt. -/
theorem Part.retryExpiry_lost (hlost : ∃ q < p.chain.reach, p.node q = .lost) : p.retryExpiry = p.retrying := by
  have hplaced : p.placed = [] := (if_neg (by rw [hreported]; exact Bool.false_ne_true)).trans
    ((if_neg (not_not.mpr hr)).trans ((if_neg (not_not.mpr hu)).trans (if_neg fun h => h.2 hlost)))
  rw [Part.retryExpiry_idle hline hretry hdue hwork hstep, hplaced]
  exact (congrArg (Part.runTasks 63) (Part.testRunning_short (p := p.retrying) (Nat.ne_of_lt hshort))).trans
    (Part.runTasks_nothing rfl rfl 63)

variable (hlost : ¬ ∃ q < p.chain.reach, p.node q = .lost)
include hlost

/-- With the reach short of the roster length a BUILD is placed. -/
theorem Part.retryExpiry_short : p.retryExpiry = (p.retrying.setWork [.build]).runTasks 63 := by
  have hplaced : p.placed = [.build] := (if_neg (by rw [hreported]; exact Bool.false_ne_true)).trans
    ((if_neg (not_not.mpr hr)).trans ((if_neg (not_not.mpr hu)).trans (if_pos ⟨hshort, hlost⟩)))
  rw [Part.retryExpiry_idle hline hretry hdue hwork hstep, hplaced,
    Part.testRunning_short (p := p.retrying.setWork [.build]) (Nat.ne_of_lt hshort)]

/-- The BUILD hails the reach, where its node is not READY. -/
theorem Part.retryExpiry_hails (hready : (p.node p.chain.reach).isReady = false) :
    p.retryExpiry = (p.retrying.setWork [.build]).sendHail p.chain.reach false 0 := by
  rw [Part.retryExpiry_short hline hretry hdue hwork hstep hreported hr hu hshort hlost]
  have hchain := Part.chain_setWork p.retrying [.build]
  rw [Part.chain_retrying] at hchain
  generalize p.retrying.setWork [.build] = x at hchain
  refine Part.runTasks_hails (p := x) (x := p) (congrArg Chain.reach hchain :) (congrArg Chain.length hchain :)
    (congrArg Chain.runtime hchain :) (congrArg Chain.step hchain :) (congrArg Chain.work hchain :) hshort hready (fun q hq => ?_) 62
  refine ⟨fun h => hlost ⟨q, hq, h⟩, ?_⟩
  by_cases hlt : q < 24
  · have hnot := List.filter_eq_nil_iff.mp hr q (List.mem_range.mpr hlt)
    simpa using hnot
  · simp [Part.runtime, Tab.get, hlt, Runtime.reset]

/-- The BUILD extends from the reach, where its node is READY. -/
theorem Part.retryExpiry_extends (hready : (p.node p.chain.reach).isReady = true) (hnext : p.chain.reach + 1 < p.chain.length) :
    p.retryExpiry = (p.retrying.setWork [.build]).newStep (.extend p.chain.reach 0) .extend (some p.chain.reach) := by
  rw [Part.retryExpiry_short hline hretry hdue hwork hstep hreported hr hu hshort hlost]
  have hchain := Part.chain_setWork p.retrying [.build]
  rw [Part.chain_retrying] at hchain
  generalize p.retrying.setWork [.build] = x at hchain
  have hat : x.chain.reach = p.chain.reach := (congrArg Chain.reach hchain :)
  have hlength : x.chain.length = p.chain.length := (congrArg Chain.length hchain :)
  have hnode : x.node p.chain.reach = p.node p.chain.reach :=
    congrArg Runtime.node (Part.runtime_congr (congrArg Chain.runtime hchain :) _)
  have hcontinue : x.continueBuild = x.newStep (.extend p.chain.reach 0) .extend (some p.chain.reach) := by
    unfold Part.continueBuild Part.extendFrom; dsimp only
    rw [hat, hlength, hnode, if_neg (Nat.not_le.mpr hshort), if_pos hready, if_pos hnext]
  rw [Part.runTasks_build (congrArg Chain.step hchain :) (congrArg Chain.work hchain :) 62, hcontinue]
  exact Part.runTasks_step rfl 62

end

end

end

end Sys2Proof.Machine
end

section
/-! SUPPORT. The events of the head's port and of the retry timer, put together (R147, R155, R156). -/

namespace Sys2Proof.Machine

/-- An event that makes the line FAULTED, with its end of step. -/
theorem headPort_faulted {s : State} (hpow : s.powered = true) {c : Instr} {f : Part → Part} (hexec : exec c s = .next (event f s))
    (hw : writesTables c = false) (hm : movesClock c = false) {kind : PortFault} (hf : f s.part = s.part.becomeFaulted kind) :
    ∃ t, exec c s = .next t ∧
      (State.sameOutside s t ∧ t.part.clock = s.part.clock ∧ t.part.layout = s.part.layout) ∧ t.part.chain.line = .faulted ∧
      t.part.chain.headPort = kind ∧ t.part.chain.headCut = none ∧ (∀ pos < 24, (t.part.node pos).isFaultable = false) ∧
      t.part.chain.work = [] ∧ t.part.chain.step = none ∧
      t.part.chain.retryAt = some (s.part.now + s.part.chain.interval * 50) ∧ t.part.line.flight = none ∧ t.part.line.urgent = [] ∧
      t.part.line.output = [] ∧ t.part.line.clock = [] ∧ t.part.line.service = [] := by
  have h := event_faulted hpow hf
  exact ⟨_, hexec, event_frame hexec hw hm, h.line, h.port, h.cut, fun n _ => h.nodes n, h.work, h.step, h.retry, h.emptied.flight,
    h.emptied.urgent, h.emptied.output, h.emptied.clock, h.emptied.service⟩

section
variable {s : State} (hpow : s.powered = true) {m : Nat}
include hpow

theorem headPortClose_hails (hcut : s.part.chain.headCut = some m) (hdue : m ≤ s.part.now) (hwork : s.part.chain.work = [])
    (hstep : s.part.chain.step = none) (hreach : s.part.chain.reach = 0) (hlength : 0 < s.part.chain.length)
    (hready : (s.part.node 0).isReady = false) :
    ∃ t, exec (.headPortClose .none) s = .next t ∧
      (State.sameOutside s t ∧ t.part.clock = s.part.clock ∧ t.part.layout = s.part.layout) ∧ t.part.chain.headCut = none ∧
      t.part.chain.headPort = .none ∧ t.part.line.cycle = 0 ∧ t.part.chain.line = s.part.chain.line ∧
      t.part.chain.work = [.build] ∧ t.part.chain.step = some (.hail 0 false 0 none) ∧ t.part.hails := by
  have hexec : exec (.headPortClose .none) s = .next (event (fun p => p.headPortClose .none) s) := rfl
  have hend := event_fixed hpow fun p => p.headPortClose .none
  have hengine := event_engine hpow fun p => p.headPortClose .none
  have hservice := event_service hpow fun p => p.headPortClose .none
  rw [Part.headPortClose_sound hcut hdue hwork hstep hreach hlength hready] at hend hservice hengine
  refine ⟨_, hexec, event_frame hexec rfl rfl, (congrArg Chain.headCut hend :), (congrArg Chain.headPort hend :), ?_,
    (congrArg Chain.line hend :), (congrArg Chain.work hend :), (congrArg Chain.step hend :), ?_⟩
  · rw [Part.engine_sendHail] at hengine
    exact (congrArg Prod.fst hengine :)
  · rw [Part.hails, hservice]
    exact Part.hails_sendHail _ _ _ _

theorem faultedRetry_ends (hretry : s.part.chain.retryAt = some m) (hdue : m ≤ s.part.now) (hline : s.part.chain.line = .faulted) :
    (∀ test, test ≠ .none → ∃ t, exec (.faultedRetryExpiry test) s = .next t ∧
      (State.sameOutside s t ∧ t.part.clock = s.part.clock ∧ t.part.layout = s.part.layout) ∧ t.part.chain.line = .faulted ∧
      t.part.chain.headPort = test ∧ t.part.chain.retryAt = some (s.part.now + s.part.chain.interval * 50)) ∧
    (∃ t, exec (.faultedRetryExpiry .none) s = .next t ∧
      (State.sameOutside s t ∧ t.part.clock = s.part.clock ∧ t.part.layout = s.part.layout) ∧ t.part.chain.headPort = .none ∧
      t.part.chain.stop = some (.headFault, 0) ∧ t.part.line.cycle = 0 ∧
      (t.part.chain.line = .partialLine ∧ t.part.chain.retryAt = some (s.part.now + s.part.chain.interval * 50) ∨
        t.part.chain.line = .running ∧ t.part.chain.retryAt = none)) := by
  refine ⟨fun test htest => ?_, ?_⟩
  · have hexec : exec (.faultedRetryExpiry test) s = .next (event (fun p => p.faultedRetry test) s) := rfl
    have hend := event_fixed hpow fun p => p.faultedRetry test
    rw [Part.faultedRetry_faulty hline hretry hdue htest] at hend
    exact ⟨_, hexec, event_frame hexec rfl rfl, (congrArg Chain.line hend :).trans hline, (congrArg Chain.headPort hend :),
      (congrArg Chain.retryAt hend :)⟩
  · have hexec : exec (.faultedRetryExpiry .none) s = .next (event (fun p => p.faultedRetry .none) s) := rfl
    have hend := event_fixed hpow fun p => p.faultedRetry .none
    have hengine := event_engine hpow fun p => p.faultedRetry .none
    rw [Part.faultedRetry_sound hline hretry hdue] at hend hengine
    refine ⟨_, hexec, event_frame hexec rfl rfl, ?_⟩
    rw [Part.engine_testRunning, Part.engine_startRetry] at hengine
    have hcycle : (event (fun p => p.faultedRetry .none) s).part.line.cycle = 0 := (congrArg Prod.fst hengine :)
    rcases s.part.portMended.startRetry.testRunning_eq with h | h <;> rw [h] at hend
    · exact ⟨(congrArg Chain.headPort hend :), (congrArg Chain.stop hend :), hcycle,
        .inl ⟨(congrArg Chain.line hend :), (congrArg Chain.retryAt hend :)⟩⟩
    · exact ⟨(congrArg Chain.headPort hend :), (congrArg Chain.stop hend :), hcycle,
        .inr ⟨(congrArg Chain.line hend :), (congrArg Chain.retryAt hend :)⟩⟩

end

/-- Settles O56: a fault by what it makes of every node, the close and the retries by the tasks and the step that they come to,
which the end of the step keeps. -/
theorem headPortAndRetries : Obligations.HeadPortAndRetries := by
  intro s hpow frame retry faulted
  have hexec : exec .retryExpiry s = .next (event Part.retryExpiry s) := rfl
  have hframe : frame (event Part.retryExpiry s) := event_frame hexec rfl rfl
  refine ⟨fun m hcut hdue => ⟨fun test htest => ?_, headPortClose_hails hpow hcut hdue⟩, fun hdriving => ⟨?_, ?_, ?_⟩,
    fun m hretry hdue => ⟨faultedRetry_ends hpow hretry hdue, fun hline => ⟨fun hbusy hnone => ?_, fun hwork hstep hreported => ?_,
      fun hwork hstep hreported => ?_⟩⟩⟩
  · exact headPort_faulted hpow (c := .headPortClose test) (f := fun p => p.headPortClose test) rfl rfl rfl
      (Part.headPortClose_faulty hcut hdue htest)
  · exact headPort_faulted hpow (c := .headPortFault .openLine) (f := fun p => p.headPortFault .openLine) rfl rfl rfl
      (Part.headPortFault_driven hdriving _)
  · exact headPort_faulted hpow (c := .headPortFault .shorted) (f := fun p => p.headPortFault .shorted) rfl rfl rfl
      (Part.headPortFault_driven hdriving _)
  · exact headPort_faulted hpow (c := .headPortFault .crossed) (f := fun p => p.headPortFault .crossed) rfl rfl rfl
      (Part.headPortFault_driven hdriving _)
  · have hend := event_fixed hpow Part.retryExpiry
    rw [Part.retryExpiry_waits hline hretry hdue hbusy hnone] at hend
    exact ⟨_, hexec, hframe, (congrArg Chain.line hend :).trans hline, (congrArg Chain.work hend :), (congrArg Chain.step hend :),
      (congrArg Chain.retryAt hend :)⟩
  · have hend := event_fixed hpow Part.retryExpiry
    rw [Part.retryExpiry_reported hline hretry hdue hwork hstep hreported, Part.chain_retrying] at hend
    exact ⟨_, hexec, hframe, (congrArg Chain.line hend :).trans hline, (congrArg Chain.work hend :), (congrArg Chain.step hend :),
      (congrArg Chain.retryAt hend :)⟩
  · intro restarts noApply lostBelow reach short hails keeps
    have hend := event_rested hpow Part.retryExpiry
    have hfixed := event_fixed hpow Part.retryExpiry
    have hservice := event_service hpow Part.retryExpiry
    refine ⟨_, hexec, hframe, fun q hq => ?_, fun hr q hq => ?_, fun ⟨hr, hu, hshort⟩ hlost hready => ?_,
      fun ⟨hr, hu, hshort⟩ hlost hready hnext => ?_, fun ⟨hr, hu, hshort⟩ hlost => ?_⟩
    · obtain ⟨l, hl⟩ := List.head?_eq_some_iff.mp hq
      replace hl : s.part.restarts = q :: l := hl
      rw [Part.retryExpiry_restarts hline hretry hdue hwork hstep hreported hl] at hfixed hservice
      rw [Part.sendHail, Part.chain_newStep, Part.chain_setWork, Part.chain_retrying] at hfixed
      refine ⟨⟨(congrArg Chain.line hfixed :).trans hline, (congrArg Chain.retryAt hfixed :)⟩, (congrArg Chain.work hfixed :),
        (congrArg Chain.step hfixed :), ?_⟩
      have hhails := Part.hails_sendHail (s.part.retrying.setWork (s.part.restarts.map .setup)) q true 0
      rwa [Part.hails, ← hservice] at hhails
    · obtain ⟨l, hl⟩ := List.head?_eq_some_iff.mp hq
      replace hl : s.part.unapplied = q :: l := hl
      replace hr : s.part.restarts = [] := hr
      obtain ⟨hplaced, hsetting, st, hst⟩ := Part.retryExpiry_unapplied hline hretry hdue hwork hstep hreported hr hl
      have hnode := congrArg Runtime.node (Part.runtime_of_rested hend q)
      exact ⟨(congrArg Chain.work hfixed :).trans hplaced,
        NodeState.unpowered_eq (hnode.trans (congrArg NodeState.unpowered hsetting)) rfl, st, (congrArg Chain.step hfixed :).trans hst⟩
    · rw [Part.retryExpiry_hails hline hretry hdue hwork hstep hreported hr hu hshort hlost hready] at hfixed hservice
      rw [Part.sendHail, Part.chain_newStep, Part.chain_setWork, Part.chain_retrying] at hfixed
      refine ⟨⟨(congrArg Chain.line hfixed :).trans hline, (congrArg Chain.retryAt hfixed :)⟩, (congrArg Chain.work hfixed :),
        (congrArg Chain.step hfixed :), ?_⟩
      have hhails := Part.hails_sendHail (s.part.retrying.setWork [.build]) s.part.chain.reach false 0
      rwa [Part.hails, ← hservice] at hhails
    · rw [Part.retryExpiry_extends hline hretry hdue hwork hstep hreported hr hu hshort hlost hready hnext,
        Part.chain_newStep, Part.chain_setWork, Part.chain_retrying] at hfixed
      exact ⟨⟨(congrArg Chain.line hfixed :).trans hline, (congrArg Chain.retryAt hfixed :)⟩, (congrArg Chain.work hfixed :),
        (congrArg Chain.step hfixed :)⟩
    · rw [Part.retryExpiry_lost hline hretry hdue hwork hstep hreported hr hu hshort hlost, Part.chain_retrying] at hfixed
      exact ⟨⟨(congrArg Chain.line hfixed :).trans hline, (congrArg Chain.retryAt hfixed :)⟩, (congrArg Chain.work hfixed :),
        (congrArg Chain.step hfixed :)⟩

end Sys2Proof.Machine
end
